-- ==== Sys2Proof/Word.lean ====
section
/-! DEFINITION. The word types of the module (R6: bit 0 is the least significant bit, multi-byte values are
little-endian) and the plainest reading of bit fields. -/

namespace Sys2Proof

/-- One byte. -/
abbrev Byte := BitVec 8

/-- A 16-bit word. -/
abbrev Word16 := BitVec 16

/-- A 32-bit word. -/
abbrev Word32 := BitVec 32

/-- A 64-bit word. -/
abbrev Word64 := BitVec 64

/-- A mailbox command entry (R369). -/
abbrev Entry := BitVec 512

/-- A sparse table: keys rise strictly; a key that is not listed holds a value the reader names. -/
abbrev Tab (α : Type) := List (Nat × α)

end Sys2Proof
end

