-- ==== Sys2Proof/Syntax.lean ====
section
/-! DEFINITION. The commands of the block: one constructor for each row of spec/opcode_table.json, and the data that the
rows carry. Rows that stand for messages or readings from outside carry their content (log 5, log 6). -/

namespace Sys2Proof

/-- A virtual core: a context id and a virtual core number (R213). -/
structure VRef where
  ctx : Nat
  vc : Nat
  deriving DecidableEq, Repr

/-- The units of a core other than ISSUE (R219). -/
inductive UnitId where
  | dmai | dmao | arra | arrb | cvt | vec
  deriving DecidableEq, Repr

/-- Where a mailbox command comes from: ring r of channel ch of function fn, another member's gateway, or out of band. -/
inductive Origin where
  | ring (fn ch r : Nat)
  | remote (slot r : Nat)
  | oob
  deriving DecidableEq, Repr

/-- Poison policies (R287, R290). -/
inductive Policy where
  | context | partition | nan
  deriving DecidableEq, Repr

/-- What the check symbols of a granule find: one failed symbol, or more (R285). -/
inductive Syndrome where
  | one | many
  deriving DecidableEq, Repr

/-- Where a granule has failed (R285, log 6): in its part, in the Pantry's copy of it, or, of a virtual core's window, in the scratchpad. -/
inductive FaultPlace where
  | part | pantry
  | pad (v : VRef)
  deriving DecidableEq, Repr

/-- What a patrol scrub finds: failed symbols, and where. -/
structure Failure where
  symbols : Syndrome
  place : FaultPlace := .part
  deriving DecidableEq, Repr

/-- A flit as it comes over a link (R311), with the lane that a bad parity code names (R305, log 6). -/
structure FlitIn where
  bits : BitVec 2048
  lane : Option Nat := none
  deriving DecidableEq, Repr

/-- A commit-group member: its device and partition (R146). -/
structure Member where
  dev : Nat
  part : Nat
  deriving DecidableEq, Repr

/-- What an end of a training link sends its peer (R307): device id, link number, module serial number and time-master priority. -/
structure Peer where
  dev : Nat
  link : Nat
  serial : Nat
  prio : Nat
  deriving DecidableEq, Repr

/-- One link of a member's flooded link list (R322), with what the peer said in training (R307). -/
structure LinkEnd where
  link : Nat
  peer : Nat
  peerLink : Nat
  peerSerial : Nat := 0
  peerPrio : Nat := 0
  deriving DecidableEq, Repr

/-- A member's flooded link list (R322), with its serial number (R307). -/
structure LinkList where
  serial : Nat
  ends : List LinkEnd
  deriving DecidableEq, Repr

/-- A member's place in the time tree as the leader gives it (R322): its upstream link and the time master. -/
structure TimePlace where
  upstream : Option Nat
  tm : Nat
  deriving DecidableEq, Repr

/-- The loss of a device (R325), with the COMMITs of the open attempts that surviving members of other modules hold, by commit group
(R179, log 17). -/
structure Loss where
  dev : Nat
  held : List (Word16 × Word64) := []
  deriving DecidableEq, Repr

/-- A trunk of this pod (R326): the member that it leaves from, and its link there. -/
structure Trunk where
  via : Nat
  link : Nat
  deriving DecidableEq, Repr

/-- A SEND message at its target (R310, R334); `poison` lists its poisoned granules, counted from the message start. -/
structure SendMsg where
  src : Nat
  vch : Nat
  ctx : Nat
  vc : Nat
  job : Nat
  addr : Nat
  tag : Nat
  msgid : Nat
  data : List Byte
  poison : List (Nat × Policy)
  deriving DecidableEq, Repr

/-- A collective contribution or gathered segment as it lands (R339, R340); `poison` as for a SEND message. `refused` stands for
a segment whose owner refused the collective because the ranks' EXACT records differ (R338). -/
structure CollMsg where
  group : Nat
  rank : Nat
  seg : Nat
  gathered : Bool
  refused : Bool
  step : Word64
  attempt : Word16
  bucket : Nat
  data : List Byte
  poison : List (Nat × Policy)
  deriving DecidableEq, Repr

/-- Whose norm partial it is (R340, R341): group, rank, and the step and attempt that tag it. -/
structure NormTag where
  group : Nat
  rank : Nat
  step : Word64
  attempt : Word16
  deriving DecidableEq, Repr

/-- A norm partial as it lands (R340, R341). -/
structure NormMsg extends NormTag where
  t : BitVec 256
  nonfin : Bool
  ovr : Bool
  deriving DecidableEq, Repr

/-- A STARTER flit (R344). -/
structure StarterFlit where
  src : Nat
  step : Word64
  da : Nat
  data : List Byte
  last : Bool
  poison : List (Nat × Policy)
  deriving DecidableEq, Repr

/-- The commit record of a Starter (R343). -/
structure CommitRecord where
  step : Word64
  cgid : Word16
  sel : BitVec 4096
  deriving DecidableEq, Repr

/-- Management traffic between the gateway and a member (R320, R367). -/
inductive MgmtMsg where
  | command (r : Nat) (e : Entry)
  | completion (r : Nat) (c : BitVec 128)
  | event (rec : BitVec 256)
  | unreachable
  | refState (dev : Nat) (ok : Bool)
  deriving DecidableEq, Repr

/-- A BAR2 TLP (R355, R366): a read of `len` bytes, a write whose absent bytes are not enabled (`ep` marks it poisoned), or an
AtomicOp request. -/
inductive Bar2 where
  | read (offset len : Nat)
  | write (offset : Nat) (data : List (Option Byte)) (ep : Bool)
  | atomic (offset : Nat)
  deriving DecidableEq, Repr

/-- The PLDM firmware update exchange for the one component (R391). -/
inductive PldmFw where
  | requestUpdate
  | firmwareData (offset : Nat) (data : List Byte)
  | transferComplete
  | cancel
  deriving DecidableEq, Repr

/-- A latched mismatch as its checkpoint reports it (R101, R104, R398). -/
inductive Mismatch where
  | array (v : VRef) (arrB bufB lockstep twin : Bool)
  | vector (v : VRef)
  | conversion (v : VRef)
  | engine (cluster layer : Nat)
  deriving DecidableEq, Repr

/-- How a computation of a check ends (R404, R430, R293): its results, a residue mismatch of the check core itself, or poison. -/
inductive CheckEnd where
  | result (bs : List Byte)
  | mismatch
  | poison (p : Policy)
  deriving DecidableEq, Repr

/-- What a progress watchdog watches (R409). -/
inductive Watch where
  | core (n : Nat)
  | engine (cluster : Nat)
  deriving DecidableEq, Repr

/-- How a suspect's replay ended (R417). -/
inductive IsolationResult where
  | reproduced (parity : Bool)
  | unfinished
  | clean (last : Bool)
  deriving DecidableEq, Repr

/-- What a cold power-up finds: the SLOT straps, failed tests (set, unit), and whether RPLL locked (R456, R424, R442). -/
structure ColdStart where
  slot : Nat
  fails : List (Nat × Nat)
  rpllLocks : Bool
  litLinks : List Nat
  deriving DecidableEq, Repr

/-- The commands, in the order of spec/opcode_table.json. -/
inductive Instr where
  /-- NOP (R233). -/
  | nop (v : VRef)
  /-- END (R242). -/
  | end_ (v : VRef)
  /-- CALL (R244). -/
  | call (v : VRef)
  /-- RET (R244). -/
  | ret (v : VRef)
  /-- LOOP (R233). -/
  | loop (v : VRef)
  /-- CMP (R233). -/
  | cmp (v : VRef)
  /-- SKIP (R233). -/
  | skip (v : VRef)
  /-- YIELD (R233). -/
  | yield (v : VRef)
  /-- PSET (R233). -/
  | pset (v : VRef)
  /-- PADD (R233). -/
  | padd (v : VRef)
  /-- PMAD (R233). -/
  | pmad (v : VRef)
  /-- WRS (R233). -/
  | wrs (v : VRef)
  /-- PUSH (R233). -/
  | push (v : VRef)
  /-- LOAD (R231). -/
  | load (v : VRef)
  /-- GATHER (R234). -/
  | gather (v : VRef)
  /-- STORE (R231). -/
  | store (v : VRef)
  /-- SEND (R334). -/
  | send (v : VRef)
  /-- COLL (R337). -/
  | coll (v : VRef)
  /-- ZERO (R88). -/
  | zero (v : VRef)
  /-- ACC (R83). -/
  | acc (v : VRef)
  /-- TWIN (R96). -/
  | twin (v : VRef)
  /-- CONVERT (R93). -/
  | convert (v : VRef)
  /-- EXPORT (R92). -/
  | export_ (v : VRef)
  /-- IMPORT (R92). -/
  | import_ (v : VRef)
  /-- SWAP (R92). -/
  | swap (v : VRef)
  /-- CVT (R113). -/
  | cvt (v : VRef)
  /-- VWAIT (R236). -/
  | vwait (v : VRef)
  /-- VOP (R238). -/
  | vop (v : VRef)
  /-- VRED (R238). -/
  | vred (v : VRef)
  /-- VMM (R238). -/
  | vmm (v : VRef)
  /-- VNORM (R169). -/
  | vnorm (v : VRef)
  /-- DROP (R201). -/
  | drop (v : VRef)
  /-- INIT (R205). -/
  | init (v : VRef)
  /-- SAMPLE (R208). -/
  | sample (v : VRef)
  /-- INSTRUCTION_DISPATCH (R223). -/
  | instructionDispatch (v : VRef)
  /-- OPERATION_START (R218). -/
  | operationStart (v : VRef) (u : UnitId)
  /-- OPERATION_COMPLETE (R232). -/
  | operationComplete (v : VRef) (u : UnitId)
  /-- REPLAY_START (R240). -/
  | replayStart (v : VRef)
  /-- CONTROL_TOKEN_HELD_DELIVER (R220). -/
  | controlTokenHeldDeliver (v : VRef)
  /-- Q1_NOTIFY (R221). -/
  | q1Notify (v : VRef)
  /-- VIRTUAL_CORE_SWITCH (R248). -/
  | virtualCoreSwitch (core : Nat)
  /-- GSR_TAGGED_UPDATE (R127). -/
  | gsrTaggedUpdate
  /-- TSR_TAGGED_MAX (R122). -/
  | tsrTaggedMax
  /-- GROUP_VERDICT (R133). -/
  | groupVerdict
  /-- TELEMETRY_FLUSH (R140). -/
  | telemetryFlush (part : Nat)
  /-- NORM_GATE (R173). -/
  | normGate (part : Nat)
  /-- UPDATE_PASS (R155). -/
  | updatePass (cluster : Nat)
  /-- LAYER_ARM (R159). -/
  | layerArm (part layer : Nat)
  /-- PC_SNAPSHOT (R167). -/
  | pcSnapshot (part layer : Nat)
  /-- PC_REFRESH_SLICE (R168). -/
  | pcRefreshSlice (part layer : Nat)
  /-- MEMBER_READY (R175). -/
  | memberReady (part : Nat)
  /-- READY_RECEIVE (R176). -/
  | readyReceive (part : Nat) (m : Member) (step : Word64) (attempt : Word16)
  /-- ABORT_RECEIVE (R178). -/
  | abortReceive (part : Nat) (m : Member) (step : Word64) (attempt : Word16) (reason : Nat)
  /-- COMMIT_RECEIVE (R178). -/
  | commitReceive (part : Nat) (step : Word64) (attempt : Word16) (tc : Word64)
  /-- COMMIT_FLIP (R176). -/
  | commitFlip (part : Nat)
  /-- COMMIT_TIMEOUT (R178). -/
  | commitTimeout (part : Nat)
  /-- ATTEMPT_ABANDON (R180). -/
  | attemptAbandon (part : Nat) (reason : Nat)
  /-- RESUME_RECEIVE (R420). -/
  | resumeReceive (part : Nat) (m : Member) (step : Word64) (attempt : Word16)
  /-- ATTEMPT_OPEN (R420). -/
  | attemptOpen (part : Nat)
  /-- GRAD_DEADLINE (R340). -/
  | gradDeadline (part : Nat)
  /-- REGION_CLEAR (R271). -/
  | regionClear (region : Nat)
  /-- PATROL_SCRUB (R286). -/
  | patrolScrub (granule : Nat) (fault : Option Failure)
  /-- PART_TEMP_SAMPLE (R294). -/
  | partTempSample (p : Nat) (temp : Int)
  /-- PANTRY_MODE_CHANGE (R283). -/
  | pantryModeChange (hinted : Bool)
  /-- LANE_FAIL (R305). -/
  | laneFail (link lane : Nat)
  /-- LASER_FAIL (R304). -/
  | laserFail (engine laser : Nat)
  /-- LINK_DOWN (R316). -/
  | linkDown (link : Nat)
  /-- LINK_TRAIN (R307). -/
  | linkTrain (link : Nat) (peer : Peer)
  /-- LINK_TRAIN_TIMEOUT (R311). -/
  | linkTrainTimeout (link : Nat)
  /-- FLIT_RECEIVE (R311). -/
  | flitReceive (link : Nat) (flit : FlitIn)
  /-- ACK_TIMER (R311). -/
  | ackTimer (link : Nat)
  /-- LINK_LIST_RECEIVE (R322). -/
  | linkListReceive (dev : Nat) (links : LinkList)
  /-- LEADER_ELECT (R322). -/
  | leaderElect
  /-- ROUTES_INSTALL (R322). -/
  | routesInstall (routes : List (Nat × Word32)) (mcast : List (Nat × BitVec 128)) (upstream : TimePlace)
  /-- POD_UP (R322). -/
  | podUp (members : List Nat) (pt : Word64)
  /-- DISCOVERY_TIMEOUT (R322). -/
  | discoveryTimeout
  /-- MEMBER_LOST (R325). -/
  | memberLost (dev : Loss)
  /-- STARTER_RESTORE_LANDED (R427). -/
  | starterRestoreLanded (part : Nat) (rec : CommitRecord)
  /-- TIME_EXCHANGE (R330). -/
  | timeExchange (offset : Int)
  /-- HOLDOVER_TIMEOUT (R331). -/
  | holdoverTimeout
  /-- PT_SYNC_EDGE (R329). -/
  | ptSyncEdge
  /-- PT_REF_LOSS (R329). -/
  | ptRefLoss
  /-- BEAT_MARK (R332). -/
  | beatMark
  /-- BEAT_CHANGE (R332). -/
  | beatChange (period : Word32) (origin : Word64) (beat : Word64)
  /-- PT_ALARM (R333). -/
  | ptAlarm (k : Nat)
  /-- SEND_ARRIVAL (R335). -/
  | sendArrival (m : SendMsg)
  /-- SEND_ACK (R334). -/
  | sendAck (msgid : Nat) (refused : Bool)
  /-- SEND_TIMEOUT (R335). -/
  | sendTimeout (msgid : Nat)
  /-- COLL_ARRIVAL (R339). -/
  | collArrival (v : VRef) (m : CollMsg)
  /-- NORMSUM_PARTIAL (R341). -/
  | normsumPartial (v : VRef) (rank : NormTag) (t : BitVec 256) (nonfin ovr : Bool)
  /-- STARTER_RECEIVE (R344). -/
  | starterReceive (f : StarterFlit)
  /-- STARTER_CONFIRM (R344). -/
  | starterConfirm (step : Word64)
  /-- MGMT_MESSAGE (R320). -/
  | mgmtMessage (slot : Nat) (m : MgmtMsg)
  /-- COMMAND_DOORBELL (R371). -/
  | commandDoorbell (fn ch r : Nat) (value : Word32)
  /-- COMMAND_FETCH (R371). -/
  | commandFetch (fn ch r : Nat) (bad : Bool)
  /-- COMPLETION_POST (R370). -/
  | completionPost (fn ch r : Nat)
  /-- COMPLETION_DOORBELL (R371). -/
  | completionDoorbell (fn ch r : Nat) (value : Word32)
  /-- EVENT_DOORBELL (R376). -/
  | eventDoorbell (fn ch : Nat) (value : Word32)
  /-- EVENT_POST (R376). -/
  | eventPost
  /-- MSIX_MODERATION_EXPIRY (R378). -/
  | msixModerationExpiry (fn vector : Nat)
  /-- RING_ENABLE (R373). -/
  | ringEnable (fn ch r : Nat) (en : Bool)
  /-- CHANNEL_RESET (R368). -/
  | channelReset (fn ch : Nat)
  /-- BAR2_ACCESS (R366). -/
  | bar2Access (fn : Nat) (a : Bar2)
  /-- REGISTER_WRITE (R8). -/
  | registerWrite (fn offset size : Nat) (value : Word64)
  /-- RNG_TOUT_READ (R210). -/
  | rngToutRead (fn core : Nat) (hi : Bool)
  /-- FLR (R359). -/
  | flr (fn : Nat)
  /-- PERST_OR_HOT_RESET (R360). -/
  | perstOrHotReset (perst : Bool)
  /-- VF_ENABLE_CLEAR (R360). -/
  | vfEnableClear
  /-- BUS_MASTER_ENABLE (R355). -/
  | busMasterEnable (fn : Nat)
  /-- D3HOT_ENTRY (R356). -/
  | d3hotEntry (fn : Nat)
  /-- IDENTIFY (R380). -/
  | identify (o : Origin) (e : Entry)
  /-- EVENT_MASK (R380). -/
  | eventMask (o : Origin) (e : Entry)
  /-- PART_CREATE (R380). -/
  | partCreate (o : Origin) (e : Entry)
  /-- PART_RESIZE (R380). -/
  | partResize (o : Origin) (e : Entry)
  /-- PART_REMOVE (R380). -/
  | partRemove (o : Origin) (e : Entry)
  /-- PART_QUERY (R380). -/
  | partQuery (o : Origin) (e : Entry)
  /-- CFG_SWAP (R386). -/
  | cfgSwap (o : Origin) (e : Entry)
  /-- CFG_COPY (R386). -/
  | cfgCopy (o : Origin) (e : Entry)
  /-- FW_STAGE (R389). -/
  | fwStage (o : Origin) (e : Entry)
  /-- FW_ACTIVATE (R390). -/
  | fwActivate (o : Origin) (e : Entry)
  /-- FW_QUERY (R380). -/
  | fwQuery (o : Origin) (e : Entry)
  /-- REGION_SET (R270). -/
  | regionSet (o : Origin) (e : Entry)
  /-- REGION_QUERY (R381). -/
  | regionQuery (o : Origin) (e : Entry)
  /-- PANTRY_SHARE (R282). -/
  | pantryShare (o : Origin) (e : Entry)
  /-- HOST_COPY (R381). -/
  | hostCopy (o : Origin) (e : Entry)
  /-- LINK_CTL_COMMAND (R382). -/
  | linkCtlCommand (o : Origin) (e : Entry)
  /-- RETRAIN (R348). -/
  | retrain (link : Nat)
  /-- FABRIC_SET (R382). -/
  | fabricSet (o : Origin) (e : Entry)
  /-- PT_SET (R382). -/
  | ptSet (o : Origin) (e : Entry)
  /-- CGROUP_SET (R382). -/
  | cgroupSet (o : Origin) (e : Entry)
  /-- CGROUP_CLEAR (R382). -/
  | cgroupClear (o : Origin) (e : Entry)
  /-- STARTER_RECV (R382). -/
  | starterRecv (o : Origin) (e : Entry)
  /-- STARTER_SET (R382). -/
  | starterSet (o : Origin) (e : Entry)
  /-- RESET (R383). -/
  | reset (o : Origin) (e : Entry)
  /-- SNET_SET (R383). -/
  | snetSet (o : Origin) (e : Entry)
  /-- REPAIR_QUERY (R422). -/
  | repairQuery (o : Origin) (e : Entry)
  /-- FIELD_TEST (R424). -/
  | fieldTest (o : Origin) (e : Entry)
  /-- DIAG_READ (R415). -/
  | diagRead (o : Origin) (e : Entry)
  /-- POWER_STATE (R449). -/
  | powerState (o : Origin) (e : Entry)
  /-- PART_IDLE (R384). -/
  | partIdle (o : Origin) (e : Entry)
  /-- SENSOR_READ (R384). -/
  | sensorRead (o : Origin) (e : Entry)
  /-- POWER_CAP (R444). -/
  | powerCap (o : Origin) (e : Entry)
  /-- CTX_CREATE (R385). -/
  | ctxCreate (o : Origin) (e : Entry)
  /-- CTX_DESTROY (R385). -/
  | ctxDestroy (o : Origin) (e : Entry)
  /-- CTX_SAVE (R256). -/
  | ctxSave (o : Origin) (e : Entry)
  /-- CTX_RESTORE (R258). -/
  | ctxRestore (o : Origin) (e : Entry)
  /-- CTX_SETP (R239). -/
  | ctxSetp (o : Origin) (e : Entry)
  /-- ROUTINE_QUERY (R245). -/
  | routineQuery (o : Origin) (e : Entry)
  /-- CTX_QUERY (R385). -/
  | ctxQuery (o : Origin) (e : Entry)
  /-- CTX_RUN (R385). -/
  | ctxRun (o : Origin) (e : Entry)
  /-- RELEASE (R187). -/
  | release (fn part : Nat)
  /-- ABANDON (R187). -/
  | abandon (fn part : Nat)
  /-- SET_ENDPOINT_ID (R391). -/
  | setEndpointId (eid : Byte)
  /-- GET_ENDPOINT_ID (R391). -/
  | getEndpointId
  /-- GET_ENDPOINT_UUID (R391). -/
  | getEndpointUuid
  /-- GET_MCTP_VERSION_SUPPORT (R391). -/
  | getMctpVersionSupport (messageType : Byte)
  /-- GET_MESSAGE_TYPE_SUPPORT (R391). -/
  | getMessageTypeSupport
  /-- GET_VENDOR_DEFINED_MESSAGE_SUPPORT (R391). -/
  | getVendorDefinedMessageSupport (selector : Byte)
  /-- VENDOR_DEFINED_MESSAGE (R391). -/
  | vendorDefinedMessage (e : Entry)
  /-- GET_TID (R391). -/
  | getTid
  /-- SET_TID (R391). -/
  | setTid (tid : Byte)
  /-- GET_PLDM_VERSION (R391). -/
  | getPldmVersion (pldmType : Byte)
  /-- GET_PLDM_TYPES (R391). -/
  | getPldmTypes
  /-- GET_PLDM_COMMANDS (R391). -/
  | getPldmCommands (pldmType : Byte)
  /-- GET_PDR_REPOSITORY_INFO (R391). -/
  | getPdrRepositoryInfo
  /-- GET_PDR (R391). -/
  | getPdr (handle : Nat)
  /-- GET_SENSOR_READING (R392). -/
  | getSensorReading (sensor : Nat)
  /-- GET_STATE_SENSOR_READINGS (R391). -/
  | getStateSensorReadings (sensor : Nat)
  /-- SET_EVENT_RECEIVER (R391). -/
  | setEventReceiver (eid : Byte)
  /-- PLDM_FIRMWARE_UPDATE (R391). -/
  | pldmFirmwareUpdate (c : PldmFw)
  /-- ACTIVATE_FIRMWARE (R391). -/
  | activateFirmware (selfContained : Bool)
  /-- RESIDUE_CHECKPOINT (R101). -/
  | residueCheckpoint (core : Nat) (m : Mismatch)
  /-- PARITY_ERROR (R398). -/
  | parityError (core : Nat) (source : Nat) (slot : Option Nat)
  /-- CHECK_START (R404). -/
  | checkStart
  /-- CHECK_COMPARE (R405). -/
  | checkCompare (id : Nat) (r : CheckEnd)
  /-- RINGMASTER_FAILOVER (R408). -/
  | ringmasterFailover
  /-- WATCHDOG_EXPIRY (R409). -/
  | watchdogExpiry (w : Watch)
  /-- SCOPE_RESET (R411). -/
  | scopeReset (scope target : Nat) (failed : List Nat)
  /-- COMPUTE_RESET_FAIL (R413). -/
  | computeResetFail
  /-- DEVICE_RESET (R459). -/
  | deviceReset
  /-- ALWAYS_ON_RESTART (R460). -/
  | alwaysOnRestart (bootCore : Option (Bool × List Nat))
  /-- ISOLATION_REPLAY (R417). -/
  | isolationReplay (core : Nat) (ctx : Nat) (r : IsolationResult)
  /-- CONTEXT_RECOVERY (R419). -/
  | contextRecovery (ctx : Nat)
  /-- INPUT_OUT_OF_RANGE (R435). -/
  | inputOutOfRange (mv : Int)
  /-- VCORE_WARNING (R438). -/
  | vcoreWarning (die : Nat) (mv : Nat)
  /-- VCORE_RECOVER (R438). -/
  | vcoreRecover (die : Nat)
  /-- VCORE_DIP_TIMEOUT (R438). -/
  | vcoreDipTimeout (die : Nat)
  /-- VCORE_RESET_LEVEL (R438). -/
  | vcoreResetLevel (die : Nat) (mv : Nat)
  /-- POWER_CAP_TICK (R444). -/
  | powerCapTick (watts : Nat)
  /-- DIE_TEMP_WARNING (R445). -/
  | dieTempWarning (die : Nat) (temp : Int)
  /-- THERMAL_TRIP (R445). -/
  | thermalTrip (die : Nat)
  /-- COOLANT_ALARM (R446). -/
  | coolantAlarm (sensor : Nat) (milli : Int)
  /-- STATE_CHANGE_COMPLETE (R450). -/
  | stateChangeComplete
  /-- WAKE (R452). -/
  | wake (source : Nat)
  /-- CAROUSEL_SAMPLE (R454). -/
  | carouselSample (readings : List (Nat × Int))
  /-- COLD_START (R456). -/
  | coldStart (c : ColdStart)
  /-- IDCODE (R477). -/
  | idcode
  /-- SAMPLE_PRELOAD (R477). -/
  | samplePreload (preload : Nat)
  /-- EXTEST (R478). -/
  | extest
  /-- CLAMP (R478). -/
  | clamp
  /-- HIGHZ (R478). -/
  | highz
  /-- DBG_CHAIN (R478). -/
  | dbgChain
  /-- OBS_SELECT (R479). -/
  | obsSelect (sel : Word16)
  /-- BYPASS (R477). -/
  | bypass (code : Byte)
  /-- OBS_SEL_WRITE (R479). -/
  | obsSelWrite (fn : Nat) (sel : Word16)
  /-- PT_REF_RETURN (R329). -/
  | ptRefReturn
  /-- OPEN_RECEIVE (R420). -/
  | openReceive (part : Nat) (step : Word64) (attempt : Word16) (topen : Word64)
  /-- RETURN_TO_D0 (R356). -/
  | returnToD0 (fn : Nat)
  /-- PERST_DEASSERT (R457). -/
  | perstDeassert
  /-- LINK_WAKE_PULSE (R333). -/
  | linkWakePulse (link : Nat)
  /-- ROUTE_SUMMARY_RECEIVE (R326). -/
  | routeSummaryReceive (pod : Nat) (trunk : Trunk) (devices : List Nat)
  deriving DecidableEq, Repr

end Sys2Proof
end

