-- ==== Sys2Proof/WellFormed.lean ====
section
/-! DEFINITION. Which commands are well formed: every name they carry is one that the module has (R3, R12, R13). -/

namespace Sys2Proof

/-- A context id and a virtual core number (R28, R213). -/
def VRef.wf (v : VRef) : Bool := v.ctx < 64 && v.vc < 256

/-- The place of a failure: a scratchpad's virtual core is within range. -/
def FaultPlace.wf : FaultPlace → Bool
  | .pad v => v.wf
  | _ => true

/-- A logical core C000 to C255 (R16). -/
def coreWf (n : Nat) : Bool := n < 256

/-- A logical cluster K00 to K31 (R17). -/
def clusterWf (n : Nat) : Bool := n < 32

/-- A partition, 0 to 32 (R357). -/
def partWf (n : Nat) : Bool := n ≤ 32

/-- A link L00 to L63 (R22). -/
def linkWf (n : Nat) : Bool := n < 64

/-- A die, 0 to 3 (R14). -/
def dieWf (n : Nat) : Bool := n < 4

/-- A device id (R319). -/
def devWf (n : Nat) : Bool := n < 4096

/-- A channel of a function: 64 on PF0, one on a VF (R367). -/
def chanWf (fn ch : Nat) : Bool := fn ≤ 32 && (if fn = 0 then ch < 64 else ch = 0)

/-- A ring of a channel (R368). -/
def ringWf (fn ch r : Nat) : Bool := chanWf fn ch && r < 8

/-- Who issues a mailbox command (R367, R391). -/
def Origin.wf : Origin → Bool
  | .ring fn ch r => ringWf fn ch r
  | .remote slot r => slot < 64 && r < 8
  | .oob => true

/-- A commit-group member (R146). -/
def Member.wf (m : Member) : Bool := devWf m.dev && partWf m.part

/-- A command names only what the module has. -/
def Instr.wf : Instr → Bool
  | .nop v | .end_ v | .call v | .ret v | .loop v | .cmp v | .skip v | .yield v | .pset v | .padd v | .pmad v | .wrs v
  | .push v | .load v | .gather v | .store v | .send v | .coll v | .zero v | .acc v | .twin v | .convert v | .export_ v
  | .import_ v | .swap v | .cvt v | .vwait v | .vop v | .vred v | .vmm v | .vnorm v | .drop v | .init v | .sample v
  | .instructionDispatch v | .replayStart v | .controlTokenHeldDeliver v | .q1Notify v => v.wf
  | .operationStart v _ | .operationComplete v _ => v.wf
  | .virtualCoreSwitch c => coreWf c
  | .gsrTaggedUpdate | .tsrTaggedMax | .groupVerdict => true
  | .telemetryFlush p | .normGate p | .memberReady p | .commitFlip p | .commitTimeout p | .attemptOpen p
  | .gradDeadline p => partWf p
  | .updatePass c => clusterWf c
  | .layerArm p l | .pcSnapshot p l | .pcRefreshSlice p l => partWf p && l < 4096
  | .readyReceive p m _ _ | .resumeReceive p m _ _ => partWf p && m.wf
  | .abortReceive p m _ _ r => partWf p && m.wf && r < 16
  | .commitReceive p _ _ _ | .openReceive p _ _ _ => partWf p
  | .attemptAbandon p r => partWf p && r < 16
  | .regionClear r => r < 524288
  | .patrolScrub g fault => g < 2 ^ 39 && fault.all (fun f => f.place.wf)
  | .partTempSample p _ => p < 80
  | .pantryModeChange _ => true
  | .laneFail l n => linkWf l && n < 5
  | .laserFail e m => e < 8 && m < 6
  | .linkDown l | .linkTrainTimeout l | .ackTimer l | .retrain l | .linkWakePulse l => linkWf l
  | .linkTrain l p => linkWf l && devWf p.dev && linkWf p.link && p.prio < 256
  | .flitReceive l f => linkWf l && f.lane.all (fun k => k < 5)
  | .linkListReceive d ls => devWf d && ls.ends.all (fun e => linkWf e.link && devWf e.peer && linkWf e.peerLink)
  | .leaderElect | .discoveryTimeout => true
  | .routesInstall rs ms up => devWf up.tm &&
    rs.all (fun r => r.1 < 4096) && ms.all (fun m => m.1 < 256) && (match up.upstream with | some l => linkWf l | none => true)
  | .podUp ms _ => ms.all devWf
  | .memberLost d => devWf d.dev
  | .starterRestoreLanded p _ => partWf p
  | .timeExchange _ | .holdoverTimeout | .ptSyncEdge | .beatMark | .beatChange _ _ _ => true
  | .ptAlarm k => k < 16
  | .sendArrival m => devWf m.src && m.vch < 4 && m.ctx < 64 && m.vc < 256 && m.msgid < 65536
  | .sendAck m _ | .sendTimeout m => m < 65536
  | .collArrival v m => v.wf && m.group < 256 && m.rank < 4096 && m.seg < 4096
  | .normsumPartial v m _ _ _ => v.wf && m.group < 256 && m.rank < 4096
  | .starterReceive f => devWf f.src && f.da < 2 ^ 48
  | .starterConfirm _ => true
  | .mgmtMessage s m => s < 64 && (match m with
    | .command r _ | .completion r _ => r < 8
    | .event _ | .unreachable => true
    | .refState d _ => devWf d)
  | .commandDoorbell f c r _ | .completionDoorbell f c r _ | .commandFetch f c r _ | .ringEnable f c r _ => ringWf f c r
  | .completionPost f c r => ringWf f c r
  | .eventDoorbell f c _ => chanWf f c
  | .channelReset f c => chanWf f c
  | .eventPost => true
  | .msixModerationExpiry f v => f ≤ 32 && (if f = 0 then v < 2048 else v < 64)
  | .bar2Access f _ => partWf f
  | .registerWrite f o _ _ => partWf f && o < 2 ^ 26
  | .rngToutRead f c _ => partWf f && coreWf c
  | .flr f | .busMasterEnable f | .d3hotEntry f | .returnToD0 f => partWf f
  | .perstOrHotReset _ | .perstDeassert | .vfEnableClear => true
  | .identify o _ | .eventMask o _ | .partCreate o _ | .partResize o _ | .partRemove o _ | .partQuery o _ | .cfgSwap o _
  | .cfgCopy o _ | .fwStage o _ | .fwActivate o _ | .fwQuery o _ | .regionSet o _ | .regionQuery o _ | .pantryShare o _
  | .hostCopy o _ | .linkCtlCommand o _ | .fabricSet o _ | .ptSet o _ | .cgroupSet o _ | .cgroupClear o _
  | .starterRecv o _ | .starterSet o _ | .reset o _ | .snetSet o _ | .repairQuery o _ | .fieldTest o _ | .diagRead o _
  | .powerState o _ | .partIdle o _ | .sensorRead o _ | .powerCap o _ | .ctxCreate o _ | .ctxDestroy o _ | .ctxSave o _
  | .ctxRestore o _ | .ctxSetp o _ | .routineQuery o _ | .ctxQuery o _ | .ctxRun o _ => o.wf
  | .release f p | .abandon f p => partWf f && partWf p
  | .setEndpointId _ | .getEndpointId | .getEndpointUuid | .getMctpVersionSupport _ | .getMessageTypeSupport
  | .getVendorDefinedMessageSupport _ | .vendorDefinedMessage _ | .getTid | .setTid _ | .getPldmVersion _
  | .getPldmTypes | .getPldmCommands _ | .getPdrRepositoryInfo | .getPdr _ | .setEventReceiver _
  | .pldmFirmwareUpdate _ | .activateFirmware _ => true
  | .getSensorReading s | .getStateSensorReadings s => s < 65536
  | .residueCheckpoint c m => coreWf c && (match m with
    | .array v _ _ _ _ | .vector v | .conversion v => v.wf
    | .engine k l => clusterWf k && l < 4096)
  | .parityError c s sl => coreWf c && s < 4 && (match sl with | some k => k < 8 | none => true)
  | .checkStart | .ringmasterFailover | .computeResetFail | .deviceReset | .stateChangeComplete => true
  | .checkCompare _ _ => true
  | .watchdogExpiry w => (match w with | .core n => coreWf n | .engine k => clusterWf k)
  | .scopeReset sc t _ => sc < 5 && (if sc = 0 then coreWf t else if sc = 1 then clusterWf t else if sc = 2 then partWf t else true)
  | .alwaysOnRestart _ => true
  | .isolationReplay c k _ => coreWf c && k < 64
  | .contextRecovery k => k < 64
  | .inputOutOfRange _ => true
  | .vcoreWarning d _ | .vcoreRecover d | .vcoreDipTimeout d | .vcoreResetLevel d _ | .dieTempWarning d _
  | .thermalTrip d => dieWf d
  | .powerCapTick w => w < 65536
  | .coolantAlarm s _ => s == 0x500 || s == 0x502
  | .wake s => s < 6
  | .carouselSample rs => rs.all (fun r => r.1 < 65536)
  | .coldStart c => c.slot < 64 && c.litLinks.all linkWf
  | .idcode | .extest | .clamp | .highz | .dbgChain => true
  | .samplePreload _ | .obsSelect _ => true
  | .bypass c => !([0x01, 0x02, 0x03, 0x04, 0x05, 0x10, 0x11] : List Byte).contains c
  | .obsSelWrite f _ => partWf f
  | .ptRefLoss | .ptRefReturn => true
  | .routeSummaryReceive p m ds => p < 64 && devWf m.via && linkWf m.link && ds.all devWf

end Sys2Proof
end

