-- ==== Sys2Proof/Machine/Num.lean ====
section
/-! DEFINITION. Exact numbers and the wide formats: rationals, the decode of BF16, FP16 and FP32 (R45), every rounding
into them (R485, R59), and the correctly rounded functions of the vector unit and the update engines (R204, R238). -/

namespace Sys2Proof.Machine

/-- Bits [hi:lo] of a number (R6). -/
def bits (x hi lo : Nat) : Nat := (x >>> lo) % 2 ^ (hi + 1 - lo)

/-- Bit i of a number. -/
def bit (x i : Nat) : Bool := x.testBit i

/-- A number with its bits [hi:lo] replaced. -/
def setBits (x hi lo v : Nat) : Nat :=
  x - (bits x hi lo) * 2 ^ lo + (v % 2 ^ (hi + 1 - lo)) * 2 ^ lo

/-- The two's complement reading of a w-bit number. -/
def toSigned (w x : Nat) : Int := if x < 2 ^ (w - 1) then (x : Int) else (x : Int) - 2 ^ w

/-- The w-bit two's complement code of an integer. -/
def ofSigned (w : Nat) (x : Int) : Nat := (x % (2 ^ w : Int)).toNat

/-- A count that stops at the largest value of w bits. -/
def satAdd (w a b : Nat) : Nat := min (a + b) (2 ^ w - 1)

/-- Least multiple of m at or above x. -/
def alignUp (x m : Nat) : Nat := if m = 0 then x else ((x + m - 1) / m) * m

/-- Quotient rounded upward. -/
def ceilDiv (a b : Nat) : Nat := if b = 0 then 0 else (a + b - 1) / b

/-- The little-endian number of a list of bytes (R6). -/
def bytesToNat : List Byte → Nat
  | [] => 0
  | b :: bs => b.toNat + 256 * bytesToNat bs

/-- The n little-endian bytes of a number (R6). -/
def natToBytes : Nat → Nat → List Byte
  | 0, _ => []
  | n + 1, x => BitVec.ofNat 8 x :: natToBytes n (x / 256)

/-- The bytes of a number, most significant first (R309: flit headers are big-endian). -/
def natToBytesBE (n x : Nat) : List Byte := (natToBytes n x).reverse

/-- One bit of the CRC-32 of IEEE 802.3, reflected form. -/
def crcBit (c : Word32) : Word32 := if c.getLsbD 0 then (c >>> 1) ^^^ 0xEDB88320#32 else c >>> 1

/-- One byte of the CRC-32. -/
def crcByte (c : Word32) (b : Byte) : Word32 :=
  crcBit (crcBit (crcBit (crcBit (crcBit (crcBit (crcBit (crcBit (c ^^^ b.zeroExtend 32))))))))

/-- CRC-32, IEEE 802.3 polynomial, initial value all ones, final value complemented (R251, R309). -/
def crc32 (bs : List Byte) : Word32 := ~~~ (bs.foldl crcByte 0xFFFFFFFF#32)

/-! ### Exact rationals -/

/-- The exact rational n / d; every constructor below keeps d positive. -/
structure Q where
  n : Int
  d : Nat
  deriving DecidableEq, Repr

def Q.ofInt (x : Int) : Q := ⟨x, 1⟩
def Q.zero : Q := ⟨0, 1⟩
def Q.one : Q := ⟨1, 1⟩
/-- 2 to an integer power. -/
def pow2 (e : Int) : Q := if 0 ≤ e then ⟨2 ^ e.toNat, 1⟩ else ⟨1, 2 ^ (-e).toNat⟩
/-- The same value with common factors removed. -/
def Q.norm (a : Q) : Q :=
  let g := Nat.gcd a.n.natAbs a.d
  if g ≤ 1 then a else ⟨a.n / (g : Int), a.d / g⟩
def Q.add (a b : Q) : Q := if a.d = b.d then ⟨a.n + b.n, a.d⟩ else ⟨a.n * b.d + b.n * a.d, a.d * b.d⟩
def Q.neg (a : Q) : Q := ⟨-a.n, a.d⟩
def Q.sub (a b : Q) : Q := a.add b.neg
def Q.mul (a b : Q) : Q := ⟨a.n * b.n, a.d * b.d⟩
def Q.abs (a : Q) : Q := ⟨a.n.natAbs, a.d⟩
/-- a / b; 0 when b is 0 (callers exclude it). -/
def Q.div (a b : Q) : Q :=
  if b.n = 0 then Q.zero
  else if 0 < b.n then ⟨a.n * b.d, a.d * b.n.toNat⟩ else ⟨-(a.n * b.d), a.d * (-b.n).toNat⟩
def Q.lt (a b : Q) : Bool := decide (a.n * b.d < b.n * a.d)
def Q.le (a b : Q) : Bool := decide (a.n * b.d ≤ b.n * a.d)
def Q.eq (a b : Q) : Bool := decide (a.n * b.d = b.n * a.d)
def Q.isZero (a : Q) : Bool := decide (a.n = 0)
def Q.isNeg (a : Q) : Bool := decide (a.n < 0)
def Q.max (a b : Q) : Q := if a.le b then b else a
def Q.min (a b : Q) : Q := if a.le b then a else b
def Q.floor (a : Q) : Int := a.n / (a.d : Int)
/-- a × 2^e. -/
def Q.scale (a : Q) (e : Int) : Q := if 0 ≤ e then ⟨a.n * 2 ^ e.toNat, a.d⟩ else ⟨a.n, a.d * 2 ^ (-e).toNat⟩

/-- ⌊log₂ a⌋ of a positive a. -/
def Q.ilog2 (a : Q) : Int :=
  let k : Int := (Nat.log2 a.n.natAbs : Int) - (Nat.log2 a.d : Int)
  if (pow2 k).le a.abs then k else k - 1

/-- ⌈log₂ a⌉ of a positive a. -/
def Q.clog2 (a : Q) : Int := let k := a.ilog2; if (pow2 k).eq a.abs then k else k + 1

/-- One bit of an integer square root, from bit b down. -/
def isqrtGo (n : Nat) : Nat → Nat → Nat
  | 0, r => r
  | b + 1, r => let r' := r + 2 ^ b; isqrtGo n b (if r' * r' ≤ n then r' else r)

/-- ⌊√n⌋. -/
def isqrt (n : Nat) : Nat := isqrtGo n (Nat.log2 n / 2 + 1) 0

/-! ### Flags (R66: NV bit 0, OF bit 1, UF bit 2, NX bit 3) -/

abbrev Flags := BitVec 4
def fNV : Flags := 1#4
def fOF : Flags := 2#4
def fUF : Flags := 4#4
def fNX : Flags := 8#4

/-! ### Wide formats -/

/-- A wide format by its exponent and mantissa widths (R45). -/
structure FpFmt where
  eb : Nat
  mb : Nat
  deriving DecidableEq, Repr

def fp32 : FpFmt := ⟨8, 23⟩
def bf16 : FpFmt := ⟨8, 7⟩
def fp16 : FpFmt := ⟨5, 10⟩

def FpFmt.bias (f : FpFmt) : Int := 2 ^ (f.eb - 1) - 1
def FpFmt.emin (f : FpFmt) : Int := 1 - f.bias
def FpFmt.emax (f : FpFmt) : Int := f.bias
def FpFmt.width (f : FpFmt) : Nat := 1 + f.eb + f.mb
/-- The canonical quiet NaN (R45). -/
def FpFmt.qnan (f : FpFmt) : Nat := (2 ^ f.eb - 1) * 2 ^ f.mb + 2 ^ (f.mb - 1)
def FpFmt.infBits (f : FpFmt) (neg : Bool) : Nat :=
  (2 ^ f.eb - 1) * 2 ^ f.mb + (if neg then 2 ^ (f.eb + f.mb) else 0)

/-- A value: NaN, an infinity, or a signed magnitude (the sign of a zero is kept, R63). -/
inductive FV where
  | nan
  | inf (neg : Bool)
  | num (neg : Bool) (mag : Q)
  deriving DecidableEq, Repr

/-- The value as a signed exact number; NaN and infinities read 0 (callers exclude them). -/
def FV.toQ : FV → Q
  | .num neg m => if neg then m.neg else m
  | _ => Q.zero
def FV.ofQ (q : Q) : FV := .num q.isNeg q.abs
def FV.isNum : FV → Bool
  | .num _ _ => true
  | _ => false
def FV.isNan : FV → Bool
  | .nan => true
  | _ => false
def FV.isZero : FV → Bool
  | .num _ m => m.isZero
  | _ => false
def FV.neg : FV → FV
  | .nan => .nan
  | .inf s => .inf (!s)
  | .num s m => .num (!s) m
def FV.abs : FV → FV
  | .nan => .nan
  | .inf _ => .inf false
  | .num _ m => .num false m

/-- Decode of a wide code (R45). -/
def fpDecode (f : FpFmt) (x : Nat) : FV :=
  let s := bit x (f.eb + f.mb)
  let e := bits x (f.eb + f.mb - 1) f.mb
  let m := bits x (f.mb - 1) 0
  if e = 2 ^ f.eb - 1 then (if m = 0 then .inf s else .nan)
  else if e = 0 then .num s ((Q.ofInt m).scale (f.emin - f.mb))
  else .num s ((Q.ofInt ((2 ^ f.mb + m : Nat) : Int)).scale ((e : Int) - f.bias - f.mb))

/-- Rounding of one value: to nearest even, or stochastic with k bits and the drawn integer u (R58, R59). -/
inductive Rnd where
  | rne
  | sr (k u : Nat)
  deriving DecidableEq, Repr

/-- Whether a magnitude at fraction g of its grid step (0 < g < 1), above an integer m, moves away from zero. -/
def roundsAway (r : Rnd) (neg : Bool) (m : Nat) (g : Q) : Bool :=
  match r with
  | .rne => (Q.lt ⟨1, 2⟩ g) || (Q.eq ⟨1, 2⟩ g && m % 2 == 1)
  | .sr k u =>
    let f := if neg then Q.one.sub g else g
    let t := ((f.scale k).add ⟨1, 2⟩).floor
    if neg then !decide ((u : Int) < t) else decide ((u : Int) < t)

/-- A positive magnitude rounded to a multiple of 2^e: the multiple, and whether it was exact. -/
def roundGrid (r : Rnd) (neg : Bool) (q : Q) (e : Int) : Nat × Bool :=
  let y := q.scale (-e)
  let m := y.floor.toNat
  let g := y.sub (Q.ofInt m)
  if g.isZero then (m, true) else (if roundsAway r neg m g then m + 1 else m, false)

/-- Rounding into a wide format, with the ends of the range and the flags of R485. -/
def fpEncode (f : FpFmt) (r : Rnd) (v : FV) : Nat × Flags :=
  match v with
  | .nan => (f.qnan, 0#4)
  | .inf s => (f.infBits s, 0#4)
  | .num s q =>
    let sb := if s then 2 ^ (f.eb + f.mb) else 0
    if q.isZero then (sb, 0#4)
    else
      let k := q.ilog2
      if f.emax < k then (f.infBits s, fOF ||| fNX)
      else
        let e : Int := (if k < f.emin then f.emin else k) - f.mb
        let (m, exact) := roundGrid r s q e
        let v := (Q.ofInt m).scale e
        if (pow2 (f.emax + 1)).le v then (f.infBits s, fOF ||| fNX)
        else
          let (mu, _) := roundGrid r s q (k - f.mb)
          let tiny := m == 0 || ((Q.ofInt mu).scale (k - f.mb)).lt (pow2 f.emin)
          let fl := if exact then 0#4 else if tiny then fNX ||| fUF else fNX
          let code :=
            if m < 2 ^ f.mb then m
            else
              let kv := v.ilog2
              let mant := (v.scale (f.mb - kv)).floor.toNat - 2 ^ f.mb
              (kv + f.bias).toNat * 2 ^ f.mb + mant
          (sb + code, fl)

/-- A positive value rounded upward to FP32 (R49, R113). -/
def fp32RoundUp (q : Q) : Nat :=
  let (c, _) := fpEncode fp32 .rne (.num false q)
  match fpDecode fp32 c with
  | .num _ v => if v.lt q then c + 1 else c
  | _ => c

/-! ### IEEE 754 binary32 operations under RNE -/

abbrev R32 := Word32 × Flags

def dec32 (x : Word32) : FV := fpDecode fp32 x.toNat
def enc32 (v : FV) : R32 := let (c, f) := fpEncode fp32 .rne v; (BitVec.ofNat 32 c, f)

/-- Exact sum with IEEE signs of zero; the Bool reports an invalid operation. -/
def FV.add (a b : FV) : FV × Bool :=
  match a, b with
  | .nan, _ => (.nan, false)
  | _, .nan => (.nan, false)
  | .inf s, .inf t => if s == t then (.inf s, false) else (.nan, true)
  | .inf s, _ => (.inf s, false)
  | _, .inf t => (.inf t, false)
  | .num s m, .num t n =>
    let q := (FV.num s m).toQ.add (FV.num t n).toQ
    if q.isZero then (.num (s && t) Q.zero, false) else (FV.ofQ q, false)

/-- Exact product; 0 × infinity is invalid. -/
def FV.mul (a b : FV) : FV × Bool :=
  match a, b with
  | .nan, _ => (.nan, false)
  | _, .nan => (.nan, false)
  | .inf s, .inf t => (.inf (s != t), false)
  | .inf s, .num t n => if n.isZero then (.nan, true) else (.inf (s != t), false)
  | .num s m, .inf t => if m.isZero then (.nan, true) else (.inf (s != t), false)
  | .num s m, .num t n => (.num (s != t) (m.mul n), false)

/-- Exact quotient; 0/0 and infinity/infinity are invalid. -/
def FV.div (a b : FV) : FV × Bool :=
  match a, b with
  | .nan, _ => (.nan, false)
  | _, .nan => (.nan, false)
  | .inf _, .inf _ => (.nan, true)
  | .inf s, .num t _ => (.inf (s != t), false)
  | .num s _, .inf t => (.num (s != t) Q.zero, false)
  | .num s m, .num t n =>
    if n.isZero then (if m.isZero then (.nan, true) else (.inf (s != t), false))
    else (.num (s != t) (m.div n), false)

/-- The result of an exact operation rounded once, with its flags. -/
def finish32 (p : FV × Bool) : R32 := let (c, f) := enc32 p.1; (c, if p.2 then f ||| fNV else f)

def fp32Add (a b : Word32) : R32 := finish32 ((dec32 a).add (dec32 b))
def fp32Sub (a b : Word32) : R32 := finish32 ((dec32 a).add (dec32 b).neg)
def fp32Mul (a b : Word32) : R32 := finish32 ((dec32 a).mul (dec32 b))
def fp32Div (a b : Word32) : R32 := finish32 ((dec32 a).div (dec32 b))
/-- a × b + c with one rounding. -/
def fp32Fma (a b c : Word32) : R32 :=
  let (p, i) := (dec32 a).mul (dec32 b)
  let (r, j) := p.add (dec32 c)
  finish32 (r, i || j)

/-- √q of a positive rational to more than 40 bits, with a sticky last bit, so that one rounding of it is right. -/
def sqrtQ (q : Q) : Q :=
  let k : Nat := (40 - q.ilog2 / 2).toNat + 2
  let y := q.scale (2 * k)
  let fl := y.floor.toNat
  let r := isqrt fl
  let exact := r * r == fl && (y.eq (Q.ofInt fl))
  (Q.ofInt ((2 * r + (if exact then 0 else 1) : Nat) : Int)).scale (-(k : Int) - 1)

def fp32Sqrt (a : Word32) : R32 :=
  match dec32 a with
  | .nan => finish32 (.nan, false)
  | .inf s => if s then finish32 (.nan, true) else finish32 (.inf false, false)
  | .num s m => if m.isZero then (a, 0#4) else if s then finish32 (.nan, true) else finish32 (.num false (sqrtQ m), false)

def fp32Rsqrt (a : Word32) : R32 :=
  match dec32 a with
  | .nan => finish32 (.nan, false)
  | .inf s => if s then finish32 (.nan, true) else finish32 (.num false Q.zero, false)
  | .num s m =>
    if m.isZero then finish32 (.inf s, false)
    else if s then finish32 (.nan, true) else finish32 (.num false (sqrtQ (Q.one.div m)), false)

/-- x × 2^e rounded once (the ldexp of R156). -/
def fp32Ldexp (a : Word32) (e : Int) : R32 :=
  match dec32 a with
  | .num s m => finish32 (.num s (m.scale e), false)
  | v => finish32 (v, false)

/-- Maximum of R64: NaN if either operand is NaN; max(−0, +0) is +0. -/
def FV.max (a b : FV) : FV :=
  match a, b with
  | .nan, _ => .nan
  | _, .nan => .nan
  | .inf s, y => if s then y else .inf false
  | x, .inf t => if t then x else .inf false
  | .num s m, .num t n =>
    let x := (FV.num s m).toQ
    let y := (FV.num t n).toQ
    if x.lt y then .num t n else if y.lt x then .num s m else .num (s && t) m

/-- Minimum of R64: min(−0, +0) is −0. -/
def FV.min (a b : FV) : FV := (FV.max a.neg b.neg).neg

/-- a < b for values that are not NaN. -/
def FV.lt (a b : FV) : Bool :=
  match a, b with
  | .nan, _ => false
  | _, .nan => false
  | .inf s, .inf t => s && !t
  | .inf s, _ => s
  | _, .inf t => !t
  | .num s m, .num t n => (FV.num s m).toQ.lt (FV.num t n).toQ

/-! ### Correctly rounded exp, ln, cos πx and sin πx (R204, R238)

Each function is bracketed in fixed point with p fraction bits; the two ends are rounded, and when they agree that is the
correctly rounded result. The working precision is raised until they agree. -/

/-- Σ zpow / (2k+1), alternating when `alt`: terms of atanh and atan in fixed point. -/
def oddSeries (alt : Bool) (z2 p : Nat) : Nat → Nat → Nat → Int → Int
  | 0, _, _, acc => acc
  | fuel + 1, k, t, acc =>
    let term : Int := ((t / (2 * k + 1) : Nat) : Int)
    oddSeries alt z2 p fuel (k + 1) (t * z2 / 2 ^ p) (if alt && k % 2 == 1 then acc - term else acc + term)

/-- 2 atanh(z) of a fixed-point z below 1/2, within 4 p units of its last place. -/
def atanh2 (p z : Nat) : Int := 2 * oddSeries false (z * z / 2 ^ p) p p 0 z 0

/-- ln 2 in fixed point. -/
def ln2Fix (p : Nat) : Int := atanh2 p (2 ^ p / 3)

/-- atan(1/n) in fixed point. -/
def atanInv (p n : Nat) : Int := let z := 2 ^ p / n; oddSeries true (z * z / 2 ^ p) p p 0 z 0

/-- π in fixed point, by Machin's formula. -/
def piFix (p : Nat) : Int := 16 * atanInv p 5 - 4 * atanInv p 239

/-- Σ rⁿ/n! from the term t of index n. -/
def expSeries (r : Int) (p : Nat) : Nat → Nat → Int → Int → Int
  | 0, _, _, acc => acc
  | fuel + 1, n, t, acc => expSeries r p fuel (n + 1) (t * r / 2 ^ p / (n + 1 : Nat)) (acc + t)

/-- Σ (−1)ⁿ t, t the terms of sine or cosine in steps of two factors. -/
def trigSeries (r2 : Int) (p : Nat) : Nat → Nat → Int → Int → Int
  | 0, _, _, acc => acc
  | fuel + 1, n, t, acc =>
    trigSeries r2 p fuel (n + 2) (-(t * r2 / 2 ^ p / ((n + 1) * (n + 2) : Nat))) (acc + t)

/-- A bracket in fixed point with p fraction bits, as two exact values. -/
def bracket (x : Int) (p slack : Nat) : Q × Q :=
  ((Q.ofInt (x - slack)).scale (-(p : Int)), (Q.ofInt (x + slack)).scale (-(p : Int)))

def lnBracket (m : Q) (p : Nat) : Q × Q :=
  let e := m.ilog2
  let y := m.scale (-e)
  let z := ((y.sub Q.one).div (y.add Q.one)).scale p
  bracket (e * ln2Fix p + atanh2 p z.floor.toNat) p (2 ^ 20)

def expBracket (x : Q) (p : Nat) : Q × Q :=
  let l2 := ln2Fix p
  let xf := (x.scale p).floor
  let k := (2 * xf + l2) / (2 * l2)
  let r := xf - k * l2
  let y := expSeries r p p 0 (2 ^ p) 0
  let (a, b) := bracket y p (2 ^ 20)
  (a.scale k, b.scale k)

/-- sin(π y) for 0 ≤ y ≤ 1/2. -/
def sinPiBracket (y : Q) (p : Nat) : Q × Q :=
  let r := ((y.mul (Q.ofInt (piFix p)))).floor
  bracket (trigSeries (r * r / 2 ^ p) p p 1 r 0) p (2 ^ 20)

/-- Round the brackets at rising precision until both ends round alike; the last bracket's lower end otherwise. -/
def roundBrackets (neg : Bool) (f : Nat → Q × Q) : List Nat → FV
  | [] => .num neg (f 1024).1.abs
  | p :: ps =>
    let (a, b) := f p
    if !a.isNeg && (fpEncode fp32 .rne (.num neg a)) == (fpEncode fp32 .rne (.num neg b)) && !a.isZero then .num neg a
    else roundBrackets neg f ps

def precisions : List Nat := [256, 512, 1024]

def fp32Ln (a : Word32) : R32 :=
  match dec32 a with
  | .nan => finish32 (.nan, false)
  | .inf s => if s then finish32 (.nan, true) else finish32 (.inf false, false)
  | .num s m =>
    if m.isZero then finish32 (.inf true, false)
    else if s then finish32 (.nan, true)
    else if m.eq Q.one then finish32 (.num false Q.zero, false)
    else
      let below := m.lt Q.one
      finish32 (roundBrackets below
        (fun p => let (a, b) := lnBracket m p; if below then (b.neg, a.neg) else (a, b)) precisions, false)

def fp32Exp (a : Word32) : R32 :=
  match dec32 a with
  | .nan => finish32 (.nan, false)
  | .inf s => finish32 (if s then .num false Q.zero else .inf false, false)
  | .num s m =>
    if m.isZero then finish32 (.num false Q.one, false)
    else if (Q.ofInt 128).lt m then finish32 (.num false (pow2 (if s then -200 else 200)), false)
    else finish32 (roundBrackets false (expBracket (FV.num s m).toQ) precisions, false)

/-- sin(π y) of a reduced y in [0, 2), with exact values at multiples of 1/2. -/
def sinPiReduced (y : Q) : FV :=
  let (neg, y) := if Q.one.lt y || Q.one.eq y then (true, y.sub Q.one) else (false, y)
  let y := if (Q.mk 1 2).lt y then Q.one.sub y else y
  if y.isZero then .num false Q.zero
  else if y.eq ⟨1, 2⟩ then .num neg Q.one
  else roundBrackets neg (sinPiBracket y) precisions

/-- x mod 2 of an exact value. -/
def mod2 (x : Q) : Q := x.sub (Q.ofInt (2 * (x.scale (-1)).floor))

def fp32Sinpi (a : Word32) : R32 :=
  match dec32 a with
  | .nan => finish32 (.nan, false)
  | .inf _ => finish32 (.nan, true)
  | .num s m =>
    if m.isZero then (a, 0#4)
    else match sinPiReduced (mod2 m) with
      | .num t r => if r.isZero then finish32 (.num s Q.zero, false) else finish32 (.num (s != t) r, false)
      | v => finish32 (v, false)

def fp32Cospi (a : Word32) : R32 :=
  match dec32 a with
  | .nan => finish32 (.nan, false)
  | .inf _ => finish32 (.nan, true)
  | .num _ m => finish32 (sinPiReduced (mod2 (m.add ⟨1, 2⟩)), false)

/-! ### The random mix (R191, R192) -/

def mixRound (x : Word64 × Word64) (rot : Nat) : Word64 × Word64 :=
  let x0 := x.1 + x.2
  (x0, x.2.rotateLeft rot ^^^ x0)

/-- One RNG evaluation of seed, stream, counter index and step. -/
def mix (seed : Word64) (stream : Word32) (j step : Word64) : BitVec 128 :=
  let kc : Word64 := 0x9E3779B97F4A7C15#64
  let k0 := seed
  let k1 : Word64 := stream ++ stream
  let k2 := k0 ^^^ k1 ^^^ kc
  let x := [16, 44, 28, 52].foldl mixRound (j + k0, step + k2)
  (x.2 + k0 + 4#64) ++ (x.1 + k1)

/-- Nibble n of an evaluation. -/
def mixNibble (o : BitVec 128) (n : Nat) : Nat := bits o.toNat (4 * n + 3) (4 * n)
/-- Byte n of an evaluation. -/
def mixByte (o : BitVec 128) (n : Nat) : Nat := bits o.toNat (8 * n + 7) (8 * n)
/-- Word n of an evaluation. -/
def mixWord (o : BitVec 128) (n : Nat) : Word32 := BitVec.ofNat 32 (bits o.toNat (32 * n + 31) (32 * n))

/-- The nibble that stochastic rounding draws for logical element i (R194, R199). -/
def srNibble (seed : Word64) (stream : Word32) (step : Word64) (i : Nat) : Nat :=
  mixNibble (mix seed stream (BitVec.ofNat 64 (i / 32)) step) (i % 32)

/-- The rounding of element i under an RND code of R54, with its drawn bits (R199). -/
def rndOf (rnd : Nat) (seed : Word64) (stream : Word32) (step : Word64) (i : Nat) : Rnd :=
  match rnd with
  | 1 => .sr 4 (srNibble seed stream step i)
  | 2 => .sr 3 (srNibble seed stream step i / 2)
  | _ => .rne

end Sys2Proof.Machine
end

