-- ==== Sys2Proof/Machine/Formats.lean ====
section
/-! DEFINITION. Number formats, block scales and special values (02_number_formats.md): format words, narrow codes, block
scale bytes, the conversion of one block (R56 to R61, R484), the decode of one element (R36), and MX interchange. -/

namespace Sys2Proof.Machine

/-! ### Format words (R37, R54, R55, R68) -/

def fmtNarrow (f : Nat) : Bool := f ≤ 8
def fmtWide (f : Nat) : Bool := 9 ≤ f && f ≤ 11

/-- Element width in bits (R37). -/
def fmtWidth : Nat → Nat
  | 0 => 1 | 1 => 2 | 2 => 3 | 3 => 4 | 4 => 4 | 5 => 6 | 6 => 8 | 7 => 8 | 8 => 8 | 9 => 16 | 10 => 16 | 11 => 32
  | _ => 0

/-- The wide format of a code. -/
def fpOf : Nat → FpFmt
  | 9 => bf16 | 10 => fp16 | _ => fp32

/-- Data bytes of one block (R37). -/
def blockBytes (f : Nat) : Nat := 2 * fmtWidth f

/-- Element unit exponent q of R82: a decoded element is n × 2^q. -/
def fmtUnit : Nat → Int
  | 1 => -1 | 3 => -1 | 5 => -4 | 6 => -9 | 7 => -16 | 10 => -24 | 9 => -55 | _ => 0

/-- Largest magnitude Emax of a narrow format, in element units (R37). -/
def fmtEmaxN : Nat → Nat
  | 0 => 1 | 1 => 3 | 2 => 4 | 3 => 12 | 4 => 7 | 5 => 448 | 6 => 245760 | 7 => 7516192768 | 8 => 127 | _ => 0

def fmtEmax (f : Nat) : Q := (Q.ofInt (fmtEmaxN f : Int)).scale (fmtUnit f)

def fmtwFmt (w : Nat) : Nat := bits w 3 0
def fmtwSquare (w : Nat) : Bool := bit w 4
def fmtwUniform (w : Nat) : Bool := bit w 5
def fmtwRnd (w : Nat) : Nat := bits w 7 6
def fmtwMxt (w : Nat) : Nat := bits w 10 8
def fmtwExport (w : Nat) : Bool := bit w 11

/-- The MX types and directions of R68. -/
def mxAllowed (mxt : Nat) (exp : Bool) (f : Nat) : Bool :=
  match mxt, exp with
  | 1, false => f == 3
  | 1, true => f == 0 || f == 1 || f == 2 || f == 3
  | 2, _ => f == 5
  | 3, false => f == 6
  | 4, _ => f == 6
  | 5, _ => f == 7
  | 6, false => f == 8
  | 6, true => f == 8 || f == 4
  | _, _ => false

/-- Validity of a format word (R55). -/
def fmtwValid (w : Nat) : Bool :=
  let f := fmtwFmt w
  f ≤ 11 && fmtwRnd w != 3 && fmtwMxt w != 7 && !(fmtWide f && (fmtwSquare w || fmtwUniform w)) &&
  (fmtwMxt w == 0 || (mxAllowed (fmtwMxt w) (fmtwExport w) f && !(fmtwExport w && fmtwRnd w != 0))) &&
  bits w 31 12 == 0

/-! ### Narrow element codes (R38 to R44) -/

/-- Magnitude integer of a sign-magnitude code without its sign. -/
def narrowMag (f c : Nat) : Nat :=
  match f with
  | 0 => 1
  | 1 => if c = 0 then 1 else 3
  | 2 => match c with | 0 => 0 | 1 => 1 | 2 => 2 | _ => 4
  | 3 => match c with | 0 => 0 | 1 => 1 | 2 => 2 | 3 => 3 | 4 => 4 | 5 => 6 | 6 => 8 | _ => 12
  | 5 => let e := c / 4; if e = 0 then c % 4 else (4 + c % 4) * 2 ^ (e - 1)
  | 6 => let e := c / 8; if e = 0 then c % 8 else (8 + c % 8) * 2 ^ (e - 1)
  | 7 => let e := c / 4; if e = 0 then c % 4 else (4 + c % 4) * 2 ^ (e - 1)
  | _ => 0

/-- The integer n of a narrow code: the element is n × 2^q (R82). G4I's invalid code reads 0 here. -/
def narrowInt (f c : Nat) : Int :=
  match f with
  | 4 => if c = 8 then 0 else toSigned 4 c
  | 8 => toSigned 8 c
  | _ =>
    let h := 2 ^ (fmtWidth f - 1)
    if c < h then (narrowMag f c : Int) else -(narrowMag f (c - h) : Int)

/-- A code that no unit writes: negative zeros, G4I 1000b, I8 0x80 (R38, R60). -/
def neverWritten (f c : Nat) : Bool :=
  match f with
  | 2 => c == 4 | 3 => c == 8 | 4 => c == 8 | 5 => c == 32 | 6 => c == 128 | 7 => c == 128 | 8 => c == 128 | _ => false

/-- The codes a conversion may write. -/
def writableCodes (f : Nat) : List Nat := (List.range (2 ^ fmtWidth f)).filter (fun c => !neverWritten f c)

/-- The nearest codes at or below and at or above a value in element units. -/
def neighbours (f : Nat) (y : Q) : Option Nat × Option Nat :=
  (writableCodes f).foldl (fun (lo, hi) c =>
    let v := Q.ofInt (narrowInt f c)
    let lo' := if v.le y then (match lo with
      | none => some c
      | some l => if narrowInt f l < narrowInt f c then some c else lo) else lo
    let hi' := if y.le v then (match hi with
      | none => some c
      | some h => if narrowInt f c < narrowInt f h then some c else hi) else hi
    (lo', hi')) (none, none)

/-- The code with the largest magnitude of a sign (R57: clipping). -/
def clipCode (f : Nat) (neg : Bool) : Nat :=
  match f with
  | 0 => if neg then 1 else 0
  | 4 => if neg then 9 else 7
  | 8 => if neg then 129 else 127
  | _ => let h := 2 ^ (fmtWidth f - 1); (h - 1) + (if neg then h else 0)

/-- Rounding of an exact quotient inside the format's range (R58, R59): the code and whether it was exact. -/
def roundNarrow (f : Nat) (r : Rnd) (q : Q) : Nat × Bool :=
  let y := q.scale (-(fmtUnit f))
  match neighbours f y with
  | (some l, some h) =>
    let vl := narrowInt f l
    let vh := narrowInt f h
    if vl = vh then (l, true)
    else
      let fr := (y.sub (Q.ofInt vl)).div (Q.ofInt (vh - vl))
      match r with
      | .rne =>
        if fr.lt ⟨1, 2⟩ then (l, false)
        else if Q.lt ⟨1, 2⟩ fr then (h, false)
        else if h % 2 == 0 then (h, false) else (l, false)
      | .sr k u =>
        let t := ((fr.scale k).add ⟨1, 2⟩).floor
        (if (u : Int) < t then h else l, false)
  | (some l, none) => (l, false)
  | (none, some h) => (h, false)
  | (none, none) => (0, false)

/-! ### Block scale bytes and row scales (R46, R48, R49) -/

/-- σ of a valid scale byte: (8 + m) × 2^(e − 18). -/
def scaleVal (b : Nat) : Q := (Q.ofInt ((8 + b % 8 : Nat) : Int)).scale ((b / 8 : Nat) - 18)

/-- A row scale as a consumer takes it: none is NaN. The flags are those the consumer sets (R48). -/
def rowScaleOf (w : Nat) : Option Q × Flags :=
  match fpDecode fp32 w with
  | .nan => (none, 0#4)
  | .inf _ => (none, fNV)
  | .num s m =>
    if s then (none, fNV)
    else if m.isZero then (some Q.zero, 0#4)
    else if m.lt (pow2 (-126)) then (some Q.zero, fUF) else (some m, 0#4)

/-- The FP32 row scale of a positive exact value: rounded upward and raised to 2⁻¹²⁶ (R49). -/
def rowScaleBits (q : Q) : Nat := let c := fp32RoundUp q; if c < 0x00800000 then 0x00800000 else c

/-- ρ computed on the fly for a row (R49). -/
def rowScaleJit (f : Nat) (row : List FV) : Nat :=
  if row.any (fun x => !x.isNum) then fp32.qnan
  else
    let m := row.foldl (fun a x => a.max x.toQ.abs) Q.zero
    if m.isZero then 0 else rowScaleBits (m.div (fmtEmax f))

/-! ### One block (R56 to R61, R484) -/

/-- How the block's scale byte is found: just in time with a ceiling, or given (R117, R119). -/
inductive ScaleRule where
  | jit (ceil : Nat)
  | given (byte : Nat)
  deriving DecidableEq, Repr

/-- Counts that a conversion gathers (R126), with the flags it sets. -/
structure Counts where
  cover : Nat := 0
  nonzero : Nat := 0
  clipped : Nat := 0
  vanished : Nat := 0
  nzblk : Nat := 0
  floorblk : Nat := 0
  satblk : Nat := 0
  nanblk : Nat := 0
  ss : Nat := 0
  deriving DecidableEq, Repr

def Counts.add (a b : Counts) : Counts :=
  { cover := satAdd 32 a.cover b.cover, nonzero := satAdd 32 a.nonzero b.nonzero,
    clipped := satAdd 32 a.clipped b.clipped, vanished := satAdd 32 a.vanished b.vanished,
    nzblk := satAdd 32 a.nzblk b.nzblk, floorblk := satAdd 32 a.floorblk b.floorblk,
    satblk := satAdd 32 a.satblk b.satblk, nanblk := satAdd 32 a.nanblk b.nanblk, ss := satAdd 32 a.ss b.ss }

/-- One converted block. -/
structure BlockOut where
  codes : List Nat
  byte : Nat
  counts : Counts
  flags : Flags
  vanishedBlock : Bool
  deriving DecidableEq, Repr

def isNonzero (x : FV) : Bool := !x.isZero

/-- Smallest scale byte in 1..ceil with σ × Emax ≥ a, else ceil; and whether R56 raised σ to 0x01. -/
def jitByte (f ceil : Nat) (a : Q) : Nat × Bool :=
  let need := a.div (fmtEmax f)
  match ((List.range ceil).map (· + 1)).find? (fun b => need.le (scaleVal b)) with
  | some b => (b, b == 1 && need.le (pow2 (-15)))
  | none => (ceil, false)

/-- A block written with zero codes. -/
def blankBlock (n byte : Nat) (c : Counts) (fl : Flags) (van : Bool) : BlockOut := ⟨List.replicate n 0, byte, c, fl, van⟩

/-- Conversion of the rounded elements of a block whose scale is known; the element `skip`, an outlier, gets code 0 (R123). -/
def encodeElems (f : Nat) (sigma : Q) (rnd : Nat → Rnd) (skip : Option Nat) : Nat → List Q → List Nat × Nat × Nat × Flags
  | _, [] => ([], 0, 0, 0#4)
  | i, y :: ys =>
    let (cs, cl, va, fl) := encodeElems f sigma rnd skip (i + 1) ys
    let q := y.div sigma
    if skip = some i then (0 :: cs, cl, va, fl)
    else if (fmtEmax f).lt q.abs then (clipCode f q.isNeg :: cs, cl + 1, va, fl ||| fOF ||| fNX)
    else
      let (c, exact) := roundNarrow f (rnd i) q
      let van := !q.isZero && narrowInt f c == 0
      (c :: cs, cl, va + (if van then 1 else 0),
        fl ||| (if exact then 0#4 else fNX) ||| (if van then fUF else 0#4))

/-- Conversion of one block from exact inputs, each with the row scale that governs it (none: NaN). An outlier `skip` is removed: its
input is given as zero, and its code is zero (R123). -/
def encodeBlock (f : Nat) (rule : ScaleRule) (rnd : Nat → Rnd) (xs : List (FV × Option Q)) (skip : Option Nat := none) : BlockOut :=
  let n := xs.length
  let nz := (xs.filter (fun p => isNonzero p.1)).length
  let base : Counts := { cover := n, nonzero := nz, nzblk := if nz = 0 then 0 else 1 }
  let bad := xs.any (fun p => !p.1.isNum)
  let nanB := blankBlock n 0xFF { base with nanblk := 1 } (if bad then fNV else 0#4) false
  if bad || xs.any (fun p => p.2.isNone) || rule == .given 0xFF then nanB
  else if rule == .given 0 || xs.all (fun p => p.2 == some Q.zero) then
    blankBlock n 0 { base with vanished := nz, floorblk := if nz = 0 then 0 else 1 }
      (if nz = 0 then 0#4 else fUF ||| fNX) (nz != 0)
  else
    let ys := xs.map (fun p => match p.2 with
      | some r => if r.isZero then Q.zero else (p.1.toQ.div r).norm
      | none => Q.zero)
    let lost := (xs.filter (fun p => isNonzero p.1 && p.2 == some Q.zero)).length
    let a := ys.foldl (fun m y => m.max y.abs) Q.zero
    if a.isZero then
      blankBlock n 0 { base with vanished := lost, floorblk := if lost = 0 then 0 else 1 }
        (if lost = 0 then 0#4 else fUF ||| fNX) (lost != 0)
    else
      let (byte, raised) := match rule with
        | .jit c => jitByte f c a
        | .given b => (b, false)
      let (codes, cl, va, fl) := encodeElems f (scaleVal byte) rnd skip 0 ys
      let va := va + lost
      let allZero := codes.all (fun c => narrowInt f c == 0)
      blankBlock n (if allZero then 0 else byte)
        { base with clipped := cl, vanished := va, floorblk := if raised && 0 < va then 1 else 0,
                    satblk := if 0 < cl && cl == nz then 1 else 0 }
        (if lost = 0 then fl else fl ||| fUF ||| fNX) allZero
        |> fun b => { b with codes := if allZero then List.replicate n 0 else codes }

/-- R36: the value of one narrow element under its row scale and block byte. `g4iBad` says that the block holds code 1000b. -/
def decodeElem (f byte : Nat) (g4iBad : Bool) (rho : Option Q) (code : Nat) : FV :=
  match rho with
  | none => .nan
  | some r =>
    if byte = 0xFF then .nan
    else if byte = 0 || r.isZero then .num false Q.zero
    else if f == 4 && g4iBad then .nan
    else FV.ofQ ((r.mul (scaleVal byte)).mul ((Q.ofInt (narrowInt f code)).scale (fmtUnit f)))

/-- Element codes of a block packed under R52. -/
def packCodes (w : Nat) : List Nat → Nat
  | [] => 0
  | c :: cs => c % 2 ^ w + 2 ^ w * packCodes w cs

/-- Element i of packed block data. -/
def unpackCode (w data i : Nat) : Nat := bits data (w * i + w - 1) (w * i)

/-! ### MX interchange (R68 to R72) -/

/-- MX element value of a code, in code units, or none for NaN and infinity. -/
def mxElem (mxt c : Nat) : Option Q :=
  match mxt with
  | 1 => some ((Q.ofInt (narrowInt 3 c)).scale (-1))
  | 2 => some ((Q.ofInt (narrowInt 5 c)).scale (-4))
  | 3 =>
    let m := c % 32
    let mag : Nat := if m / 8 = 0 then m % 8 else (8 + m % 8) * 2 ^ (m / 8 - 1)
    some ((Q.ofInt (if c < 32 then (mag : Int) else -(mag : Int))).scale (-3))
  | 4 => if c % 128 = 127 then none else some ((Q.ofInt (narrowInt 6 c)).scale (-9))
  | 5 => if c % 128 / 4 = 31 then none else some ((Q.ofInt (narrowInt 7 c)).scale (-16))
  | _ => some (Q.ofInt (toSigned 8 c))

/-- Bits of an MX element. -/
def mxWidth : Nat → Nat
  | 1 => 4 | 2 => 6 | 3 => 6 | _ => 8

/-- Power of two of the MX code unit (R70: −6 for MXINT8). -/
def mxD (mxt : Nat) : Int := if mxt = 6 then -6 else 0

/-- The code of format `f` whose decode is exactly v (code units): import copies values (R68). -/
def exactCode (f : Nat) (v : Q) : Nat := (roundNarrow f .rne v).1

/-- One half of an imported MX block (R70): the device block, and whether it was requantised. DESIGN CHOICE (log 41): the
MXINT8 code 0x80 is copied, as R68 says of every code, though no conversion writes it (R60). -/
def mxImportHalf (mxt f : Nat) (x : Nat) (rowP : Int) (codes : List Nat) : BlockOut × Bool :=
  let nz : Counts := { cover := codes.length }
  if x = 0xFF || codes.any (fun c => (mxElem mxt c).isNone) then
    (blankBlock codes.length 0xFF { nz with nanblk := 1 } fNV false, false)
  else
    let p : Int := (x : Int) - 127 + mxD mxt
    let e := p - rowP + 15
    let vs := codes.map (fun c => (mxElem mxt c).getD Q.zero)
    if 1 ≤ e then
      let cs := codes.zip vs |>.map (fun (c, v) => if mxt == 3 then exactCode f v else if neverWritten f c && f != 8 then 0 else c)
      ({ codes := cs, byte := e.toNat * 8, counts := nz, flags := 0#4, vanishedBlock := false }, false)
    else
      (encodeBlock f (.jit 0xFE) (fun _ => .rne) (vs.map (fun v => (FV.ofQ (v.scale p), some (pow2 rowP)))), true)

/-- log₂ of the row scale of an imported row: max(Pmax − 16, −126) (R70). DESIGN CHOICE (log 41): a row whose blocks all have
X = 0xFF has no Pmax, and takes the least row scale, 2⁻¹²⁶. -/
def mxRowP (mxt : Nat) (xs : List Nat) : Int :=
  let ps := (xs.filter (· != 0xFF)).map (fun (x : Nat) => (x : Int) - 127 + mxD mxt)
  match ps with
  | [] => -126
  | p :: rest => max (rest.foldl max p - 16) (-126)

/-- The largest MX element magnitude in code units (R71). -/
def mxEmax : Nat → Q
  | 1 => ⟨6, 1⟩ | 2 => ⟨28, 1⟩ | 4 => ⟨448, 1⟩ | 5 => ⟨57344, 1⟩ | _ => ⟨127, 1⟩

/-- The device format whose codes are those of an MX type. -/
def mxFmt : Nat → Nat
  | 1 => 3 | 2 => 5 | 4 => 6 | 5 => 7 | _ => 8

/-- One exported MX block from 32 decoded values (none: a NaN block is among them): X, codes, flags (R71, R66). DESIGN CHOICE
(log 41): a negative value that rounds to zero is written as +0, as R70 writes every zero. -/
def mxExport (mxt : Nat) (vs : List (Option Q)) : Nat × List Nat × Flags :=
  let n := vs.length
  if vs.any Option.isNone then (0xFF, List.replicate n 0, 0#4)
  else
    let qs := vs.map (fun v => v.getD Q.zero)
    let a := qs.foldl (fun m v => m.max v.abs) Q.zero
    if a.isZero then (0, List.replicate n 0, 0#4)
    else
      let p := (a.div (mxEmax mxt)).clog2
      let x := max (p + 127 - mxD mxt) 0
      if 254 < x then (0xFF, List.replicate n 0, fOF)
      else
        let u := x - 127 + mxD mxt
        let r := qs.map (fun v => roundNarrow (mxFmt mxt) .rne (v.scale (-u)))
        let lost := (qs.zip r).any (fun (q, c) => !q.isZero && narrowInt (mxFmt mxt) c.1 == 0)
        (x.toNat, r.map Prod.fst, (if r.all Prod.snd then 0#4 else fNX) ||| (if lost then fUF else 0#4))

end Sys2Proof.Machine
end

