-- ==== Sys2Proof/Config.lean ====
section
/-! DEFINITION. What one device or its firmware fixes and the manual does not state: constants without a body, so that
no proof can rest on a value of them. -/

namespace Sys2Proof

/-- DESIGN CHOICE (log 8). A free value: what the manual calls undefined or leaves unstated. The step applies it to the
counter `free` of the state. -/
opaque Config.freeValue : Nat → Word64

/-- The column count of a layer's parameter tensor and the index of the shard's first block in it: the layer update
descriptor (R150) gives neither (log 18). -/
opaque Config.layerShape : BitVec 1024 → Nat × Nat

/-- The members of a commit group on other modules (R146): no rule says how a member learns of them (log 17). -/
opaque Config.commitGroup : Word16 → List (Nat × Nat)

/-- The row count of a layer's parameter tensor, which the descriptor does not give either (R195, log 18). -/
opaque Config.layerRows : BitVec 1024 → Nat

/-- The core, among those of a partition, on whose vector unit a block of a preconditioner refresh is computed (R167, log 22). -/
opaque Config.refreshCore : Nat → Nat → Nat → Nat

/-- The rows that the last group of a tensor has, by the DA of that group's statistics record, where no descriptor of a pass gives the
tensor's rows (R108, R109, log 19). -/
opaque Config.lastRows : Nat → Nat

/-- The starting format of a tensor, by the DA of its TSR, where no first-format pass of it has been made (R118, log 20). -/
opaque Config.startFormat : Nat → Nat

/-- The run id that a tile-driver routine gives a run (R400), by what identifies the operation that ends it on the graph (log 15). -/
opaque Config.runId : List Nat → Word64

/-- The version of the core's ROM routines (R245, R253). UNVERIFIED: the manual gives no number (log 11). -/
opaque Config.romVersion : Nat

/-- The Ululy words of ROM routine `id` (R243), whose bodies the manual does not print (log 11). -/
opaque Config.romRoutine : Nat → List Word64

/-- The 256-bit interface record of ROM routine `id` (R245, log 11). -/
opaque Config.routineRecord : Nat → BitVec 256

/-- Whether the bytes of a firmware image verify under R388: the header layout and the key are not given (log 12). -/
opaque Config.imageVerifies : List Byte → Bool

/-- The version and the security version number an image carries (R388, log 12). -/
opaque Config.imageVersion : List Byte → Word32

/-- The security version number of an image (R388, log 12). -/
opaque Config.imageSvn : List Byte → Nat

/-- Whether an image passes its self-check when the standby core starts it (R390, log 12). -/
opaque Config.imageSelfCheck : List Byte → Bool

/-- The images in flash slots A and B as shipped (R387, log 12). -/
opaque Config.shippedImage : Bool → List Byte

/-- How one module as manufactured lays its logical cores and spares out over the 72 physical cores of a die: the choice made at each
place of the list (R16, R34, log 14). -/
opaque Config.physicalCore : Nat → Nat

/-- The 4 KiB identify page made of the facts that R380 names, in a layout the manual does not give (log 13). -/
opaque Config.identifyPage : List Nat → Nat → Byte

/-- Gwynvan's JEP106 code in the IDCODE (R476, log 13). -/
opaque Config.jep106 : BitVec 11

/-- The endpoint UUID of the module (R391, log 13). -/
opaque Config.endpointUuid : BitVec 128

/-- The answer of a management request whose content the cited DMTF specifications fix (R391, log 13). -/
opaque Config.managementReply : Nat → Nat → List Byte

/-- The platform descriptor record of a handle (R391, log 13). -/
opaque Config.platformRecord : Nat → List Byte

/-- The Pantry set of a line within a partition's banks of a slice (R280 gives no index function, log 16). -/
opaque Config.pantrySet : Nat → Nat → Nat

/-- The temperature threshold that a memory part reports at bring-up (R295), before its limits. -/
opaque Config.partThreshold : Nat → Int

/-- The SLOT of the pod's gateway (R320), which the integrator chooses (log 5). -/
opaque Config.gatewaySlot : Nat

/-- Whether a CTRL flit is a heartbeat (R325): the layout of CTRL flits is not given (log 5). -/
opaque Config.isHeartbeat : BitVec 2048 → Bool

/-- The DAs at which a buddy's two Starter slots for this module begin (R344): no rule says how the source learns them (log 24). -/
opaque Config.starterSlots : Nat → Nat × Nat

/-- The region in which firmware places the sample store (R415, log 10). -/
opaque Config.sampleRegion : Nat

/-- Gwynvan's PCI-SIG vendor identifier, which R353 does not print (log 13). -/
opaque Config.vendorId : Word16

/-- The nine digits of the module's serial number (R483). -/
opaque Config.serialDigit : Nat → Fin 10

/-- The module's serial number (R483): T4X and nine digits, padded with spaces to 32 bytes. -/
def Config.serial : List Byte :=
  [0x54, 0x34, 0x58] ++ (List.range 9).map (fun i => BitVec.ofNat 8 (0x30 + (Config.serialDigit i).val)) ++ List.replicate 20 0x20

/-- The order number GV-T4X-M48 (R483). -/
def Config.orderNumber : List Byte := [0x47, 0x56, 0x2D, 0x54, 0x34, 0x58, 0x2D, 0x4D, 0x34, 0x38]

/-- What the boundary-scan cells capture from the pins (R477, log 13). -/
opaque Config.pinSample : Nat → Nat

end Sys2Proof
end

