-- ==== Sys2Proof/Machine/State.lean ====
section
/-! DEFINITION. The state of the module as plain data, every piece that the manual names, and its reset value. Sparse
tables hold rising keys; an unlisted key holds the default that its reader names. -/

namespace Sys2Proof.Machine

/-- No command of this block ends in a fault: the manual answers every one with an event, a status or a flag. -/
inductive Fault where
  deriving DecidableEq, Repr

/-- Why a command has no outcome. -/
inductive Refusal where
  /-- Raised by a dispatch arm whose command has no meaning in the model. Safe: the run stops. -/
  | notModelled (mnemonic : String)
  deriving DecidableEq, Repr

/-! ### Virtual cores (R213) -/

/-- A token (R216). -/
structure Token where
  val : Word32
  tag : Word16 := 0
  kind : BitVec 3 := 0
  susp : Bool := false
  deriving DecidableEq, Repr

/-- A slot of a queue: reserved by operation `op`, and visible once `tok` and every earlier slot are filled (R218). -/
structure QSlot where
  op : Nat
  tok : Option Token
  deriving DecidableEq, Repr

/-- A program position: the CODE section or a routine, and the Ululy index (R213). -/
structure Pos where
  sec : Option Nat := none
  idx : Nat := 0
  deriving DecidableEq, Repr

/-- A loop counter, with the call depth at which its loop runs (R213, R233). -/
structure Counter where
  active : Bool := false
  index : Word32 := 0
  limit : Word32 := 0
  start : Nat := 0
  len : Nat := 0
  depth : Nat := 0
  deriving DecidableEq, Repr

/-- Where an operation stands: in its unit's queue, started, or with its effect made (log 1). -/
inductive Phase where
  | queued | started | performed
  deriving DecidableEq, Repr

/-- Where an operation wrote its output: in its window or in device memory. -/
structure OutLoc where
  dev : Bool
  addr : Nat
  len : Nat
  deriving DecidableEq, Repr

/-- A decision group under a tag: the DA of its statistics record, the step and the attempt (R108, R127). -/
structure Group where
  gsr : Nat
  step : Word64
  attempt : Word16
  deriving DecidableEq, Repr

/-- An instruction of a unit other than ISSUE, as captured at dispatch (R223), and how far it has run. -/
structure UOp where
  id : Nat
  word : Word64
  p1 : Word64 := 0
  p2 : Word64 := 0
  p3 : Word64 := 0
  ix : Nat := 0
  tag : Word16 := 0
  phase : Phase := .queued
  s1 : Word64 := 0
  s2 : Word64 := 0
  s3 : Word64 := 0
  err : Option Word32 := none
  susp : Bool := false
  resid : Bool := false
  d1 : Option Token := none
  d2 : Option Token := none
  outs : List OutLoc := []
  /-- Waits for SEND_ACK, a collective or a check before it can complete. -/
  held : Bool := false
  msg : Nat := 0
  /-- The window as it was when the unit started the operation: descriptors, CVDs and VJDs are read from it (R223). -/
  ctl : List Host.Cell := []
  ctlPoison : Tab Policy := []
  /-- Groups, with the key of its pass, whose verdict it awaits before its buffer is free (HOLD, R111). -/
  hold : List (Group × Nat) := []
  deriving DecidableEq, Repr

/-- A LACC buffer (R81, R88, R486, R487): elements row by row, none for NaN; T3 elements hold FP32 bits. A pair is held
in buffer 0 of its array. -/
structure Lacc where
  data : Bool := false
  frame : Int := 0
  fmtA : Nat := 0
  fmtB : Nat := 0
  paired : Bool := false
  t3 : Bool := false
  closed : Bool := false
  m : Nat := 0
  n : Nat := 0
  kcount : Nat := 0
  elems : List (Option Int) := []
  /-- The residue modulo 127 stored beside each element (R81, R100); a NaN element stores 127. T3 elements have none. -/
  res : List (BitVec 7) := []
  scales : Option (List Word32 × List Word32) := none
  susp : Bool := false
  /-- The suspect mark comes from a residue mismatch (R101). -/
  resid : Bool := false
  /-- Groups that feed the sum (R137, R138). -/
  feeds : List Group := []
  deriving DecidableEq, Repr

/-- The LACC buffers of arrays A and B (held per virtual core, log 7). -/
structure LaccSet where
  a0 : Lacc := {}
  a1 : Lacc := {}
  b0 : Lacc := {}
  b1 : Lacc := {}
  deriving DecidableEq, Repr

/-- Where issue stands: just after a top-level RET or a YIELD, which are routine boundaries (R247), or elsewhere. -/
inductive Stand where
  | inside | afterRet | afterYield
  deriving DecidableEq, Repr

/-- A virtual core (R213) and its operations. -/
structure Vcore where
  core : Nat := 0
  slot : Nat := 0
  bank : Bool := false
  p : Tab Word64 := []
  k : Tab Counter := []
  cmp : BitVec 4 := 0
  rstack : List Pos := []
  pos : Pos := {}
  queues : Tab (List QSlot) := []
  /-- Arrival tokens behind Q2 (R336). -/
  arrivals : List Token := []
  winSize : Nat := 0
  /-- The window's base within the scratchpad of the logical core (R213, R214). -/
  winBase : Nat := 0
  win : List Host.Cell := []
  winPoison : Tab Policy := []
  jseed : Word64 := 0
  step : Word64 := 0
  replay : Nat := 0
  /-- Past END, waiting for its patch slot (R240). -/
  waitPatch : Bool := true
  /-- Whether it has applied the patch slot of its current replay. -/
  applied : Bool := false
  ops : List UOp := []
  nextOp : Nat := 1
  /-- Control tokens held while Q0 is full, and the step for which 0x7005 was last raised (R220). -/
  held : List Token := []
  held7005 : Option Word64 := none
  lacc : LaccSet := {}
  /-- A HALTED token is in force (R220, R257). -/
  haltPend : Bool := false
  /-- A recovery save is due at the next END (R418). -/
  saveDue : Bool := false
  stand : Stand := .inside
  /-- A reloaded bank waits for this virtual core (R250): whether its own code section changed. -/
  swapDue : Option Bool := none
  /-- While an operation runs, the window that it reads its control data from (R223). -/
  ctl : Option (List Host.Cell × Tab Policy) := none
  deriving DecidableEq, Repr

/-! ### Contexts and images -/

/-- State of a context, coded as in CTX_QUERY (R385). -/
inductive CtxState where
  | loaded | running | halted | stopped
  deriving DecidableEq, Repr

/-- A loaded image, its sections resolved for each virtual core (R251, R488). -/
structure Image where
  crc : Word32 := 0
  t3 : Bool := false
  nvc : Nat := 0
  code : Tab (List Word64) := []
  routines : Tab (List Word64) := []
  pinit : Tab (List (Nat × Word64)) := []
  scratch : Tab (List (Nat × List Byte)) := []
  qinit : Tab (List (Nat × Word64)) := []
  window : Tab Nat := []
  deriving DecidableEq, Repr

/-- A context (R28, R385). -/
structure Ctx where
  part : Nat
  st : CtxState := .loaded
  job : Word16 := 0
  image : Image := {}
  patchBase : Nat := 0
  patchN : Nat := 1
  clusters : Word32 := 0
  regions : List (Nat × Nat) := []
  /-- Recovery saves are taken (R418), and the two latest of each virtual core. -/
  rcv : Bool := false
  saves : Tab (List Vcore) := []
  /-- Deep-tier regions that firmware reserved for them. -/
  rcvRegions : List Nat := []
  patches : Tab (List Byte) := []
  vcs : Tab Vcore := []
  /-- CTX_SAVE in progress: who asked, STOP, the save area, virtual cores saved, bytes written (R385). -/
  saving : Option (Origin × Bool × Nat × List Nat × Nat) := none
  /-- CTX_DESTROY in progress: who asked (R385). -/
  destroying : Option Origin := none
  deriving DecidableEq, Repr

/-! ### Cores and clusters -/

/-- A logical core's register block and its place (R66, R105 to R107, R144, R145, R210, R261, R262, R432, R433). -/
structure Core where
  arrCtl : Word32 := 0x5
  resErr : Word32 := 0
  arrNf : Word32 := 0
  cvtNf : Word32 := 0
  vecNf : Word32 := 0
  rbcnt : Word64 := 0
  /-- MX blocks that imports requantised: the import count of R70 (log 41). -/
  requant : Nat := 0
  lastv : Option (BitVec 3) := none
  issFault : Word64 := 0
  issCtl : Word64 := 0x3E8
  gevals : BitVec 48 := 0
  tseed : Word64 := 0
  tstream : Word32 := 0
  tidx : Word64 := 0
  tstep : Word64 := 0
  progress : Word32 := 0
  /-- PROGRESS at the last beat mark, and whether work was queued there (R409). -/
  progAt : Word32 := 0
  workAt : Bool := false
  stallb : BitVec 4 := 0
  parErr : Bool := false
  parSrc : BitVec 3 := 0
  parCtx : Option Nat := none
  falseRes : Word16 := 0
  /-- Slots that hold a virtual core, the slot issuing, and the PT at which it took the core (R213, R248). -/
  slots : Tab VRef := []
  issuing : Option Nat := none
  took : Nat := 0
  /-- Window offsets of the last operand of each unit class (R415). -/
  last : Tab Nat := []
  /-- The suspect whose turn it is (R417). -/
  isol : Option Nat := none
  deriving DecidableEq, Repr

/-- What CORE_MAP holds of a logical core (R432); marks with the nanosecond at which each was made (R407). -/
structure CoreMap where
  marks : List Nat := []
  quar : Bool := false
  /-- The spare, 0 to 31, that backs the core; none is the core as manufactured (log 14). -/
  spare : Option Nat := none
  deriving DecidableEq, Repr

/-- A cluster's update engine (R66, R189, R409). -/
structure Cluster where
  updNf : Word32 := 0
  busy : Option Nat := none
  waitpc : Bool := false
  armedCnt : Word16 := 0
  reframes : Word16 := 0
  records : Nat := 0
  recordsAt : Nat := 0
  workAt : Bool := false
  stallb : BitVec 4 := 0
  deriving DecidableEq, Repr

/-! ### Partitions -/

/-- The registers of the job configuration (R130, R187). -/
structure JobCfg where
  numThr : Word64 := 0x0003800802900010
  cmtCtl : Word64 := 0x0000006401080000
  cmtLead : Word32 := 0x00030D40
  gradDl : Word32 := 0
  gclip : Word32 := 0
  ssrBase : BitVec 48 := 0
  ltBase : BitVec 48 := 0
  nlayers : BitVec 13 := 0
  deriving DecidableEq, Repr

/-- A contribution held by FOLD (R183, R340). -/
structure HeldSeg where
  group : Nat
  bucket : Nat
  seg : Nat
  rank : Nat
  data : List Byte
  poison : List (Nat × Policy)
  /-- The step in which it was late. -/
  step : Word64
  deriving DecidableEq, Repr

/-- The attempt that a commit unit is working on (R175 to R181, R420). -/
structure Attempt where
  isOpen : Bool := false
  openAt : Nat := 0
  gradClosed : Bool := false
  normIn : Bool := false
  /-- none until evaluated, then whether it opened (R173). -/
  gate : Option Bool := none
  /-- Layers whose write stream has landed, and layers refused under R174. -/
  passed : List Nat := []
  refused : List Nat := []
  readySent : Bool := false
  abortSent : Bool := false
  resetHit : Bool := false
  commit : Option Nat := none
  resumeDue : Bool := false
  openMsg : Option Nat := none
  /-- Consecutive abandonments of this step. -/
  consec : Nat := 0
  /-- At the leader: messages of this attempt, and whether it has decided. -/
  ready : List Member := []
  resume : List Member := []
  decided : Bool := false
  /-- Events 0x3201 and 0x3202 already raised in this step. -/
  folded : Bool := false
  dropped : Bool := false
  deriving DecidableEq, Repr

/-- The commit unit of a partition (R147, R169, R184, R187, R188). -/
structure Commit where
  stepC : Word64 := 0
  attempt : Word16 := 0
  /-- The attempt that committed the last step. -/
  lastAtt : Word16 := 0
  abandons : Word16 := 0
  why : BitVec 4 := 0
  halted : Bool := false
  tLast : Word64 := 0
  sel : BitVec 4096 := 0
  armed : BitVec 4096 := 0
  /-- Norm accumulator of this member (R169). -/
  accT : BitVec 256 := 0
  accNf : Bool := false
  accOv : Bool := false
  /-- Norm total of the pod (R170), by ranks received. -/
  totT : BitVec 256 := 0
  nonfin : Bool := false
  ovr : Bool := false
  partials : List Nat := []
  gnorm : Word32 := 0
  gnV : Bool := false
  clipf : Word32 := 0x3F800000
  folded : Word32 := 0
  dropped : Word32 := 0
  contrib : Word32 := 0
  frozenRef : Word32 := 0
  contribB : Tab Word32 := []
  held : List HeldSeg := []
  /-- Members of other modules that this unit has heard from (log 17). -/
  peers : List Member := []
  att : Attempt := {}
  deriving DecidableEq, Repr

/-- A preconditioner refresh (R167, R168): the step of its snapshot and the blocks done. -/
structure Refresh where
  layer : Nat
  step : Word64
  snapped : Bool := false
  nextBlock : Nat := 0
  done : Bool := false
  /-- Refreshed matrices Q_j, FP32 row by row. -/
  qs : List (List Word32) := []
  late : Bool := false
  deriving DecidableEq, Repr

/-- Telemetry registers of a partition (R142) and what R140 keeps per step. -/
structure Telem where
  base : BitVec 48 := 0
  log2 : BitVec 5 := 0x0A
  head : Word32 := 0
  tail : Word32 := 0
  lost : Word32 := 0
  accBase : BitVec 48 := 0
  /-- Events raised in this step for dropped additions (R140). -/
  ev2001 : Bool := false
  /-- Accumulator entries added to since they were last cleared, rising (R140; log 33). -/
  touched : List Nat := []
  /-- Entries whose additions were dropped in this step, each counted once in TEL_LOST (R140). -/
  dropped : List Nat := []
  /-- The sticky flags that firmware copied with the last step's records (R67, log 41): the step, and the registers by engine. -/
  flags : Word64 × Tab Word32 := (0, [])
  /-- Step, attempt and outcome whose records are to be written (R140). -/
  due : Option (Word64 × Word16 × Bool) := none
  deriving DecidableEq, Repr

/-- Safety Net and recovery registers of a partition (R434). -/
structure PartSn where
  en : Bool := true
  log2frac : BitVec 5 := 8
  all : Bool := false
  pending : Word16 := 0
  checks : Word32 := 0
  base : BitVec 48 := 0
  size : Word16 := 0
  rcvCtl : BitVec 2 := 2
  /-- SNET_SET value for the next step (R383). -/
  next : Option (Bool × BitVec 5) := none
  deriving DecidableEq, Repr

/-- A configuration swap that waits for its beat (R386). -/
structure SwapPend where
  beat : Nat
  origin : Origin
  deriving DecidableEq, Repr

/-- A partition (R25, R363). -/
structure Part where
  exist : Bool := false
  clusters : Word32 := 0
  idle : Bool := false
  view : Bool := false
  swap : Option SwapPend := none
  active : JobCfg := {}
  shadow : JobCfg := {}
  cmt : Commit := {}
  refreshes : List Refresh := []
  tel : Telem := {}
  refused : Word16 := 0
  poisonc : Word16 := 0
  nrp : Word32 := 0
  sn : PartSn := {}
  /-- Loadable routines resident (R246). -/
  routines : Tab (List Word64) := []
  /-- A reset that spans the partition is in progress (R462). -/
  inReset : Bool := false
  /-- The suspect of an update engine's fault whose turn it is (R416, R417). -/
  isol : Option Nat := none
  deriving DecidableEq, Repr

/-! ### Memory (R263 to R302) -/

/-- MEMP_STAT of a part (R299), and whether 0x2101 was raised in this beat (R286). -/
structure MemPart where
  temp : Int := 0
  rmul : BitVec 2 := 0
  t3on : Bool := false
  fenced : Bool := false
  spared : Bool := false
  t3lim : Byte := 0
  ce : BitVec 24 := 0
  ue : Word16 := 0
  ceRaised : Bool := false
  deriving DecidableEq, Repr

/-- A memory with the poison of its 32-byte granules. -/
structure PMem where
  bytes : List Host.Cell
  poison : Tab Policy
  deriving DecidableEq, Repr

/-- Where a Pantry line is held (R278, R280, log 16): the base die, the banks on it (those of a partition, 64 the common pool, 65 the
one cache of HINTED mode), the bank among them and the set in the bank. -/
structure PantryPlace where
  die : Nat
  banks : Nat
  bank : Nat
  set : Nat
  deriving DecidableEq, Repr

/-- A Pantry line (R280, R284) of a region of `owner`; `tier` and `faults` are what the part holds behind a line that was written. -/
structure PLine where
  line : Nat
  owner : Nat
  place : PantryPlace
  keep : Bool := false
  discard : Bool := false
  tier : Option PMem := none
  faults : Tab Syndrome := []
  deriving DecidableEq, Repr

/-- The memory system. -/
structure MemSys where
  bytes : List Host.Cell := []
  poison : Tab Policy := []
  /-- Failed symbols that no read has found yet (R287, log 6). -/
  latent : Tab Syndrome := []
  region : Tab Word64 := []
  /-- Regions waiting to be cleared (R271). -/
  clearing : List Nat := []
  /-- REGION_SET commands that complete when their regions are clear: who asked, first region, count. -/
  clearFor : List (Origin × Nat × Nat) := []
  parts : Tab MemPart := []
  ctl : Word64 := 0x11801
  ready : Bool := false
  pcspared : Byte := 0
  rgnSel : BitVec 19 := 0
  ue : Word64 := 0
  nrp : BitVec 48 := 0
  hinted : Bool := true
  trans : Bool := false
  bspared : Byte := 0
  share : Tab Word64 := []
  /-- Firmware-private scratch banks of each base die: the sample store holds one (R282, R300). -/
  fwBanks : Nat := 1
  /-- Lines present, most recently used first. -/
  lines : List PLine := []
  deriving DecidableEq, Repr

/-! ### Fabric and Pod Time (R303 to R351) -/

/-- State of a link, coded as LINK_STAT.STATE (R348). -/
inductive LinkState where
  | off | train | up | down
  deriving DecidableEq, Repr

/-- A link (R303 to R312, R348). -/
structure Link where
  st : LinkState := .off
  spareIn : Bool := false
  spared : BitVec 2 := 0
  /-- The spare lane carries no light (R304). -/
  spareDark : Bool := false
  trunk : Bool := false
  wireErr : Bool := false
  peer : Option (Nat × Nat) := none
  /-- Serial number and time-master priority that the peer reported (R307). -/
  peerSerial : Nat := 0
  peerPrio : Nat := 0
  replays : Word16 := 0
  crcErr : Word16 := 0
  en : Bool := true
  ptEn : Bool := true
  /-- Next sequence number to send, next expected, and the last that the peer acknowledged. -/
  txSeq : BitVec 12 := 0
  rxSeq : BitVec 12 := 0
  ackSeq : BitVec 12 := 0
  /-- Sequenced flits not yet acknowledged, oldest first (R311). -/
  replay : List (BitVec 2048) := []
  /-- Flits that wait for a credit or a place in the replay buffer, oldest first, each with the link in whose receive buffer it lies. -/
  txq : List (Option Nat × BitVec 2048) := []
  /-- Flits sent of each VC in the running round, and flits of other VCs since the last of VC3 (R313). -/
  served : Tab Nat := []
  since3 : Nat := 15
  /-- Instants of the errors attributed to each physical lane in the last millisecond (R305). -/
  laneErr : Tab (List Nat) := []
  /-- Consecutive failed transmissions of the oldest flit, and the instants of the replays of the last millisecond. -/
  fails : Nat := 0
  replayAt : List Nat := []
  /-- Flits received since the last acknowledgement, and whether NAK is due. -/
  unacked : Nat := 0
  nak : Bool := false
  /-- Credits held for each VC, and slots to return (R312). -/
  credits : Tab Nat := []
  toReturn : Tab Nat := []
  /-- The light of the fibre was lit at the last look (R452). -/
  lit : Bool := false
  idle : Bool := false
  deriving DecidableEq, Repr

/-- An optical engine (R349). -/
structure Optic where
  laserOk : BitVec 6 := 0
  spareUsed : Bool := false
  spared : BitVec 3 := 0
  temp : Int := 0
  /-- PT of the last laser event: lane decisions wait for 2 ms (R304). -/
  eventAt : Option Nat := none
  deriving DecidableEq, Repr

/-- A collective group (R337); members are (device, context, virtual core) in rank order. -/
structure CGroup where
  owner : Nat
  rank : Nat
  members : List (Nat × Nat × Nat)
  /-- CGROUP_CLEAR waits for the group's last COLL (R382). -/
  clearing : Option Origin := none
  deriving DecidableEq, Repr

/-- A collective in progress at this rank (R339): what has landed, and what the result still needs. -/
structure Coll where
  v : VRef
  op : Nat
  group : Nat
  desc : BitVec 512
  step : Word64
  attempt : Word16
  rank : Nat
  size : Nat
  /-- The deadline that its attempt gave it, once that attempt is abandoned (R340). -/
  due : Option Nat := none
  closed : Bool := false
  /-- This rank's segment is reduced, and the instruction's result has landed. -/
  reduced : Bool := false
  done : Bool := false
  /-- Contributions to this rank's segment, by rank, with their poisoned granules. -/
  contrib : Tab (List Byte × List (Nat × Policy)) := []
  /-- Segments that have landed, by rank. -/
  segs : Tab (List Byte × List (Nat × Policy)) := []
  /-- Norm partials, by rank. -/
  sums : Tab (BitVec 256 × Bool × Bool) := []
  lost : List Nat := []
  /-- Refused by the owner of a segment: the ranks' EXACT records differ (R338). -/
  differ : Bool := false
  deriving DecidableEq, Repr

/-- A SEND awaiting its acknowledgement (R334). -/
structure SendWait where
  msgid : Nat
  v : VRef
  op : Nat
  at_ : Nat
  dst : Nat
  deriving DecidableEq, Repr

/-- A Starter receive table entry (R344, R382): slots A and B as (first region, count), the step each is complete for,
and the current slot. -/
structure StarterRx where
  a : Nat × Nat
  b : Nat × Nat
  aStep : Option Word64 := none
  bStep : Option Word64 := none
  current : Option Bool := none
  deriving DecidableEq, Repr

/-- The Starter mirror (R343 to R345, R350). -/
structure Starter where
  buddy : BitVec 12 := 0
  en : Bool := false
  every : Byte := 1
  bw : Word16 := 0
  /-- STARTER_SET value for the next commit instant (R382). -/
  next : Option Word64 := none
  /-- Step being mirrored, by partition. -/
  busy : Tab Word64 := []
  suspended : Bool := false
  abandoned : Word16 := 0
  last : Word64 := 0
  /-- Whether the next mirror writes slot B: the slot that does not hold the latest complete copy (R344). -/
  toB : Bool := false
  rx : Tab StarterRx := []
  deriving DecidableEq, Repr

/-- A message that the module sends. -/
inductive OutMsg where
  /-- A 256-byte flit on a link (R309). -/
  | flit (link : Nat) (f : BitVec 2048)
  | ready (p : Member) (step : Word64) (attempt : Word16)
  | abort (p : Member) (step : Word64) (attempt : Word16) (reason : Nat)
  | commit (cgid : Word16) (step : Word64) (attempt : Word16) (tc : Word64)
  | abandon (cgid : Word16) (step : Word64) (attempt : Word16) (reason : Nat)
  | resume (p : Member) (step : Word64) (attempt : Word16)
  | open_ (cgid : Word16) (step : Word64) (attempt : Word16) (topen : Word64)
  | send (dst : Nat) (m : SendMsg)
  | sendAck (dst msgid : Nat) (refused : Bool)
  | coll (dst ctx vc : Nat) (m : CollMsg)
  | normsum (m : NormMsg)
  | starter (dst : Nat) (f : StarterFlit)
  | starterConfirm (dst : Nat) (step : Word64)
  | starterCopy (dst : Nat) (step : Word64)
  /-- What this end of a training link sends (R307), and the signal that a lane has failed (R305). -/
  | training (link : Nat) (p : Peer)
  | laneFailed (link lane : Nat)
  /-- A flit of another module's message that a link did not deliver, back to that module (R316). -/
  | handBack (dst : Nat) (f : BitVec 2048)
  /-- A CTRL exchange with the upstream neighbour (R330), and a member's REF_OK for the leader (R329). -/
  | timeExchange (link : Nat)
  | refState (dev : Nat) (ok : Bool)
  | linkList (dev serial : Nat) (links : List LinkEnd)
  /-- Tables for a member: routes, multicast groups, its upstream link on the time tree, and the time master (R322, R328). -/
  | routes (dst : Nat) (routes : List (Nat × Word32)) (mcast : List (Nat × BitVec 128)) (up : Option Nat) (tm : Nat)
  | routesAck (dst : Nat)
  | podUp (members : List Nat) (pt : Word64)
  | heartbeat (dev : Nat)
  | beatChange (period : Word32) (origin : Word64) (beat : Word64)
  /-- A route summary over the trunk `link` of member `via` (R326). -/
  | routeSummary (via link : Nat) (devices : List Nat)
  | mgmt (slot : Nat) (m : MgmtMsg)
  | failed (dev : Nat)
  /-- PlatformEventMessage (R391). -/
  | pldmEvent (rec : BitVec 256)
  deriving DecidableEq, Repr

/-- The fabric block (R347) and what discovery keeps (R322 to R326). -/
structure Fabric where
  slot : BitVec 6 := 0
  pod : BitVec 6 := 0
  /-- POD in the persistent settings, in force from the next device reset (R319). -/
  podNext : BitVec 6 := 0
  stdwire : Bool := true
  members : BitVec 7 := 0
  podup : Bool := false
  leader : BitVec 12 := 0
  tm : BitVec 12 := 0
  /-- A time master has been elected (R328), and the members known to have REF_OK set (R329). -/
  tmKnown : Bool := false
  refs : List Nat := []
  arb : Word64 := 0x40040286
  sendTmo : BitVec 24 := 0x2710
  route : Tab Word32 := []
  mcast : Tab (BitVec 128) := []
  upstream : Option Nat := none
  links : Tab Link := []
  optics : Tab Optic := []
  groups : Tab CGroup := []
  colls : List Coll := []
  /-- Contributions, each with the PT at which it landed, and norm partials that landed before this member issued its COLL. -/
  early : List (VRef × CollMsg × Nat) := []
  earlySums : List (VRef × NormMsg) := []
  sends : List SendWait := []
  nextMsg : Word16 := 0
  topo : Tab (List LinkEnd) := []
  /-- Serial numbers of the modules heard, by device id (R323). -/
  serials : Tab Nat := []
  memberList : List Nat := []
  /-- Modules that join an UP pod (R324), and heartbeats that a member has missed (R325). -/
  joining : List Nat := []
  missed : Tab Nat := []
  /-- Device ids reported twice, kept out of the pod (R323). -/
  excluded : List Nat := []
  summaries : Tab (List Nat) := []
  starter : Starter := {}
  /-- Flits delivered within the module and not yet taken, each with the link in whose receive buffer it lies (R312, R315). -/
  arrived : List (Option Nat × BitVec 2048) := []
  /-- SEND messages of which flits have landed, and those landed in full that wait for room at their target, with the receive buffer slot
  that each holds (R334, R336). -/
  asm : List SendMsg := []
  inbox : List (SendMsg × Option (Nat × Nat)) := []
  /-- Messages handed to the links and not yet acknowledged in full (R316). -/
  kept : List (List (BitVec 2048)) := []
  /-- CTRL, COLL and MGMT flits delivered (R315). -/
  delivered : List (BitVec 2048) := []
  out : List OutMsg := []
  deriving DecidableEq, Repr

/-- A beat change that waits for its mark (R332, R382). -/
structure BeatPend where
  period : Word32
  origin : Word64
  beat : Nat
  who : Option Origin
  deriving DecidableEq, Repr

/-- Pod Time (R327 to R333, R350). -/
structure Time where
  pt : Word64 := 0
  /-- Nanoseconds since power-up on the internal oscillator (R374). -/
  up : Word64 := 0
  valid : Bool := false
  lock : Bool := false
  holdover : Bool := false
  refOk : Bool := false
  syncOk : Bool := false
  isTm : Bool := false
  offset : Word16 := 0
  /-- Correction still to be slewed in, in ns (R327). -/
  slew : Int := 0
  lastExchange : Nat := 0
  tmSrc : BitVec 2 := 0
  tmPrio : Byte := 0x80
  syncNext : Word64 := 0
  syncPeriod : Word64 := 0x3B9ACA00
  beatPeriod : Word32 := 0x00989680
  beatOrigin : Word64 := 0
  beatNum : Word64 := 0
  /-- PT of the last beat mark (R332). -/
  lastMark : Nat := 0
  beatPend : Option BeatPend := none
  alm : Tab Word64 := []
  arm : Word16 := 0
  fired : Word16 := 0
  deriving DecidableEq, Repr

/-! ### Host interface (R352 to R378) -/

/-- An event as raised (R374). -/
structure Event where
  code : Word16
  part : Option Nat
  ctx : Option Nat
  data : BitVec 128
  ptv : Bool
  pt : Word64
  deriving DecidableEq, Repr

/-- A finished command's completion (R370). -/
structure Done where
  cid : Word16
  status : Byte
  result : Word64
  deriving DecidableEq, Repr

/-- A command ring and its completion ring (R368 to R373). -/
structure Ring where
  base : Word64 := 0
  cplBase : Word64 := 0
  log2 : BitVec 4 := 6
  en : Bool := false
  ien : Bool := false
  imod : Word16 := 0
  stopped : Bool := false
  sqHead : Word32 := 0
  cqTail : Word32 := 0
  prod : Word32 := 0
  cons : Word32 := 0
  /-- The doorbells that its commands came with: the producer index written, and the doorbell's number (R372). -/
  bells : List (Word32 × Nat) := []
  /-- Commands fetched and not completed; the first executes. -/
  fetched : List Entry := []
  /-- The first command runs and completes later. -/
  running : Bool := false
  done : Option Done := none
  /-- How many of the fetched commands complete without an entry, for a RESET of the channel (R368). -/
  drop : Nat := 0
  deriving DecidableEq, Repr

/-- A channel (R368), with the EVENT_MASK of its function (R380). -/
structure Chan where
  allpart : Bool := false
  tien : Bool := false
  evrBase : Word64 := 0
  evrLog2 : BitVec 5 := 0x0A
  evrEn : Bool := false
  evrIen : Bool := false
  evrImod : Word16 := 0
  evrHead : Word32 := 0
  evrTail : Word32 := 0
  evrLost : Word32 := 0
  /-- Records lost since the last 0x6103 (R376). -/
  lostNew : Nat := 0
  bar2Base : Word64 := 0
  maskClass : BitVec 7 := 0
  maskSev : BitVec 3 := 0
  rings : Tab Ring := []
  deriving DecidableEq, Repr

/-- An MSI-X vector: masked, pending, and a message waiting for its IMOD (R377, R378). -/
structure Vec where
  masked : Bool := false
  pend : Bool := false
  moderated : Bool := false
  lastAt : Option Nat := none
  deriving DecidableEq, Repr

/-- A PCIe function (R352 to R356, R365). -/
structure Fn where
  enabled : Bool := false
  bme : Bool := false
  d3 : Bool := false
  msixEn : Bool := false
  /-- BAR2 window as a power of two of GiB, 0 to 6 (R365). -/
  bar2Log2 : Nat := 0
  chans : Tab Chan := []
  vecs : Tab Vec := []
  deriving DecidableEq, Repr

/-- What a host read returned (R362, R366): data bytes, a poisoned TLP, or an Unsupported Request. -/
inductive Reply where
  | data (bs : List Byte) (ep : Bool)
  | unsupported
  | mgmt (bs : List Byte)
  deriving DecidableEq, Repr

/-- The registers of configuration space that hold fixed values (R352, R353). Nothing writes them. -/
structure CfgIds where
  classCode : BitVec 24 := 0x120000
  revision : Byte := 0xB1
  device : Word16 := 0x7A40
  vfDevice : Word16 := 0x7A41
  vendor : Word16 := Config.vendorId
  subsystemVendor : Word16 := Config.vendorId
  totalVfs : Word16 := 32
  firstVfOffset : Word16 := 1
  vfStride : Word16 := 1
  /-- Maximum payload size and maximum read request size, in bytes, and the tag bits. -/
  maxPayload : Nat := 512
  maxReadRequest : Nat := 4096
  tagBits : Nat := 14
  deriving DecidableEq, Repr

/-- The host interface. -/
structure HostIf where
  /-- Fixed registers of configuration space (R353). -/
  ids : CfgIds := {}
  fns : Tab Fn := []
  /-- Host memory, outside the module (log 4), and its poisoned granules. -/
  bytes : List Host.Cell := []
  raised : List Event := []
  /-- MSI-X messages sent: (function, vector). -/
  msix : List (Nat × Nat) := []
  reply : Option Reply := none
  /-- Host granules that the module wrote with poisoned TLPs. -/
  poisonOut : List Nat := []
  /-- Configuration space answers without Retry Status (R457), and the link is training. -/
  cfgReady : Bool := false
  training : Bool := false
  perst : Bool := false
  /-- A conventional or hot reset that waits for the module to leave CAROUSEL (R463). -/
  resetDue : Bool := false
  /-- Commands that arrived over a remote channel, by ring (R367). -/
  remote : Tab (List Entry) := []
  remoteRunning : List Nat := []
  /-- The number of the next doorbell or message that brings commands, and those of the commands in `remote` (R372). -/
  bellNo : Nat := 0
  remoteBells : Tab (List Nat) := []
  deriving DecidableEq, Repr

/-! ### Management, test access, reliability, power -/

/-- Contents of an image slot (R387, R389): the image that the module ships with, nothing, or staged bytes that have
verified. -/
inductive FwSlot where
  | shipped
  | empty
  | staged (bytes : List Byte)
  deriving DecidableEq, Repr

/-- Firmware, out-of-band management and test access (R364, R387 to R392, R476 to R480). -/
structure Mgmt where
  fwstate : BitVec 4 := 0
  slot : Bool := false
  rmcore : Bool := false
  standbyOk : Bool := false
  rstOnPerst : Bool := false
  fwver : Word32 := 0
  rmHb : Word64 := 0
  bootrom : Bool := true
  ready : Bool := false
  /-- Image slots A and B (R387, R389). -/
  imgA : FwSlot := .shipped
  imgB : FwSlot := .shipped
  /-- Descriptor (R387). -/
  preferB : Bool := false
  minSvn : Nat := 0
  /-- Staging session: who opened it and the bytes so far (R389). -/
  staging : Option (Origin × List Host.Cell) := none
  smbAddr : Byte := 0x4D
  eid : Byte := 0
  tid : Byte := 0
  evtReceiver : Byte := 0
  jtagEn : Bool := false
  obsEn : Bool := false
  sel : Word16 := 0
  selSrc : Bool := false
  tapIr : Byte := 1
  tapDr : Nat := 0
  /-- Boundary-scan cells, and whether they drive, hold or float the pins. -/
  scan : Nat := 0
  scanMode : BitVec 2 := 0
  /-- The pins DBG_OBS (R479, R480): none is high impedance. -/
  obs : Option Word16 := none
  thermtrip : Bool := false
  deriving DecidableEq, Repr

/-- A Safety Net check (R400 to R406). -/
structure Check where
  id : Nat
  part : Nat
  ctx : Option Nat
  /-- The original core, or the cluster whose engine made the pass, with its layer. -/
  core : Nat
  layer : Option Nat := none
  suspect : Bool := false
  resid : Bool := false
  /-- The original's results: the bytes at `outs`, then the record of the buffer, then what its feeding groups came to (R402). -/
  a : List Byte := []
  outs : List OutLoc := []
  vref : Option VRef := none
  op : Option Nat := none
  started : Bool := false
  /-- Where the computation runs, and the result and place of B: check core i is spare i, a spare update engine is 256 plus
  its die, and an enabled one 300 plus its cluster. -/
  on : Option Nat := none
  b : Option (List Byte) := none
  bOn : Option Nat := none
  /-- Check cores whose computation was discarded (R430). -/
  avoid : List Nat := []
  /-- The groups that its output makes, with the key of the pass: it waits for their final verdicts (R32). -/
  waits : List (Group × Nat) := []
  /-- It waits for its attempt to be abandoned (R405, R406). -/
  closing : Bool := false
  deriving DecidableEq, Repr

/-- A repair record entry (R422). -/
structure Repair where
  kind : Nat
  action : Nat
  logical : Nat
  physical : Nat
  cause : Word16
  life : Nat
  deriving DecidableEq, Repr

/-- Marks of a check core (R399, R407); check core i is spare i, eight to a die. -/
structure CheckCore where
  quar : Bool := false
  marks : List Nat := []
  deriving DecidableEq, Repr

/-- Reliability (R431) and the firmware's records. -/
structure Rel where
  ctl : Word64 := 0x0000000200180042
  rstScope : BitVec 3 := 0
  rstBusy : Bool := false
  rstFailed : Bool := false
  rstTarget : Byte := 0
  rstDur : Word32 := 0
  rstCount : Word16 := 0
  /-- Resets requested and not yet performed: scope, target, who asked (R411, R414). -/
  rstQueue : List (Nat × Nat × Option Origin) := []
  missed : Word16 := 0
  failovers : Word16 := 0
  checksN : Word32 := 0
  disagree : Word32 := 0
  majority : Word32 := 0
  threeway : Word16 := 0
  skipped : Word16 := 0
  alias_ : BitVec 12 := 0
  aliasV : Bool := false
  aliasCtx : Tab Byte := []
  lostId : BitVec 12 := 0
  phase : BitVec 3 := 0
  mib : Word32 := 0
  checkCores : Tab CheckCore := []
  /-- Spare cores that are no check cores any more, and dies whose spare update engine backs a cluster. -/
  spareUsed : List Nat := []
  engUsed : BitVec 4 := 0
  /-- Update engines that failed a field test, retired at the next reset that covers them (R424). -/
  engQuar : Word32 := 0
  retired : Nat := 0
  checks : List Check := []
  nextCheck : Nat := 1
  samples : Tab (List Byte) := []
  repair : List Repair := []
  failed : Bool := false
  /-- Contexts awaiting recovery (R419) and suspects awaiting isolation, by core, or by 256 plus cluster for an update
  engine (R416, R417). -/
  recover : List Nat := []
  suspects : Tab (List Nat) := []
  lifeBase : Nat := 0
  deriving DecidableEq, Repr

/-- VCORE_STAT of a die (R464), and the dip in progress (R438). -/
structure Vrail where
  dips : Word16 := 0
  vresets : Word16 := 0
  minmv : Word16 := 0
  below : Bool := false
  window : Bool := false
  /-- At its reset level, the PT of the event (R440). -/
  resetAt : Option Nat := none
  deriving DecidableEq, Repr

/-- Power states, coded as in POWER_STATE (R448). -/
inductive PState where
  | run | idle | hold | carousel | off
  deriving DecidableEq, Repr

/-- Power (R435 to R465). -/
structure Power where
  st : PState := .run
  /-- The state moved toward, and who asked (R449). -/
  goal : Option (PState × Option Origin) := none
  capOn : Bool := false
  thLim : Bool := false
  trip : Bool := false
  /-- Dies tripped and still at 85 °C or more (R445). -/
  hot : List Nat := []
  lastWake : BitVec 3 := 0
  /-- A PT alarm has fired and its edge has woken nothing yet (R333). -/
  alarmEdge : Bool := false
  pinW : Word16 := 0
  capW : Word16 := 0x157C
  wakeEn : BitVec 6 := 0x3F
  wakeTo : Bool := false
  carPeriod : BitVec 24 := 0x3E8
  carSamples : Word32 := 0
  tdieWarn : Byte := 0x5F
  tinWarn : Byte := 0x28
  flowWarn : Word16 := 0x1388
  rmPll : Bool := false
  lock : Byte := 0
  xoOk : Bool := false
  /-- ACLK of each die in MHz. -/
  aclk : Tab Nat := []
  rails : Tab Vrail := []
  carThr : Tab Word64 := []
  sensors : Tab Int := []
  /-- Dies above their warning threshold, and coolant sensors out of range (R445, R446). -/
  dieWarm : List Nat := []
  coolOut : List Nat := []
  /-- Carousel crossings to report once the Ringmaster runs (R454). -/
  crossings : List (Nat × Int) := []
  /-- A wake source that acted while the module was entering a state, after the entry window (R453). -/
  wakePend : Option Nat := none
  /-- Array issue idled in slices for the cap (R444). -/
  slices : Bool := false
  inputBad : Bool := false
  /-- 0x5101 already raised in this beat. -/
  inputRaised : Bool := false
  deriving DecidableEq, Repr

/-! ### Conversion contributions in flight (R122, R127, R133) -/

/-- A pass contribution on its way to a GSR (R127): tag, thresholds, counts and the maximum. -/
structure GsrMsg where
  v : VRef
  gsr : Nat
  cvd : BitVec 512
  group : Nat
  /-- Padded element count of the group and its Sideshow capacity. -/
  total : Nat
  cap : Nat
  cover : Nat
  nonzero : Nat
  clipped : Nat
  vanished : Nat
  nzblk : Nat
  floorblk : Nat
  satblk : Nat
  nanblk : Nat
  gmax : Word32
  suspect : Bool
  thr : Word64
  deriving DecidableEq, Repr

/-- A gathered maximum on its way to a TSR (R122). -/
structure TsrMsg where
  v : VRef
  tsr : Nat
  step : Word64
  attempt : Word16
  gmax : Word32
  deriving DecidableEq, Repr

/-- A group that has closed and awaits its verdict (R133). -/
structure VerdictMsg where
  v : VRef
  gsr : Nat
  cvd : BitVec 512
  group : Nat
  cap : Nat
  /-- Its events are raised: it waits for the tensor to close (R133). -/
  raised : Bool := false
  deriving DecidableEq, Repr

/-- Bytes that hold data of a decision group (R137, R138): in a window, or, with `v` none, in device memory. -/
structure Feed where
  v : Option VRef
  addr : Nat
  len : Nat
  grp : Group
  deriving DecidableEq, Repr

/-- What the passes of a group leave for later ones (R134, R136, R140), by the DA of its GSR: the base of the tensor's data plane, the
group's index, the format of the last pass, and the Rebake slot with its format, its base and the group's rows. -/
structure GroupPlace where
  base : Nat
  group : Nat
  fmt : Nat
  slot : Option (Nat × Nat × Nat) := none
  deriving DecidableEq, Repr

/-- A pass that a verdict calls for (R134): the DA of the group's GSR, and the descriptor that the pass carries. -/
structure RebakeDue where
  gsr : Nat
  cvd : BitVec 512
  deriving DecidableEq, Repr

/-- Why the attempt of a partition is to be abandoned, until ATTEMPT_ABANDON takes it (R175, R180). -/
structure AbandonMsg where
  part : Nat
  reason : Nat
  deriving DecidableEq, Repr

/-- The state of the block. -/
structure State where
  pending : List Instr := []
  cores : Tab Core := []
  maps : Tab CoreMap := []
  clusters : Tab Cluster := []
  parts : Tab Part := []
  ctxs : Tab Ctx := []
  mem : MemSys := {}
  fab : Fabric := {}
  time : Time := {}
  host : HostIf := {}
  mgmt : Mgmt := {}
  rel : Rel := {}
  pwr : Power := {}
  gsrq : List GsrMsg := []
  /-- The tensor-wide ρ of a delayed-scale tensor's last first-format pass, by its TSR, with its tag and that format: a widened pass
  keeps it (R118, R134). -/
  rhos : Tab (Word64 × Word16 × Word32 × Nat) := []
  /-- Data of decision groups, what their passes left, and the passes that verdicts call for (R134 to R138). -/
  feeds : List Feed := []
  groups : Tab GroupPlace := []
  rebakes : List RebakeDue := []
  tsrq : List TsrMsg := []
  verdicts : List VerdictMsg := []
  abandons : List AbandonMsg := []
  /-- The counter of free values (log 8). -/
  free : Nat := 0
  deriving DecidableEq, Repr

/-- The module right after reset (R10): every register at its Reset column, nothing listed in memory, no command
waiting. The module is in the boot ROM (FWSTATE 0x0); COLD_START brings it up (R456). -/
def State.reset : State := {}

end Sys2Proof.Machine
end

