-- ==== Sys2Proof/Machine/Ops.lean ====
section
/-! DEFINITION. The shared operations: sparse tables, byte memories in canonical form, poison, access checks, events,
and the reading and writing of the parts of the state. -/

namespace Sys2Proof.Machine

open Sys2Proof

/-! ### Sparse tables -/

/-- The value of a key, if listed. -/
def tget {α : Type} : Tab α → Nat → Option α
  | [], _ => none
  | (k, v) :: r, a => if k = a then some v else tget r a

/-- The value of a key, or the default. -/
def tgetD {α : Type} (t : Tab α) (a : Nat) (d : α) : α := (tget t a).getD d

/-- Set a key; keys stay in rising order. -/
def tput {α : Type} : Tab α → Nat → α → Tab α
  | [], a, v => [(a, v)]
  | (k, w) :: r, a, v => if a < k then (a, v) :: (k, w) :: r else if a = k then (a, v) :: r else (k, w) :: tput r a v

/-- Remove a key. -/
def tdel {α : Type} (t : Tab α) (a : Nat) : Tab α := t.filter (fun p => p.1 != a)

/-- Change the value of a key, from the default where it is not listed. -/
def tmod {α : Type} (t : Tab α) (a : Nat) (d : α) (f : α → α) : Tab α := tput t a (f (tgetD t a d))

/-- Apply a function to every value. -/
def tmap {α : Type} (t : Tab α) (f : Nat → α → α) : Tab α := t.map (fun p => (p.1, f p.1 p.2))

/-! ### Words -/

/-- Saturating addition to a counter (R126, R142). -/
def satInc {n : Nat} (x : BitVec n) (k : Nat := 1) : BitVec n := BitVec.ofNat n (min (x.toNat + k) (2 ^ n - 1))

/-- Bits [hi:lo] of a word as a number. -/
def fld {n : Nat} (x : BitVec n) (hi lo : Nat) : Nat := bits x.toNat hi lo

/-- Replace bits [hi:lo]. -/
def setFld {n : Nat} (x : BitVec n) (hi lo v : Nat) : BitVec n := BitVec.ofNat n (setBits x.toNat hi lo v)

/-- 1 for true. -/
def b2n (b : Bool) : Nat := if b then 1 else 0

/-- The bits of a word that a mask names, from `v`. -/
def maskWrite {n : Nat} (old v mask : BitVec n) : BitVec n := (old &&& ~~~mask) ||| (v &&& mask)

/-! ### Byte memories: an unlisted byte reads 0 (log 4) -/

/-- Canonical form: addresses rise strictly and no entry is 0. -/
def Memory.wf : List Host.Cell → Bool
  | [] => true
  | [(_, b)] => b != 0
  | (k, b) :: (k', b') :: r => b != 0 && decide (k < k') && Memory.wf ((k', b') :: r)

/-- Read one byte. -/
def memGet : List Host.Cell → Nat → Byte
  | [], _ => 0
  | (k, b) :: r, a => if k = a then b else memGet r a

/-- Write one byte. -/
def memPut : List Host.Cell → Nat → Byte → List Host.Cell
  | [], a, b => if b = 0 then [] else [(a, b)]
  | (k, c) :: r, a, b =>
    if a < k then (if b = 0 then (k, c) :: r else (a, b) :: (k, c) :: r)
    else if a = k then (if b = 0 then r else (a, b) :: r)
    else (k, c) :: memPut r a b

/-- Read `n` bytes. -/
def memBytes (m : List Host.Cell) (a : Nat) : Nat → List Byte
  | 0 => []
  | n + 1 => memGet m a :: memBytes m (a + 1) n

/-- Write a list of bytes. -/
def memPutAll (m : List Host.Cell) (a : Nat) : List Byte → List Host.Cell
  | [] => m
  | b :: bs => memPutAll (memPut m a b) (a + 1) bs

/-- Set a range of bytes to zero. -/
def memClear (m : List Host.Cell) (a n : Nat) : List Host.Cell := m.filter (fun c => !(a ≤ c.1 && c.1 < a + n))

/-- A little-endian number in memory. -/
def memNat (m : List Host.Cell) (a n : Nat) : Nat := bytesToNat (memBytes m a n)

/-! ### Poison (R287, R288) -/

/-- The stronger of two policies: PARTITION over CONTEXT over NAN (R288). -/
def Policy.join : Policy → Policy → Policy
  | .partition, _ | _, .partition => .partition
  | .context, _ | _, .context => .context
  | .nan, .nan => .nan

def joinP : Option Policy → Option Policy → Option Policy
  | none, p => p
  | p, none => p
  | some a, some b => some (Policy.join a b)

/-- A byte with the poison of the granule it came from. -/
abbrev PByte := Byte × Option Policy

/-- The strongest policy among bytes. -/
def strongest (bs : List PByte) : Option Policy := bs.foldl (fun a b => joinP a b.2) none

/-- The address of the first poisoned granule that bytes at `da` reach. -/
def poisonedAt (da : Nat) (bs : List PByte) : Nat := (da + (bs.takeWhile (fun b => b.2.isNone)).length) / 32 * 32

def PMem.read (m : PMem) (a n : Nat) : List PByte :=
  (List.range n).map (fun i => (memGet m.bytes (a + i), tget m.poison ((a + i) / 32)))

/-- Poison of granule `g` after bytes arrive at `a` (R288). -/
def granuleAfter (old : Option Policy) (g a : Nat) (bs : List PByte) : Option Policy :=
  let lo := max a (32 * g)
  let hi := min (a + bs.length) (32 * g + 32)
  let part := (bs.drop (lo - a)).take (hi - lo)
  joinP (if hi - lo = 32 then none else old) (strongest part)

def setPoison (t : Tab Policy) (g : Nat) : Option Policy → Tab Policy
  | some p => tput t g p
  | none => tdel t g

/-- The granules that `n` bytes at `a` touch. -/
def granules (a n : Nat) : List Nat := if n = 0 then [] else (List.range ((a + n - 1) / 32 - a / 32 + 1)).map (· + a / 32)

def PMem.write (m : PMem) (a : Nat) (bs : List PByte) : PMem :=
  { bytes := memPutAll m.bytes a (bs.map Prod.fst),
    poison := (granules a bs.length).foldl (fun t g => setPoison t g (granuleAfter (tget t g) g a bs)) m.poison }

/-- Bytes that carry no poison. -/
def clean (bs : List Byte) : List PByte := bs.map (fun b => (b, none))

/-! ### Parts of the state -/

def State.now (s : State) : Nat := s.time.pt.toNat

def State.core (s : State) (n : Nat) : Core := tgetD s.cores n {}
def State.modCore (s : State) (n : Nat) (f : Core → Core) : State := { s with cores := tmod s.cores n {} f }
def State.map (s : State) (n : Nat) : CoreMap := tgetD s.maps n {}
def State.modMap (s : State) (n : Nat) (f : CoreMap → CoreMap) : State := { s with maps := tmod s.maps n {} f }
def State.cluster (s : State) (n : Nat) : Cluster := tgetD s.clusters n {}
def State.modCluster (s : State) (n : Nat) (f : Cluster → Cluster) : State := { s with clusters := tmod s.clusters n {} f }
def State.part (s : State) (n : Nat) : Part := tgetD s.parts n {}
def State.modPart (s : State) (n : Nat) (f : Part → Part) : State := { s with parts := tmod s.parts n {} f }
def State.cmt (s : State) (n : Nat) : Commit := (s.part n).cmt
def State.modCmt (s : State) (n : Nat) (f : Commit → Commit) : State := s.modPart n (fun p => { p with cmt := f p.cmt })
def State.att (s : State) (n : Nat) : Attempt := (s.cmt n).att
def State.modAtt (s : State) (n : Nat) (f : Attempt → Attempt) : State := s.modCmt n (fun c => { c with att := f c.att })
def State.ctx? (s : State) (n : Nat) : Option Ctx := tget s.ctxs n
def State.putCtx (s : State) (n : Nat) (c : Ctx) : State := { s with ctxs := tput s.ctxs n c }
/-- Change a context that exists. -/
def State.modCtx (s : State) (n : Nat) (f : Ctx → Ctx) : State :=
  match tget s.ctxs n with
  | some c => s.putCtx n (f c)
  | none => s
def State.vc? (s : State) (v : VRef) : Option Vcore := (s.ctx? v.ctx).bind (fun c => tget c.vcs v.vc)
/-- Change a virtual core that exists. -/
def State.modVc (s : State) (v : VRef) (f : Vcore → Vcore) : State :=
  s.modCtx v.ctx (fun c => match tget c.vcs v.vc with
    | some x => { c with vcs := tput c.vcs v.vc (f x) }
    | none => c)
def State.link (s : State) (n : Nat) : Link := tgetD s.fab.links n {}
def State.modFab (s : State) (f : Fabric → Fabric) : State := { s with fab := f s.fab }
def State.modLink (s : State) (n : Nat) (f : Link → Link) : State :=
  s.modFab (fun b => { b with links := tmod b.links n {} f })
def State.optic (s : State) (n : Nat) : Optic := tgetD s.fab.optics n {}
def State.modOptic (s : State) (n : Nat) (f : Optic → Optic) : State :=
  s.modFab (fun b => { b with optics := tmod b.optics n {} f })
def State.modTime (s : State) (f : Time → Time) : State := { s with time := f s.time }
def State.modMem (s : State) (f : MemSys → MemSys) : State := { s with mem := f s.mem }
def State.modHost (s : State) (f : HostIf → HostIf) : State := { s with host := f s.host }
def State.modMgmt (s : State) (f : Mgmt → Mgmt) : State := { s with mgmt := f s.mgmt }
def State.modRel (s : State) (f : Rel → Rel) : State := { s with rel := f s.rel }
def State.modPwr (s : State) (f : Power → Power) : State := { s with pwr := f s.pwr }
def State.fn (s : State) (n : Nat) : Fn := tgetD s.host.fns n {}
def State.modFn (s : State) (n : Nat) (f : Fn → Fn) : State := s.modHost (fun h => { h with fns := tmod h.fns n {} f })
def State.chan (s : State) (fn ch : Nat) : Chan := tgetD (s.fn fn).chans ch {}
def State.modChan (s : State) (fn ch : Nat) (f : Chan → Chan) : State :=
  s.modFn fn (fun x => { x with chans := tmod x.chans ch {} f })
def State.ring (s : State) (fn ch r : Nat) : Ring := tgetD (s.chan fn ch).rings r {}
def State.modRing (s : State) (fn ch r : Nat) (f : Ring → Ring) : State :=
  s.modChan fn ch (fun c => { c with rings := tmod c.rings r {} f })
def State.memPart (s : State) (p : Nat) : MemPart := tgetD s.mem.parts p {}
def State.modMemPart (s : State) (p : Nat) (f : MemPart → MemPart) : State :=
  s.modMem (fun m => { m with parts := tmod m.parts p {} f })
/-- Put a message into the output log. -/
def State.emit (s : State) (m : OutMsg) : State := s.modFab (fun b => { b with out := b.out ++ [m] })
/-- This module's device id (R319). -/
def State.devId (s : State) : Nat := s.fab.pod.toNat * 64 + s.fab.slot.toNat
/-- This partition as a commit-group member (R146). -/
def State.self (s : State) (n : Nat) : Member := ⟨s.devId, n⟩

/-- A value that the manual leaves open, and the state that has used it (log 8). -/
def State.fresh (s : State) : Word64 × State := (Config.freeValue s.free, { s with free := s.free + 1 })

/-! ### Contexts and partitions -/

/-- The partition of a context. -/
def ctxPart (s : State) (k : Nat) : Nat := match s.ctx? k with | some c => c.part | none => 0

/-- The contexts of a partition. -/
def partCtxs (s : State) (n : Nat) : List Nat := (s.ctxs.filter (fun p => p.2.part == n)).map Prod.fst

/-- The index step of a partition: STEP_COMMITTED + 1 (R147). -/
def curStep (s : State) (n : Nat) : Word64 := (s.cmt n).stepC + 1

/-- Whether cluster k belongs to partition n: partition 0 holds those that no partition holds (R26). -/
def holdsCluster (s : State) (n k : Nat) : Bool :=
  if n = 0 then (s.parts.filter (fun p => p.1 != 0 && p.2.exist)).all (fun p => !p.2.clusters.getLsbD k)
  else (s.part n).exist && (s.part n).clusters.getLsbD k

/-- The clusters of a partition as CLUSTERS reads (R363). -/
def clusterSet (s : State) (n : Nat) : Word32 :=
  BitVec.ofNat 32 ((List.range 32).foldl (fun a k => if holdsCluster s n k then a + 2 ^ k else a) 0)

/-- The partition that holds a cluster. -/
def clusterPart (s : State) (k : Nat) : Nat :=
  match s.parts.find? (fun p => p.1 != 0 && p.2.exist && p.2.clusters.getLsbD k) with
  | some p => p.1
  | none => 0

/-! ### Events (R374, R375) -/

/-- Raise an event: it waits for EVENT_POST. -/
def raise (s : State) (code : Nat) (part ctx : Option Nat) (data : Nat) : State :=
  s.modHost (fun h => { h with raised := h.raised ++ [{
    code := BitVec.ofNat 16 code, part := part, ctx := ctx, data := BitVec.ofNat 128 data, ptv := s.time.valid,
    pt := if s.time.valid then s.time.pt else s.time.up }] })

def data1 (layer fmt group core : Nat) (step : Word64) : Nat :=
  layer % 4096 + fmt % 16 * 2 ^ 12 + group % 2 ^ 32 * 2 ^ 16 + core % 256 * 2 ^ 48 + step.toNat * 2 ^ 64
def data2 (da part region : Nat) : Nat := da % 2 ^ 48 + part % 128 * 2 ^ 48 + region % 2 ^ 19 * 2 ^ 56
def data3 (link dev count : Nat) : Nat := link % 64 + dev % 4096 * 2 ^ 6 + count % 2 ^ 64 * 2 ^ 64
def data4 (core cluster scope : Nat) (step : Word64) : Nat :=
  core % 256 + cluster % 32 * 2 ^ 8 + scope % 8 * 2 ^ 13 + step.toNat * 2 ^ 64
def data5 (sensor : Nat) (reading : Int) (prev : Nat) : Nat :=
  sensor % 65536 + ofSigned 32 reading * 2 ^ 16 + prev % 2 ^ 64 * 2 ^ 64
def data6 (op cid status extra : Nat) : Nat := op % 65536 + cid % 65536 * 2 ^ 16 + status % 256 * 2 ^ 32 + extra % 2 ^ 64 * 2 ^ 64
def data7 (vc core fault idx : Nat) : Nat := vc % 256 + core % 256 * 2 ^ 8 + fault % 16 * 2 ^ 16 + idx % 65536 * 2 ^ 20

/-- A partition-scoped event of a context. -/
def raiseCtx (s : State) (code k data : Nat) : State := raise s code (some (ctxPart s k)) (some k) data

/-- A device-scoped event. -/
def raiseDev (s : State) (code data : Nat) : State := raise s code none none data

/-- A cause for abandonment of a member's open attempt: ABORT goes to the leader once (R175), and the reason waits for
ATTEMPT_ABANDON. -/
def causeAbandon (s : State) (n reason : Nat) : State :=
  if (s.part n).active.cmtCtl.getLsbD 16 then
    let s := { s with abandons := s.abandons ++ [⟨n, reason⟩] }
    if (s.att n).abortSent then s
    else (s.emit (.abort (s.self n) (curStep s n) (s.cmt n).attempt reason)).modAtt n (fun a => { a with abortSent := true })
  else s

/-! ### Region table and placement (R264 to R274) -/

def regionOf (da : Nat) : Nat := da / 2 ^ 25
def entry (s : State) (r : Nat) : Word64 := tgetD s.mem.region r 0
def reValid (e : Word64) : Bool := e.getLsbD 0
def reOwner (e : Word64) : Nat := fld e 6 1
def reIl (e : Word64) : Nat := fld e 9 7
def reFrozen (e : Word64) : Bool := e.getLsbD 10
def reKill (e : Word64) : Policy := match fld e 12 11 with | 0 => .context | 1 => .partition | _ => .nan
def rePhint (e : Word64) : Nat := fld e 14 13
def reEcc (e : Word64) : Nat := fld e 16 15
def reT3 (e : Word64) : Bool := e.getLsbD 17
def reZeroing (e : Word64) : Bool := e.getLsbD 18
def rePoisoned (e : Word64) : Bool := e.getLsbD 19
def reMaps (e : Word64) : Nat := fld e 39 32

/-- Write a table entry; an all-zero entry is unlisted. -/
def putEntry (s : State) (r : Nat) (e : Word64) : State :=
  s.modMem (fun m => { m with region := if e = 0 then tdel m.region r else tput m.region r e })

/-- h of R274. -/
def hashLane (x : Nat) : Nat := bits x 4 0 ^^^ bits x 9 5 ^^^ bits x 14 10 ^^^ bits x 16 15

/-- Group width of an interleave mode among `n` parts (R272). -/
def ilWidth (il n : Nat) : Nat := match il with | 0 => n | 1 => 4 | 2 => 8 | _ => 1

/-- The part and the part offset of a populated DA (R273). -/
def place (il da : Nat) : Nat × Nat :=
  let r := regionOf da
  let fast := r < 131072
  let rr := if fast then r else r - 131072
  let n := if fast then 32 else 48
  let j := rr % n
  let w := ilWidth il n
  let b := j / w * w
  let q := (j % w) * 2 ^ 25 + da % 2 ^ 25
  let g := q / 256
  let x := g / w
  let lane := (g % w + hashLane x) % w
  ((if fast then 0 else 32) + b + lane, rr / n * 0x2000000 + x * 256 + da % 256)

/-- The home part of a DA. -/
def homePart (s : State) (da : Nat) : Nat := (place (reIl (entry s (regionOf da))) da).1

/-- The base die that serves a part (R15): eight stacks and twelve packages each. -/
def partDie (p : Nat) : Nat := if p < 32 then p / 8 else (p - 32) / 12

/-- A requester of device memory (R267). -/
inductive Req where
  | part (n : Nat)
  | host (fn : Nat)
  | fw
  | starter
  deriving DecidableEq, Repr

/-- Whether the region's entry allows the requester (R267). -/
def reAllows (e : Word64) : Req → Bool
  | .fw => true
  | .part n => reValid e && reOwner e == n
  | .host fn => reValid e && (if fn = 0 then reOwner e != 0x3F else reOwner e == fn)
  | .starter => reValid e && reOwner e == 0x3E

/-- The regions that `n` bytes at `da` touch. -/
def regionsOf (da n : Nat) : List Nat :=
  if n = 0 then [] else (List.range (regionOf (da + n - 1) - regionOf da + 1)).map (· + regionOf da)

/-- The event code that refuses an access, if it is refused (R264, R267). -/
def accessRefusal (s : State) (q : Req) (da n : Nat) : Option Nat :=
  if n ≠ 0 ∧ da + n > 2 ^ 44 then some 0x2002
  else if (regionsOf da n).all (fun r => reAllows (entry s r) q) then none else some 0x2001

/-- An access to a region that is being cleared waits (R271). -/
def accessWaits (s : State) (da n : Nat) : Bool := (regionsOf da n).any (fun r => reZeroing (entry s r))

/-- Count a refused access of a partition (R301). -/
def countRefused (s : State) (n : Nat) : State := s.modPart n (fun p => { p with refused := satInc p.refused })

/-! ### Device memory -/

def State.pmem (s : State) : PMem := ⟨s.mem.bytes, s.mem.poison⟩
def State.putPmem (s : State) (m : PMem) : State := s.modMem (fun x => { x with bytes := m.bytes, poison := m.poison })

/-- Whether the part that holds a DA is fenced; a SCRATCH region lies in no part (R281, R297). -/
def fencedAt (s : State) (da : Nat) : Bool :=
  rePhint (entry s (regionOf da)) != 2 && (s.memPart (homePart s da)).fenced

/-- Read device bytes: bytes of a fenced part carry poison of policy CONTEXT (R297). -/
def devRead (s : State) (da n : Nat) : List PByte :=
  (s.pmem.read da n).mapIdx (fun i b => if fencedAt s (da + i) then (b.1, joinP b.2 (some .context)) else b)

/-- Plain bytes of device memory. -/
def devBytes (s : State) (da n : Nat) : List Byte := memBytes s.mem.bytes da n

/-- A little-endian number in device memory. -/
def devNat (s : State) (da n : Nat) : Nat := bytesToNat (devBytes s da n)

/-- A corrected error of a part (R286): counted, with event 0x2101 once in a beat where CE_EVT_EN asks for it. -/
def countCorrected (s : State) (part da r : Nat) : State :=
  let s := if part < 80 then s.modMemPart part (fun p => { p with ce := satInc p.ce }) else s
  if part < 80 && s.mem.ctl.getLsbD 16 && !(s.memPart part).ceRaised then
    (raiseDev s 0x2101 (data2 da part r)).modMemPart part (fun p => { p with ceRaised := true })
  else s

/-- MEM_UE records the first uncorrectable error (R299): its address, its part and the context of the read. -/
def recordUe (s : State) (k : Option Nat) (da part : Nat) : State :=
  if s.mem.ue.getLsbD 63 then s
  else s.modMem (fun m => { m with ue := BitVec.ofNat 64 (da % 2 ^ 48 + part * 2 ^ 48 +
    (match k with | some c => c % 64 * 2 ^ 56 + 2 ^ 62 | none => 0) + 2 ^ 63) })

/-- An uncorrectable error (R287): its granule is poisoned under its region's policy, counted, recorded, and reported by 0x2102. -/
def takeUncorrectable (s : State) (k : Option Nat) (g part : Nat) : State :=
  let da := 32 * g
  let r := regionOf da
  let e := entry s r
  let s := s.modMem (fun m => { m with poison := tput m.poison g (reKill e) })
  let s := putEntry s r (setFld e 19 19 1)
  let s := if part < 80 then s.modMemPart part (fun p => { p with ue := satInc p.ue }) else s
  raise (recordUe s k da part) 0x2102 none k (data2 da part r)

/-- Failed symbols found by a read of granule `g` (R285 to R287); `k` is the context of the read. The Pantry behaves as CORRECT; nothing
reads a fenced part (R297). -/
def discover1 (s : State) (k : Option Nat) (g : Nat) : State :=
  match tget s.mem.latent g with
  | none => s
  | some syn =>
    let e := entry s (regionOf (32 * g))
    let pan := rePhint e == 2 || s.mem.lines.any (fun l => l.line == g / 8)
    let part := if pan then 0x7F else homePart s (32 * g)
    let ecc := if pan then 0 else reEcc e
    if ecc = 2 ∨ fencedAt s (32 * g) then s
    else
      let s := s.modMem (fun m => { m with latent := tdel m.latent g })
      if syn = .one ∧ ecc = 0 then countCorrected s part (32 * g) (regionOf (32 * g))
      else takeUncorrectable s k g part

/-- Every failed symbol that a read of `n` bytes finds. -/
def discover (s : State) (k : Option Nat) (da n : Nat) : State :=
  ((s.mem.latent.map Prod.fst).filter (fun g => da / 32 ≤ g && 32 * g < da + n)).foldl (fun t g => discover1 t k g) s

/-! ### Pantry banks (R279, R281, R282, R300) -/

/-- Bytes that a region of width w takes on a base die, were its home parts those of its interleave mode (R281). -/
def bytesOnDie (r : Nat) (e : Word64) (d : Nat) : Nat :=
  let fast := r < 131072
  let rr := if fast then r else r - 131072
  let n := if fast then 32 else 48
  let w := ilWidth (reIl e) n
  ((List.range w).filter (fun i => partDie ((if fast then 0 else 32) + rr % n / w * w + i) == d)).length * (2 ^ 25 / w)

/-- Bytes of an owner's SCRATCH regions on a base die, in some region table. -/
def scratchBytes (t : Tab Word64) (owner d : Nat) : Nat :=
  (t.map (fun e => if reValid e.2 && rePhint e.2 == 2 && reOwner e.2 == owner then bytesOnDie e.1 e.2 d else 0)).sum

/-- Firmware-private scratch banks of a die: the sample store's one from bring-up on, and more where the table holds more. -/
def fwBanksOn (fw : Nat) (t : Tab Word64) (d : Nat) : Nat := max fw (ceilDiv (scratchBytes t 0x3F d) 0x800000)

/-- Cache and scratch banks of a share on a die. -/
def shareCb (e : Word64) (d : Nat) : Nat := fld e (14 * d + 6) (14 * d)
def shareSb (e : Word64) (d : Nat) : Nat := fld e (14 * d + 13) (14 * d + 7)

/-- Banks of a die in the common pool (R300). -/
def poolBanks (s : State) (d : Nat) : Nat :=
  64 - fwBanksOn s.mem.fwBanks s.mem.region d - (s.mem.share.map (fun e => shareCb e.2 d + shareSb e.2 d)).sum

/-! ### Pantry lines (R278 to R284, log 16) -/

/-- Scratch banks of a base die. -/
def scratchBanks (s : State) (d : Nat) : Nat :=
  fwBanksOn s.mem.fwBanks s.mem.region d + (s.mem.share.map (fun e => shareSb e.2 d)).sum

/-- How many cache banks a group of banks has on a base die: the common pool, the one cache of HINTED mode, a partition's own. -/
def cacheBanks (s : State) (g d : Nat) : Nat :=
  if g = 64 then poolBanks s d else if g = 65 then 64 - scratchBanks s d else shareCb (tgetD s.mem.share g 0) d

/-- The groups of banks that may hold a region's lines: in HINTED mode the one cache (R283); else the owner's own banks, for partition 0
the common pool after them, and for the Starter store and firmware the common pool (R278, R279). -/
def cacheGroups (s : State) (owner : Nat) : List Nat :=
  if s.mem.hinted then [65] else if owner = 0 then [0, 64] else if 32 < owner then [64] else [owner]

/-- The x-th set of some groups of banks on a die: a bank has 2048 sets of 16 lines. -/
def setPlace (s : State) (d : Nat) : List Nat → Nat → Option PantryPlace
  | [], _ => none
  | g :: gs, x =>
    let n := 2048 * cacheBanks s g d
    if x < n then some ⟨d, g, x / 2048, x % 2048⟩ else setPlace s d gs (x - n)

/-- Where line `ln` (256 B on DA) may be allocated: nowhere for BYPASS and SCRATCH regions, nor without a cache bank. -/
def pantryPlace (s : State) (ln : Nat) : Option PantryPlace :=
  let e := entry s (regionOf (256 * ln))
  let d := partDie (homePart s (256 * ln))
  let gs := cacheGroups s (reOwner e)
  let sets := 2048 * (gs.map (fun g => cacheBanks s g d)).sum
  if rePhint e = 0 then setPlace s d gs (Config.pantrySet sets ln % sets) else none

/-- Room for a line in a set of 16 (R280, R284): the least recently used line goes, one not marked keep if there is any. Lines stand most
recently used first. -/
def pantryEvict (ls : List PLine) (pl : PantryPlace) : List PLine :=
  let here := ls.filter (fun l => l.place == pl)
  if ls.length < 16 ∨ here.length < 16 then ls
  else match (here.filter (fun l => !l.keep)).getLast?.or here.getLast? with
    | some v => ls.erase v
    | none => ls

/-- The line that holds DA 256·ln, if there is one. -/
def lineAt (s : State) (ln : Nat) : Option PLine := s.mem.lines.find? (fun l => l.line == ln)

/-- The hint that takes effect: none outside HINTED mode (R283). -/
def hintOf (s : State) (hint : Nat) : Nat := if s.mem.hinted then hint else 0

/-- What the memory holds in some line, with its failed symbols. -/
def keepTier (s : State) (ln : Nat) (p : PLine) : PLine :=
  if p.tier.isSome then p
  else { p with
    tier := some ⟨s.mem.bytes.filter (fun c => c.1 / 256 == ln), s.mem.poison.filter (fun c => c.1 / 8 == ln)⟩,
    faults := s.mem.latent.filter (fun c => c.1 / 8 == ln) }

/-- Invalidate a line without write-back: the part's bytes stand again, with their poison and their failed symbols (R284). -/
def dropLine (s : State) (p : PLine) : State :=
  let s := s.modMem (fun m => { m with lines := m.lines.filter (fun l => l.line != p.line) })
  match p.tier with
  | none => s
  | some t =>
    let s := s.putPmem (s.pmem.write (256 * p.line) (t.read (256 * p.line) 256))
    s.modMem (fun m => { m with latent := p.faults.foldl (fun a f => tput a f.1 f.2) (m.latent.filter (fun c => c.1 / 8 != p.line)) })

/-- The lines after an access that uses line `ln`: it stands first, allocated where it was absent and may be held. -/
def usedLines (s : State) (ln : Nat) (f : PLine → PLine) : List PLine :=
  match lineAt s ln with
  | some p => f p :: s.mem.lines.filter (fun l => l.line != ln)
  | none => match pantryPlace s ln with
    | some pl => f { line := ln, owner := reOwner (entry s (regionOf (256 * ln))), place := pl } :: pantryEvict s.mem.lines pl
    | none => s.mem.lines

/-- A read of one line (R284); a read of the narrow path allocates nothing and leaves a BYPASS region's line alone (R275). -/
def pantryRead1 (s : State) (hint : Nat) (narrow : Bool) (ln : Nat) : State :=
  let h := hintOf s hint
  if h = 1 ∨ (narrow ∧ rePhint (entry s (regionOf (256 * ln))) = 1) then s
  else if h = 3 then (match lineAt s ln with
    | some p => dropLine s p
    | none => s)
  else s.modMem (fun m => { m with lines := if narrow && (lineAt s ln).isNone then m.lines
                                            else usedLines s ln (fun p => { p with keep := p.keep || h == 2, discard := false }) })

/-- A write to one line, before its bytes arrive: what it does to the Pantry (R284); a partial write to an absent line reads it first
(R280). -/
def pantryWrite1 (s : State) (hint ln da : Nat) (bs : List PByte) : State :=
  let h := hintOf s hint
  if h = 1 then s.modMem (fun m => { m with
    lines := m.lines.map (fun l => if l.line == ln then { l with tier := l.tier.map (fun t => t.write da bs) } else l) })
  else
    let s := if bs.length == 256 || s.mem.latent.isEmpty || (lineAt s ln).isSome || (pantryPlace s ln).isNone then s
      else discover s none (256 * ln) 256
    s.modMem (fun m => { m with
      lines := usedLines s ln (fun p => { keepTier s ln p with keep := p.keep || h == 2, discard := h == 3 }) })

/-- The lines that `n` bytes at `a` touch. -/
def linesOf (a n : Nat) : List Nat := if n = 0 then [] else (List.range ((a + n - 1) / 256 - a / 256 + 1)).map (· + a / 256)

/-- Write one run of bytes that lies within one 256-byte granule of a part, unless the part is fenced (R297). Granules written whole get
fresh check symbols (R285). -/
def devWriteRun (s : State) (hint da : Nat) (bs : List PByte) : State :=
  if fencedAt s da then s
  else
    let s := pantryWrite1 s hint (da / 256) da bs
    let s := s.modMem (fun m => { m with latent := m.latent.filter (fun c => !(da ≤ 32 * c.1 && 32 * c.1 + 32 ≤ da + bs.length)) })
    s.putPmem (s.pmem.write da bs)

/-- Write device bytes, granule by granule of the parts. -/
def devWriteGo (s : State) (hint : Nat) : Nat → Nat → List PByte → State
  | 0, _, _ => s
  | k + 1, da, bs =>
    let n := 256 - da % 256
    devWriteGo (devWriteRun s hint da (bs.take n)) hint k (da + n) (bs.drop n)

/-- Write device bytes with a hint (R284). -/
def devWriteAs (s : State) (hint da : Nat) (bs : List PByte) : State :=
  if bs.isEmpty then s else devWriteGo s hint (bs.length / 256 + 2) da bs

/-- Write device bytes: an access that carries no hint. -/
def devWrite (s : State) (da : Nat) (bs : List PByte) : State := devWriteAs s 0 da bs

/-- The failed symbols found by a read whose absent lines come into the Pantry: it fetches those lines whole (R280, R287). -/
def discoverFill (s : State) (k : Option Nat) (da n : Nat) : State :=
  if s.mem.latent.isEmpty then s
  else (linesOf da n).foldl (fun t l =>
    if (lineAt t l).isNone && (pantryPlace t l).isSome then discover t k (256 * l) 256
    else discover t k (max da (256 * l)) (min (da + n) (256 * l + 256) - max da (256 * l))) s

/-- Reads of device memory that carry no hint, of some requester (`k`: its context): the failed symbols found, and the Pantry's part. -/
def demand (s : State) (k : Option Nat) (da n : Nat) : State :=
  (linesOf da n).foldl (fun t l => pantryRead1 t 0 false l) (discoverFill s k da n)

/-- Write every line back and invalidate it (R283). -/
def pantryFlush (s : State) : State := s.modMem (fun m => { m with lines := [] })

/-- Lines in banks that their holders have lost are written back and invalidated (R282). -/
def pantryTrim (s : State) : State :=
  s.modMem (fun m => { m with lines := m.lines.filter (fun l => decide (l.place.bank < cacheBanks s l.place.banks l.place.die)) })

/-! ### Dips and trips (R438, R439, R445) -/

/-- A compute die whose units have stopped: its rail is at the reset level, or a thermal trip has switched it off. -/
def dieStopped (s : State) (die : Nat) : Bool := s.pwr.trip || (tgetD s.pwr.rails die {}).resetAt.isSome

/-- Whether the warning window of a die is open, during which its array issue pauses. -/
def dieWindow (s : State) (die : Nat) : Bool := (tgetD s.pwr.rails die {}).window

/-- The scope of cores of a reset (R412): 0 core, 1 cluster, 2 partition, else all. -/
def scopeCores (s : State) (scope target : Nat) : Nat → Bool := fun n =>
  match scope with
  | 0 => n == target
  | 1 => n / 8 == target
  | 2 => clusterPart s (n / 8) == target
  | _ => true

/-- A reset that covers a core has been asked for and is not over (R411). -/
def coreInReset (s : State) (n : Nat) : Bool := s.rel.rstQueue.any (fun q => scopeCores s q.1 q.2.1 n)

/-- A core that starts nothing new: its die has stopped, or a reset covers it. -/
def coreStopped (s : State) (n : Nat) : Bool := dieStopped s (n / 64) || coreInReset s n

/-! ### Time -/

/-- One nanosecond passes: the internal oscillator and Pod Time advance, slewing at 1 ns in 10,000 (R327, log 2).
Nothing runs in OFF. -/
def tick (s : State) : State :=
  if s.pwr.st = .off then s
  else s.modTime (fun t =>
    let now := decide (t.slew ≠ 0) && decide (t.up.toNat % 10000 = 0)
    let adv : Nat := if now then (if 0 < t.slew then 2 else 0) else 1
    { t with up := t.up + 1, pt := t.pt + BitVec.ofNat 64 adv,
             slew := if now then (if 0 < t.slew then t.slew - 1 else t.slew + 1) else t.slew })

/-- How far an instant lies behind the last of the PT values x with (x − BEAT_ORIGIN) mod BEAT_PERIOD = 0 (R332). -/
def markPhase (period : Word32) (origin : Word64) (x : Nat) : Nat := (((x : Int) - origin.toNat) % period.toNat).toNat

/-- The PT of the next beat mark (R332): the first after the last one. -/
def nextMark (t : Time) : Nat := t.lastMark + t.beatPeriod.toNat - markPhase t.beatPeriod t.beatOrigin t.lastMark

/-- The first beat mark at or after an instant (R332). -/
def markAt (t : Time) (x : Nat) : Nat :=
  let r := markPhase t.beatPeriod t.beatOrigin x
  if r = 0 ∨ t.beatPeriod = 0 then x else x + t.beatPeriod.toNat - r

end Sys2Proof.Machine
end

