-- ==== Sys2Proof/Machine/Operands.lean ====
section
/-! DEFINITION. The operand forms of the Ululy instructions: instruction fields and selectors (R226, R227), tokens and
queues (R216 to R218), windows and operand descriptors (R214, R229 to R231), the location of planes (R51, R230), and the
reading and writing of operands with their poison (R288 to R290). -/

namespace Sys2Proof.Machine

open Sys2Proof

/-! ### Instruction words (R226) -/

def opOf (w : Word64) : Nat := fld w 7 0
def s1Of (w : Word64) : Nat := fld w 14 8
def s2Of (w : Word64) : Nat := fld w 21 15
def s3Of (w : Word64) : Nat := fld w 28 22
def d1Of (w : Word64) : Nat := fld w 33 29
def d2Of (w : Word64) : Nat := fld w 38 34
def immOf (w : Word64) : Nat := fld w 63 40
/-- IMM[hi:lo]. -/
def immBits (w : Word64) (hi lo : Nat) : Nat := bits (immOf w) hi lo
/-- The queue of a destination, if enabled. -/
def dstQ (d : Nat) : Option Nat := if 16 ≤ d then some (d - 16) else none
/-- A sign-extended immediate. -/
def sext (n x : Nat) : Word64 := BitVec.ofInt 64 (toSigned n x)

/-! ### Tokens and queues -/

def kData : BitVec 3 := 0#3
def kBuf : BitVec 3 := 1#3
def kCtl : BitVec 3 := 2#3
def kVerdict : BitVec 3 := 3#3
def kError : BitVec 3 := 4#3

/-- A token as a 64-bit word (R216). -/
def tokWord (t : Token) : Word64 :=
  BitVec.ofNat 64 (t.val.toNat + t.tag.toNat * 2 ^ 32 + t.kind.toNat * 2 ^ 48 + b2n t.susp * 2 ^ 51)

/-- A 64-bit word as a token (R216). -/
def wordTok (w : Word64) : Token :=
  { val := BitVec.ofNat 32 (fld w 31 0), tag := BitVec.ofNat 16 (fld w 47 32), kind := BitVec.ofNat 3 (fld w 50 48),
    susp := w.getLsbD 51 }

/-- An ERROR token (R222). -/
def errTok (code : Nat) (tag : Word16) : Token := { val := BitVec.ofNat 32 code, tag := tag, kind := kError }

/-- The capacity of a queue (R217). -/
def qCap (n : Nat) : Nat := if n < 3 then 16 else 32

def Vcore.q (x : Vcore) (n : Nat) : List QSlot := tgetD x.queues n []
def Vcore.setQ (x : Vcore) (n : Nat) (l : List QSlot) : Vcore :=
  { x with queues := if l.isEmpty then tdel x.queues n else tput x.queues n l }
/-- The visible head of a queue (R218). -/
def headTok (x : Vcore) (n : Nat) : Option Token := (x.q n).head?.bind QSlot.tok
/-- Whether a queue has a free slot. -/
def qFree (x : Vcore) (n : Nat) : Bool := decide ((x.q n).length < qCap n)
/-- Push a token at once. -/
def pushQ (x : Vcore) (n : Nat) (t : Token) : Vcore := x.setQ n (x.q n ++ [⟨0, some t⟩])
/-- Reserve a slot for operation `op` (R218). -/
def reserveQ (x : Vcore) (n op : Nat) : Vcore := x.setQ n (x.q n ++ [⟨op, none⟩])
/-- Fill the first slot that operation `op` reserved. -/
def fillSlots (op : Nat) (t : Token) : List QSlot → List QSlot
  | [] => []
  | q :: qs => if q.op = op ∧ q.tok = none then ⟨op, some t⟩ :: qs else q :: fillSlots op t qs
def fillQ (x : Vcore) (n op : Nat) (t : Token) : Vcore := x.setQ n (fillSlots op t (x.q n))
/-- An arrival enters Q2 as a slot frees (R336). -/
def refillQ2 (x : Vcore) : Vcore :=
  match x.arrivals with
  | [] => x
  | t :: r => if qFree x 2 then { pushQ x 2 t with arrivals := r } else x
/-- Pop the head of a queue; its slot frees immediately (R218). -/
def popQ (x : Vcore) (n : Nat) : Vcore :=
  let y := x.setQ n (x.q n).tail
  if n = 2 then refillQ2 y else y

/-- Take the operand of a source selector (R227); `p` is the parameter value at dispatch. none: the token is not there. -/
def takeSrc (x : Vcore) (sel : Nat) (p : Word64) : Option (Word64 × Option Token × Vcore) :=
  if sel < 0x10 then
    match headTok x sel with
    | some t => some (tokWord t, some t, popQ x sel)
    | none => none
  else if sel < 0x20 then
    match headTok x (sel - 0x10) with
    | some t => some (tokWord t, some t, x)
    | none => none
  else if 0x40 ≤ sel then some (p, none, x)
  else some (0, none, x)

/-- The parameter value that a selector names at dispatch. -/
def selParam (x : Vcore) (sel : Nat) : Word64 := if 0x40 ≤ sel then tgetD x.p (sel - 0x40) 0 else 0

/-! ### Results of an operation -/

/-- Why an operation does not run: a refusal with its event and the address it names (R222), poison consumed (R290; `found` lists the device runs
read, in which errors are discovered), or a wait. -/
inductive Stop where
  | refuse (code da : Nat)
  | poisoned (p : Policy) (da : Nat) (found : List (Nat × Nat))
  | wait
  deriving DecidableEq, Repr

abbrev Res (α : Type) := Except Stop α

/-- Refuse with an event unless a condition holds. -/
def need (b : Bool) (code : Nat) : Res Unit := if b then .ok () else .error (.refuse code 0)

/-! ### Spaces: the scratch window and device memory -/

/-- One byte of a space, with its poison; bytes of a fenced part read poisoned (R297). -/
def rdOf (s : State) (x : Vcore) (dev : Bool) (a : Nat) : PByte :=
  if dev then (memGet s.mem.bytes a, joinP (tget s.mem.poison (a / 32)) (if fencedAt s a then some .context else none))
  else (memGet x.win a, tget x.winPoison (a / 32))

def rdRun (rd : Nat → PByte) (a n : Nat) : List PByte := (List.range n).map (fun i => rd (a + i))
def rdNat (rd : Nat → PByte) (a n : Nat) : Nat := bytesToNat ((rdRun rd a n).map Prod.fst)
def rdPoison (rd : Nat → PByte) (a n : Nat) : Option Policy := strongest (rdRun rd a n)

/-- A run of bytes: address and length. -/
abbrev Run := Nat × Nat

/-- Check the runs of one space: the window bounds (R214) or the region table (R267, R271). -/
def checkRuns (s : State) (n : Nat) (x : Vcore) (dev : Bool) (rs : List Run) : Res Unit :=
  if dev then
    match rs.findSome? (fun r => (accessRefusal s (.part n) r.1 r.2).map (fun c => (c, r.1))) with
    | some (code, da) => .error (.refuse code da)
    | none => if rs.any (fun r => accessWaits s r.1 r.2) then .error .wait else .ok ()
  else if rs.all (fun r => decide (r.1 + r.2 ≤ x.winSize)) then .ok ()
  else .error (.refuse 0x7009 0)

/-- The window as the running operation's unit saw it at the start (R223). -/
def Vcore.ctlMem (x : Vcore) : PMem := match x.ctl with
  | some (b, p) => ⟨b, p⟩
  | none => ⟨x.win, x.winPoison⟩

/-- Control data read from the window: descriptors, CVDs, VJDs and records' headers. Poison of policy NAN is handled as
CONTEXT (R290). -/
def readCtl (x : Vcore) (off n : Nat) : Res Nat :=
  if x.winSize < off + n then .error (.refuse 0x7009 0)
  else
    let bs := x.ctlMem.read off n
    match strongest bs with
    | some p => .error (.poisoned (if p = .nan then .context else p) 0 [])
    | none => .ok (bytesToNat (bs.map Prod.fst))

/-! ### Reading and writing a space -/

/-- Failed symbols found by reading device runs (R287), with whole lines where the access brings lines into the Pantry (R280). -/
def findRuns (s : State) (k : Option Nat) (dev fills : Bool) (rs : List Run) : State :=
  if dev then rs.foldl (fun t r => if fills then discoverFill t k r.1 r.2 else discover t k r.1 r.2) s else s

/-- Reading device runs without a hint: the failed symbols found, and the Pantry's part (R280, R287). -/
def discoverRuns (s : State) (k : Option Nat) (dev : Bool) (rs : List Run) : State :=
  if dev then rs.foldl (fun t r => demand t k r.1 r.2) s else s

/-- The Pantry's part in reading device runs with a hint, line by line (R284); narrow reads allocate nothing (R275). -/
def pantryRead (s : State) (hint : Nat) (dev narrow : Bool) (rs : List Run) : State :=
  if dev then (rs.flatMap (fun r => linesOf r.1 r.2)).eraseDups.foldl
    (fun t l => pantryRead1 t hint narrow l) s
  else s

/-- Write one run of a space. -/
def spWrite (s : State) (v : VRef) (hint : Nat) (dev : Bool) (a : Nat) (bs : List PByte) : State :=
  if dev then devWriteAs s hint a bs
  else s.modVc v (fun x =>
    let m := (PMem.mk x.win x.winPoison).write a bs
    { x with win := m.bytes, winPoison := m.poison })

/-- Join writes that follow one another, so that a granule written in pieces counts as written whole (R288). -/
def joinWrites : List (Nat × List PByte) → List (Nat × List PByte)
  | [] => []
  | w :: ws => match joinWrites ws with
    | [] => [w]
    | u :: us => if w.1 + w.2.length = u.1 then (w.1, w.2 ++ u.2) :: us else w :: u :: us

def spWriteAll (s : State) (v : VRef) (hint : Nat) (dev : Bool) (ws : List (Nat × List PByte)) : State :=
  (joinWrites ws).foldl (fun t w => spWrite t v hint dev w.1 w.2) s

/-! ### Operand descriptors (R229 to R231) -/

/-- A resolved operand: where its planes lie and how its elements are indexed. -/
structure Opnd where
  off : Nat
  fmtw : Nat
  dev : Bool
  trans : Bool := false
  rows : Nat
  cols : Nat
  /-- Position within the stored tensor, and the tensor's stored column count. -/
  pr : Nat
  pc : Nat
  scols : Nat
  data : Nat
  scale : Nat := 0
  rho : Nat := 0
  /-- Logical position, and the column count of logical element indices (R195). -/
  row0 : Nat
  col0 : Nat
  tcols : Nat
  trows : Nat := 0
  stream : Word32 := 0
  ssv : Bool := false
  sslist : Nat := 0
  ssn : Nat := 0
  deriving DecidableEq, Repr

def Opnd.fmt (o : Opnd) : Nat := fmtwFmt o.fmtw
def Opnd.narrow (o : Opnd) : Bool := fmtNarrow o.fmt
def Opnd.sq (o : Opnd) : Bool := fmtwSquare o.fmtw
def Opnd.uni (o : Opnd) : Bool := fmtwUniform o.fmtw

/-- Blocks of a stored tensor of rows × cols elements, padded under R53. -/
def tensorBlocks (sq : Bool) (rows cols : Nat) : Nat :=
  if sq then ceilDiv rows 4 * ceilDiv cols 4 else rows * ceilDiv cols 16

/-- Stored columns of a tensor (R53). -/
def storedCols (f : Nat) (sq : Bool) (cols : Nat) : Nat :=
  if fmtWide f then cols else alignUp cols (if sq then 4 else 16)

/-- Where the default planes of a tensor lie (R230): scale plane and row-scale plane. -/
def defaultPlanes (f : Nat) (data nblk : Nat) : Nat × Nat :=
  let sc := alignUp (data + nblk * blockBytes f) 256
  (sc, alignUp (sc + nblk) 64)

/-- Entry `l` of a partition's layer table (R150). -/
def ludAt (s : State) (n l : Nat) : BitVec 1024 :=
  BitVec.ofNat 1024 (devNat s ((s.part n).active.ltBase.toNat + 128 * l) 128)

/-- Block edge b of the preconditioner (R150). -/
def pcbSize : Nat → Nat
  | 1 => 16 | 2 => 32 | 3 => 64 | 4 => 128 | _ => 0

/-- Column count and first block of a layer's shard (log 18), and its blocks per strip of block rows. -/
def layerCols (lud : BitVec 1024) : Nat := (Config.layerShape lud).1
def layerStrip (lud : BitVec 1024) : Nat := if lud.getLsbD 36 then ceilDiv (layerCols lud) 4 else ceilDiv (layerCols lud) 16

/-- Rows of a shard, and its first row. -/
def shardRows (lud : BitVec 1024) : Nat :=
  if layerStrip lud = 0 then 0 else fld lud 95 64 / layerStrip lud * (if lud.getLsbD 36 then 4 else 1)
def shardRow0 (lud : BitVec 1024) : Nat :=
  if layerStrip lud = 0 then 0 else (Config.layerShape lud).2 / layerStrip lud * (if lud.getLsbD 36 then 4 else 1)

/-- Number of preconditioner blocks of a shard: its row blocks of b rows (R165, log 18). -/
def pcBlocks (lud : BitVec 1024) : Nat :=
  let b := pcbSize (fld lud 47 45)
  if b = 0 then 0 else shardRows lud / b

/-- Bytes of one set's half of the preconditioner area: S and Q of every block, in whole 4 KiB (R165). -/
def pcHalf (lud : BitVec 1024) : Nat :=
  let b := pcbSize (fld lud 47 45)
  alignUp (pcBlocks lud * 2 * b * b * 4) 4096

/-- The planes of the named part of a layer's set (R230 with SELA): data, scale and row scales. -/
def selaPlanes (lud : BitVec 1024) (set : Bool) (part : Nat) : Nat × Nat × Nat :=
  let pick := fun (a b : Nat) => if set then b else a
  match part with
  | 0 => (pick (fld lud 303 256) (fld lud 351 304), 0, 0)
  | 1 => (pick (fld lud 399 352) (fld lud 447 400), 0, 0)
  | 2 =>
    let d := pick (fld lud 495 448) (fld lud 543 496)
    let f := fld lud 35 32
    let (sc, rh) := defaultPlanes f d (fld lud 95 64)
    (d, sc, rh)
  | _ => (fld lud 639 592 + (if set then pcHalf lud else 0), 0, 0)

/-- Reserved bits of a descriptor. -/
def descReserved (d : BitVec 512) : Bool := d.getLsbD 39 || fld d 63 52 != 0 || fld d 511 480 != 0

/-- Read and resolve the descriptor at a window offset; `ix` elements are added to ROW0 or COL0 (R228). `trans` allows
TRANS (R231); `fw` stands for a format word that is ignored (R238, SAMPLE). -/
def mkOpnd (s : State) (n : Nat) (x : Vcore) (off : Nat) (trans : Bool) (ix : Nat) (axis : Bool) (fw : Option Nat := none) :
    Res Opnd := do
  need (off % 64 == 0) 0x1002
  let dn ← readCtl x off 64
  let d := BitVec.ofNat 512 dn
  let w := fw.getD (fld d 31 0)
  need (fmtwValid w) 0x1001
  let f := fmtwFmt w
  let sq := fmtwSquare w
  let dev := d.getLsbD 32
  let sela := d.getLsbD 34
  need (!descReserved d && (trans || !d.getLsbD 33) && (dev || !sela)) 0x1002
  let rows := fld d 231 208
  let cols := fld d 255 232
  let row0 := (fld d 287 256 + if axis then ix else 0) % 2 ^ 32
  let col0 := (fld d 319 288 + if axis then 0 else ix) % 2 ^ 32
  let tcols := fld d 351 320
  let trows := fld d 479 456
  need (rows != 0 && cols != 0) 0x1002
  need (!dev || (col0 + cols ≤ tcols && (trows == 0 || row0 + rows ≤ trows))) 0x1002
  need (!fmtNarrow f || (if sq then row0 % 4 == 0 && col0 % 4 == 0 else col0 % 16 == 0)) 0x1002
  let srows := if dev then trows else rows
  let scols := storedCols f sq (if dev then tcols else cols)
  let dbase := fld d 111 64
  let sbase := fld d 159 112
  let rbase := fld d 207 160
  let planes : Nat × Nat × Nat ←
    if sela then do
      let layer := fld d 51 40
      let job := (s.part n).active
      need (layer < job.nlayers.toNat) 0x1002
      let la := job.ltBase.toNat + 128 * layer
      checkRuns s n x true [(la, 128)]
      match strongest (devRead (discoverRuns s none true [(la, 128)]) la 128) with
      | some p => throw (.poisoned (if p = .nan then .context else p) la [(la, 128)])
      | none => pure ()
      let armed := (s.cmt n).armed.getLsbD layer
      match (s.att n).commit with
      | some tc => if armed && tc ≤ s.now then throw .wait else pure ()
      | none => pure ()
      let set := (s.cmt n).sel.getLsbD layer != d.getLsbD 35
      let lud := ludAt s n layer
      let part := fld d 37 36
      let (pd, ps, pr) := selaPlanes lud set part
      if part = 2 then pure (pd + dbase, ps + sbase, pr + rbase)
      else do
        need (!fmtNarrow f || trows != 0) 0x1002
        let nb := tensorBlocks sq srows tcols
        let (sc, rh) := defaultPlanes f (pd + dbase) nb
        pure (pd + dbase, sc, rh)
    else do
      need (!(dev && fmtNarrow f && (sbase == 0 || rbase == 0) && trows == 0)) 0x1002
      let nb := tensorBlocks sq srows (if dev then tcols else cols)
      let (ds, _) := defaultPlanes f dbase nb
      let sc := if sbase = 0 then ds else sbase
      pure (dbase, sc, if rbase = 0 then alignUp (sc + nb) 64 else rbase)
  let (data, scale, rho) := planes
  need (!fmtNarrow f || (data % 256 == 0 && scale % 256 == 0 && rho % 64 == 0)) 0x1002
  need (!d.getLsbD 38 || row0 / 128 == (row0 + rows - 1) / 128) 0x1002
  pure { off := off, fmtw := w, dev := dev, trans := d.getLsbD 33, rows := rows, cols := cols,
         pr := if dev then row0 else 0, pc := if dev then col0 else 0, scols := scols, data := data, scale := scale, rho := rho,
         row0 := row0, col0 := col0, tcols := if tcols = 0 then cols else tcols, trows := trows,
         stream := BitVec.ofNat 32 (fld d 383 352), ssv := d.getLsbD 38, sslist := fld d 431 384, ssn := fld d 455 432 }

/-! ### Runs of an operand's planes (R51) -/

/-- First block row, number of block rows, first block column, number of block columns, blocks per stored row. -/
def Opnd.grid (o : Opnd) : Nat × Nat × Nat × Nat × Nat :=
  if o.sq then (o.pr / 4, (o.pr % 4 + o.rows + 3) / 4, o.pc / 4, (o.pc % 4 + o.cols + 3) / 4, o.scols / 4)
  else (o.pr, o.rows, o.pc / 16, (o.pc % 16 + o.cols + 15) / 16, o.scols / 16)

/-- Runs of the data plane. -/
def Opnd.dataRuns (o : Opnd) : List Run :=
  if o.narrow then
    let (r0, nr, c0, nc, per) := o.grid
    let bb := blockBytes o.fmt
    (List.range nr).map (fun i => (o.data + ((r0 + i) * per + c0) * bb, nc * bb))
  else
    let wb := fmtWidth o.fmt / 8
    (List.range o.rows).map (fun r => (o.data + ((o.pr + r) * o.scols + o.pc) * wb, o.cols * wb))

/-- Runs of the scale plane. -/
def Opnd.scaleRuns (o : Opnd) : List Run :=
  if o.narrow then
    let (r0, nr, c0, nc, per) := o.grid
    (List.range nr).map (fun i => (o.scale + (r0 + i) * per + c0, nc))
  else []

/-- Rows that the planes hold for an operand's rows: square blocks pad them (R48, R53). -/
def Opnd.storedRows (o : Opnd) : Nat := if o.sq then alignUp o.rows 4 else o.rows

/-- Run of the row-scale plane: in ROWS mode one value for each stored row (R48). -/
def Opnd.rhoRuns (o : Opnd) : List Run :=
  if o.narrow then [if o.uni then (o.rho, 4) else (o.rho + 4 * o.pr, 4 * o.storedRows)] else []

/-- Run of the Sideshow list. -/
def Opnd.ssRuns (o : Opnd) : List Run := if o.ssv && o.ssn != 0 then [(o.sslist, 8 * o.ssn)] else []

def Opnd.runs (o : Opnd) : List Run := o.dataRuns ++ o.scaleRuns ++ o.rhoRuns

/-- Where an output lies. -/
def Opnd.outs (o : Opnd) : List OutLoc := o.runs.map (fun r => ⟨o.dev, r.1, r.2⟩)

/-! ### Reading operands -/

/-- An operand's elements row by row, the row scale of each row apart (narrow elements are read at ρ = 1). -/
structure Mat where
  rows : Nat
  cols : Nat
  els : List (List FV)
  rho : List (Option Q)
  rhoBits : List Word32
  flags : Flags
  deriving DecidableEq, Repr

/-- Block index and element index of logical (r, c) of an operand. -/
def Opnd.pos (o : Opnd) (r c : Nat) : Nat × Nat :=
  let R := o.pr + r
  let C := o.pc + c
  if o.sq then (R / 4 * (o.scols / 4) + C / 4, R % 4 * 4 + C % 4) else (R * (o.scols / 16) + C / 16, C % 16)

/-- Whether a G4I block holds the code 1000b. -/
def g4iBad (f data : Nat) : Bool := f == 4 && (List.range 16).any (fun i => unpackCode 4 data i == 8)

/-- One element of an operand before its row scale, with the flag that reading it sets. In a row whose row scale decides the
element first (`settled`), code 1000b of G4I neither makes NaN nor sets NV (R36). -/
def readElem (rd : Nat → PByte) (o : Opnd) (settled : Bool) (r c : Nat) : FV × Flags :=
  if o.narrow then
    let (b, i) := o.pos r c
    let bb := blockBytes o.fmt
    let da := o.data + b * bb
    if (rdPoison rd da bb).isSome || (rd (o.scale + b)).2.isSome then (.nan, fNV)
    else
      let data := rdNat rd da bb
      let byte := (rd (o.scale + b)).1.toNat
      let bad := g4iBad o.fmt data && !settled
      (decodeElem o.fmt byte bad (some Q.one) (unpackCode (fmtWidth o.fmt) data i),
       if bad && byte != 0 && byte != 0xFF then fNV else 0#4)
  else
    let wb := fmtWidth o.fmt / 8
    let a := o.data + ((o.pr + r) * o.scols + o.pc + c) * wb
    if (rdPoison rd a wb).isSome then (.nan, fNV) else (fpDecode (fpOf o.fmt) (rdNat rd a wb), 0#4)

/-- The bits of a row scale after R48. -/
def rowScaleWord (w : Nat) : Word32 :=
  match (rowScaleOf w).1 with
  | none => BitVec.ofNat 32 fp32.qnan
  | some q => if q.isZero then 0#32 else BitVec.ofNat 32 w

/-- The row scale of row r. -/
def readRho (rd : Nat → PByte) (o : Opnd) (r : Nat) : (Option Q × Word32) × Flags :=
  if o.narrow then
    let a := if o.uni then o.rho else o.rho + 4 * (o.pr + r)
    if (rdPoison rd a 4).isSome then ((none, BitVec.ofNat 32 fp32.qnan), fNV)
    else
      let w := rdNat rd a 4
      ((((rowScaleOf w).1), rowScaleWord w), (rowScaleOf w).2)
  else ((some Q.one, 0x3F800000#32), 0#4)

def orFlags (l : List Flags) : Flags := l.foldl (· ||| ·) 0#4

/-- Whether a row scale decides its elements by itself: NaN or +0 (R36). -/
def rhoSettles : Option Q → Bool
  | none => true
  | some q => q.isZero

/-- Read an operand: for a consumer of whole values (R36), or, with `arrays`, for the arrays, which form their sums before any
row scale (R87, R93). -/
def readMat (rd : Nat → PByte) (o : Opnd) (arrays : Bool := false) : Mat :=
  let el := (List.range o.rows).map (fun r =>
    let settled := !arrays && rhoSettles (readRho rd o r).1.1
    (List.range o.cols).map (fun c => readElem rd o settled r c))
  let rh := (List.range o.rows).map (fun r => readRho rd o r)
  { rows := o.rows, cols := o.cols, els := el.map (fun r => r.map Prod.fst), rho := rh.map (fun p => p.1.1),
    rhoBits := rh.map (fun p => p.1.2), flags := orFlags (el.map (fun r => orFlags (r.map Prod.snd))) ||| orFlags (rh.map Prod.snd) }

/-- The whole value of each element, its row scale included (R36). -/
def Mat.full (m : Mat) : List (List FV) :=
  m.els.zip m.rho |>.map (fun (row, r) => row.map (fun e =>
    match r with
    | none => .nan
    | some q => if e.isNan then .nan else match e with
      | .num s v => if q.isZero then .num false Q.zero else if q == Q.one then e else .num s (v.mul q).norm
      | w => w))

def Mat.at (m : Mat) (r c : Nat) : FV := ((m.els[r]?).bind (·[c]?)).getD .nan

/-- The poison that an operand's computation consumes (R289): the strongest over the runs read. -/
def runsPoison (rd : Nat → PByte) (rs : List Run) : Option Policy :=
  rs.foldl (fun a r => joinP a (rdPoison rd r.1 r.2)) none

/-- The first poisoned address of the runs. -/
def firstPoison (rd : Nat → PByte) (rs : List Run) : Nat :=
  ((rs.findSome? (fun r => ((List.range r.2).find? (fun i => (rd (r.1 + i)).2.isSome)).map (· + r.1)))).getD 0

/-- Consume the poison of some runs: policies CONTEXT and PARTITION refuse the operation; NAN lets it run and reports. -/
def consume (rd : Nat → PByte) (dev : Bool) (rs : List Run) : Res Bool :=
  match runsPoison rd rs with
  | none => .ok false
  | some .nan => .ok true
  | some p => .error (.poisoned p (if dev then firstPoison rd rs else 0) (if dev then rs else []))

/-! ### Writing operands -/

/-- Write codes of whole blocks: block index, packed data, scale byte. -/
def blockWrites (o : Opnd) (bs : List (Nat × Nat × Nat)) : List (Nat × List PByte) :=
  bs.map (fun (b, data, _) => (o.data + b * blockBytes o.fmt, clean (natToBytes (blockBytes o.fmt) data))) ++
  bs.map (fun (b, _, byte) => (o.scale + b, clean [BitVec.ofNat 8 byte]))

/-- Logical element index of an element of an operand (R195). -/
def Opnd.index (o : Opnd) (r c : Nat) : Nat := (o.row0 + r) * o.tcols + o.col0 + c

/-- Round values into a wide operand (R62, R63, R485) and lay them out row by row. -/
def wideWrites (o : Opnd) (rnd : Nat → Rnd) (vals : List (List FV)) : List (Nat × List PByte) × Flags :=
  let wb := fmtWidth o.fmt / 8
  let rows := vals.mapIdx (fun r row => row.mapIdx (fun c v => fpEncode (fpOf o.fmt) (rnd (o.index r c)) v))
  (rows.mapIdx (fun r row => (o.data + ((o.pr + r) * o.scols + o.pc) * wb, clean (row.flatMap (fun p => natToBytes wb p.1)))),
   orFlags (rows.map (fun row => orFlags (row.map Prod.snd))))

/-! ### Parts of an operand (R108, R136) -/

/-- Padded columns of the tensor that an operand belongs to. -/
def padCols (o : Opnd) : Nat := storedCols o.fmt o.sq o.tcols

/-- Rows r to r + k − 1 of an operand. -/
def Opnd.slice (o : Opnd) (r k : Nat) : Opnd := { o with rows := k, pr := o.pr + r, row0 := o.row0 + r }

/-- The groups an operand touches, each with the rows of the operand that lie in it. -/
def groupSlices (o : Opnd) : List (Nat × Nat × Nat) :=
  let g0 := o.row0 / 128
  (List.range ((o.row0 + o.rows - 1) / 128 - g0 + 1)).map (fun i =>
    let g := g0 + i
    let lo := max o.row0 (128 * g)
    let hi := min (o.row0 + o.rows) (128 * g + 128)
    (g, lo - o.row0, hi - lo))

/-- Where a Rebake slot's planes lie for an operand of one group (R136). -/
def slotOpnd (o : Opnd) (base g rows : Nat) : Opnd :=
  let pc := padCols o
  let nb := tensorBlocks o.sq rows o.tcols
  let len := if o.narrow then nb * blockBytes o.fmt else rows * pc * (fmtWidth o.fmt / 8)
  let sc := alignUp (base + len) 256
  { o with dev := true, data := base, scale := sc, rho := alignUp (sc + nb) 64, pr := o.row0 - 128 * g, pc := o.col0, scols := pc }

/-- The planes of a window's data where the group that it lies in has been converted again into a Rebake slot in the window's format: a
load reads from the slot (R136). -/
def fromSlot (s : State) (o : Opnd) : Opnd :=
  match s.groups.find? (fun e => e.2.base == o.data && e.2.group == o.row0 / 128 && bit (devNat s e.1 64) 432) with
  | some (_, { slot := some (f, base, rows), .. }) => if o.dev && f == o.fmt then slotOpnd o base (o.row0 / 128) rows else o
  | _ => o

/-- Columns c to c + k − 1 of an operand. -/
def Opnd.columns (o : Opnd) (c k : Nat) : Opnd := { o with cols := k, pc := o.pc + c, col0 := o.col0 + c }

/-- The parts in which a move runs: one, but for groups that lie in a slot. -/
def moveParts (s : State) (src dst : Opnd) : List (Opnd × Opnd) :=
  let ps := (groupSlices src).map (fun (_, r, k) => (fromSlot s (src.slice r k), if src.trans then dst.columns r k else dst.slice r k))
  if ps.all (fun p => p.1.data == src.data) then [(src, dst)] else ps

/-! ### Data of decision groups (R137, R138; log 43) -/

/-- Whether two runs share a byte. -/
def overlaps (a n b m : Nat) : Bool := decide (a < b + m) && decide (b < a + n)

/-- The groups whose data lie in some runs of a space. -/
def feedsOn (s : State) (v : VRef) (dev : Bool) (rs : List Run) : List Group :=
  ((s.feeds.filter (fun f => f.v == (if dev then none else some v) && rs.any (fun r => overlaps f.addr f.len r.1 r.2))).map
    Feed.grp).eraseDups

/-- Mark runs of a space as holding data of some groups. -/
def feedsAt (v : VRef) (dev : Bool) (rs : List Run) (gs : List Group) : List Feed :=
  rs.flatMap (fun r => gs.map (fun g => ⟨if dev then none else some v, r.1, r.2, g⟩))

/-- Outputs have landed: what they overwrite is no group's data any more, and what a group had under another tag is superseded. -/
def landFeeds (s : State) (v : VRef) (outs : List OutLoc) (new : List Feed) : State :=
  { s with feeds := s.feeds.filter (fun f =>
      !outs.any (fun l => f.v == (if l.dev then none else some v) && overlaps f.addr f.len l.addr l.len) &&
      !new.any (fun m => m.grp.gsr == f.grp.gsr && m.grp != f.grp)) ++ new }

/-- What a group has come to (R137, R138): none while its verdict is pending; else whether it is suspect. A group of an attempt
that is over awaits nothing. -/
def groupFinal (s : State) (n : Nat) (g : Group) : Option Bool :=
  let r := devNat s g.gsr 64
  let mine := g.step.toNat * 65536 + g.attempt.toNat
  if mine < bits r 63 0 * 65536 + bits r 79 64 || mine < (curStep s n).toNat * 65536 + (s.cmt n).attempt.toNat then some false
  else if mine == bits r 63 0 * 65536 + bits r 79 64 && bit r 86 && (bits r 89 87 == 0 || bits r 89 87 == 5) then some (bit r 90)
  else none

def groupsPending (s : State) (n : Nat) (gs : List Group) : Bool := gs.any (fun g => (groupFinal s n g).isNone)
def groupsSuspect (s : State) (n : Nat) (gs : List Group) : Bool := gs.any (fun g => groupFinal s n g == some true)

/-- Verdicts and counts of feeding groups, as a check compares them (R402, R404). -/
def groupBytes (s : State) (gs : List Group) : List Byte := gs.flatMap (fun g => devBytes s g.gsr 64)

/-- The rounding of elements of an output under its format word (R194). -/
def wideRnd (w : Nat) (seed : Word64) (stream : Word32) (step : Word64) (i : Nat) : Rnd :=
  rndOf (fmtwRnd w) seed stream step i

end Sys2Proof.Machine
end

