-- ==== Sys2Proof/Machine/Records.lean ====
section
/-! DEFINITION. Exact partial records (R92) and the save record of a virtual core (R256 to R258). -/

namespace Sys2Proof.Machine

open Sys2Proof

/-! ### Exact partial records (R81, R92) -/

/-- Bytes of one record element. -/
def elemBytes (paired : Bool) : Nat := if paired then 32 else 16

/-- The code of a LACC element in a record. -/
def elemCode (paired : Bool) (e : Option Int) : Nat :=
  let w := 8 * elemBytes paired
  match e with
  | none => 2 ^ (w - 1)
  | some v => ofSigned w v

/-- The element of a record code. -/
def elemOfCode (paired : Bool) (c : Nat) : Option Int :=
  let w := 8 * elemBytes paired
  if c = 2 ^ (w - 1) then none else some (toSigned w c)

/-- The residue modulo 127 of an element or a term; 127 stands for NaN (R100, log 42). -/
def residue (e : Option Int) : BitVec 7 := match e with | none => 127#7 | some a => BitVec.ofNat 7 (a % 127).toNat

/-- A stored residue advanced by a term's (R100): NaN stays. -/
def advanceRes (a t : BitVec 7) : BitVec 7 := if a = 127#7 ∨ t = 127#7 then 127#7 else BitVec.ofNat 7 ((a.toNat + t.toNat) % 127)

/-- A stored element disagrees with its residue (R100): on a NaN element only the NaN state counts (R101). -/
def resBad (l : Lacc) : Bool := !l.t3 && (l.elems.zip l.res).any (fun p => residue p.1 != p.2)

/-- The residues set from the values of a record (R100); T3 elements have none. -/
def setRes (l : Lacc) : Lacc := { l with res := if l.t3 then [] else l.elems.map residue }

/-- Whether an element is NaN: a T3 element holds FP32 bits. -/
def laccNan (t3 : Bool) (e : Option Int) : Bool :=
  match e with
  | none => true
  | some v => t3 && (fpDecode fp32 (ofSigned 32 v)).isNan

/-- The 16-byte header of the record of a buffer (R92). -/
def recHeader (l : Lacc) : Nat :=
  if !l.data then 2 ^ 29
  else
    ofSigned 16 l.frame + l.fmtA % 16 * 2 ^ 16 + l.fmtB % 16 * 2 ^ 20 + b2n l.susp * 2 ^ 24 + b2n l.paired * 2 ^ 25 +
    b2n (l.elems.any (laccNan l.t3)) * 2 ^ 26 + b2n l.t3 * 2 ^ 27 + b2n l.closed * 2 ^ 28 + l.kcount % 2 ^ 21 * 2 ^ 32 +
    (l.m - 1) % 2 ^ 7 * 2 ^ 64 + (l.n - 1) % 2 ^ 7 * 2 ^ 71

/-- The bytes of a buffer's record: a header alone for a buffer that holds no data. -/
def recBytes (l : Lacc) : List Byte :=
  natToBytes 16 (recHeader l) ++
  (if l.data then l.elems.flatMap (fun e => natToBytes (elemBytes l.paired) (elemCode l.paired e)) else [])

/-- Bytes of the record that a header announces. -/
def recLen (h : Nat) : Nat :=
  if bit h 29 then 16 else 16 + (bits h 70 64 + 1) * (bits h 77 71 + 1) * elemBytes (bit h 25)

/-- The buffer that a record describes; an element from poisoned bytes under NAN reads as NaN (R290). -/
def recParse (h : Nat) (body : List PByte) : Lacc :=
  if bit h 29 then {}
  else
    let p := bit h 25
    let m := bits h 70 64 + 1
    let n := bits h 77 71 + 1
    let w := elemBytes p
    let b : Lacc := {
      data := true, frame := toSigned 16 (bits h 15 0), fmtA := bits h 19 16, fmtB := bits h 23 20, paired := p,
      t3 := bit h 27, closed := bit h 28, m := m, n := n, kcount := bits h 52 32, susp := bit h 24,
      elems := (List.range (m * n)).map (fun i =>
        let bs := (body.drop (i * w)).take w
        if (strongest bs).isSome then (if bit h 27 then some (fp32.qnan : Int) else none)
        else elemOfCode p (bytesToNat (bs.map Prod.fst))) }
    setRes b

/-! ### Save records (R256, R257) -/

/-- A buffer of a LACC set: 0 for A0 to 3 for B1. -/
def LaccSet.get (l : LaccSet) (i : Nat) : Lacc := match i with | 0 => l.a0 | 1 => l.a1 | 2 => l.b0 | _ => l.b1
def LaccSet.set (l : LaccSet) (i : Nat) (b : Lacc) : LaccSet :=
  match i with | 0 => { l with a0 := b } | 1 => { l with a1 := b } | 2 => { l with b0 := b } | _ => { l with b1 := b }

/-- The visible tokens of a queue, head first. -/
def qTokens (x : Vcore) (n : Nat) : List Token := (x.q n).filterMap QSlot.tok

/-- A code for a return position: its index (the stack is empty at a top-level save). -/
def saveHeader (crc : Word32) (vc : Nat) (x : Vcore) : Nat :=
  let kc := fun i => tgetD x.k i {}
  let mask := (List.range 4).foldl (fun a i => a + b2n (x.lacc.get i).data * 2 ^ i) 0
  let cap := (List.range 4).foldl (fun a i => a + b2n ((x.lacc.get i).data && (x.lacc.get i).scales.isSome) * 2 ^ i) 0
  crc.toNat + vc % 256 * 2 ^ 32 + 1 * 2 ^ 40 + x.replay % 2 ^ 32 * 2 ^ 64 + x.pos.idx % 2 ^ 16 * 2 ^ 96 +
  x.cmp.toNat * 2 ^ 176 + ((List.range 8).foldl (fun a i => a + b2n (kc i).active * 2 ^ i) 0) * 2 ^ 180 + mask * 2 ^ 188 +
  ((List.range 8).foldl (fun a i => a + ((kc i).index.toNat + (kc i).limit.toNat * 2 ^ 32 + (kc i).start % 2 ^ 16 * 2 ^ 64 +
    (kc i).len % 2 ^ 12 * 2 ^ 80) * 2 ^ (96 * i)) 0) * 2 ^ 192 +
  ((List.range 16).foldl (fun a q => a + min (qTokens x q).length (qCap q) * 2 ^ (6 * q)) 0) * 2 ^ 960 +
  b2n x.haltPend * 2 ^ 1056 + cap * 2 ^ 1057 + x.winSize / 65536 * 2 ^ 1088

/-- The record of one buffer with its captured row scales, padded to 64 B. -/
def saveLacc (l : Lacc) : List Byte :=
  if !l.data then []
  else recBytes l ++ (match l.scales with
    | some (a, b) =>
      let bs := (a ++ b).flatMap (fun w => natToBytes 4 w.toNat)
      bs ++ List.replicate (alignUp bs.length 64 - bs.length) 0
    | none => [])

/-- Everything of a save record before the scratch window. -/
def saveFront (crc : Word32) (vc : Nat) (x : Vcore) : List Byte :=
  let head := natToBytes 256 (saveHeader crc vc x)
  let p := (List.range 64).flatMap (fun i => natToBytes 8 (tgetD x.p i 0).toNat)
  let rng := natToBytes 8 x.jseed.toNat ++ natToBytes 8 x.step.toNat
  let qs := (List.range 16).flatMap (fun q =>
    let ts := (qTokens x q).take (qCap q)
    (ts.flatMap (fun t => natToBytes 8 (tokWord t).toNat)) ++ List.replicate (8 * (32 - ts.length)) 0)
  let front := head ++ p ++ rng ++ List.replicate 240 0 ++ qs ++ (List.range 4).flatMap (fun i => saveLacc (x.lacc.get i))
  front ++ List.replicate (alignUp front.length 65536 - front.length) 0

/-- The save record of a virtual core, with the poison of its window. -/
def saveRecord (crc : Word32) (vc : Nat) (x : Vcore) : List PByte :=
  clean (saveFront crc vc x) ++ (PMem.mk x.win x.winPoison).read 0 x.winSize

/-- Read the buffers that a save record holds: `i` is the next buffer and `off` its offset. -/
def loadLaccs (rd : Nat → PByte) (hdr : Nat) : List Nat → Nat → LaccSet → LaccSet × Nat
  | [], off, l => (l, off)
  | i :: is, off, l =>
    if bit hdr (188 + i) then
      let h := rdNat rd off 16
      let n := recLen h
      let b := recParse h ((rdRun rd off n).drop 16)
      if bit hdr (1057 + i) then
        let ra := (List.range b.m).map (fun j => BitVec.ofNat 32 (rdNat rd (off + n + 4 * j) 4))
        let rb := (List.range b.n).map (fun j => BitVec.ofNat 32 (rdNat rd (off + n + 4 * (b.m + j)) 4))
        loadLaccs rd hdr is (off + n + alignUp (4 * (b.m + b.n)) 64) (l.set i { b with scales := some (ra, rb) })
      else loadLaccs rd hdr is (off + n) (l.set i b)
    else loadLaccs rd hdr is off l

/-- The virtual core that a save record at `off` describes; its place is set by the mapping (R258). It stands at a top-level quiescent
boundary, where it was saved. DEDUCED (log 19): a NEXT of 0 stands before the patch of its replay, which gives the same state again where
it had been applied, since nothing has been issued. -/
def loadRecord (rd : Nat → PByte) (off : Nat) : Vcore :=
  let h := rdNat rd off 256
  let rd' := fun a => rd (off + a)
  let (laccs, fin) := loadLaccs rd' h [0, 1, 2, 3] 5120 {}
  let ws := bits h 1103 1088 * 65536
  let wbase := alignUp fin 65536
  let wb := rdRun rd' wbase ws
  let m := (PMem.mk [] []).write 0 wb
  { p := ((List.range 64).map (fun i => (i, BitVec.ofNat 64 (rdNat rd' (256 + 8 * i) 8)))).filter (fun e => e.2 != 0),
    k := ((List.range 8).map (fun i =>
      let b := bits h (192 + 96 * i + 95) (192 + 96 * i)
      (i, ({ active := bit h (180 + i), index := BitVec.ofNat 32 (bits b 31 0), limit := BitVec.ofNat 32 (bits b 63 32),
             start := bits b 79 64, len := bits b 91 80 } : Counter)))).filter (fun e => e.2.active),
    cmp := BitVec.ofNat 4 (bits h 179 176), pos := { sec := none, idx := bits h 111 96 },
    queues := ((List.range 16).map (fun q => (q, (List.range (bits h (960 + 6 * q + 5) (960 + 6 * q))).map (fun i =>
      QSlot.mk 0 (some (wordTok (BitVec.ofNat 64 (rdNat rd' (1024 + 256 * q + 8 * i) 8)))))))).filter (fun e => !e.2.isEmpty),
    winSize := ws, win := m.bytes, winPoison := m.poison, jseed := BitVec.ofNat 64 (rdNat rd' 768 8),
    step := BitVec.ofNat 64 (rdNat rd' 776 8), replay := bits h 95 64, waitPatch := bits h 111 96 == 0, applied := bits h 111 96 != 0, lacc := laccs,
    haltPend := bit h 1056, stand := if bits h 111 96 = 0 then .inside else .afterRet }

end Sys2Proof.Machine
end

