-- ==== Sys2Proof/Machine/Rom.lean ====
section
/-! DEFINITION. The ROM routines (R243, R245). The manual prints no body. DESIGN CHOICE (log 11): three of the routines that it names have
bodies here that do what it says of them; every other body is open. -/

namespace Sys2Proof.Machine

open Sys2Proof

/-- An instruction word from its fields (R226). -/
def ululy (op s1 s2 s3 d1 d2 imm : Nat) : Word64 :=
  BitVec.ofNat 64 (op + s1 * 2 ^ 8 + s2 * 2 ^ 15 + s3 * 2 ^ 22 + d1 * 2 ^ 29 + d2 * 2 ^ 34 + imm * 2 ^ 40)

/-- The selectors of a parameter register, of no source, of a queue's head to pop, and of one to read; an enabled destination (R226, R227). -/
def selP (i : Nat) : Nat := 0x40 + i
def selNo : Nat := 0x3F
def selPop (q : Nat) : Nat := q
def selPeek (q : Nat) : Nat := 0x10 + q
def toQ (q : Nat) : Nat := 0x10 + q

/-- Control instructions as the bodies use them (R233). -/
def uPset (i src : Nat) : Word64 := ululy 0x08 src selNo selNo 0 0 i
def uPsetMax (i : Nat) : Word64 := ululy 0x08 selNo selNo selNo 0 0 (i + 0x3FFFF * 2 ^ 6)
def uPsetOne (i : Nat) : Word64 := ululy 0x08 selNo selNo selNo 0 0 (i + 2 ^ 6)
def uLoop (k n src : Nat) : Word64 := ululy 0x04 src selNo selNo 0 0 (k + n * 2 ^ 3)
def uCmpAny (c src mask : Nat) : Word64 := ululy 0x05 src selNo selNo 0 0 (c + 6 * 2 ^ 2 + mask * 2 ^ 9)
def uCmpKind (c src kind : Nat) : Word64 := ululy 0x05 src selNo selNo 0 0 (c + 7 * 2 ^ 2 + kind * 2 ^ 9)
def uSkip (c sense n : Nat) : Word64 := ululy 0x06 selNo selNo selNo 0 0 (c + sense * 2 ^ 2 + n * 2 ^ 3)
def uRet : Word64 := ululy 0x03 selNo selNo selNo 0 0 0
def uYield : Word64 := ululy 0x07 selNo selNo selNo 0 0 0
def uNop : Word64 := ululy 0x00 selNo selNo selNo 0 0 0

/-- STEP_END (R245): pop Q0 at a YIELD until the token is not RELEASED (5), and leave it in P48. -/
def stepEndBody : List Word64 :=
  [uPsetMax 49, uLoop 4 7 (selP 49), uYield, uPset 48 (selPop 0), uCmpAny 2 (selP 48) 1, uCmpAny 3 (selP 48) 4, uSkip 2 0 1, uSkip 3 1 1,
   uRet, uRet]

/-- BUCKET_REDUCE (R245): COLL under the descriptor P62, then VNORM under the VJD P63, whose token is left in Q12. -/
def bucketReduceBody : List Word64 :=
  [ululy 0x14 (selP 62) selNo selNo (toQ 14) 0 0, uCmpAny 2 (selPeek 14) 0, ululy 0x43 (selP 63) (selPop 14) selNo (toQ 12) 0 0,
   uCmpAny 2 (selPeek 12) 0, uRet]

/-- VERDICT_GATE (R245): the wait of `verdictWaitBody` for each group from P62 on under the CVD P61, then a token in Q12. -/
def verdictGateBody : List Word64 :=
  [uPset 51 (selP 61), uPset 52 (selP 62), uPsetOne 54, uLoop 5 2 (selP 63), ululy 0x0A (selP 52) (selP 54) selNo 0 0 (53 + 5 * 2 ^ 6),
   ululy 0x02 (selP 51) (selP 53) selNo 0 0 0x049, ululy 0x0C (selP 52) selNo selNo (toQ 12) 0 0, uRet]

/-- Wait until group P62 has ACCEPT (0) or CEILING (5) under the CVD P61, or VWAIT gives ERROR. -/
def verdictWaitBody : List Word64 :=
  [uPsetMax 49, uLoop 4 14 (selP 49), ululy 0x31 (selP 61) (selP 62) selNo (toQ 14) 0 0, uPset 50 (selPop 14),
   uCmpKind 2 (selP 50) 4, uSkip 2 0 1, uRet, uCmpAny 2 (selP 50) 2, uSkip 2 1 7, uCmpAny 2 (selP 50) 1, uCmpAny 3 (selP 50) 4,
   uSkip 2 1 2, uSkip 3 1 3, uRet, uSkip 3 0 1, uRet, uRet]

/-- The Ululy words of a ROM routine (R243). -/
def romBody (id : Nat) : List Word64 :=
  match id with
  | 0x048 => verdictGateBody
  | 0x049 => verdictWaitBody
  | 0x080 => bucketReduceBody
  | 0x0C0 => stepEndBody
  | _ => Config.romRoutine id

/-- What R245 says of a named routine: arguments, and result tokens in Q12 where their number is fixed. -/
def namedRoutine : Nat → Option (Nat × Option Nat)
  | 0x008 => some (3, none)
  | 0x040 => some (3, some 1)
  | 0x041 => some (3, none)
  | 0x048 => some (3, some 1)
  | 0x080 => some (3, some 1)
  | 0x0C0 => some (0, some 0)
  | _ => none

/-- The interface record of a ROM routine (R245): the fields that the manual states, and open ones (log 11). STEP_END waits on Q0. -/
def romRecord (id : Nat) : BitVec 256 :=
  let open_ := (Config.routineRecord id).toNat
  let r := setBits (setBits (setBits (setBits open_ 8 0 id) 23 22 0) 95 64 Config.romVersion) 255 96 0
  BitVec.ofNat 256 (match namedRoutine id with
    | some (args, q12) =>
      let r := setBits (setBits r 11 9 args) 19 16 0
      let r := match q12 with | some k => setBits r 15 12 k | none => r
      if id = 0x0C0 then setBits r 21 21 1 else r
    | none => r)

end Sys2Proof.Machine
end

