-- ==== Sys2Proof/Machine/Issue.lean ====
section
/-! DEFINITION. The issue unit of a core: fetch, routine boundaries, saves and bank swaps at them, the control instructions
(R233), calls (R244), dispatch to the units (R223), replays and patching (R239 to R242), control tokens (R220, R221) and
switching (R248). -/

namespace Sys2Proof.Machine

open Sys2Proof

/-! ### Completion of a command that finishes later -/

/-- Key under which the entries of an origin other than a ring wait. -/
def originKey : Origin → Nat
  | .ring _ _ _ => 0
  | .remote slot r => slot * 8 + r
  | .oob => 512

/-- The entry that an origin is executing. -/
def originEntry (s : State) : Origin → Option Entry
  | .ring fn ch r => (s.ring fn ch r).fetched.head?
  | o => (tgetD s.host.remote (originKey o) []).head?

/-- A completion entry (R370), without its phase and SQHEAD. -/
def cplBits (cid : Word16) (status : Nat) (result : Nat) : BitVec 128 :=
  BitVec.ofNat 128 (cid.toNat + status % 256 * 2 ^ 16 + result % 2 ^ 64 * 2 ^ 64)

/-- Finish the command that an origin is executing: a ring's completion waits for COMPLETION_POST. A ring that was reset
while its command ran posts nothing (R359, R368). -/
def finish (s : State) (o : Origin) (status result : Nat) : State :=
  let cid := match originEntry s o with | some e => BitVec.ofNat 16 (fld e 31 16) | none => 0#16
  match o with
  | .ring fn ch r => s.modRing fn ch r (fun x =>
      if x.fetched.isEmpty then x
      else { x with running := false, done := some ⟨cid, BitVec.ofNat 8 status, BitVec.ofNat 64 result⟩ })
  | .remote slot r =>
    (s.modHost (fun h => { h with remote := tmod h.remote (slot * 8 + r) [] List.tail,
                                   remoteBells := tmod h.remoteBells (slot * 8 + r) [] List.tail,
                                   remoteRunning := h.remoteRunning.filter (· != slot * 8 + r) })).emit
      (.mgmt slot (.completion r (cplBits cid status result)))
  | .oob => s.modHost (fun h => { h with remote := tmod h.remote 512 [] List.tail,
                                          remoteBells := tmod h.remoteBells 512 [] List.tail,
                                          remoteRunning := h.remoteRunning.filter (· != 512),
                                          reply := some (.mgmt (natToBytes 16 (cplBits cid status result).toNat)) })

/-! ### Contexts -/

/-- Raise a class-7 event of a virtual core (R375). -/
def raiseVc (s : State) (v : VRef) (code fault idx : Nat) : State :=
  match s.vc? v with
  | some x => raiseCtx s code v.ctx (data7 v.vc x.core fault idx)
  | none => raiseCtx s code v.ctx (data7 v.vc 0 fault idx)

/-- A CTX_SAVE that can no longer end completes with a status. -/
def endSave (s : State) (k status : Nat) : State :=
  match s.ctx? k with
  | some c => match c.saving with
    | some (o, _) => finish (s.modCtx k (fun c => { c with saving := none })) o status 0
    | none => s
  | none => s

/-- Stop a context (R259, R290): a save of it can no longer end. -/
def stopCtx (s : State) (k : Nat) : State := endSave (s.modCtx k (fun c => { c with st := .stopped })) k 7

/-- A program fault (R259, R262). -/
def progFault (s : State) (v : VRef) (x : Vcore) (code : Nat) : State :=
  let s := s.modCore x.core (fun r => if r.issFault.getLsbD 0 then r else
    { r with issFault := BitVec.ofNat 64 (1 + code * 2 ^ 4 + v.ctx % 64 * 2 ^ 8 + 2 ^ 14 + x.pos.idx % 2 ^ 16 * 2 ^ 16 +
      v.vc % 256 * 2 ^ 32) })
  stopCtx (raiseVc s v 0x7004 code x.pos.idx) v.ctx

/-- What poison does to the context that consumes it (R290): its event, and the contexts it stops. A context already
stopped raises nothing (R293). -/
def poisonCtx (s : State) (k : Nat) (p : Policy) (da : Nat) : State :=
  match s.ctx? k with
  | none => s
  | some c =>
    if c.st = .stopped then s
    else
      let s := s.modPart c.part (fun q => { q with poisonc := satInc q.poisonc })
      match p with
      | .partition => (partCtxs s c.part).foldl (fun t j => stopCtx t j) (raiseCtx s 0x2303 k (data2 da 0 (regionOf da)))
      | _ => stopCtx (raiseCtx s 0x2301 k (data2 da 0 (regionOf da))) k

/-- A refused access counts for its partition (R301). -/
def refusedAccess (s : State) (n code : Nat) : State := if code = 0x2001 ∨ code = 0x2002 then countRefused s n else s

/-- Add to the MAPS count of every region of a list of ranges (R265, R385). -/
def addMaps (s : State) (rs : List (Nat × Nat)) (up : Bool) : State :=
  rs.foldl (fun t r => (List.range r.2).foldl (fun u i =>
    let e := entry u (r.1 + i)
    putEntry u (r.1 + i) (setFld e 39 32 (if up then reMaps e + 1 else reMaps e - 1))) t) s

/-- The loadable bodies that the contexts of a partition carry (R246; DEDUCED, log 19). -/
def keepRoutines (s : State) (n : Nat) : State :=
  let used := fun (id : Nat) => s.ctxs.any (fun c => c.2.part == n && (tget c.2.image.routines id).isSome)
  s.modPart n (fun p => { p with routines := p.routines.filter (fun r => used r.1) })

/-- A group whose CGROUP_CLEAR waits goes with its last collective (R382). -/
def groupDone (s : State) (g : Nat) : State :=
  match tget s.fab.groups g with
  | some x => match x.clearing with
    | some o => if s.fab.colls.any (fun c => c.group == g && !c.done) then s
      else finish (s.modFab (fun b => { b with groups := tdel b.groups g })) o 0 0
    | none => s
  | none => s

/-- The groups whose last collective has gone. -/
def groupsDone (s : State) : State := s.fab.groups.foldl (fun t g => groupDone t g.1) s

/-- A context ends to exist (R28, R385): its regions' MAPS fall, and its slots, its messages and its bodies go. -/
def removeCtx (s : State) (k : Nat) : State :=
  match s.ctx? k with
  | none => s
  | some c =>
    let s := addMaps s c.regions false
    let s := c.rcvRegions.foldl (fun t r => putEntry t r 0) s
    let s := endSave s k 9
    let s := { s with
      ctxs := tdel s.ctxs k,
      feeds := s.feeds.filter (fun f => match f.v with | some v => v.ctx != k | none => true),
      cores := tmap s.cores (fun _ r => { r with
        slots := r.slots.filter (fun p => p.2.ctx != k),
        issuing := if r.slots.any (fun p => p.2.ctx == k && some p.1 == r.issuing) then none else r.issuing,
        isol := if r.isol == some k then none else r.isol }),
      parts := tmap s.parts (fun _ p => { p with isol := if p.isol == some k then none else p.isol }) }
    let s := s.modFab (fun b => { b with
      colls := b.colls.filter (fun x => x.v.ctx != k), early := b.early.filter (fun x => x.1.ctx != k),
      earlySums := b.earlySums.filter (fun x => x.1.ctx != k), sends := b.sends.filter (fun x => x.v.ctx != k) })
    let s := s.modRel (fun r => { r with recover := r.recover.filter (· != k), suspects := tmap r.suspects (fun _ l => l.filter (· != k)) })
    keepRoutines (groupsDone s) c.part

/-- Whether a context being destroyed still has operations to complete (R385): those started whose result is not awaited
from elsewhere (DEDUCED, log 19). -/
def opsLeft (c : Ctx) : Bool := c.vcs.any (fun x => x.2.ops.any (fun o => o.phase != .queued && !o.held))

/-- Destroy a context; a CTX_DESTROY that runs for it is complete. -/
def endCtx (s : State) (k : Nat) : State :=
  match (s.ctx? k).bind (·.destroying) with
  | some o => finish (removeCtx s k) o 0 0
  | none => removeCtx s k

/-- Complete a CTX_DESTROY when its context's operations have completed. -/
def destroyDone (s : State) (k : Nat) : State :=
  match s.ctx? k with
  | some c => if c.destroying.isSome && !opsLeft c then endCtx s k else s
  | none => s

/-! ### Fetch and routine boundaries -/

/-- The body of a routine (R243, R246); none when a loadable body has been removed. -/
def routineBody (s : State) (c : Ctx) (id : Nat) : Option (List Word64) :=
  if id < 0x180 then some (romBody id) else tget (s.part c.part).routines id

/-- The next instruction of a virtual core. -/
def nextWord (s : State) (c : Ctx) (v : VRef) (x : Vcore) : Option Word64 :=
  match x.pos.sec with
  | none => (tget c.image.code v.vc).bind (fun ws => ws[x.pos.idx]?)
  | some id => (routineBody s c id).bind (fun ws => ws[x.pos.idx]?)

/-- A routine boundary (R247): before a top-level CALL or an END, after a top-level RET, or at a YIELD, before it or after. -/
def atBoundary (x : Vcore) (w : Word64) : Bool :=
  (x.rstack.isEmpty && (opOf w == 0x02 || opOf w == 0x01)) || opOf w == 0x07 || x.stand != .inside

/-- A boundary at which HALTED stops issue (R220): a virtual core that already waits after a YIELD goes on to its next boundary,
as STEP_END does with the HALTED token that it pops (R245; DEDUCED, log 25). -/
def haltBoundary (x : Vcore) (w : Word64) : Bool := atBoundary { x with stand := if x.stand = .afterYield then .inside else x.stand } w

/-- Nothing in flight and no routine results left before an instruction (R247); before END, which discards tokens, nothing in flight. -/
def isQuiet (x : Vcore) (w : Word64) : Bool :=
  x.ops.isEmpty && (opOf w == 0x01 || (List.range 4).all (fun i => (x.q (12 + i)).isEmpty))

/-- Take the save of one virtual core for CTX_SAVE (R256, R385): the record goes to the next 64 KiB boundary of the area;
the last one completes the command. -/
def saveVc (s : State) (v : VRef) : State :=
  match s.ctx? v.ctx, s.vc? v with
  | some c, some x =>
    match c.saving with
    | some (o, stop, base, done, len) =>
      if done.contains v.vc then s
      else
        let rec_ := saveRecord c.image.crc v.vc x
        match accessRefusal s (.part c.part) (base + len) rec_.length with
        | some code =>
          finish (raiseCtx (refusedAccess s c.part code) code v.ctx (data2 base 0 (regionOf base)) |>.modCtx v.ctx
            (fun c => { c with saving := none })) o 0x0B code
        | none =>
          let s := devWrite s (base + len) rec_
          let s := devWrite s (base + 8 * v.vc) (clean (natToBytes 8 len))
          let done := v.vc :: done
          let len := alignUp (len + rec_.length) 65536
          if done.length = c.vcs.length then
            finish (s.modCtx v.ctx (fun c => { c with saving := none, st := if stop then .halted else c.st })) o 0 len
          else s.modCtx v.ctx (fun c => { c with saving := some (o, stop, base, done, len) })
    | none => s
  | _, _ => s

/-- Whether a virtual core is at a quiescent boundary (R247). -/
def quiescent (s : State) (c : Ctx) (v : VRef) (x : Vcore) : Bool :=
  x.waitPatch || (match nextWord s c v x with | some w => isQuiet x w && atBoundary x w | none => x.ops.isEmpty)

/-- A virtual core that stands at a top-level quiescent boundary is saved, where CTX_SAVE waits for it (R256, R385). -/
def trySave (s : State) (v : VRef) : State :=
  match s.ctx? v.ctx, s.vc? v with
  | some c, some x => if x.rstack.isEmpty && quiescent s c v x then saveVc s v else s
  | _, _ => s

/-- A swap of banks that falls due at a boundary before the next instruction (R250): a virtual core whose own code changed
swaps at its END. -/
def boundaryWork (s : State) (v : VRef) (x : Vcore) (w : Word64) : State :=
  if !atBoundary x w then s
  else match x.swapDue with
    | some own => if !own || opOf w == 0x01 then s.modVc v (fun y => { y with bank := !y.bank, swapDue := none }) else s
    | none => s

/-- Whether a virtual core is held at a boundary: by a HALTED token (R220), by PART_IDLE or a power state (R384, R450),
or by CTX_SAVE with STOP (R385). -/
def heldAt (s : State) (c : Ctx) (v : VRef) (x : Vcore) (w : Word64) : Bool :=
  let b := atBoundary x w
  (x.haltPend && haltBoundary x w) || (((s.part c.part).idle || s.pwr.st != .run || s.pwr.goal.isSome) && b && isQuiet x w) ||
  (match c.saving with | some (_, stop, _, done, _) => stop && done.contains v.vc | none => false)

/-- Whether no isolation keeps a context of a partition from issuing on a core (R417): that of the core, or where an update engine has
failed that of the partition. -/
def isolAllows (s : State) (core part k : Nat) : Bool :=
  ((s.core core).isol.isNone || (s.core core).isol == some k) && ((s.part part).isol.isNone || (s.part part).isol == some k)

/-- Whether the virtual core may issue an instruction with opcode `op` now (R223, R248, R417). -/
def canIssue (s : State) (v : VRef) (op : Nat → Bool) : Option (Ctx × Vcore × Word64) :=
  match s.ctx? v.ctx with
  | none => none
  | some c =>
    match tget c.vcs v.vc with
    | none => none
    | some x =>
      match nextWord s c v x with
      | none => none
      | some w =>
        let r := s.core x.core
        if c.st = .running ∧ !x.waitPatch ∧ r.issuing = some x.slot ∧ isolAllows s x.core c.part v.ctx ∧ op (opOf w) ∧
           !heldAt s c v x w ∧ !coreStopped s x.core ∧ (s.pwr.st = .run ∨ s.pwr.st = .idle) then some (c, x, w) else none

/-- Issue one instruction: a swap that is due at a boundary first; a save that falls due where the instruction leaves the
virtual core is taken at once, before any swap there (R250). -/
def issueWith (s : State) (v : VRef) (op : Nat → Bool) (f : State → Ctx → Vcore → Word64 → State) : State :=
  match canIssue s v op with
  | none => s
  | some (_, x, w) =>
    let s := boundaryWork s v x w
    match canIssue s v op with
    | none => s
    | some (c, x, w) => trySave (f s c x w) v

/-! ### Position and counters (R233) -/

/-- At the end of a loop body, run it again or leave it; loops that end at one point end from the inside out. -/
def loopEnd : Nat → Vcore → Vcore
  | 0, x => x
  | fuel + 1, x =>
    let here := x.k.filter (fun p => p.2.active && p.2.depth == x.rstack.length && p.2.start + p.2.len == x.pos.idx)
    match here.foldl (fun (a : Option (Nat × Counter)) p => match a with
      | none => some p
      | some q => if q.2.start < p.2.start then some p else some q) none with
    | none => x
    | some (i, c) =>
      if c.index.toNat + 1 < c.limit.toNat then
        { x with k := tput x.k i { c with index := c.index + 1 }, pos := { x.pos with idx := c.start } }
      else loopEnd fuel { x with k := tdel x.k i }

/-- Go to index `i` of the section. -/
def goTo (x : Vcore) (i : Nat) : Vcore := loopEnd 8 { x with pos := { x.pos with idx := i }, stand := .inside }

/-- Go to the next instruction. -/
def advance (x : Vcore) : Vcore := goTo x (x.pos.idx + 1)

/-- Set a parameter register. -/
def setP (x : Vcore) (i : Nat) (v : Word64) : Vcore := { x with p := tput x.p i v }

/-- The index of a loop counter. -/
def kIndex (x : Vcore) (i : Nat) : Word64 := BitVec.ofNat 64 (tgetD x.k i {}).index.toNat

/-- Take two sources in order. -/
def takeTwo (x : Vcore) (w : Word64) : Option (Word64 × Word64 × Vcore) :=
  match takeSrc x (s1Of w) (selParam x (s1Of w)) with
  | none => none
  | some (a, _, x1) =>
    match takeSrc x1 (s2Of w) (selParam x (s2Of w)) with
    | none => none
    | some (b, _, x2) => some (a, b, x2)

/-- The selector "none". -/
def selNone : Nat := 0x3F

/-- Replace a virtual core. -/
def putVc (s : State) (v : VRef) (x : Vcore) : State := s.modVc v (fun _ => x)

/-! ### Control instructions -/

/-- NOP (R233). -/
def execNop (v : VRef) (s : State) : Host.Outcome State Fault Refusal :=
  .next (issueWith s v (· == 0x00) (fun s _ x _ => putVc s v (advance x)))

/-- Take a recovery save of a virtual core at its END (R418); two are kept. -/
def takeSave (c : Ctx) (vc : Nat) (x : Vcore) : Ctx :=
  if c.rcv && x.saveDue then
    let snap := { x with saveDue := false }
    let saves := tput c.saves vc ((snap :: tgetD c.saves vc []).take 2)
    let oldest := saves.foldl (fun a p => match p.2.getLast? with | some y => min a y.replay | none => a) x.replay
    { c with saves := saves, patches := c.patches.filter (fun p => decide (oldest ≤ p.1)), vcs := tput c.vcs vc snap }
  else { c with vcs := tput c.vcs vc x }

/-- END (R242): waits for every operation of the replay, then starts the wait for the next patch slot. -/
def execEnd (v : VRef) (s : State) : Host.Outcome State Fault Refusal :=
  .next (issueWith s v (· == 0x01) (fun s _ x _ =>
    if !x.ops.isEmpty then s
    else
      let y := { x with replay := x.replay + 1, waitPatch := true, applied := false, pos := {}, rstack := [], stand := .inside,
                        queues := x.queues.filter (fun q => decide (q.1 < 3)) }
      s.modCtx v.ctx (fun c => takeSave c v.vc y)))

/-- CALL (R244). -/
def execCall (v : VRef) (s : State) : Host.Outcome State Fault Refusal :=
  .next (issueWith s v (· == 0x02) (fun s c x w =>
    match takeTwo x w with
    | none => s
    | some (a, b, x2) =>
      match takeSrc x2 (s3Of w) (selParam x (s3Of w)) with
      | none => s
      | some (d, _, x3) =>
        let id := immBits w 8 0
        if 4 ≤ x.rstack.length then progFault s v x 0x1
        else if !((List.range 4).all (fun i => (x.q (12 + i)).isEmpty)) then progFault s v x 0x2
        else if (routineBody s c id).isNone then progFault s v x 0x4
        else
          let y := setP (setP (setP x3 61 a) 62 b) 63 d
          putVc s v { y with rstack := { x.pos with idx := x.pos.idx + 1 } :: x.rstack, pos := ⟨some id, 0⟩, stand := .inside }))

/-- RET (R244). It leaves the LOOP bodies of the routine, whose counters are active no more (R233). -/
def execRet (v : VRef) (s : State) : Host.Outcome State Fault Refusal :=
  .next (issueWith s v (· == 0x03) (fun s _ x _ =>
    if !((x.q 14).isEmpty && (x.q 15).isEmpty) then progFault s v x 0x2
    else match x.rstack with
      | [] => s
      | p :: r =>
        let y := { x with rstack := r, pos := p, k := x.k.filter (fun e => e.2.depth < x.rstack.length) }
        putVc s v { goTo y p.idx with stand := if r.isEmpty then .afterRet else .inside }))

/-- LOOP (R233). -/
def execLoop (v : VRef) (s : State) : Host.Outcome State Fault Refusal :=
  .next (issueWith s v (· == 0x04) (fun s _ x w =>
    match takeSrc x (s1Of w) (selParam x (s1Of w)) with
    | none => s
    | some (a, _, y) =>
      let count := if s1Of w = selNone then immBits w 23 15 else fld a 31 0
      let n := immBits w 14 3
      let i := x.pos.idx
      if count = 0 then putVc s v (goTo y (i + 1 + n))
      else
        let k : Counter := { active := true, index := 0, limit := BitVec.ofNat 32 count, start := i + 1, len := n,
                             depth := x.rstack.length }
        putVc s v { y with k := tput y.k (immBits w 2 0) k, pos := { x.pos with idx := i + 1 }, stand := .inside }))

/-- A comparison of R233. -/
def compare (cond : Nat) (a b : Word64) : Bool :=
  match cond with
  | 0 => a == b
  | 1 => a != b
  | 2 => decide (a.toNat < b.toNat)
  | 3 => decide (b.toNat ≤ a.toNat)
  | 4 => decide (a.toInt < b.toInt)
  | 5 => decide (b.toInt ≤ a.toInt)
  | 6 => a &&& b != 0
  | _ => fld a 50 48 == fld b 2 0

/-- CMP (R233). DEDUCED (log 19): the immediate right operand is zero-extended. -/
def execCmp (v : VRef) (s : State) : Host.Outcome State Fault Refusal :=
  .next (issueWith s v (· == 0x05) (fun s _ x w =>
    match takeTwo x w with
    | none => s
    | some (a, b, y) =>
      let l := if immBits w 5 5 = 1 then kIndex x (immBits w 8 6) else a
      let r := if s2Of w = selNone then BitVec.ofNat 64 (immBits w 23 9) else b
      let i := immBits w 1 0
      putVc s v (advance { y with cmp := setFld y.cmp i i (b2n (compare (immBits w 4 2) l r)) })))

/-- SKIP (R233). -/
def execSkip (v : VRef) (s : State) : Host.Outcome State Fault Refusal :=
  .next (issueWith s v (· == 0x06) (fun s _ x w =>
    let hit := x.cmp.getLsbD (immBits w 1 0) == (immBits w 2 2 == 1)
    putVc s v (if hit then goTo x (x.pos.idx + 1 + immBits w 14 3) else advance x)))

/-- YIELD (R233): it marks a routine boundary. -/
def execYield (v : VRef) (s : State) : Host.Outcome State Fault Refusal :=
  .next (issueWith s v (· == 0x07) (fun s _ x _ => putVc s v { advance x with stand := .afterYield }))

/-- PSET (R233). -/
def execPset (v : VRef) (s : State) : Host.Outcome State Fault Refusal :=
  .next (issueWith s v (· == 0x08) (fun s _ x w =>
    match takeSrc x (s1Of w) (selParam x (s1Of w)) with
    | none => s
    | some (a, _, y) =>
      let val := if s1Of w = selNone then sext 18 (immBits w 23 6) else a
      putVc s v (advance (setP y (immBits w 5 0) val))))

/-- PADD (R233). -/
def execPadd (v : VRef) (s : State) : Host.Outcome State Fault Refusal :=
  .next (issueWith s v (· == 0x09) (fun s _ x w =>
    match takeTwo x w with
    | none => s
    | some (a, b, y) =>
      let r := if s2Of w = selNone then sext 18 (immBits w 23 6) else b
      putVc s v (advance (setP y (immBits w 5 0) (a + r)))))

/-- PMAD (R233). -/
def execPmad (v : VRef) (s : State) : Host.Outcome State Fault Refusal :=
  .next (issueWith s v (· == 0x0A) (fun s _ x w =>
    match takeTwo x w with
    | none => s
    | some (a, b, y) => putVc s v (advance (setP y (immBits w 5 0) (a + b * kIndex x (immBits w 8 6))))))

/-- A scratchpad use of a source: the VAL of a token, or the whole parameter value (R227). -/
def padUse (sel : Nat) (a : Word64) : Nat := if sel < 0x20 then fld a 31 0 else a.toNat

/-- Bytes that WRS writes (R233). -/
def wrsBytes (w : Word64) : Nat := match immBits w 17 16 with | 0 => 4 | 1 => 6 | _ => 8

/-- WRS (R233). -/
def execWrs (v : VRef) (s : State) : Host.Outcome State Fault Refusal :=
  .next (issueWith s v (· == 0x0B) (fun s _ x w =>
    match takeTwo x w with
    | none => s
    | some (a, b, y) =>
      let addr := (padUse (s1Of w) a + immBits w 15 0) % 2 ^ 64
      let n := wrsBytes w
      if x.winSize < addr + n then progFault s v x 0x3
      else
        let m := (PMem.mk y.win y.winPoison).write addr (clean (natToBytes n b.toNat))
        putVc s v (advance { y with win := m.bytes, winPoison := m.poison })))

/-- Push a token into a destination queue, if one is asked for; a full queue makes the instruction wait (R218). -/
def pushDst (x : Option Vcore) (d : Nat) (t : Token) : Option Vcore :=
  x.bind (fun y => match dstQ d with
    | none => some y
    | some q => if qFree y q then some (pushQ y q t) else none)

/-- PUSH (R233): the token enters D1 and D2, each of which must have a free slot before the source is popped (R218). -/
def execPush (v : VRef) (s : State) : Host.Outcome State Fault Refusal :=
  .next (issueWith s v (· == 0x0C) (fun s _ x w =>
    match takeSrc x (s1Of w) (selParam x (s1Of w)) with
    | none => s
    | some (a, _, y) =>
      let t : Token := { val := BitVec.ofNat 32 (fld a 31 0), tag := BitVec.ofNat 16 (immBits w 15 0),
                         kind := BitVec.ofNat 3 (immBits w 18 16) }
      match pushDst (pushDst (some x) (d1Of w) t) (d2Of w) t, pushDst (pushDst (some y) (d1Of w) t) (d2Of w) t with
      | some _, some z => putVc s v (advance z)
      | _, _ => s))

/-! ### Dispatch (R223, R228) -/

/-- The units that run an instruction word (R219, R232): TWIN runs on both arrays. -/
def inUnit (u : UnitId) (w : Word64) : Bool :=
  let op := opOf w
  let arr := immBits w 0 0 == 1
  match u with
  | .dmai => op == 0x10 || op == 0x11
  | .dmao => op == 0x12 || op == 0x13 || op == 0x14
  | .arra => op == 0x22 || (0x20 ≤ op && op ≤ 0x26 && !arr)
  | .arrb => op == 0x22 || (0x20 ≤ op && op ≤ 0x26 && arr)
  | .cvt => op == 0x30 || op == 0x31
  | .vec => 0x40 ≤ op && op ≤ 0x46

def allUnits : List UnitId := [.dmai, .dmao, .arra, .arrb, .cvt, .vec]

/-- Whether a unit's instruction queue has room (R223). -/
def unitRoom (x : Vcore) (w : Word64) : Bool :=
  allUnits.all (fun u => !inUnit u w ||
    decide ((x.ops.filter (fun o => o.phase == .queued && inUnit u o.word)).length < 16))

/-- The IX field of an instruction that accepts one (R228, R234). -/
def ixOf (w : Word64) : Nat :=
  let op := opOf w
  if op = 0x10 ∨ op = 0x11 ∨ op = 0x12 ∨ (0x20 ≤ op ∧ op ≤ 0x26) ∨ op = 0x30 then immBits w 23 8 else 0

/-- INSTRUCTION_DISPATCH (R223): the instruction enters its unit's queue with its captured values. An IX whose step is zero has no
effect (R228). The index of a counter that is not active is a free value (log 8). -/
def execInstructionDispatch (v : VRef) (s : State) : Host.Outcome State Fault Refusal :=
  .next (issueWith s v (fun op => 0x10 ≤ op) (fun s _ x w =>
    if !unitRoom x w then s
    else
      let ix := ixOf w
      let k := ix % 8
      let live := (tgetD x.k k {}).active
      let step := ix / 16
      let (idx, s) := if step = 0 ∨ live then (kIndex x k, s) else s.fresh
      let o : UOp := { id := x.nextOp, word := w, p1 := selParam x (s1Of w), p2 := selParam x (s2Of w),
                       p3 := selParam x (s3Of w), ix := step * 4 * idx.toNat,
                       tag := if step = 0 then 0 else BitVec.ofNat 16 idx.toNat }
      putVc s v (advance { x with ops := x.ops ++ [o], nextOp := x.nextOp + 1 })))

/-! ### Replays (R240, R241) -/

/-- The patch slot of a replay: firmware's copy, or device memory. -/
def patchAddr (c : Ctx) (r : Nat) : Nat := c.patchBase + 16384 * (r % max c.patchN 1)

/-- Apply the entries of a slot that are addressed to a virtual core. -/
def applyPatch (slot : Nat → Nat → Nat) (vc : Nat) : Nat → Nat → Vcore → Vcore
  | 0, _, x => x
  | n + 1, e, x =>
    let a := 16 + 16 * e
    let who := slot a 2
    let i := slot (a + 2) 1
    let val := BitVec.ofNat 64 (slot (a + 8) 8)
    let x := if who = vc ∨ who = 0xFFFF then
        (if i < 64 then setP x i val else if i = 64 then { x with step := val } else { x with jseed := val })
      else x
    applyPatch slot vc n (e + 1) x

/-- The state of queues, comparators and counters at the start of a replay (R240). -/
def startReplay (c : Ctx) (vc : Nat) (x : Vcore) : Vcore :=
  let base := { x with queues := x.queues.filter (fun q => decide (q.1 < 3)), cmp := 0, k := [], pos := {}, rstack := [],
                       waitPatch := false, applied := true, stand := .inside }
  (tgetD c.image.qinit vc []).foldl (fun y t => pushQ y t.1 (wordTok t.2)) base

/-- Let a slot that holds the only virtual core of a core issue. -/
def takeCore (s : State) (x : Vcore) : State :=
  if (s.core x.core).issuing.isNone then s.modCore x.core (fun r => { r with issuing := some x.slot, took := s.now }) else s

/-- A replay that cannot start halts its context (R240). -/
def patchBad (s : State) (v : VRef) : State := (raiseVc s v 0x7006 0 0).modCtx v.ctx (fun c => { c with st := .halted })

/-- REPLAY_START (R240). -/
def execReplayStart (v : VRef) (s : State) : Host.Outcome State Fault Refusal :=
  .next (match s.ctx? v.ctx, s.vc? v with
    | some c, some x =>
      let unsaved : Bool := match c.saving with | some (_, stop, _, d, _) => !stop || !d.contains v.vc | none => true
      if c.st = .running ∧ x.waitPatch ∧ !x.haltPend ∧ isolAllows s x.core c.part v.ctx ∧ !(s.map x.core).quar ∧ !coreStopped s x.core ∧
         s.pwr.st = .run ∧ !(s.part c.part).idle ∧ unsaved then
        let copy := tget c.patches x.replay
        let da := patchAddr c x.replay
        let read := fun (a n : Nat) => match copy with
          | some bs => bytesToNat ((bs.drop a).take n)
          | none => devNat s (da + a) n
        match (if copy.isSome then none else accessRefusal s (.part c.part) da 16384) with
        | some code => patchBad (raiseCtx (refusedAccess s c.part code) code v.ctx (data2 da 0 (regionOf da))) v
        | none =>
          if copy.isNone && accessWaits s da 16384 then s
          else
            let n := bits (read 0 8) 41 32
            let len := if bit (read 0 8) 63 then 16 + 16 * n else 16
            let s := if copy.isSome then s else demand s (some v.ctx) da len
            match (if copy.isSome then none else strongest (devRead s da len)) with
            | some p => poisonCtx s v.ctx (if p = .nan then .context else p) da
            | none =>
              if copy.isNone && !bit (read 0 8) 63 then s
              else if bits (read 0 8) 31 0 ≠ x.replay % 2 ^ 32 ∨
                (List.range n).any (fun e => decide (65 < read (16 + 16 * e + 2) 1)) ∨ 1023 < n then patchBad s v
              else
                let y := startReplay c v.vc (applyPatch read v.vc n 0 x)
                let keep := if c.rcv && copy.isNone then tput c.patches x.replay (devBytes s da (16 + 16 * n)) else c.patches
                let s := s.modCtx v.ctx (fun c => { c with vcs := tput c.vcs v.vc y, patches := keep })
                let all := match s.ctx? v.ctx with
                  | some c => c.vcs.all (fun p => decide (x.replay < p.2.replay) || (p.2.replay == x.replay && p.2.applied))
                  | none => false
                let s := if copy.isNone && all then
                    devWrite s (da + 7) (clean [BitVec.ofNat 8 (devNat s (da + 7) 1 % 128)]) else s
                takeCore s y
      else s
    | _, _ => s)

/-! ### Control tokens (R220, R221) -/

/-- Push a control token into Q0 of a virtual core, or hold it while Q0 is full. -/
def pushCtl (s : State) (v : VRef) (val : Nat) (step : Word64) : State :=
  match s.vc? v with
  | none => s
  | some x =>
    let t : Token := { val := BitVec.ofNat 32 val, tag := BitVec.ofNat 16 step.toNat, kind := kCtl }
    let s := s.modVc v (fun y => { y with haltPend := if val = 2 then true else if val = 5 then false else y.haltPend })
    if x.held.isEmpty && qFree x 0 then s.modVc v (fun y => pushQ y 0 t)
    else
      let s := if x.held7005 = some step then s else raiseVc s v 0x7005 0 0
      s.modVc v (fun y => { y with held := y.held ++ [t], held7005 := some step })

/-- A control token to every virtual core of a partition's contexts, in one order. -/
def sendCtl (s : State) (n val : Nat) (step : Word64) : State :=
  (partCtxs s n).foldl (fun t k => match t.ctx? k with
    | some c => c.vcs.foldl (fun u p => pushCtl u ⟨k, p.1⟩ val step) t
    | none => t) s

/-- CONTROL_TOKEN_HELD_DELIVER (R220). -/
def execControlTokenHeldDeliver (v : VRef) (s : State) : Host.Outcome State Fault Refusal :=
  .next (s.modVc v (fun x => match x.held with
    | [] => x
    | t :: r => if qFree x 0 then { pushQ x 0 t with held := r } else x))

/-- Q1_NOTIFY (R221): firmware pops a token of Q1 and posts it. -/
def execQ1Notify (v : VRef) (s : State) : Host.Outcome State Fault Refusal :=
  .next (match s.vc? v with
    | none => s
    | some x =>
      match headTok x 1 with
      | none => s
      | some t => raiseCtx (putVc s v (popQ x 1)) 0x6201 v.ctx ((tokWord t).toNat + v.vc % 256 * 2 ^ 64))

/-! ### Switching (R248) -/

/-- Whether the next instruction of a virtual core waits for a token that it pops or peeks, or for a patch slot. -/
def waits (s : State) (c : Ctx) (v : VRef) (x : Vcore) : Bool :=
  if x.waitPatch then
    !(tget c.patches x.replay).isSome && !bit (devNat s (patchAddr c x.replay) 8) 63
  else match nextWord s c v x with
    | none => true
    | some w =>
      if 0x10 ≤ opOf w then false
      else [s1Of w, s2Of w, s3Of w].any (fun sel => sel < 0x20 && (headTok x (sel % 16)).isNone)

/-- Whether a HALTED token keeps a virtual core off its core until RELEASED arrives (R220, R248). -/
def haltStops (s : State) (c : Ctx) (v : VRef) (x : Vcore) : Bool :=
  x.haltPend && (x.waitPatch || (match nextWord s c v x with | some w => haltBoundary x w | none => true))

/-- Whether a virtual core is ready to dispatch. -/
def ready (s : State) (v : VRef) : Bool :=
  match s.ctx? v.ctx, s.vc? v with
  | some c, some x => c.st == .running && !haltStops s c v x && !waits s c v x
  | _, _ => false

/-- Slots after slot `i`, in ascending order and wrapping. -/
def slotsAfter (t : Tab VRef) (i : Nat) : List (Nat × VRef) :=
  t.filter (fun p => decide (i < p.1)) ++ t.filter (fun p => decide (p.1 ≤ i))

/-- VIRTUAL_CORE_SWITCH (R248). -/
def execVirtualCoreSwitch (n : Nat) (s : State) : Host.Outcome State Fault Refusal :=
  let r := s.core n
  let give := fun (i : Nat) => match (slotsAfter r.slots i).find? (fun p => ready s p.2 && some p.1 != r.issuing) with
    | some p => s.modCore n (fun c => { c with issuing := some p.1, took := s.now })
    | none => s
  .next (match r.issuing with
    | none => give 8
    | some i =>
      match tget r.slots i with
      | none => give i
      | some v =>
        match s.ctx? v.ctx, s.vc? v with
        | some c, some x =>
          let due := decide (r.took + fld r.issCtl 23 0 * 1000 ≤ s.now) || waits s c v x || haltStops s c v x
          if quiescent s c v x ∧ (c.st ≠ .running ∨ due) then give i else s
        | _, _ => give i)

end Sys2Proof.Machine
end

