-- ==== Sys2Proof/Machine/Repair.lean ====
section
/-! DEFINITION. The repair record and failure beyond spares (R35, R421, R422). -/

namespace Sys2Proof.Machine

open Sys2Proof

/-- Module operating seconds (R422). -/
def lifeSeconds (s : State) : Nat := s.rel.lifeBase + s.time.up.toNat / 1000000000

/-- Put an entry into the repair record; a full record drops its oldest entry of ACTION 2, else nothing is added
(R422; DEDUCED, log 23). -/
def addEntry (s : State) (e : Repair) : State :=
  s.modRel (fun r =>
    if r.repair.length < 4096 then { r with repair := r.repair ++ [e] }
    else match r.repair.find? (fun x => x.action == 2) with
      | some x => { r with repair := r.repair.erase x ++ [e] }
      | none => r)

def addRepair (s : State) (kind action logical physical cause : Nat) : State :=
  addEntry s ⟨kind, action, logical, physical, BitVec.ofNat 16 cause, lifeSeconds s⟩

/-- A remap (R421): event 0x4501 and an entry of ACTION 0. `core` and `cluster` are the names that the event carries. -/
def remapEvent (s : State) (kind logical physical cause core cluster : Nat) : State :=
  addRepair (raiseDev s 0x4501 (data4 core cluster 0 0)) kind 0 logical physical cause

/-- The module declares itself failed to the pod (R297, R421, R445). -/
def declareFailed (s : State) (core cluster : Nat) : State :=
  ((raiseDev s 0x4602 (data4 core cluster 0 0)).modRel (fun r => { r with failed := true })).emit (.failed s.devId)

/-- A part fails beyond its spares (R35, R421): events 0x4502 and 0x4602, and the module declares itself failed. -/
def failBeyond (s : State) (kind logical physical cause core cluster : Nat) : State :=
  let s := addRepair (raiseDev s 0x4502 (data4 core cluster 0 0)) kind 3 logical physical cause
  declareFailed s core cluster

end Sys2Proof.Machine
end

