-- ==== Sys2Proof/Machine/MemoryCmds.lean ====
section
/-! DEFINITION. What the memory system does of itself: clearing regions (R271), the patrol scrub (R286), part temperatures
with refresh, throttle and fence (R294 to R297), and the two Pantry modes (R283). -/

namespace Sys2Proof.Machine

open Sys2Proof

/-! ### Clearing (R271) -/

/-- Whether some region of a range still waits to be cleared. -/
def rangeClearing (s : State) (first count : Nat) : Bool := s.mem.clearing.any (fun r => first ≤ r && r < first + count)

/-- REGION_SET commands whose regions are all clear complete. -/
def finishClears (s : State) : State :=
  (s.mem.clearFor.filter (fun c => !rangeClearing s c.2.1 c.2.2)).foldl
    (fun t c => finish (t.modMem (fun m => { m with clearFor := m.clearFor.erase c })) c.1 0 0) s

/-- Write zeros over a region: its bytes, its poison and its Pantry lines go, and ZEROING and POISONED clear. -/
def zeroRegion (s : State) (r : Nat) : State :=
  let lo := r * 2 ^ 25
  let inside := fun (unit a : Nat) => decide (lo ≤ unit * a) && decide (unit * a < lo + 2 ^ 25)
  let s := s.modMem (fun m => { m with
    bytes := memClear m.bytes lo (2 ^ 25), poison := m.poison.filter (fun p => !inside 32 p.1),
    latent := m.latent.filter (fun p => !inside 32 p.1), lines := m.lines.filter (fun l => !inside 256 l.line),
    clearing := m.clearing.erase r })
  putEntry s r (setFld (entry s r) 19 18 0)

/-- REGION_CLEAR (R271). -/
def execRegionClear (r : Nat) (s : State) : Host.Outcome State Fault Refusal :=
  .next (if s.mem.clearing.contains r then finishClears (zeroRegion s r) else s)

/-! ### Patrol scrub (R286, R287) -/

/-- Stored bits of granule `g` that have failed where nothing checks them: the values that a RAW region's readers get are free (R285,
log 6). One failed symbol is one nibble. -/
def corruptRaw (s : State) (g : Nat) (f : Syndrome) : State :=
  let (w, s) := s.fresh
  let old := memNat s.mem.bytes (32 * g) 32
  let new := match f with
    | .one => setBits old (4 * fld w 5 0 + 3) (4 * fld w 5 0) (fld w 9 6)
    | .many => (List.range 4).foldl (fun a i => a + (Config.freeValue (s.free + i)).toNat * 2 ^ (64 * i)) 0
  let s := { s with free := s.free + 4 }
  s.modMem (fun m => { m with bytes := memPutAll m.bytes (32 * g) (natToBytes 32 new) })

/-- A failure that a read finds in granule `g` of a scratch window (R285, log 6): one symbol is corrected; more make poison, under CONTEXT,
with event 0x2102 for the context. A scratchpad has no region, no part and no address to record. -/
def padFault (s : State) (v : VRef) (g : Nat) (f : Syndrome) : State :=
  match s.vc? v with
  | some x => if f = .one ∨ x.winSize ≤ 32 * g then s
    else raise (s.modVc v (fun y => { y with winPoison := tput y.winPoison g .context })) 0x2102 none (some v.ctx) (data2 0 0x7F 0)
  | none => s

/-- Whether failures of a granule are nobody's concern: it lies in a RAW region, and the Pantry does not hold it (R285). -/
def rawGranule (s : State) (g : Nat) : Bool :=
  let e := entry s (regionOf (32 * g))
  reEcc e == 2 && rePhint e != 2 && !s.mem.lines.any (fun l => l.line == g / 8)

/-- Failed symbols come to stand in a granule of device memory: what they change where nothing checks them, else what a read will find. -/
def failGranule (s : State) (g : Nat) (f : Syndrome) : State :=
  if rawGranule s g then corruptRaw s g f else s.modMem (fun m => { m with latent := tput m.latent g f })

/-- A granule fails in its part. A line of it that the Pantry holds is written back first (DESIGN CHOICE, log 6). -/
def partFault (s : State) (g : Nat) (f : Syndrome) : State :=
  failGranule (s.modMem (fun m => { m with lines := m.lines.filter (fun l => l.line != g / 8) })) g f

/-- The Pantry's copy of a granule fails, where it holds one: its line, or the bytes of a SCRATCH region. -/
def pantryFault (s : State) (g : Nat) (f : Syndrome) : State :=
  if rePhint (entry s (regionOf (32 * g))) = 2 ∨ (lineAt s (g / 8)).isSome then failGranule s g f else s

/-- PATROL_SCRUB (R285, R286): `fault` has failed in a granule of device memory, or of a virtual core's window (log 6), and the scrub reads
the device granule. With SCRUB_EN clear nothing reads it, and the failure stays to be found. -/
def execPatrolScrub (g : Nat) (fault : Option Failure) (s : State) : Host.Outcome State Fault Refusal :=
  let scrub := fun (t : State) => if t.mem.ctl.getLsbD 0 then discover1 t none g else t
  .next (match fault with
    | some ⟨f, .pad v⟩ => padFault s v g f
    | some ⟨f, .part⟩ => scrub (partFault s g f)
    | some ⟨f, .pantry⟩ => scrub (pantryFault s g f)
    | none => scrub s)

/-! ### Heat (R294 to R297) -/

/-- Thresholds of the refresh multiplier: the temperature at which level 1, 2 is reached. -/
def refreshThreshold (level : Nat) : Int := if level = 1 then 85 else 95

/-- The refresh level for a temperature: it rises at a threshold and falls only 2 °C below it. -/
def refreshLevel (cur : Nat) (temp : Int) : Nat :=
  let up := if 95 ≤ temp then 2 else if 85 ≤ temp then 1 else 0
  if cur ≤ up then up
  else if cur = 2 ∧ refreshThreshold 2 - 2 < temp then 2
  else if 1 ≤ cur ∧ refreshThreshold 1 - 2 < temp then max up 1
  else up

/-- Firmware sends ABORT for each commit-group member that has not received COMMIT (R297, R445). -/
def abortMembers (s : State) (reason : Nat) : State :=
  (List.range 33).foldl (fun t n => if (t.att n).commit.isNone then causeAbandon t n reason else t) s

/-- Fence a part (R297): event 0x2403, ABORT, and the module declares itself failed. The reason is not given: 5
(DEDUCED, log 27). -/
def fencePart (s : State) (p : Nat) : State :=
  if (s.memPart p).fenced then s
  else
    let s := s.modMemPart p (fun m => { m with fenced := true })
    declareFailed (abortMembers (raiseDev s 0x2403 (data2 0 p 0)) 5) 0 0

/-- A temperature reading of a part. -/
def partReading (s : State) (p : Nat) (temp : Int) : State :=
  let m := s.memPart p
  let s := (s.modMemPart p (fun m => { m with temp := temp })).modPwr (fun q => { q with sensors := tput q.sensors (0x200 + p) (1000 * temp) })
  if m.fenced then s
  else if 110 ≤ temp then fencePart s p
  else
    let lvl := refreshLevel m.rmul.toNat temp
    let s := if lvl = m.rmul.toNat then s
      else raiseDev (s.modMemPart p (fun m => { m with rmul := BitVec.ofNat 2 lvl })) 0x2401 (data2 0 p 0)
    let lim : Int := m.t3lim.toNat
    let on := if m.t3on then decide (lim - 2 < temp) else decide (lim ≤ temp)
    if on == m.t3on then s else raiseDev (s.modMemPart p (fun m => { m with t3on := on })) 0x2402 (data2 0 p 0)

/-- PART_TEMP_SAMPLE (R294): while the memory controllers run. -/
def execPartTempSample (p : Nat) (temp : Int) (s : State) : Host.Outcome State Fault Refusal :=
  .next (if s.mem.ready && s.pwr.st != .carousel && s.pwr.st != .off then partReading s p temp else s)

/-- The parts that hold bytes of a region (R273); a SCRATCH region lies in none (R281). -/
def regionParts (s : State) (r : Nat) : List Nat :=
  let e := entry s r
  if rePhint e = 2 then []
  else
    let fast := r < 131072
    let rr := if fast then r else r - 131072
    let n := if fast then 32 else 48
    let w := ilWidth (reIl e) n
    (List.range w).map (fun i => (if fast then 0 else 32) + rr % n / w * w + i)

/-- A region table entry as it reads: FENCED where a part with bytes of the region is fenced (R265, R297). -/
def entryRead (s : State) (r : Nat) : Word64 :=
  setFld (entry s r) 20 20 (b2n ((regionParts s r).any (fun p => (s.memPart p).fenced)))

/-! ### Pantry shares (R282) -/

/-- Whether shares and region table agree (R282): on each die the banks fit in 64, and every partition's SCRATCH regions in
its scratch banks. -/
def banksFit (fw : Nat) (share : Tab Word64) (t : Tab Word64) : Bool :=
  (List.range 4).all (fun d =>
    decide ((share.map (fun e => shareCb e.2 d + shareSb e.2 d)).sum + fwBanksOn fw t d ≤ 64) &&
    (List.range 33).all (fun n => decide (scratchBytes t n d ≤ shareSb (tgetD share n 0) d * 0x800000)))

/-! ### Pantry modes (R283) -/

/-- Put the Pantry into a mode. -/
def setPantryMode (s : State) (hinted : Bool) : State := (pantryFlush s).modMem (fun m => { m with hinted := hinted })

/-- PANTRY_MODE_CHANGE (R283): every line is written back and invalidated. -/
def execPantryModeChange (hinted : Bool) (s : State) : Host.Outcome State Fault Refusal :=
  .next (if s.mem.hinted == hinted then s else setPantryMode s hinted)

end Sys2Proof.Machine
end

