-- ==== Sys2Proof/Machine/LinkLayer.lean ====
section
/-! DEFINITION. The link layer: flits and their headers (R309, R310), sequence numbers, acknowledgement fields and credits (R311, R312),
arbitration between the virtual channels (R313), routing and multicast (R315, R317), and the sending of messages. -/

namespace Sys2Proof.Machine

open Sys2Proof

/-! ### Flits (R309, R310) -/

/-- Byte i of a flit. -/
def flitByte (f : BitVec 2048) (i : Nat) : Nat := fld f (8 * i + 7) (8 * i)

/-- The header, a 224-bit big-endian integer in bytes 0 to 27. -/
def flitHdr (f : BitVec 2048) : Nat := (List.range 28).foldl (fun a i => a * 256 + flitByte f i) 0

/-- The CRC that a flit's bytes 0 to 251 give, and the one it carries. -/
def flitCrc (f : BitVec 2048) : Nat := (crc32 ((List.range 252).map (fun i => BitVec.ofNat 8 (flitByte f i)))).toNat
def flitCrcField (f : BitVec 2048) : Nat := (List.range 4).foldl (fun a i => a * 256 + flitByte f (252 + i)) 0

/-- A flit from header and payload (as little-endian bytes 28 to 251), with its CRC. -/
def mkFlit (hdr payload : Nat) : BitVec 2048 :=
  let h := (List.range 28).foldl (fun a i => a + bits hdr (8 * (27 - i) + 7) (8 * (27 - i)) * 2 ^ (8 * i)) 0
  let body := h + payload % 2 ^ 1792 * 2 ^ 224
  let c := (crc32 (natToBytes 252 body)).toNat
  let e := (List.range 4).foldl (fun a i => a + bits c (8 * (3 - i) + 7) (8 * (3 - i)) * 2 ^ (8 * i)) 0
  BitVec.ofNat 2048 (body + e * 2 ^ 2016)

def flitPayload (f : BitVec 2048) : Nat := fld f 2015 224
def hdrType (h : Nat) : Nat := bits h 223 220
def hdrVc (h : Nat) : Nat := bits h 219 218
def hdrDst (h : Nat) : Nat := bits h 215 204
def hdrSrc (h : Nat) : Nat := bits h 203 192
def hdrSeq (h : Nat) : Nat := bits h 191 180
def hdrAck (h : Nat) : Nat := bits h 179 168
def hdrNak (h : Nat) : Bool := bit h 167
def hdrCrd (h vc : Nat) : Nat := bits h (151 + 4 * vc) (148 + 4 * vc)
def hdrMcg (h : Nat) : Nat := bits h 32 25

/-- Policy codes of GP (R310). -/
def policyCode : Option Policy → Nat
  | none => 0 | some .context => 1 | some .partition => 2 | some .nan => 3
def policyOf : Nat → Option Policy
  | 0 => none | 1 => some .context | 2 => some .partition | _ => some .nan

/-- What the flits of one message have in common (R310). -/
structure FlitHead where
  type : Nat
  vc : Nat
  dst : Nat
  tag : Nat := 0
  ctx : Nat := 0
  vcore : Nat := 0
  job : Nat := 0
  mcg : Nat := 0
  msgid : Nat := 0
  deriving DecidableEq, Repr

def headBits (src : Nat) (h : FlitHead) : Nat :=
  h.type % 16 * 2 ^ 220 + h.vc % 4 * 2 ^ 218 + h.dst % 4096 * 2 ^ 204 + src % 4096 * 2 ^ 192 + h.tag % 65536 * 2 ^ 63 +
  h.ctx % 64 * 2 ^ 57 + h.vcore % 256 * 2 ^ 49 + h.job % 65536 * 2 ^ 33 + h.mcg % 256 * 2 ^ 25 + h.msgid % 65536 * 2 ^ 9

/-- One flit of a message: up to seven granules, the first at `addr`, each with its poison; the last granule is filled with zeros (log 5). -/
def dataFlit (src : Nat) (h : FlitHead) (first last : Bool) (addr : Nat) (bs : List PByte) : BitVec 2048 :=
  let n := ceilDiv bs.length 32
  let gp := (List.range n).foldl (fun a g => a + policyCode (strongest ((bs.drop (32 * g)).take 32)) * 4 ^ g) 0
  mkFlit (headBits src h + b2n first * 2 ^ 217 + b2n last * 2 ^ 216 + (2 ^ n - 1) * 2 ^ 141 + gp * 2 ^ 127 + addr % 2 ^ 48 * 2 ^ 79)
    (bytesToNat (bs.map Prod.fst))

/-- The flits of a message that carries some runs of bytes, each from its address on: 224 bytes to a flit. -/
def messageFlits (src : Nat) (h : FlitHead) (runs : List (Nat × List PByte)) : List (BitVec 2048) :=
  let ps := runs.flatMap (fun r => (List.range (max 1 (ceilDiv r.2.length 224))).map (fun i => (r.1 + 224 * i, (r.2.drop (224 * i)).take 224)))
  ps.mapIdx (fun i p => dataFlit src h (i == 0) (i + 1 == ps.length) p.1 p.2)

/-- The granules that a flit carries, from its first on. -/
def flitData (f : BitVec 2048) : List PByte :=
  let h := flitHdr f
  let k := ((List.range 7).takeWhile (fun g => bit h (141 + g))).length
  (List.range (32 * k)).map (fun i => (BitVec.ofNat 8 (flitByte f (28 + i)), policyOf (bits h (128 + 2 * (i / 32)) (127 + 2 * (i / 32)))))

def hdrFirst (h : Nat) : Bool := bit h 217
def hdrLast (h : Nat) : Bool := bit h 216
def hdrAddr (h : Nat) : Nat := bits h 126 79
def hdrTag (h : Nat) : Nat := bits h 78 63
def hdrCtx (h : Nat) : Nat := bits h 62 57
def hdrVcore (h : Nat) : Nat := bits h 56 49
def hdrJob (h : Nat) : Nat := bits h 48 33
def hdrMsg (h : Nat) : Nat := bits h 24 9

/-- What tells the message of a flit from others of its source. -/
def msgKey (f : BitVec 2048) : Nat × Nat × Nat × Nat × Nat :=
  let h := flitHdr f
  (hdrType h, hdrVc h, hdrDst h, hdrMcg h, hdrMsg h)

/-- Receive buffers of a VC in flits (R312). -/
def vcBuffers : Nat → Nat
  | 0 => 384 | 1 => 384 | 2 => 192 | _ => 64

/-! ### Sending on a link (R311, R312, R313) -/

/-- The acknowledgement fields of the next flit of a link, and the link once they have left. -/
def ackFields (l : Link) : Nat × Link :=
  let crd := (List.range 4).map (fun v => min (tgetD l.toReturn v 0) 15)
  let h := ((l.rxSeq.toNat + 4095) % 4096) * 2 ^ 168 + b2n l.nak * 2 ^ 167 +
    ((List.range 4).zip crd).foldl (fun a p => a + p.2 * 2 ^ (148 + 4 * p.1)) 0
  (h, { l with nak := false, unacked := 0,
               toReturn := ((List.range 4).zip crd).foldl (fun t p => tmod t p.1 0 (· - p.2)) l.toReturn })

/-- Header bits of the acknowledgement fields. -/
def clearAck (h : Nat) : Nat := setBits (setBits h 191 167 0) 163 148 0

/-- A receive buffer slot of a VC is free again: its credit goes back with the next flit (R312). -/
def freeBuffer (s : State) (came : Option Nat) (vc : Nat) : State :=
  match came with
  | some n => s.modLink n (fun l => { l with toReturn := tmod l.toReturn vc 0 (· + 1) })
  | none => s

/-! ### Arbitration (R313, log 15) -/

/-- The oldest waiting flit of a VC, where a credit for it is held. -/
def waitingOn (l : Link) (vc : Nat) : Option (Option Nat × BitVec 2048) :=
  if 0 < tgetD l.credits vc (vcBuffers vc) then l.txq.find? (fun e => hdrVc (flitHdr e.2) == vc) else none

/-- Weight of a VC in LINK_ARB. -/
def vcWeight (arb : Word64) (vc : Nat) : Nat := fld arb (4 * vc + 3) (4 * vc)

/-- The VC that sends next: VC3 first, but once in 16 flits while another waits; then round by round as many flits of each VC as its weight
says; a VC of weight 0 when no other waits. -/
def pickVc (arb : Word64) (l : Link) : Option Nat :=
  let ready := [0, 1, 2].filter (fun v => (waitingOn l v).isSome)
  let weighted := ready.filter (fun v => vcWeight arb v != 0)
  if (waitingOn l 3).isSome && (weighted.isEmpty || 15 ≤ l.since3) then some 3
  else ((weighted.find? (fun v => decide (tgetD l.served v 0 < vcWeight arb v))).or weighted.head?).or ready.head?

/-- The counts of R313 after a flit of a VC: a round ends when the VC that sends has no flit left in it. -/
def countSent (arb : Word64) (l : Link) (vc : Nat) : Link :=
  if vc = 3 then { l with since3 := 0 }
  else
    let round := if vcWeight arb vc ≤ tgetD l.served vc 0 then [] else l.served
    { l with since3 := l.since3 + 1, served := tmod round vc 0 (· + 1) }

/-- A waiting flit that may leave now: the link is UP, and the replay buffer has room (R311). -/
def nextTx (arb : Word64) (l : Link) : Option (Option Nat × BitVec 2048) :=
  if l.replay.length < 1024 && l.st == .up then (pickVc arb l).bind (waitingOn l) else none

/-- Transmit one sequenced flit; the receive buffer slot that it lay in is free. -/
def txFlit (s : State) (n : Nat) (e : Option Nat × BitVec 2048) : State :=
  let f := e.2
  let vc := hdrVc (flitHdr f)
  let l := countSent s.fab.arb (s.link n) vc
  let (ack, l') := ackFields l
  let g := mkFlit (clearAck (flitHdr f) + ack + l.txSeq.toNat * 2 ^ 180) (flitPayload f)
  freeBuffer ((s.modLink n (fun _ => { l' with
    txq := l'.txq.erase e, txSeq := l'.txSeq + 1, replay := l'.replay ++ [g],
    credits := tmod l'.credits vc (vcBuffers vc) (· - 1) })).emit (.flit n g)) e.1 vc

/-- Transmit every flit that may leave. -/
def pump : Nat → Nat → State → State
  | 0, _, s => s
  | k + 1, n, s => match nextTx s.fab.arb (s.link n) with
    | some f => pump k n (txFlit s n f)
    | none => s

/-- Queue a flit on a link and send what may leave. -/
def sendFlit (s : State) (n : Nat) (came : Option Nat) (f : BitVec 2048) : State :=
  let s := s.modLink n (fun l => { l with txq := l.txq ++ [(came, f)] })
  pump (s.link n).txq.length n s

/-- An IDLE flit: acknowledgement, NAK and credit returns. -/
def sendIdle (s : State) (n : Nat) : State :=
  let (ack, l') := ackFields (s.link n)
  (s.modLink n (fun _ => l')).emit (.flit n (mkFlit ack 0))

/-! ### Routing (R314, R315, R317) -/

def isUp (s : State) (n : Nat) : Bool := (s.link n).st == .up

/-- The port of an entry at an index. -/
def routePort (e : Word32) (i : Nat) : Nat := fld e (6 * i + 5) (6 * i)

/-- Where a flit goes: none is unroutable, some none is this module, some (some l) is link l (R315). -/
def routeFor (s : State) (dst src vc : Nat) : Option (Option Nat) :=
  let e := tgetD s.fab.route dst 0
  if !e.getLsbD 27 then none
  else if e.getLsbD 26 then some none
  else
    let np := fld e 25 24 + 1
    let i := (src + dst + vc) % np
    match ((List.range np).map (fun k => routePort e ((i + k) % np))).find? (isUp s) with
    | some l => some (some l)
    | none => none

/-- Whether a device can be reached. -/
def hasRoute (s : State) (dst : Nat) : Bool := dst == s.devId || (routeFor s dst s.devId 2).isSome

/-- Event 0x3303 (R315). -/
def unroutable (s : State) (dst : Nat) : State := raiseDev s 0x3303 (data3 0 dst 0)

/-- Deliver a flit within the module. -/
def deliver (s : State) (came : Option Nat) (f : BitVec 2048) : State := s.modFab (fun b => { b with arrived := b.arrived ++ [(came, f)] })

/-- Route one flit: by its multicast group to this module and to every UP link of the group, or to its destination (R315, R317). The slot
of the receive buffer it came by goes with the last copy. -/
def routeFlit (s : State) (came : Option Nat) (f : BitVec 2048) : State :=
  let h := flitHdr f
  if hdrMcg h ≠ 0 then
    let e := tgetD s.fab.mcast (hdrMcg h) 0
    let out := if e.getLsbD 65 then (List.range 64).filter (fun l => e.getLsbD l && isUp s l) else []
    let s := if !e.getLsbD 65 then unroutable s (hdrDst h)
      else if e.getLsbD 64 then deliver s (if out.isEmpty then came else none) f else s
    let s := if out.isEmpty && !(e.getLsbD 65 && e.getLsbD 64) then freeBuffer s came (hdrVc h) else s
    (out.mapIdx (fun i l => (l, i + 1 == out.length))).foldl (fun t l => sendFlit t l.1 (if l.2 then came else none) f) s
  else match routeFor s (hdrDst h) (hdrSrc h) (hdrVc h) with
    | none => freeBuffer (unroutable s (hdrDst h)) came (hdrVc h)
    | some none => deliver s came f
    | some (some l) => sendFlit s l came f

/-! ### Messages (R316, R334) -/

/-- Route the flits of a message of this module; one without a route is discarded whole with event 0x3303 (R315). -/
def routeMessage (s : State) (fs : List (BitVec 2048)) : State :=
  match fs with
  | [] => s
  | f :: _ =>
    let h := flitHdr f
    if hdrMcg h = 0 ∧ (routeFor s (hdrDst h) (hdrSrc h) (hdrVc h)).isNone then unroutable s (hdrDst h)
    else fs.foldl (fun t g => routeFlit t none g) s

/-- Hand a message to the links; it is kept until they have acknowledged all of it (R316). One for this device enters no link (R334). -/
def launch (s : State) (h : FlitHead) (runs : List (Nat × List PByte)) : State :=
  if h.mcg = 0 ∧ h.dst = s.devId then (messageFlits s.devId h runs).foldl (fun t f => deliver t none f) s
  else if h.mcg = 0 ∧ (routeFor s h.dst s.devId h.vc).isNone then unroutable s h.dst
  else
    let fs := messageFlits s.devId h runs
    routeMessage (s.modFab (fun b => { b with kept := b.kept ++ [fs] })) fs

/-- Forget messages of which no flit waits for an acknowledgement any more. -/
def pruneKept (s : State) : State :=
  let live := s.fab.links.flatMap (fun l => (l.2.replay ++ l.2.txq.map Prod.snd).map msgKey)
  s.modFab (fun b => { b with kept := b.kept.filter (fun fs => fs.any (fun f => live.contains (msgKey f))) })

end Sys2Proof.Machine
end

