-- ==== Sys2Proof/Machine/Links.lean ====
section
/-! DEFINITION. Links: their loss (R306, R316), lanes and lasers (R304 to R306), training (R307, R321, R322), and the acknowledgements
that a link receives (R311, R312). -/

namespace Sys2Proof.Machine

open Sys2Proof

/-! ### Loss of a link (R306, R316) -/

/-- The device at the other end of a link. -/
def peerDev (l : Link) : Nat := match l.peer with | some p => p.1 | none => 0

/-- A link goes DOWN: event 0x3002. Messages of this module that it had not delivered in full are sent again whole by another route, flits
of others go back to their modules, and the receive buffer slots that waiting flits held are free (R316). -/
def downLink (s : State) (n : Nat) : State :=
  let l := s.link n
  if l.st = .down || l.st = .off then s
  else
    let lost := l.replay ++ l.txq.map Prod.snd
    let mine := lost.filter (fun f => hdrSrc (flitHdr f) == s.devId)
    let keys := (mine.map msgKey).eraseDups
    let whole := keys.map (fun k => match s.fab.kept.find? (fun fs => fs.any (fun f => msgKey f == k)) with
      | some fs => fs
      | none => mine.filter (fun f => msgKey f == k))
    let s := s.modLink n (fun l => { l with
      st := .down, txSeq := 0, rxSeq := 0, ackSeq := 0, replay := [], txq := [], fails := 0, replayAt := [], unacked := 0, nak := false,
      credits := [], toReturn := [], served := [], since3 := 15 })
    let s := raiseDev s 0x3002 (data3 n (peerDev l) 0)
    let s := l.txq.foldl (fun t e => freeBuffer t (if e.1 = some n then none else e.1) (hdrVc (flitHdr e.2))) s
    let s := whole.foldl routeMessage s
    pruneKept ((lost.filter (fun f => hdrSrc (flitHdr f) != s.devId)).foldl (fun t f => t.emit (.handBack (hdrSrc (flitHdr f)) f)) s)

/-- LINK_DOWN (R316). -/
def execLinkDown (n : Nat) (s : State) : Host.Outcome State Fault Refusal := .next (downLink s n)

/-! ### Lanes and lasers (R304, R305, R306) -/

/-- Whether a peer can be reached without link n. -/
def routeAround (s : State) (n : Nat) : Bool :=
  match (s.link n).peer with
  | some p =>
    let e := tgetD s.fab.route p.1 0
    e.getLsbD 27 && (List.range (fld e 25 24 + 1)).any (fun i => routePort e i != n && isUp s (routePort e i))
  | none => true

/-- A physical lane of a link fails: the spare comes in, or the link goes down (R305, R306, R421). A link that does not run takes its spare
at once; without one it comes up no more on that lane. -/
def failLane (s : State) (n lane : Nat) : State :=
  let l := s.link n
  let runs := l.st == .up || l.st == .train
  let fall := fun (_ : Unit) => if !runs then s else
    let s' := downLink s n
    if routeAround s n then s' else failBeyond s' 2 n lane 0x3002 0 0
  if lane = 4 then (if l.spareIn then fall () else s.modLink n (fun l => { l with spareDark := true }))
  else if l.spareIn ∧ l.spared.toNat = lane then s
  else if l.spareIn || l.spareDark then fall ()
  else
    let s := s.modLink n (fun l => { l with spareIn := true, spared := BitVec.ofNat 2 lane })
    if runs then remapEvent (raiseDev s 0x3001 (data3 n (peerDev l) 0)) 2 n lane 0x3001 0 0 else s

/-- Whether a link holds its lane decisions: a laser event of its engine lies less than 2 ms back (R304). -/
def lanesHeld (s : State) (n : Nat) : Bool := match (s.optic (n / 8)).eventAt with
  | some t => decide (s.now < t + 2000000)
  | none => false

/-- A lane that has failed at this end: the peer hears of it, and both ends move the lane (R305). -/
def laneFailed (s : State) (n lane : Nat) : State :=
  if lanesHeld s n then s else failLane (s.emit (.laneFailed n lane)) n lane

/-- LANE_FAIL (R305). -/
def execLaneFail (n lane : Nat) (s : State) : Host.Outcome State Fault Refusal := .next (laneFailed s n lane)

/-- A flit in error is attributed to a lane: more than LANE_ERR_THR in one millisecond fail it (R305). -/
def laneError (s : State) (n : Nat) (lane : Option Nat) : State :=
  match lane with
  | none => s
  | some k =>
    let recent := (tgetD (s.link n).laneErr k []).filter (fun t => decide (s.now < t + 1000000)) ++ [s.now]
    if fld s.fab.arb 19 12 < recent.length then laneFailed (s.modLink n (fun l => { l with laneErr := tdel l.laneErr k })) n k
    else s.modLink n (fun l => { l with laneErr := tput l.laneErr k recent })

/-- A lane goes dark on the eight links of an engine. -/
def darkLane (s : State) (e lane : Nat) : State := (List.range 8).foldl (fun t i => failLane t (8 * e + i) lane) s

/-- LASER_FAIL (R304): laser 5 takes the place of the first laser that fails, and the engine's links hold their lane decisions. -/
def execLaserFail (e m : Nat) (s : State) : Host.Outcome State Fault Refusal :=
  let o := s.optic e
  .next (if !o.laserOk.getLsbD m then s
    else
      let s := s.modOptic e (fun o => { o with laserOk := setFld o.laserOk m m 0, eventAt := some s.now })
      if m = 5 then (if o.spareUsed then darkLane s e o.spared.toNat else s)
      else if !o.spareUsed && o.laserOk.getLsbD 5 then
        let s := s.modOptic e (fun o => { o with spareUsed := true, spared := BitVec.ofNat 3 m })
        remapEvent (raiseDev s 0x3004 (data3 (8 * e) 0 0)) 6 e m 0x3004 0 0
      else darkLane s e m)

/-! ### Training (R307, R321, R322) -/

/-- The module's serial number as a number. -/
def ownSerial : Nat := bytesToNat Config.serial

/-- What this end of a link sends in training (R307). -/
def sendTraining (s : State) (n : Nat) : State := s.emit (.training n ⟨s.devId, n, ownSerial, s.time.tmPrio.toNat⟩)

/-- Whether a peer is the one of the standard wiring (R320). -/
def standardPeer (s : State) (n : Nat) (p : Peer) : Bool :=
  let pod := s.fab.pod.toNat
  let slot := s.fab.slot.toNat
  if n = slot then pod != slot && p.dev == slot * 64 + pod && p.link == pod
  else p.dev == pod * 64 + n && p.link == slot

/-- This module's own link list (R322). -/
def ownLinks (s : State) : List LinkEnd :=
  (List.range 64).filterMap (fun i => match (s.link i).st, (s.link i).peer with
    | .up, some p => some ⟨i, p.1, p.2, (s.link i).peerSerial, (s.link i).peerPrio⟩
    | _, _ => none)

/-- Record this module's link list and flood it (R322). -/
def floodLinks (s : State) : State :=
  let ls := ownLinks s
  (s.modFab (fun b => { b with topo := tput b.topo s.devId ls })).emit (.linkList s.devId ownSerial ls)

/-- Keep a device id that two modules report out of the pod (R323): its links to this module stay DOWN. -/
def excludeDev (s : State) (d : Nat) : State :=
  if s.fab.excluded.contains d then s
  else
    (raiseDev s 0x3402 (data3 0 d 0)).modFab (fun b => { b with
      excluded := d :: b.excluded, topo := tdel b.topo d,
      links := tmap b.links (fun _ l => if (d == s.devId || (match l.peer with | some p => p.1 == d | none => false)) && l.st == .up
        then { l with st := .down } else l) })

/-- A module is heard under a device id: two serial numbers under one id exclude both modules (R323). -/
def hearSerial (s : State) (dev serial : Nat) : State :=
  if dev = s.devId then (if serial = ownSerial then s else excludeDev s dev)
  else match tget s.fab.serials dev with
    | some k => if k = serial then s else excludeDev s dev
    | none => s.modFab (fun b => { b with serials := tput b.serials dev serial })

/-- LINK_TRAIN (R307): a lit link in training tells its peer who it is, and comes up with the peer that it heard. -/
def execLinkTrain (n : Nat) (p : Peer) (s : State) : Host.Outcome State Fault Refusal :=
  .next (if (s.link n).st ≠ .train || !(s.link n).en then s
    else
      let s := sendTraining s n
      let s := if p.dev = s.devId then excludeDev s p.dev else hearSerial s p.dev p.serial
      if p.dev = s.devId || s.fab.excluded.contains p.dev || s.fab.excluded.contains s.devId then s.modLink n (fun l => { l with st := .down })
      else
      let wrong := s.fab.stdwire && !standardPeer s n p
      let s := s.modLink n (fun l => { l with
        st := .up, peer := some (p.dev, p.link), peerSerial := p.serial, peerPrio := p.prio, trunk := p.dev / 64 != s.fab.pod.toNat,
        wireErr := wrong, fails := 0, lit := true, idle := false })
      let s := raiseDev s 0x3003 (data3 n p.dev 0)
      let s := if wrong then raiseDev s 0x3006 (data3 n p.dev 0) else s
      let s := (s.link n).replay.foldl (fun t f => t.emit (.flit n f)) s
      floodLinks (pump (s.link n).txq.length n s))

/-- LINK_TRAIN_TIMEOUT (R311): a link that did not return to UP within 100 ms. -/
def execLinkTrainTimeout (n : Nat) (s : State) : Host.Outcome State Fault Refusal :=
  .next (if (s.link n).st = .train then downLink s n else s)

/-- Put a link into training. -/
def trainLink (s : State) (n : Nat) : State := s.modLink n (fun l => if l.en then { l with st := .train } else l)

/-- RETRAIN (R348): also a DOWN link. -/
def execRetrain (n : Nat) (s : State) : Host.Outcome State Fault Refusal := .next (trainLink s n)

/-- LINK_WAKE_PULSE (R333): a link in low-power idle returns to UP. -/
def execLinkWakePulse (n : Nat) (s : State) : Host.Outcome State Fault Refusal := .next (s.modLink n (fun l => { l with idle := false }))

/-! ### Acknowledgements (R311, R312) -/

/-- Take the acknowledgement fields of a good flit: ACKSEQ frees the replay buffer, CRD returns credits, and NAK resends
everything that is not acknowledged. -/
def takeAck (s : State) (n h : Nat) : State :=
  let l := s.link n
  let a := hdrAck h
  let ahead := fun (f : BitVec 2048) => decide ((hdrSeq (flitHdr f) + 4096 - (a + 1) % 4096) % 4096 < 2048)
  let keep := l.replay.filter ahead
  let moved := keep.length < l.replay.length
  let credits := (List.range 4).foldl (fun t v => tmod t v (vcBuffers v) (fun c => min (c + hdrCrd h v) (vcBuffers v))) l.credits
  let s := pruneKept (s.modLink n (fun l => { l with
    replay := keep, ackSeq := BitVec.ofNat 12 a, credits := credits, fails := if moved then 0 else l.fails }))
  let s := if hdrNak h && !keep.isEmpty then
      let recent := (l.replayAt.filter (fun t => decide (s.now < t + 1000000))) ++ [s.now]
      let many := fld s.fab.arb 35 20 < recent.length
      let s := s.modLink n (fun l => { l with replays := satInc l.replays, fails := l.fails + 1, replayAt := if many then [] else recent })
      let s := if many then raiseDev s 0x3005 (data3 n (peerDev l) recent.length) else s
      if 8 ≤ (s.link n).fails then s.modLink n (fun l => { l with st := .train, fails := 0 })
      else keep.foldl (fun t f => t.emit (.flit n f)) s
    else s
  pump (s.link n).txq.length n s

/-- ACK_TIMER (R311): the acknowledgement that is due. -/
def execAckTimer (n : Nat) (s : State) : Host.Outcome State Fault Refusal :=
  let l := s.link n
  .next (if l.st = .up ∧ (0 < l.unacked ∨ l.nak = true) then sendIdle s n else s)

end Sys2Proof.Machine
end

