-- ==== Sys2Proof/Machine/Dma.lean ====
section
/-! DEFINITION. The DMA operations LOAD, GATHER, STORE and SEND (R230, R231, R234, R275 to R277, R284, R288, R334). They
move planes as stored, with their poison, and compute on nothing. -/

namespace Sys2Proof.Machine

open Sys2Proof

/-! ### Operations of a virtual core -/

/-- Change operation `id` of a virtual core. -/
def modOp (s : State) (v : VRef) (id : Nat) (f : UOp → UOp) : State :=
  s.modVc v (fun x => { x with ops := x.ops.map (fun o => if o.id = id then f o else o) })

/-- A held operation may complete, with an error code or none. -/
def releaseOp (s : State) (v : VRef) (id : Nat) (err : Option Nat) : State :=
  modOp s v id (fun o => { o with held := false, err := match err with | some e => some (BitVec.ofNat 32 e) | none => o.err })

/-- What an operation leaves when it has run: the state, the VALs of its tokens, where its output lies, and whether its
completion waits for an answer. -/
structure Ran where
  st : State
  d1 : Option Token := none
  d2 : Option Token := none
  outs : List OutLoc := []
  held : Bool := false
  susp : Bool := false
  resid : Bool := false
  msg : Nat := 0
  /-- A recheck of residues failed: the array and the buffer (R100, R101). -/
  mism : Option (Bool × Bool) := none
  /-- Data of decision groups among the outputs, and the groups that a pass contributes to, with its key. -/
  feeds : List Feed := []
  groups : List (Group × Nat) := []
  /-- HOLD: the buffer is not free before the verdicts of these groups on the pass (R111). -/
  hold : List (Group × Nat) := []
  /-- What a check compares beside the outputs (R402), and what names the run on the graph (R400). -/
  aux : List Byte := []
  run : List Nat := []

/-- Poison consumed as NaN (R290): the event, once per operation, and the count. -/
def nanConsumed (s : State) (v : VRef) (nan : Bool) : State :=
  if nan then raiseCtx (s.modPart (ctxPart s v.ctx) (fun p => { p with poisonc := satInc p.poisonc })) 0x2302 v.ctx 0 else s

/-- A data token (R216). -/
def dataTok (val : Nat) : Token := { val := BitVec.ofNat 32 val }

/-- A descriptor offset from a captured source (R227). -/
def arg1 (o : UOp) : Nat := padUse (s1Of o.word) o.s1
def arg2 (o : UOp) : Nat := padUse (s2Of o.word) o.s2
def arg3 (o : UOp) : Nat := padUse (s3Of o.word) o.s3
/-- Whether the index modifier names ROW0 (R228). -/
def ixAxis (o : UOp) : Bool := immBits o.word 11 11 == 1

/-- Where the plain move of an operand's planes puts its runs, from a reader of the source. -/
def moveRuns (rd : Nat → PByte) (src dst : Opnd) : List (Nat × List PByte) :=
  (src.runs.zip dst.runs).map (fun (a, b) => (b.1, rdRun rd a.1 (min a.2 b.2)))

/-- A square block with its elements transposed (R76). -/
def transposeBlock (f data : Nat) : Nat :=
  packCodes (fmtWidth f) ((List.range 16).map (fun i => unpackCode (fmtWidth f) data (i % 4 * 4 + i / 4)))

/-- The transposing move (R76): a block moves with its scale byte, a wide element alone. A block takes the strongest
poison of its bytes along. -/
def transposeRuns (rd : Nat → PByte) (src dst : Opnd) : List (Nat × List PByte) :=
  if src.narrow then
    let (r0, nr, c0, nc, per) := src.grid
    let (q0, _, d0, _, dper) := dst.grid
    let bb := blockBytes src.fmt
    let blocks := (List.range nc).flatMap (fun c => (List.range nr).map (fun r =>
      ((r0 + r) * per + c0 + c, (q0 + c) * dper + d0 + r)))
    blocks.map (fun (a, b) =>
      let p := rdPoison rd (src.data + a * bb) bb
      (dst.data + b * bb, (natToBytes bb (transposeBlock src.fmt (rdNat rd (src.data + a * bb) bb))).map (fun x => (x, p)))) ++
    blocks.map (fun (a, b) => (dst.scale + b, [rd (src.scale + a)])) ++ [(dst.rho, rdRun rd src.rho 4)]
  else
    let wb := fmtWidth src.fmt / 8
    (List.range src.cols).map (fun c => (dst.data + ((dst.pr + c) * dst.scols + dst.pc) * wb,
      (List.range src.rows).flatMap (fun r => rdRun rd (src.data + ((src.pr + r) * src.scols + src.pc + c) * wb) wb)))

/-- Move an operand into another of the same format word (R231), each group from where its current data lie (R136). -/
def moveOp (s : State) (v : VRef) (x : Vcore) (n hint : Nat) (src dst : Opnd) : Res (State × List Feed) := do
  need (src.fmt == dst.fmt && src.sq == dst.sq && src.uni == dst.uni) 0x1002
  need (if src.trans then dst.rows == src.cols && dst.cols == src.rows else dst.rows == src.rows && dst.cols == src.cols) 0x1002
  need (!src.trans || !src.narrow || (src.sq && src.uni)) 0x1002
  let ps := moveParts s src dst
  let rs := ps.flatMap (fun p => p.1.runs)
  checkRuns s n x src.dev rs
  checkRuns s n x dst.dev dst.runs
  let fs := ps.flatMap (fun p => feedsAt v dst.dev p.2.runs (feedsOn s v src.dev p.1.runs))
  let s := findRuns s (some v.ctx) src.dev (hintOf s hint % 2 == 0) rs
  let rd := rdOf s x src.dev
  let ws := ps.flatMap (fun p => if src.trans then transposeRuns rd p.1 p.2 else moveRuns rd p.1 p.2)
  let s := pantryRead s hint src.dev false rs
  pure (spWriteAll s v hint dst.dev ws, fs)

/-- LOAD (R231, R234). -/
def runLoad (s : State) (v : VRef) (x : Vcore) (n : Nat) (o : UOp) : Res Ran := do
  let src ← mkOpnd s n x (arg1 o) true o.ix (ixAxis o)
  let dst ← mkOpnd s n x (arg2 o) false 0 false
  let (s, fs) ← moveOp s v x n (immBits o.word 1 0) src dst
  pure { st := s, d1 := some (dataTok (arg2 o)), outs := dst.outs, feeds := fs }

/-- STORE (R231, R234). -/
def runStore (s : State) (v : VRef) (x : Vcore) (n : Nat) (o : UOp) : Res Ran := do
  let src ← mkOpnd s n x (arg1 o) false 0 false
  let dst ← mkOpnd s n x (arg2 o) false o.ix (ixAxis o)
  let (s, fs) ← moveOp s v x n (immBits o.word 1 0) src dst
  pure { st := s, d1 := some (dataTok (arg2 o)), d2 := some (dataTok (arg1 o)), outs := dst.outs, feeds := fs }

/-- Count accesses of the narrow random path (R298, R301). -/
def countNarrow (s : State) (n k : Nat) : State :=
  (s.modMem (fun m => { m with nrp := satInc m.nrp k })).modPart n (fun p => { p with nrp := satInc p.nrp k })

/-- The byte address of element i of a list of 32-bit words, in row-major order of its operand. -/
def wordAddr (o : Opnd) (i : Nat) : Nat := o.data + ((o.pr + i / o.cols) * o.scols + o.pc + i % o.cols) * 4

/-- GATHER (R234, R275 to R277): 32-byte reads that allocate no Pantry line. Poison in the index list is control data
(DEDUCED, log 19). -/
def runGather (s : State) (v : VRef) (x : Vcore) (n : Nat) (o : UOp) : Res Ran := do
  let k := immBits o.word 7 2
  let list ← mkOpnd s n x (arg1 o) false 0 false
  let table ← mkOpnd s n x (arg2 o) false o.ix (ixAxis o)
  let dst ← mkOpnd s n x (arg3 o) false 0 false
  need (k != 0 && table.fmt == dst.fmt && table.sq == dst.sq && table.uni == dst.uni) 0x1002
  let cnt := list.rows * list.cols
  let words := (List.range cnt).map (fun i => (wordAddr list i, 4))
  checkRuns s n x list.dev words
  let s1 := discoverRuns s (some v.ctx) list.dev words
  let rd := rdOf s1 x list.dev
  match runsPoison rd words with
  | some p => throw (.poisoned (if p = .nan then .context else p) (if list.dev then firstPoison rd words else 0)
      (if list.dev then words else []))
  | none => pure ()
  let idx := words.map (fun w => rdNat rd w.1 4)
  need (idx.all (fun i => decide (i < table.rows))) 0x1002
  let rows := idx.map (fun i => (table.data + i * k * 32, k * 32))
  checkRuns s n x table.dev rows
  checkRuns s n x dst.dev [(dst.data, cnt * k * 32)]
  let s2 := findRuns s1 (some v.ctx) table.dev false rows
  let rt := rdOf s2 x table.dev
  let bytes := rows.flatMap (fun r => rdRun rt r.1 r.2)
  let hint := immBits o.word 1 0
  let s3 := pantryRead s2 hint table.dev true rows
  let s4 := if table.dev then countNarrow s3 n (cnt * k) else s3
  pure { st := spWrite s4 v hint dst.dev dst.data bytes, d1 := some (dataTok (arg3 o)),
         outs := [⟨dst.dev, dst.data, cnt * k * 32⟩],
         feeds := feedsAt v dst.dev [(dst.data, cnt * k * 32)] (feedsOn s v table.dev rows) }

/-- The runs that a SEND carries: in the window, from the data plane to the end of the last plane; in device memory, the
planes' bytes (DEDUCED, log 19). -/
def sendRuns (o : Opnd) : List Run :=
  if o.dev then o.runs
  else
    let fin := o.runs.foldl (fun a r => max a (r.1 + r.2)) o.data
    [(o.data, fin - o.data)]

/-- Poisoned granules of a message, counted from its start. -/
def msgPoison (bs : List PByte) : List (Nat × Policy) :=
  (List.range ((bs.length + 31) / 32)).filterMap (fun g => (strongest ((bs.drop (32 * g)).take 32)).map (fun p => (g, p)))

/-- A SEND message leaves as SEND flits on the VC that it names; one for the own device enters no link (R334). -/
def sendMessage (s : State) (dst : Nat) (m : SendMsg) (bs : List PByte) : State :=
  let s := s.emit (.send dst m)
  if dst = s.devId then s.modFab (fun b => { b with inbox := b.inbox ++ [(m, none)] })
  else launch s { type := 1, vc := m.vch, dst := dst, tag := m.tag, ctx := m.ctx, vcore := m.vc, job := m.job, msgid := m.msgid } [(m.addr, bs)]

/-- SEND (R234, R334): the message leaves, and D1 waits for its acknowledgement. -/
def runSend (s : State) (v : VRef) (x : Vcore) (n : Nat) (o : UOp) : Res Ran := do
  let src ← mkOpnd s n x (arg1 o) false 0 false
  let rs := sendRuns src
  checkRuns s n x src.dev rs
  let s := discoverRuns s (some v.ctx) src.dev rs
  let rd := rdOf s x src.dev
  let bs := rs.flatMap (fun r => rdRun rd r.1 r.2)
  let t := o.s2
  let id := s.fab.nextMsg
  let job := match s.ctx? v.ctx with | some c => c.job.toNat | none => 0
  let m : SendMsg := { src := s.devId, vch := immBits o.word 1 0, ctx := fld t 17 12, vc := fld t 25 18, job := job,
                       addr := fld t 57 26, tag := immBits o.word 23 8, msgid := id.toNat, data := bs.map Prod.fst,
                       poison := msgPoison bs }
  let s := s.modFab (fun f => { f with
    nextMsg := id + 1, sends := f.sends ++ [{ msgid := id.toNat, v := v, op := o.id, at_ := s.now, dst := fld t 11 0 }] })
  pure { st := sendMessage s (fld t 11 0) m bs, d1 := some (dataTok (arg1 o)), held := true, msg := id.toNat }

end Sys2Proof.Machine
end

