-- ==== Sys2Proof/Machine/Flags.lean ====
section
/-! DEFINITION. The sticky numeric flags of the engines (R66, R67): the arrays, the conversion unit and the vector unit of
a core, and the update engine of a cluster. -/

namespace Sys2Proof.Machine

open Sys2Proof

/-- Set flags in an NFLAGS register, recording the first. -/
def setFlags (r : Word32) (f : Flags) (ctx : Option Nat) : Word32 :=
  if f = 0 then r
  else
    let first := fld r 3 0 = 0
    let r' := BitVec.ofNat 32 (setBits r.toNat 3 0 (fld r 3 0 ||| f.toNat))
    if first then
      let c := match ctx with | some k => 2 ^ 14 + k % 64 * 2 ^ 8 | none => 0
      BitVec.ofNat 32 (setBits (setBits r'.toNat 14 8 (c / 2 ^ 8)) 19 16 f.toNat)
    else r'

/-- A write to an NFLAGS register: ones clear flags, and FCTX_V clears with the last (R66). -/
def clearFlags (r w : Word32) : Word32 :=
  let f := fld (r &&& ~~~w) 3 0
  let r' := setFld r 3 0 f
  if f = 0 then setFld r' 14 14 0 else r'

/-- Flags of the arrays of core `n`, set for context `k`. -/
def arrFlags (s : State) (n k : Nat) (f : Flags) : State := s.modCore n (fun c => { c with arrNf := setFlags c.arrNf f (some k) })
/-- Flags of the conversion unit of core `n`. -/
def cvtFlags (s : State) (n k : Nat) (f : Flags) : State := s.modCore n (fun c => { c with cvtNf := setFlags c.cvtNf f (some k) })
/-- Flags of the vector unit of core `n`. -/
def vecFlags (s : State) (n k : Nat) (f : Flags) : State := s.modCore n (fun c => { c with vecNf := setFlags c.vecNf f (some k) })
/-- Flags of the update engine of cluster `n`, whose passes belong to no context. -/
def updFlags (s : State) (n : Nat) (f : Flags) : State := s.modCluster n (fun c => { c with updNf := setFlags c.updNf f none })

end Sys2Proof.Machine
end

