-- ==== Sys2Proof/Machine/Array.lean ====
section
/-! DEFINITION. The array operations ZERO, ACC, TWIN, EXPORT, IMPORT and SWAP (03_matrix_engine.md). CONVERT stands with
the conversion unit. -/

namespace Sys2Proof.Machine

open Sys2Proof

/-! ### Buffers (R84, R86, R88, R486, R487) -/

/-- Frame and pairing of an operand pair (R84), if the pair is accepted (R75). -/
def pairOf (fa fb : Nat) : Option (Int × Bool) :=
  if fmtNarrow fa && fmtNarrow fb then
    let big := fun (x y : Nat) => x == 7 && (y == 5 || y == 6 || y == 7 || y == 8)
    some (fmtUnit fa + fmtUnit fb - 36, big fa fb || big fb fa)
  else if fa == fb && (fa == 9 || fa == 10) then some (fmtUnit fa + fmtUnit fb, fa == 9)
  else none

/-- The position of a buffer of an array: a pair is one accumulator (R486). -/
def bufIdx (l : LaccSet) (arr i : Nat) : Nat := if (l.get (2 * arr)).paired then 2 * arr else 2 * arr + i

/-- ZERO (R88, R486). -/
def zeroBuf (l : LaccSet) (arr i : Nat) : LaccSet := l.set (bufIdx l arr i) {}

/-- The buffer that an operation or import may enter (R88, R486), or event 0x1005. -/
def acceptBuf (l : LaccSet) (arr i : Nat) (frame : Int) (paired t3 : Bool) (m n : Nat) : Res Nat :=
  let lo := l.get (2 * arr)
  let hi := l.get (2 * arr + 1)
  let same := fun (b : Lacc) => b.frame == frame && b.m == m && b.n == n && b.t3 == t3
  if paired then
    if (!lo.data && !hi.data) || (lo.data && lo.paired && same lo) then .ok (2 * arr) else .error (.refuse 0x1005 0)
  else if lo.paired then .error (.refuse 0x1005 0)
  else
    let b := l.get (2 * arr + i)
    if !b.data || same b then .ok (2 * arr + i) else .error (.refuse 0x1005 0)

/-- The product count after an addition (R86). -/
def countProducts (b : Lacc) (k : Nat) : Res Nat :=
  if 1048576 < b.kcount + k then .error (.refuse 0x1004 0) else .ok (b.kcount + k)

/-- Sum of two elements; NaN stays (R87). -/
def addElem (paired : Bool) (a b : Option Int) : Option Int :=
  match a, b with
  | some x, some y => let w := 8 * elemBytes paired; some (toSigned w (ofSigned w (x + y)))
  | _, _ => none

/-- Add terms into a buffer that accepted them; the first entry sets frame, formats and shape (R88), and each stored residue
advances by its term's (R100). -/
def addTerms (b : Lacc) (frame : Int) (paired : Bool) (fa fb m n k : Nat) (terms : List (Option Int)) : Lacc :=
  if b.data then { b with kcount := k, elems := b.elems.zipWith (addElem paired) terms,
                          res := b.res.zipWith advanceRes (terms.map residue) }
  else { b with data := true, frame := frame, fmtA := fa, fmtB := fb, paired := paired, m := m, n := n, kcount := k,
                elems := terms, res := terms.map residue }

/-- The row scales of an operation against those captured (R487). -/
def captureScales (b : Lacc) (ra rb : List Word32) : Res (Option (List Word32 × List Word32)) :=
  match b.scales with
  | none => .ok (some (ra, rb))
  | some c => if c = (ra, rb) then .ok (some c) else .error (.refuse 0x1005 0)

/-! ### Operands -/

/-- A Sideshow entry within an operand's window: row, column and w (R125). -/
structure SsEntry where
  row : Nat
  col : Nat
  w : FV
  deriving DecidableEq, Repr

/-- The Sideshow entries of an operand; a poisoned entry under NAN gives a NaN term (R293). -/
def ssEntries (rd : Nat → PByte) (o : Opnd) : List SsEntry :=
  if !o.ssv || !o.narrow then []
  else (List.range o.ssn).filterMap (fun i =>
    let a := o.sslist + 8 * i
    let e := rdNat rd a 8
    let row := 128 * (o.row0 / 128) + bits e 42 36
    let col := bits e 35 16
    if bit e 63 && o.row0 ≤ row && row < o.row0 + o.rows && o.col0 ≤ col && col < o.col0 + o.cols then
      some ⟨row - o.row0, col - o.col0, if (rdPoison rd a 8).isSome then .nan else fpDecode bf16 (bits e 15 0)⟩
    else none)

/-- Whether an entry meets the admission bounds of R90. -/
def admitted (w : FV) : Bool :=
  match w with
  | .num _ m => (pow2 (-11)).le m && m.lt (pow2 20)
  | _ => false

/-- An operand as an array takes it. -/
structure ArrOp where
  fmt : Nat
  rows : Nat
  k : Nat
  els : List (List FV)
  ss : List SsEntry
  rho : List Word32
  flags : Flags
  feeds : List Group

/-- A wide element on entry to an array (R85). -/
def enterWide (f : Nat) (x : FV) : FV × Flags :=
  match x with
  | .nan => (.nan, 0#4)
  | .inf _ => (.nan, fNV)
  | .num _ m =>
    if f != 9 || m.isZero then (x, 0#4)
    else if m.lt (pow2 (-48)) then (.num false Q.zero, fUF ||| fNX)
    else if (pow2 48).le m then (.nan, fNV)
    else (x, 0#4)

/-- Read an operand of an array: it lies in the window (R73). DESIGN CHOICE (log 42): an operand in device memory is refused
with 0x1002. In T3 mode every value enters as it is (R103), an infinity with NV (R65, log 41). The Bool tells that it drew NaN from
poison. -/
def arrOperand (s : State) (v : VRef) (n : Nat) (x : Vcore) (t3 : Bool) (off : Nat) : Res (Opnd × ArrOp × Bool) := do
  let o ← mkOpnd s n x off false 0 false
  need (!o.dev) 0x1002
  let ssr := if o.narrow then o.ssRuns else []
  checkRuns s n x false (o.runs ++ ssr)
  let rd := rdOf s x false
  let nan ← consume rd false (o.runs ++ ssr)
  let m := readMat rd o true
  let ent := m.els.map (fun r => r.map (fun e =>
    if o.narrow then (e, 0#4) else if t3 then (e, if e.isNum || e.isNan then 0#4 else fNV) else enterWide o.fmt e))
  let ss := ssEntries rd o
  let ssf := orFlags (ss.map (fun e => if admitted e.w || e.w.isNan then 0#4 else fNV))
  pure (o, { fmt := o.fmt, rows := o.rows, k := o.cols, els := ent.map (fun r => r.map Prod.fst), ss := ss, rho := m.rhoBits,
             flags := m.flags ||| orFlags (ent.map (fun r => orFlags (r.map Prod.snd))) ||| ssf ||| (if nan then fNV else 0#4),
             feeds := feedsOn s v false (o.runs ++ ssr) }, nan)

/-- Element (r, c) of an operand. -/
def ArrOp.at (a : ArrOp) (r c : Nat) : FV := ((a.els[r]?).bind (·[c]?)).getD .nan

/-- The operand with its axes exchanged, as TWIN feeds dY to array B (R96). -/
def ArrOp.swap (a : ArrOp) : ArrOp :=
  { a with rows := a.k, k := a.rows, els := (List.range a.k).map (fun c => (List.range a.rows).map (fun r => a.at r c)),
           ss := a.ss.map (fun e => ⟨e.col, e.row, e.w⟩), rho := List.replicate a.k (a.rho.headD 0#32) }

/-! ### Exact products (R83, R87, R90) -/

/-- A sum of exact terms, none once a term is NaN. -/
def addTerm (acc : Option Q) (t : FV) : Option Q :=
  match acc, t with
  | some q, .num _ _ => some ((q.add t.toQ).norm)
  | _, _ => none

/-- The exact value of output element (i, j) of one operation, Sideshow terms included. -/
def product (a b : ArrOp) (i j : Nat) : Option Q :=
  let main := (List.range a.k).foldl (fun acc k => addTerm acc ((a.at i k).mul (b.at j k)).1) (some Q.zero)
  let ea := a.ss.filter (fun e => e.row == i)
  let eb := b.ss.filter (fun e => e.row == j)
  let bad := (ea ++ eb).any (fun e => !admitted e.w)
  if bad then none
  else
    let x := ea.foldl (fun acc e => addTerm acc (e.w.mul (b.at j e.col)).1) main
    let y := eb.foldl (fun acc e => addTerm acc (e.w.mul (a.at i e.col)).1) x
    ea.foldl (fun acc e => (eb.filter (fun f => f.col == e.col)).foldl (fun acc f => addTerm acc (e.w.mul f.w).1) acc) y

/-- All terms of an operation in a frame, row by row (R73, R83). -/
def termsOf (a b : ArrOp) (frame : Int) : List (Option Int) :=
  (List.range a.rows).flatMap (fun i => (List.range b.rows).map (fun j => (product a b i j).map (fun q => (q.scale (-frame)).floor)))

/-! ### T3 mode (R103) -/

/-- An exact wide element as FP32 bits. -/
def asFp32 (x : FV) : Word32 := (enc32 x).1

/-- One chunk of at most 32 products, from +0. -/
def t3Chunk (a b : ArrOp) (i j c : Nat) : R32 :=
  (List.range (min 32 (a.k - 32 * c))).foldl (fun (acc : R32) k =>
    let r := fp32Fma (asFp32 (a.at i (32 * c + k))) (asFp32 (b.at j (32 * c + k))) acc.1
    (r.1, acc.2 ||| r.2)) (0#32, 0#4)

/-- The T3 accumulation of one element from the buffer's value. -/
def t3Elem (a b : ArrOp) (i j : Nat) (start : Word32) : R32 :=
  (List.range (ceilDiv a.k 32)).foldl (fun (acc : R32) c =>
    let s := t3Chunk a b i j c
    let r := fp32Add acc.1 s.1
    (r.1, acc.2 ||| s.2 ||| r.2)) (start, 0#4)

/-- An operation in T3 mode on a buffer. DESIGN CHOICE (log 42): its record's FRAME, for which R84 gives no L, is 0. DESIGN CHOICE
(log 41): an invalid operation of the chunks (infinity minus infinity) sets NV. -/
def t3Accumulate (b : Lacc) (x y : ArrOp) (k : Nat) (last : Bool) : Lacc × Flags :=
  let old := fun (p : Nat) => match b.elems[p]? with | some (some v) => BitVec.ofInt 32 v | _ => 0#32
  let rs := (List.range x.rows).flatMap (fun i => (List.range y.rows).map (fun j => t3Elem x y i j (old (i * y.rows + j))))
  ({ b with data := true, frame := 0, fmtA := x.fmt, fmtB := y.fmt, t3 := true, closed := last, m := x.rows, n := y.rows,
            kcount := k, elems := rs.map (fun r => some (r.1.toNat : Int)) }, orFlags (rs.map Prod.snd))

/-! ### The operations -/

/-- Instruction fields of an array operation (R234). -/
def arrOf (o : UOp) : Nat := immBits o.word 0 0
def bufOf (o : UOp) : Nat := if immBits o.word 1 1 = 1 then fld o.s3 0 0 else immBits o.word 2 2
def zOf (o : UOp) : Bool := immBits o.word 3 3 == 1
def t3Of (o : UOp) : Bool := immBits o.word 4 4 == 1
def t3LastOf (o : UOp) : Bool := immBits o.word 6 6 == 1

/-- A BUF token (R216). -/
def bufTok (i : Nat) : Token := { val := BitVec.ofNat 32 i, kind := kBuf }

/-- Put the buffers of a virtual core. -/
def putLacc (s : State) (v : VRef) (l : LaccSet) : State := s.modVc v (fun y => { y with lacc := l })

/-- A buffer that some groups feed: suspect where one of them ended at CEILING or was converted during a dip (R138, R139). -/
def fedBy (s : State) (n : Nat) (b : Lacc) (gs : List Group) : Lacc :=
  { b with feeds := (b.feeds ++ gs).eraseDups, susp := b.susp || groupsSuspect s n gs }

/-- The buffer that leaves its core by EXPORT or CONVERT: not before the verdict of every group that feeds it is final (R137). DESIGN
CHOICE (log 43): the wait that the resident routines make is made by the operation itself. -/
def leavingBuf (s : State) (n : Nat) (l : LaccSet) (o : UOp) : Res Lacc :=
  let b := l.get (bufIdx l (arrOf o) (bufOf o))
  if groupsPending s n b.feeds then .error .wait
  else .ok { b with susp := b.susp || o.susp || groupsSuspect s n b.feeds }

/-- A recheck of a buffer's residues that fails while RES_EN is set (R100, R102): the array and the buffer. -/
def recheck (s : State) (x : Vcore) (l : LaccSet) (arr i : Nat) : Option (Bool × Bool) :=
  let p := bufIdx l arr i
  if (s.core x.core).arrCtl.getLsbD 0 && resBad (l.get p) then some (arr == 1, p % 2 == 1) else none

/-- One array's part of ACC or TWIN on buffers that Z has zeroed where asked. DESIGN CHOICE (log 42): of several refusals the
first of this order is the one raised: shapes 0x1002, the pair 0x1003, frame, shape and row scales 0x1005, the count 0x1004. -/
def accumulate (s : State) (n : Nat) (l : LaccSet) (arr i : Nat) (frame : Int) (paired : Bool) (a b : ArrOp) (susp : Bool) :
    Res LaccSet := do
  let p ← acceptBuf l arr i frame paired false a.rows b.rows
  let buf := l.get p
  let sc ← captureScales buf a.rho b.rho
  let k ← countProducts buf a.k
  let out := addTerms buf frame paired a.fmt b.fmt a.rows b.rows k (termsOf a b frame)
  pure (l.set p (fedBy s n { out with scales := sc, susp := buf.susp || susp } (a.feeds ++ b.feeds)))

/-- T3 mode on a core that does not allow it (R104). -/
def t3Barred (s : State) (x : Vcore) (o : UOp) : Bool := t3Of o && !(s.core x.core).arrCtl.getLsbD 1

/-- The buffers as an operation finds them: Z applies a ZERO first (R234). -/
def enterLacc (x : Vcore) (o : UOp) : LaccSet := if zOf o then zeroBuf x.lacc (arrOf o) (bufOf o) else x.lacc

/-- ZERO (R88, R104). -/
def runZero (s : State) (v : VRef) (x : Vcore) (_n : Nat) (o : UOp) : Res Ran := do
  need (!t3Barred s x o) 0x1003
  pure { st := putLacc s v (zeroBuf x.lacc (arrOf o) (bufOf o)) }

/-- ACC (R73, R75, R83 to R90, R103). DESIGN CHOICE (log 42): both arrays compute the tile of a T3 operation (R104), and it lies
in the named array's buffer alone. -/
def runAcc (s : State) (v : VRef) (x : Vcore) (n : Nat) (o : UOp) : Res Ran := do
  let (_, a, na) ← arrOperand s v n x (t3Of o) (arg1 o)
  let (_, b, nb) ← arrOperand s v n x (t3Of o) (arg2 o)
  need (a.k == b.k && a.rows ≤ 128 && b.rows ≤ 128) 0x1002
  let arr := arrOf o
  let i := bufOf o
  let l := enterLacc x o
  if t3Of o then
    need (a.fmt == b.fmt && (a.fmt == 9 || a.fmt == 10) && !t3Barred s x o) 0x1003
    need ((t3LastOf o || a.k % 32 == 0) && !(l.get (bufIdx l arr i)).closed) 0x1003
    let p ← acceptBuf l arr i 0 false true a.rows b.rows
    let buf := l.get p
    let sc ← captureScales buf a.rho b.rho
    let k ← countProducts buf a.k
    let (out, fl) := t3Accumulate buf a b k (t3LastOf o)
    let l := l.set p (fedBy s n { out with scales := sc, susp := buf.susp || o.susp } (a.feeds ++ b.feeds))
    let s := nanConsumed (arrFlags (putLacc s v l) x.core v.ctx (a.flags ||| b.flags ||| fl)) v (na || nb)
    pure { st := s, d1 := some (bufTok i), d2 := some (dataTok (arg2 o)), susp := (l.get p).susp }
  else
    match pairOf a.fmt b.fmt with
    | none => .error (.refuse 0x1003 0)
    | some (frame, paired) =>
      let bad := recheck s x l arr i
      let l ← accumulate s n l arr i frame paired a b o.susp
      let s := nanConsumed (arrFlags (putLacc s v l) x.core v.ctx (a.flags ||| b.flags)) v (na || nb)
      pure { st := s, d1 := some (bufTok i), d2 := some (dataTok (arg2 o)), susp := (l.get (bufIdx l arr i)).susp, mism := bad }

/-- TWIN (R96, R97). Each token carries the mark of its own array's buffer (R235). DESIGN CHOICE (log 42): TWIN_EN is looked at
first; after the first two rules of R97 the T3 bit is refused, for dY is then narrow (R104). -/
def runTwin (s : State) (v : VRef) (x : Vcore) (n : Nat) (o : UOp) : Res Ran := do
  let (oy, dy, ny) ← arrOperand s v n x false (arg1 o)
  let (_, w, nw) ← arrOperand s v n x false (arg2 o)
  let (_, xt, nx) ← arrOperand s v n x false (arg3 o)
  need ((s.core x.core).arrCtl.getLsbD 2) 0x1003
  need (oy.sq && oy.uni && w.k == dy.k && xt.k == dy.rows && dy.rows ≤ 128 && dy.k ≤ 128 && w.rows ≤ 128 && xt.rows ≤ 128) 0x1002
  need (!t3Of o) 0x1003
  let i := immBits o.word 2 2
  let j := immBits o.word 5 5
  let l := if zOf o then zeroBuf (zeroBuf x.lacc 0 i) 1 j else x.lacc
  match pairOf dy.fmt w.fmt, pairOf xt.fmt dy.fmt with
  | some (fa, false), some (fb, false) =>
    let bad := match recheck s x l 0 i with | some p => some p | none => recheck s x l 1 j
    let l ← accumulate s n l 0 i fa false dy w o.susp
    let l ← accumulate s n l 1 j fb false xt dy.swap o.susp
    let s := nanConsumed (arrFlags (putLacc s v l) x.core v.ctx (dy.flags ||| w.flags ||| xt.flags)) v (ny || nw || nx)
    pure { st := s, d1 := some { bufTok i with susp := (l.get (bufIdx l 0 i)).susp },
           d2 := some { bufTok j with susp := (l.get (bufIdx l 1 j)).susp }, mism := bad }
  | _, _ => .error (.refuse 0x1003 0)

/-- EXPORT (R92). DEDUCED (log 19): the index modifier moves the record by one element's bytes for each element. -/
def runExport (s : State) (v : VRef) (x : Vcore) (n : Nat) (o : UOp) : Res Ran := do
  need (!t3Barred s x o) 0x1003
  let l := enterLacc x o
  let b ← leavingBuf s n l o
  let off := arg1 o + o.ix * elemBytes b.paired
  let bs := recBytes b
  checkRuns s n x false [(off, bs.length)]
  pure { st := spWrite (putLacc s v l) v 0 false off (clean bs), d1 := some (dataTok off), outs := [⟨false, off, bs.length⟩],
         susp := b.susp, resid := b.resid, mism := recheck s x l (arrOf o) (bufOf o),
         feeds := feedsAt v false [(off, bs.length)] b.feeds, aux := groupBytes s b.feeds, run := [v.vc, off] }

/-- The record at a window offset (R92), from the window as it was at the start of the operation (R223), its body with its
poison (R290). The Bool tells that it drew NaN from poison. -/
def readRecord (s : State) (v : VRef) (n : Nat) (x : Vcore) (off : Nat) : Res (Lacc × Bool) := do
  let h ← readCtl x off 16
  checkRuns s n x false [(off, recLen h)]
  let rd := rdOf s { x with win := x.ctlMem.bytes, winPoison := x.ctlMem.poison } false
  let body := (off + 16, recLen h - 16)
  let nan ← consume rd false [body]
  let r := recParse h (rdRun rd body.1 body.2)
  pure (if r.data then fedBy s n r (feedsOn s v false [(off, recLen h)]) else r, nan)

/-- An import into buffers (R86, R88, R92, R486, R103). DESIGN CHOICE (log 42): a T3 record for a buffer that holds data is
refused with 0x1005. -/
def importRec (l : LaccSet) (arr i : Nat) (r : Lacc) : Res LaccSet := do
  if !r.data then pure l
  else
    let p ← acceptBuf l arr i r.frame r.paired r.t3 r.m r.n
    let b := l.get p
    need (!(r.t3 && b.data)) 0x1005
    let k ← countProducts b r.kcount
    let out := if r.t3 then { r with kcount := k, scales := b.scales }
      else { addTerms b r.frame r.paired r.fmtA r.fmtB r.m r.n k r.elems with
        scales := b.scales, feeds := (b.feeds ++ r.feeds).eraseDups }
    pure (l.set p { out with susp := b.susp || r.susp })

/-- IMPORT (R92). -/
def runImport (s : State) (v : VRef) (x : Vcore) (n : Nat) (o : UOp) : Res Ran := do
  need (!t3Barred s x o) 0x1003
  let (r, nan) ← readRecord s v n x (arg1 o)
  let bad := recheck s x (enterLacc x o) (arrOf o) (bufOf o)
  let l ← importRec (enterLacc x o) (arrOf o) (bufOf o) { r with susp := r.susp || o.susp }
  let s := nanConsumed (arrFlags (putLacc s v l) x.core v.ctx (if nan then fNV else 0#4)) v nan
  pure { st := s, d1 := some (bufTok (bufOf o)), d2 := some (dataTok (arg1 o)),
         susp := (l.get (bufIdx l (arrOf o) (bufOf o))).susp, mism := bad }

/-- SWAP (R92, R234): the old contents leave as EXPORT writes them, and the record is loaded as ZERO and IMPORT would. -/
def runSwap (s : State) (v : VRef) (x : Vcore) (n : Nat) (o : UOp) : Res Ran := do
  need (!t3Barred s x o) 0x1003
  let e := enterLacc x o
  let b := e.get (bufIdx e (arrOf o) (bufOf o))
  let b := { b with susp := b.susp || o.susp }
  let bs := recBytes b
  checkRuns s n x false [(arg1 o, bs.length)]
  let (r, nan) ← readRecord s v n x (arg2 o)
  let l ← importRec (zeroBuf x.lacc (arrOf o) (bufOf o)) (arrOf o) (bufOf o) { r with susp := r.susp || o.susp }
  let s := spWrite s v 0 false (arg1 o) (clean bs)
  let s := nanConsumed (arrFlags (putLacc s v l) x.core v.ctx (if nan then fNV else 0#4)) v nan
  pure { st := s, d1 := some (dataTok (arg1 o)), d2 := some (dataTok (arg2 o)), outs := [⟨false, arg1 o, bs.length⟩],
         susp := b.susp, resid := b.resid, mism := recheck s x e (arrOf o) (bufOf o),
         feeds := feedsAt v false [(arg1 o, bs.length)] b.feeds, aux := groupBytes s b.feeds, run := [v.vc, arg1 o] }

end Sys2Proof.Machine
end

