-- ==== Sys2Proof/Machine/Convert.lean ====
section
/-! DEFINITION. The conversion unit (04_scaling_and_error_control.md): conversion descriptors, one pass of CVT or CONVERT
with rotation, scale recipes, the Sideshow and Rebake slots, MX interchange (R68 to R72), and VWAIT. -/

namespace Sys2Proof.Machine

open Sys2Proof

/-! ### Conversion descriptors (R111, R112) -/

def cvFmtw (c : BitVec 512) : Nat := fld c 31 0
def cvRecipe (c : BitVec 512) : Nat := fld c 35 32
def cvRot (c : BitVec 512) : Nat := fld c 38 36
def cvSfmt (c : BitVec 512) : Nat := fld c 43 40
def cvTuse (c : BitVec 512) : Bool := c.getLsbD 44
def cvOt (c : BitVec 512) : Nat := fld c 55 52
def cvLayer (c : BitVec 512) : Nat := fld c 75 64
def cvResc (c : BitVec 512) : Nat := fld c 81 80
def cvFirst (c : BitVec 512) : Bool := c.getLsbD 82
def cvStep (c : BitVec 512) : Nat := fld c 159 96
def cvAttempt (c : BitVec 512) : Nat := fld c 175 160
def cvTsr (c : BitVec 512) : Nat := fld c 335 288
def cvGsr (c : BitVec 512) : Nat := fld c 399 352
def cvFmt (c : BitVec 512) : Nat := fmtwFmt (cvFmtw c)

/-- A delayed-scale pass (R118). -/
def cvDelayed (c : BitVec 512) : Bool := cvRecipe c == 2 || (cvRecipe c == 1 && cvTuse c)
/-- A pass whose tensor has a TSR (R121). -/
def cvHasTsr (c : BitVec 512) : Bool := cvRecipe c == 0 || cvRecipe c == 3 || cvDelayed c

/-- Ladder position of a format (R132). -/
def ladder (f : Nat) : Nat :=
  if f = 0 then 0 else if f = 1 then 1 else if f ≤ 4 then 2 else if f ≤ 8 then 3 else 4

/-- The format that a widening of a tensor writes at a ladder position, by the tensor's lineage (R132): G4I and I8 are of the integer
lineage, GRAD tensors and PLANE tensors in G8W of the gradient lineage, all others of the float lineage. -/
def formatAt (recipe f pos : Nat) : Nat :=
  if pos = 0 then 0 else if pos = 1 then 1 else if pos = 2 then 3
  else if pos = 3 then (if f = 4 ∨ f = 8 then 8 else if recipe = 2 ∨ (recipe = 4 ∧ f = 7) then 7 else 6)
  else 9

/-- Reserved codes of a CVD; a reserved field's value is ignored (R9). -/
def cvdReserved (c : BitVec 512) : Bool :=
  4 < cvRecipe c || 5 < cvRot c || !(cvSfmt c == 9 || cvSfmt c == 10 || cvSfmt c == 11 || cvSfmt c == 15) || 4 < fld c 50 48 ||
  cvResc c == 3

/-- Read a CVD (R111). -/
def readCvd (x : Vcore) (off : Nat) : Res (BitVec 512) := do
  need (off % 64 == 0) 0x1006
  let n ← readCtl x off 64
  pure (BitVec.ofNat 512 n)

/-- The checks of R55, R112 and R120. -/
def checkCvd (c : BitVec 512) (convert : Bool) : Res Unit := do
  need (fmtwValid (cvFmtw c)) 0x1001
  let narrow := fmtNarrow (cvFmt c) && fmtwMxt (cvFmtw c) == 0
  let uni := fmtwUniform (cvFmtw c)
  need (!cvdReserved c && (cvSfmt c == 15) == convert && !(convert && cvRot c != 0)) 0x1006
  need (!narrow || (match cvRecipe c with
    | 0 => uni | 1 => uni == cvTuse c | 2 => uni | 3 => uni | _ => true)) 0x1006
  need (cvTsr c % 64 == 0 && cvGsr c % 256 == 0 && fld c 463 416 % 256 == 0) 0x1006
  need (!(convert && narrow && cvRecipe c == 1 && !cvTuse c)) 0x1006

/-! ### Records in device memory -/

/-- Control data in device memory, read for the context's partition. Poison under NAN is handled as CONTEXT
(DEDUCED, log 19). -/
def readDevCtl (s : State) (n : Nat) (x : Vcore) (da len : Nat) : Res Nat := do
  checkRuns s n x true [(da, len)]
  match rdPoison (rdOf s x true) da len with
  | some p => .error (.poisoned (if p = .nan then .context else p) da [(da, len)])
  | none => pure (devNat s da len)

/-- A write that a home controller makes: it neither consumes nor clears poison (R289). -/
def homeWrite (s : State) (da : Nat) (bs : List Byte) : State :=
  if fencedAt s da then s
  else ((linesOf da bs.length).foldl (fun t l => pantryWrite1 t 0 l da (clean bs)) s).modMem (fun m => { m with
    bytes := memPutAll m.bytes da bs })

/-- The TSR header after a pass with a tag (R122): the per-step fields start afresh under a new tag. -/
def tsrTag (h step attempt : Nat) : Nat :=
  if bits h 63 0 = step ∧ bits h 79 64 = attempt then h
  else setBits (setBits (setBits (setBits (setBits (setBits h 63 0 step) 79 64 attempt) 84 80 0) 127 96 0) 159 128 0) 287 272 0

/-- The order of GSR tags (R127): STEP, ATTEMPT, LEVEL, RESC. -/
def gsrKey (g : Nat) : Nat := ((bits g 63 0 * 65536 + bits g 79 64) * 8 + bits g 82 80) * 4 + bits g 84 83
/-- The key of the tag a pass carries. -/
def cvKey (c : BitVec 512) : Nat := ((cvStep c * 65536 + cvAttempt c) * 8 + ladder (cvFmt c)) * 4 + cvResc c

/-- Whether the verdict on a pass of some key over a group is still to come (R111). Nothing is to come in an attempt that is over. -/
def verdictDue (s : State) (n : Nat) (p : Group × Nat) : Bool :=
  let g := devNat s p.1.gsr 64
  decide ((curStep s n).toNat * 65536 + (s.cmt n).attempt.toNat ≤ p.1.step.toNat * 65536 + p.1.attempt.toNat) &&
    (decide (gsrKey g < p.2) || (gsrKey g == p.2 && !bit g 86))

/-- A GSR record with a tag and thresholds only (R127, R131). -/
def gsrNew (c : BitVec 512) (thr : Word64) : Nat :=
  cvStep c + cvAttempt c * 2 ^ 64 + ladder (cvFmt c) * 2 ^ 80 + cvResc c * 2 ^ 83 + fld thr 15 0 * 2 ^ 448 +
  fld thr 31 16 * 2 ^ 464 + fld thr 39 32 * 2 ^ 480

/-- The record once a contribution's tag has been compared with it; none when the contribution is superseded (R127). A
record that nothing has reached under its tag takes the thresholds. -/
def gsrOpen (g : Nat) (c : BitVec 512) (thr : Word64) : Option Nat :=
  if gsrKey g < cvKey c then some (gsrNew c thr)
  else if gsrKey g = cvKey c then
    some (if bits g 415 96 = 0 ∧ !bit g 432 then gsrNew c thr else g)
  else none

/-- Whether a pass is under an old level of its tensor: the TSR's header carries the pass's tag and a higher TLEVEL. What it
contributes is discarded (R139). -/
def oldLevel (s : State) (c : BitVec 512) : Bool :=
  let h := devNat s (cvTsr c) 64
  (cvHasTsr c || cvTsr c != 0) && bits h 63 0 == cvStep c && bits h 79 64 == cvAttempt c && decide (ladder (cvFmt c) < bits h 82 80)

/-- The group that a record stands for, under the tag of a pass. -/
def cvGroup (c : BitVec 512) (ga : Nat) : Group := ⟨ga, BitVec.ofNat 64 (cvStep c), BitVec.ofNat 16 (cvAttempt c)⟩

/-- A pass under a new tag supersedes a group's earlier passes (R127): the passes that were due up to its tag are made, and a check
of an earlier pass's output is dropped, for the run is compared at its final format (R32). -/
def supersede (s : State) (ga key : Nat) : State :=
  let old := fun (c : Check) => c.waits.any (fun w => w.1.gsr == ga && decide (w.2 < key))
  let cs := s.rel.checks.filter old
  let s := { s with rebakes := s.rebakes.filter (fun b => !(b.gsr == ga && decide (cvKey b.cvd ≤ key))) }
  let s := s.modRel (fun r => { r with checks := r.checks.filter (fun c => !old c) })
  cs.foldl (fun t c =>
    let t := t.modPart c.part (fun p => { p with sn := { p.sn with pending := p.sn.pending - 1 } })
    match c.vref, c.op with
    | some v, some o => releaseOp t v o none
    | _, _ => t) s

/-- History slot j of a TSR. -/
def tsrSlot (t j : Nat) : Nat := bits t (512 + 128 * j + 127) (512 + 128 * j)

/-- The delayed maximum M_d of step n with depth N (R118). -/
def delayedMax (t step depth : Nat) : Q :=
  let good := (List.range 16).filterMap (fun j =>
    let sl := tsrSlot t j
    let st := bits sl 63 0
    match fpDecode fp32 (bits sl 95 64) with
    | .num false m => if !m.isZero && step ≤ st + depth && st + 1 ≤ step then some m else none
    | _ => none)
  match good with
  | [] => (fpDecode fp32 (bits t 223 192)).toQ
  | m :: ms => ms.foldl Q.max m

/-- Whether a stored FP32 maximum is finite and positive. -/
def goodMax (w : Nat) : Bool :=
  match fpDecode fp32 w with
  | .num false m => !m.isZero
  | _ => false

/-! ### Rotation (R115, R116) -/

/-- One butterfly stage at distance h. -/
def butterfly (h : Nat) (x : List Word32) : List R32 :=
  (List.range x.length).map (fun i =>
    let a := x[i]?.getD 0#32
    if i / h % 2 = 0 then fp32Add a (x[i + h]?.getD 0#32) else fp32Sub (x[i - h]?.getD 0#32) a)

/-- The stages of a butterfly network. DESIGN CHOICE (log 44): stage order is that of the Sylvester recursion, distance 1 first, then 2,
4 and on. -/
def butterflies : List Nat → List Word32 × Flags → List Word32 × Flags
  | [], p => p
  | h :: hs, (x, f) => let r := butterfly h x; butterflies hs (r.map Prod.fst, f ||| orFlags (r.map Prod.snd))

/-- One chunk of n columns from column c0. -/
def rotateChunk (c : BitVec 512) (n c0 : Nat) (x : List Word32) : List Word32 × Flags :=
  let seed := BitVec.ofNat 64 (fld c 287 224)
  let stream := BitVec.ofNat 32 (fld c 223 192)
  let neg := fun (col : Nat) => (mix seed stream (BitVec.ofNat 64 (col / 128)) (BitVec.ofNat 64 (cvStep c))).getLsbD (col % 128)
  let d := x.mapIdx (fun i w => if neg (c0 + i) then w ^^^ 0x80000000#32 else w)
  let k := Nat.log2 n
  let (y, f) := butterflies ((List.range k).map (2 ^ ·)) (d, 0#4)
  let t := k / 2
  let sft : Int := if k % 2 = 1 ∧ c.getLsbD 39 then t + 1 else t
  let r := y.map (fun w => fp32Ldexp w (-sft))
  (r.map Prod.fst, f ||| orFlags (r.map Prod.snd))

/-- Rotation of one row from logical column c0, by chunks; pad columns enter as zeros and are dropped. -/
def rotateRow (c : BitVec 512) (c0 : Nat) (row : List FV) : List FV × Flags :=
  if cvRot c = 0 then (row, 0#4)
  else
    let n := 8 * 2 ^ cvRot c
    let w := row.map (fun e => (enc32 e).1)
    let padded := w ++ List.replicate (alignUp w.length n - w.length) 0#32
    let ch := (List.range (padded.length / n)).map (fun i => rotateChunk c n (c0 + i * n) ((padded.drop (i * n)).take n))
    (((ch.flatMap Prod.fst).take row.length).map dec32, orFlags (ch.map Prod.snd))

/-! ### Groups (R108, R124) -/

/-- Rows of group g (R108): by TROWS; else 128 where the TSR announces later groups; else a value that no descriptor gives, the same
for every pass of the group and no less than the pass itself covers (log 19). -/
def groupRows (o : Opnd) (groups g ga : Nat) : Nat :=
  if o.dev && o.trows != 0 then min 128 (o.trows - 128 * g)
  else if g + 1 < groups then 128
  else min 128 (max (o.row0 + o.rows - 128 * g) (Config.lastRows ga))

/-! ### One pass to a narrow output (R113, R117 to R119, R123) -/

/-- The gathered maximum as an FP32 code, rounded upward (R113, R64). -/
def gatherMax (vals : List (List FV)) : Word32 :=
  let xs := vals.flatten
  if xs.any FV.isNan then BitVec.ofNat 32 fp32.qnan
  else if xs.any (fun e => !e.isNum) then BitVec.ofNat 32 (fp32.infBits false)
  else
    let m := xs.foldl (fun a e => a.max e.toQ.abs) Q.zero
    if m.isZero then 0#32 else BitVec.ofNat 32 (fp32RoundUp m)

/-- The outlier of a block, as element position and w (R123). -/
def findOutlier (ot : Nat) (xs : List (FV × Option Q)) : Option (Nat × Nat) :=
  if ot = 0 || xs.any (fun p => !p.1.isNum) then none
  else
    let ms := xs.map (fun p => p.1.toQ.abs)
    let m1 := ms.foldl Q.max Q.zero
    match ms.findIdx? (fun m => m.eq m1) with
    | none => none
    | some i =>
      let m2 := (ms.eraseIdx i).foldl Q.max Q.zero
      match xs[i]? with
      | some (x, some r) =>
        if r.isZero || !((m2.scale ot).lt m1) then none
        else
          let w := (fpEncode bf16 .rne (FV.ofQ (x.toQ.div r))).1
          if admitted (fpDecode bf16 w) then some (i, w) else none
      | _ => none

/-- One converted block with its place and its outlier. -/
structure BlockRes where
  idx : Nat
  out : BlockOut
  /-- Row and column within the operand, and w. -/
  outlier : Option (Nat × Nat × Nat)

/-- Element e of block (i, j) of an operand: row and column within it. -/
def blockElem (o : Opnd) (i j e : Nat) : Nat × Nat :=
  if o.sq then (4 * i + e / 4, 4 * j + e % 4) else (i, 16 * j + e)

/-- Convert every block of an operand. -/
def convertBlocks (o : Opnd) (ot : Nat) (rule : Nat → ScaleRule) (rho : List (Option Q)) (rnd : Nat → Rnd)
    (vals : List (List FV)) : List BlockRes :=
  let (r0, nr, c0, nc, per) := o.grid
  (List.range nr).flatMap (fun i => (List.range nc).map (fun j =>
    let idx := (r0 + i) * per + c0 + j
    let pos := (List.range 16).map (blockElem o i j)
    let isPad := fun (p : Nat × Nat) => decide (o.rows ≤ p.1) || decide (o.cols ≤ p.2)
    let xs := pos.map (fun p =>
      if isPad p then (FV.num false Q.zero, (rho[p.1]?).getD (rho.getLast?.getD (some Q.one)))
      else (((vals[p.1]?).bind (·[p.2]?)).getD .nan, (rho[p.1]?).getD none))
    let draw := fun e => match pos[e]? with
      | some p => if isPad p then .rne else rnd (o.index p.1 p.2)
      | none => .rne
    match findOutlier ot xs with
    | none => ⟨idx, encodeBlock o.fmt (rule idx) draw xs, none⟩
    | some (e, w) =>
      let b := encodeBlock o.fmt (rule idx) draw (xs.set e (FV.num false Q.zero, ((xs[e]?).map Prod.snd).getD none)) (some e)
      let p := (pos[e]?).getD (0, 0)
      ⟨idx, { b with counts := { b.counts with nonzero := b.counts.nonzero + 1, nzblk := 1, satblk := 0, ss := 1 } },
        some (p.1, p.2, w)⟩))

/-- The row scale an FP32 code stands for, after R48, for every row. -/
def sameScale (rows : Nat) (w : Nat) : List (Option Q) := List.replicate rows (rowScaleOf w).1

/-- The row scales that a recipe gives a pass: codes (one for UNIFORM, one per row for ROWS) (R117, R118). `t` is the TSR;
`plane` holds the codes of the existing row-scale plane. A widened delayed-scale pass keeps the tensor's ρ, `kept` from
its first-format pass (R134); with no such pass it takes M_d over the Emax of the starting format, `start` (R118, log 20). -/
def recipeScales (c : BitVec 512) (t : Nat) (plane : List Nat) (kept : Option Nat) (start : Nat) (vals : List (List FV)) :
    Res (List Nat) :=
  let f := cvFmt c
  match cvRecipe c with
  | 0 =>
    if goodMax (bits t 255 224) then
      .ok [(fpEncode fp32 .rne (.num false (pow2 (max (((fpDecode fp32 (bits t 255 224)).toQ.div (fmtEmax f)).clog2) (-126))))).1]
    else .error (.refuse 0x1006 0)
  | 3 => .ok [(fpEncode fp32 .rne (.num false (pow2 (toSigned 16 (bits t 271 256))))).1]
  | 4 => .ok plane
  | _ =>
    if cvDelayed c then
      if cvResc c = 2 then .ok [bits t 127 96]
      else match kept with
      | some r => .ok [r]
      | none =>
        let m := delayedMax t (cvStep c) (fld c 79 76 + 1)
        if m.isZero || m.isNeg || !(goodMax (rowScaleBits m)) then .error (.refuse 0x1006 0)
        else .ok [rowScaleBits (m.div (fmtEmax start))]
    else .ok (vals.map (rowScaleJit f))

/-- The block-scale rule of a pass (R117, R119). -/
def recipeRule (s : State) (n : Nat) (c : BitVec 512) (bytes : Nat → Nat) : Nat → ScaleRule :=
  if cvRecipe c = 4 then fun b => .given (bytes b)
  else
    let dc := fld c 63 56
    let d := if dc = 0 then fld (s.part n).active.numThr 47 40 else dc
    let ceil := if cvDelayed c && cvResc c == 0 && cvFirst c then min d 0xFE else 0xFE
    fun _ => .jit ceil

/-- Bytes of a group at a format, in the layout of a Rebake slot. -/
def slotBytes (o : Opnd) (rows : Nat) : Nat :=
  let q := slotOpnd o 0 0 rows
  if o.narrow then q.rho + (if o.uni then 4 else 4 * (if o.sq then alignUp rows 4 else rows)) else rows * padCols o * (fmtWidth o.fmt / 8)

/-- Append one Sideshow entry (R124): the next index of SSCOUNT, written if it is within capacity. -/
def appendEntry (s : State) (c : BitVec 512) (ga g cap full : Nat) (row col w : Nat) : State :=
  let r := devNat s ga 64
  let k := bits r 415 384
  let s := homeWrite s ga (natToBytes 64 (setBits r 415 384 (satAdd 32 k 1)))
  if k < cap then
    devWrite s (fld c 463 416 + g * alignUp (full * 8) 256 + 8 * k)
      (clean (natToBytes 8 (w + col % 2 ^ 20 * 2 ^ 16 + row % 128 * 2 ^ 36 + 2 ^ 63)))
  else s

/-- Statistics of the blocks of a group. -/
def sumCounts (bs : List BlockRes) : Counts := bs.foldl (fun a b => a.add b.out.counts) {}

/-! ### Telemetry accumulator (R140) -/

/-- Fields of an accumulator entry, at the places of the record: ELEMS, CLIPPED, VANISHED, FLOORBLK, NANBLK, RESCALES,
WIDENS, CEILINGS, SSOVF and SSENTRIES. -/
def telFields : List (Nat × Nat) :=
  [(191, 128), (255, 192), (319, 256), (351, 320), (383, 352), (399, 384), (415, 400), (431, 416), (447, 432), (479, 448)]

/-- Add counts to an accumulator entry, field by field. -/
def telSum (e : Nat) (ks : List Nat) : Nat :=
  (telFields.zip ks).foldl (fun a p => setBits a p.1.1 p.1.2 (satAdd (p.1.1 - p.1.2 + 1) (bits a p.1.1 p.1.2) p.2)) e

/-- Put a number into a rising list. -/
def insertUp (i : Nat) : List Nat → List Nat
  | [] => [i]
  | j :: r => if i < j then i :: j :: r else if i = j then j :: r else j :: insertUp i r

/-- Add to the partition's accumulator (R140). A dropped addition counts in TEL_LOST the record that it would have fed, once a step. -/
def telAdd (s : State) (n layer fmt : Nat) (ks : List Nat) : State :=
  let i := 16 * layer + fmt
  let da := (s.part n).tel.accBase.toNat + 64 * i
  match accessRefusal s (.part n) da 64 with
  | some code =>
    let once := (s.part n).tel.ev2001
    let s := s.modPart n (fun p => { p with tel := { p.tel with
      lost := if p.tel.dropped.contains i then p.tel.lost else satInc p.tel.lost, dropped := insertUp i p.tel.dropped, ev2001 := true } })
    let s := countRefused s n
    if once then s else raise s code (some n) none (data2 da 0 (regionOf da))
  | none => (homeWrite s da (natToBytes 64 (telSum (devNat s da 64) ks))).modPart n
      (fun p => { p with tel := { p.tel with touched := insertUp i p.tel.touched } })

/-- ACCEPT 0, RESCALE_GROUP 1, RESCALE_TENSOR 2, WIDEN_GROUP 3, WIDEN_TENSOR 4, CEILING 5. -/
abbrev Verdict := Nat

/-- Count a verdict in CVT_RBCNT and LASTV (R144, R145). -/
def countVerdict (r : Core) (v : Verdict) (ovf : Bool) : Core :=
  let inc := fun (w : Word64) (hi lo : Nat) (b : Bool) => if b then setFld w hi lo (satAdd 16 (fld w hi lo) 1) else w
  { r with rbcnt := inc (inc (inc (inc r.rbcnt 15 0 (v == 1 || v == 2)) 31 16 (v == 3 || v == 4)) 47 32 (v == 5)) 63 48 ovf,
           lastv := some (BitVec.ofNat 3 v) }

/-- Every sum that a group feeds becomes suspect (R138, R139). -/
def suspectFed (s : State) (g : Group) : State :=
  let mark := fun (l : Lacc) => if l.feeds.contains g then { l with susp := true } else l
  { s with ctxs := tmap s.ctxs (fun _ c => { c with vcs := tmap c.vcs (fun _ x => { x with
      lacc := ⟨mark x.lacc.a0, mark x.lacc.a1, mark x.lacc.b0, mark x.lacc.b1⟩ }) }) }

/-- What a group whose verdict is ACCEPT or CEILING adds to the accumulator (R140). -/
def groupCounts (g cap : Nat) (v : Verdict) : List Nat :=
  [bits g 191 160, bits g 223 192, bits g 255 224, bits g 319 288, bits g 383 352, 0, 0, b2n (v == 5),
   b2n (decide (cap < bits g 415 384)), bits g 415 384]

/-- The final verdict CEILING where a widening finds no slot (R136): the last pass stands, marked SUSPECT, and counts under its
format (R140). -/
def slotCeiling (s : State) (v : VRef) (n : Nat) (c : BitVec 512) (ga g cap : Nat) : State :=
  let r := devNat s ga 64
  let s := homeWrite s ga (natToBytes 64 (setBits r 90 86 (1 + 5 * 2 + 16)))
  let f := match tget s.groups ga with | some p => p.fmt | none => cvFmt c
  let d := fun (x : Vcore) => data1 (cvLayer c) (cvFmt c) g x.core (BitVec.ofNat 64 (cvStep c))
  match s.vc? v with
  | some x => suspectFed (telAdd ((raiseCtx (raiseCtx s 0x1105 v.ctx (d x)) 0x1103 v.ctx (d x)).modCore x.core
      (fun q => countVerdict q 5 false)) n (cvLayer c) f (groupCounts r cap 5)) (cvGroup c ga)
  | none => s

/-- What a pass leaves beside the state: its flags, where it wrote, and the groups that it contributed to, with its key. -/
structure CvtOut where
  fl : Flags := 0#4
  outs : List OutLoc := []
  feeds : List Feed := []
  groups : List (Group × Nat) := []

def CvtOut.add (a b : CvtOut) : CvtOut := ⟨a.fl ||| b.fl, a.outs ++ b.outs, a.feeds ++ b.feeds, a.groups ++ b.groups⟩

/-- A group's record opened for a pass (R127): a newer tag supersedes what the record held. -/
def openGroup (s : State) (c : BitVec 512) (ga : Nat) (thr : Word64) : State :=
  let old := devNat s ga 64
  match gsrOpen old c thr with
  | some r => homeWrite (if gsrKey old < cvKey c then supersede s ga (cvKey c) else s) ga (natToBytes 64 r)
  | none => s

/-- The Rebake slot of a widened pass (R136), from the TSR `hdr`, with its allocation recorded; none where none is left or the group does
not fit. -/
def rebakeSlot (s : State) (c : BitVec 512) (ga hdr need : Nat) (live : Bool) : State × Option Nat :=
  let g0 := devNat s ga 64
  let i := bits hdr 287 272
  if live && bit g0 432 then (s, some (bits g0 431 416))
  else if fld c 415 400 ≤ i || fld c 351 336 * 4096 < need then (s, none)
  else
    let s := homeWrite s (cvTsr c) (natToBytes 64 (setBits hdr 287 272 ((i + 1) % 65536)))
    (if live then homeWrite s ga (natToBytes 64 (setBits (devNat s ga 64) 432 416 (i + 65536))) else s, some i)

/-- The place of a group's last pass (R136); `slot` is its Rebake slot, if it has one. -/
def placeGroup (s : State) (c : BitVec 512) (o : Opnd) (ga g : Nat) (slot : Option (Nat × Nat × Nat)) : State :=
  let here := if o.dev then o.data else 2 ^ 60
  { s with groups := tmod s.groups ga ⟨here, g, cvFmt c, none⟩ (fun e =>
      { e with base := if cvFirst c then here else e.base, group := g, fmt := cvFmt c, slot := slot }) }

/-- The blocks of a group to the planes of `q`, its row scales `rw` beside them; `part` is the group within its operand. -/
def blockPlanes (part q : Opnd) (bs : List BlockRes) (rw : List (Nat × List PByte)) : List (Nat × List PByte) :=
  let shift := fun (b : BlockRes) =>
    let (p0, _, d0, _, per) := part.grid
    let (p1, _, d1, _, per') := q.grid
    (p1 + (b.idx / per - p0)) * per' + d1 + (b.idx % per - d0)
  blockWrites q (bs.map (fun b => (shift b, packCodes (fmtWidth q.fmt) b.out.codes, b.out.byte))) ++ rw

/-- The Sideshow entries of a group's blocks (R124), at the rows of the group. -/
def sideshow (s : State) (c : BitVec 512) (part : Opnd) (ga g cap : Nat) (bs : List BlockRes) : State :=
  (bs.filterMap BlockRes.outlier).foldl
    (fun t e => appendEntry t c ga g cap (2 * padCols part) (part.row0 + e.1 - 128 * g) (part.col0 + e.2.1) e.2.2) s

/-- A pass: its operation, its CVD `c` and destination `o`, its row scales `rho` and the existing block scales `bytes` (KEEP), the groups of
its tensor (0 where none is known), its values, and whether it gathers statistics and its source is suspect. -/
structure CvtPass where
  v : VRef
  x : Vcore
  n : Nat
  c : BitVec 512
  o : Opnd
  rho : List Nat
  bytes : Nat → Nat
  groups : Nat
  stats : Bool
  vals : List (List FV)
  susp : Bool

/-- Group g of a pass lands: blocks to a narrow tensor or rounded values to a wide one, at the planes of `q`, with statistics. The group has
`k` rows of the operand, from row r0 on, and `rows` of its tensor; `live` says that its record is open to the pass. -/
def landGroup (p : CvtPass) (s : State) (g r0 k rows : Nat) (live : Bool) (q : Opnd) : Res (State × CvtOut) := do
  let o := p.o
  let c := p.c
  let part := o.slice r0 k
  let sub := (p.vals.drop r0).take k
  let ga := cvGsr c + 64 * g
  let cap := rows * padCols o / 64
  let rnd := fun i => rndOf (fmtwRnd (cvFmtw c)) p.x.jseed o.stream (BitVec.ofNat 64 (cvStep c)) i
  let mine : CvtOut := { outs := q.outs, feeds := if live then feedsAt p.v q.dev q.runs [cvGroup c ga] else [],
                         groups := if live then [(cvGroup c ga, cvKey c)] else [] }
  let post := fun (s : State) (cn : Counts) => if p.stats then { s with gsrq := s.gsrq ++ [{
      v := p.v, gsr := ga, cvd := c, group := g, total := (if o.sq then alignUp rows 4 else rows) * padCols o, cap := cap, cover := cn.cover,
      nonzero := cn.nonzero, clipped := cn.clipped, vanished := cn.vanished, nzblk := cn.nzblk, floorblk := cn.floorblk,
      satblk := cn.satblk, nanblk := cn.nanblk, gmax := gatherMax sub, suspect := p.susp, thr := (s.part p.n).active.numThr }] } else s
  if o.narrow then
    let codes := if o.uni then p.rho.take 1 else (p.rho.drop r0).take k
    let rq := if o.uni then sameScale k (p.rho.headD fp32.qnan) else codes.map (fun w => (rowScaleOf w).1)
    let bs := convertBlocks part (cvOt c) (recipeRule s p.n c p.bytes) rq rnd sub
    let rw := if o.uni then [(q.rho, clean (natToBytes 4 (p.rho.headD fp32.qnan)))]
      else [(q.rho + 4 * q.pr, clean ((((p.rho ++ [0, 0, 0]).drop r0).take part.storedRows).flatMap (natToBytes 4)))]
    if cvOt c ≠ 0 && p.stats then
      checkRuns s p.n p.x true [(fld c 463 416 + g * alignUp (2 * padCols o * 8) 256, 8 * cap)]
    let s := spWriteAll s p.v 0 q.dev (blockPlanes part q bs rw)
    let s := if live then sideshow s c part ga g cap bs else s
    pure (post s (sumCounts bs),
      { mine with fl := orFlags (bs.map (fun b => b.out.flags)) ||| orFlags (codes.map (fun w => (rowScaleOf w).2)) })
  else
    let (ws, fl) := wideWrites q rnd sub
    let xs := sub.flatten
    pure (post (spWriteAll s p.v 0 q.dev ws) { cover := xs.length, nonzero := (xs.filter isNonzero).length }, { mine with fl := fl })

/-- A widened pass of a group, at its Rebake slot (R136): with none, the pass under the new tag is not made, and the record keeps its last
pass, `old`. A superseded pass disturbs no record (R127). -/
def landSlot (p : CvtPass) (s : State) (g r0 k rows : Nat) (live : Bool) (old hdr : Nat) : Res (State × CvtOut) := do
  let c := p.c
  let ga := cvGsr c + 64 * g
  let (s, slot) := rebakeSlot s c ga hdr (slotBytes p.o rows) live
  match slot with
  | some i =>
    let base := fld c 511 464 + i * (fld c 351 336 * 4096)
    let q := slotOpnd (p.o.slice r0 k) base g rows
    checkRuns s p.n p.x q.dev q.runs
    landGroup p (if live then placeGroup s c p.o ga g (some (cvFmt c, base, rows)) else s) g r0 k rows live q
  | none =>
    if live then pure (slotCeiling (homeWrite s ga (natToBytes 64 old)) p.v p.n c ga g (rows * padCols p.o / 64), {})
    else pure (raiseCtx s 0x1105 p.v.ctx (data1 (cvLayer c) (cvFmt c) g p.x.core (BitVec.ofNat 64 (cvStep c))), {})

/-- The output of one group of a pass: its record is opened, and it lands at the planes of the operand or, widened, at a slot. -/
def writeGroup (p : CvtPass) (s : State) (gr : Nat × Nat × Nat) : Res (State × CvtOut) := do
  let (g, r0, k) := gr
  let c := p.c
  let ga := cvGsr c + 64 * g
  let rows := groupRows p.o p.groups g ga
  let thr := (s.part p.n).active.numThr
  if p.stats then checkRuns s p.n p.x true [(ga, 64)]
  let s := if p.stats then discoverRuns s (some p.v.ctx) true [(ga, 64)] else s
  let old := devNat s ga 64
  let live := p.stats && !oldLevel s c && (gsrOpen old c thr).isSome
  let s := if live then openGroup s c ga thr else s
  if cvFirst c || !p.stats then
    let q := p.o.slice r0 k
    checkRuns s p.n p.x q.dev q.runs
    landGroup p (if live then placeGroup s c p.o ga g none else s) g r0 k rows live q
  else
    let hdr ← readDevCtl s p.n p.x (cvTsr c) 64
    landSlot p s g r0 k rows live old hdr

/-- The groups of a pass in order. -/
def writeGroups (p : CvtPass) : List (Nat × Nat × Nat) → State × CvtOut → Res (State × CvtOut)
  | [], r => .ok r
  | g :: gs, (s, f) => do
    let (s', f') ← writeGroup p s g
    writeGroups p gs (s', f.add f')

/-- The TSR of a pass, headed with its tag (R122). -/
def headTsr (s : State) (v : VRef) (c : BitVec 512) : State :=
  let s := discoverRuns s (some v.ctx) true [(cvTsr c, 320)]
  homeWrite s (cvTsr c) (natToBytes 64 (tsrTag (devNat s (cvTsr c) 64) (cvStep c) (cvAttempt c)))

/-- The ρ that a first-format pass kept for the tensor (R134): it counts under the tag of the pass alone. -/
def keptRho (s : State) (c : BitVec 512) : Option Nat :=
  match tget s.rhos (cvTsr c) with
  | some (step, attempt, rho, _) =>
    if !cvFirst c && step == BitVec.ofNat 64 (cvStep c) && attempt == BitVec.ofNat 16 (cvAttempt c) then some rho.toNat else none
  | none => none

/-- The starting format of a tensor's passes (R118): that of its last first-format pass, a free one where it has had none (log 20). -/
def startFmt (s : State) (c : BitVec 512) : Nat :=
  if cvFirst c then cvFmt c else match tget s.rhos (cvTsr c) with
    | some (_, _, _, f) => f
    | none => Config.startFormat (cvTsr c) % 9

/-- Steps 3 to 8 of a pass (R113) from its values, rotated where a rotation is asked for; `nan` says that the source drew NaN from
poison. A wide output gathers statistics where its CVD names a record: a GSR of 0 names none (DEDUCED, log 19). -/
def passInto (s : State) (v : VRef) (x : Vcore) (n : Nat) (c : BitVec 512) (o : Opnd) (vals : List (List FV)) (susp nan : Bool) :
    Res (State × CvtOut) := do
  let stats := o.narrow || cvGsr c != 0
  let needTsr := stats && (cvHasTsr c || !cvFirst c)
  if needTsr then checkRuns s n x true [(cvTsr c, 320)]
  let s := if needTsr then headTsr s v c else s
  let t ← if needTsr then readDevCtl s n x (cvTsr c) 320 else pure 0
  -- The planes that KEEP takes its scales from (R117).
  let keep := if o.narrow && cvRecipe c == 4 then o.rhoRuns ++ o.scaleRuns else []
  checkRuns s n x o.dev keep
  let s := discoverRuns s (some v.ctx) o.dev keep
  let rd := rdOf s x o.dev
  let kn ← consume rd o.dev keep
  let code := fun (a : Nat) => if (rdPoison rd a 4).isSome then fp32.qnan else rdNat rd a 4
  let plane := if keep.isEmpty then [] else if o.uni then [code o.rho]
    else (List.range o.storedRows).map (fun r => code (o.rho + 4 * (o.pr + r)))
  let byte := fun (b : Nat) => let p := rd (o.scale + b); if p.2.isSome then 0xFF else p.1.toNat
  let rho ← if o.narrow then recipeScales c t plane (keptRho s c) (startFmt s c) vals else pure []
  let s := if o.narrow && cvDelayed c && cvFirst c then { s with
      rhos := tput s.rhos (cvTsr c) (BitVec.ofNat 64 (cvStep c), BitVec.ofNat 16 (cvAttempt c), BitVec.ofNat 32 (rho.headD 0), cvFmt c) }
    else s
  let (s, p) ← writeGroups {
      v := v, x := x, n := n, c := c, o := o, rho := rho, bytes := byte, groups := if needTsr then bits t 191 160 else 0, stats := stats,
      vals := vals, susp := susp } (groupSlices o) (s, {})
  let s := if stats && cvHasTsr c then { s with tsrq := s.tsrq ++ [{
      v := v, tsr := cvTsr c, step := BitVec.ofNat 64 (cvStep c), attempt := BitVec.ofNat 16 (cvAttempt c), gmax := gatherMax vals }] } else s
  pure (nanConsumed s v (nan || kn), { p with fl := p.fl ||| (if kn then fNV else 0#4) })

/-! ### MX interchange (R68 to R72) -/

/-- The planes of an MX tensor that a descriptor names: data and scale bases (R69); an SBASE of 0 places the scale plane at
the next 256 B boundary (DEDUCED, log 21). -/
def mxPlanes (o : Opnd) (sbase mxt : Nat) : Nat × Nat :=
  let nb := (if o.dev && o.trows != 0 then o.trows else o.rows) * ((if o.dev then o.tcols else o.cols) / 32)
  (o.data, if sbase = 0 then alignUp (o.data + nb * 4 * mxWidth mxt) 256 else sbase)

/-- Index of the MX block at row r, block column b of an operand. -/
def mxIndex (o : Opnd) (r b : Nat) : Nat := (o.pr + r) * ((if o.dev then o.tcols else o.cols) / 32) + o.pc / 32 + b

/-- Rows of whole MX blocks: of the operand and of its tensor (R69). -/
def mxAligned (o : Opnd) : Bool := o.cols % 32 == 0 && o.pc % 32 == 0 && (!o.dev || o.tcols % 32 == 0)

/-- Runs of an MX operand's planes. -/
def mxRuns (o : Opnd) (planes : Nat × Nat) (mxt : Nat) : List Run :=
  (List.range o.rows).map (fun r => (planes.1 + mxIndex o r 0 * 4 * mxWidth mxt, o.cols / 32 * 4 * mxWidth mxt)) ++
  (List.range o.rows).map (fun r => (planes.2 + mxIndex o r 0, o.cols / 32))

/-- Import (R70): its requantised blocks advance the import count. -/
def mxImport (s : State) (v : VRef) (x : Vcore) (n : Nat) (c : BitVec 512) (src dst : Opnd) (sbase : Nat) : Res (State × Flags) := do
  need (!dst.sq && !dst.uni) 0x1006
  need (mxAligned src) 0x1002
  let mxt := fmtwMxt (cvFmtw c)
  let pl := mxPlanes src sbase mxt
  let rs := mxRuns src pl mxt
  checkRuns s n x src.dev rs
  checkRuns s n x dst.dev dst.runs
  let s := discoverRuns s (some v.ctx) src.dev rs
  let rd := rdOf s x src.dev
  let nan ← consume rd src.dev rs
  let w := mxWidth mxt
  let rows := (List.range src.rows).map (fun r =>
    let blk := fun (b : Nat) =>
      let a := pl.1 + mxIndex src r b * 4 * w
      let xa := pl.2 + mxIndex src r b
      let bad := (rdPoison rd a (4 * w)).isSome || (rd xa).2.isSome
      (if bad then 0xFF else (rd xa).1.toNat, rdNat rd a (4 * w))
    let bs := (List.range (src.cols / 32)).map blk
    let p := mxRowP mxt (bs.map Prod.fst)
    let halves := bs.mapIdx (fun b (xb, data) => (List.range 2).map (fun h =>
      let codes := (List.range 16).map (fun e => unpackCode w data (16 * h + e))
      ((dst.pr + r) * (dst.scols / 16) + dst.pc / 16 + 2 * b + h, mxImportHalf mxt dst.fmt xb p codes)))
    (p, halves))
  let again := (rows.map (fun r => (r.2.filter (fun b => b.any (fun h => h.2.2))).length)).sum
  let rows := rows.map (fun r => (r.1, r.2.flatten.map (fun h => (h.1, h.2.1))))
  let s := s.modCore x.core (fun q => { q with requant := q.requant + again })
  let pack := rows.flatMap (fun r => r.2.map (fun (i, b) => (i, packCodes (fmtWidth dst.fmt) b.codes, b.byte)))
  let rho := rows.mapIdx (fun r p => (dst.rho + 4 * (dst.pr + r), clean (natToBytes 4 (fpEncode fp32 .rne (.num false (pow2 p.1))).1)))
  let s := spWriteAll s v 0 dst.dev (blockWrites dst pack ++ rho)
  pure (nanConsumed s v nan, orFlags (rows.map (fun r => orFlags (r.2.map (fun b => b.2.flags)))) ||| (if nan then fNV else 0#4))

/-- Export (R71). -/
def mxExportOp (s : State) (v : VRef) (x : Vcore) (n : Nat) (c : BitVec 512) (src dst : Opnd) (sbase : Nat) : Res (State × Flags) := do
  need (src.narrow && src.fmt == cvFmt c) 0x1006
  need (src.cols % 32 == 0 && mxAligned dst) 0x1002
  let mxt := fmtwMxt (cvFmtw c)
  let pl := mxPlanes dst sbase mxt
  checkRuns s n x src.dev src.runs
  checkRuns s n x dst.dev (mxRuns dst pl mxt)
  let s := discoverRuns s (some v.ctx) src.dev src.runs
  let rd := rdOf s x src.dev
  let nan ← consume rd src.dev src.runs
  let m := readMat rd src
  let vals := m.full
  let w := mxWidth mxt
  let blks := vals.mapIdx (fun r row => (List.range (src.cols / 32)).map (fun b =>
    let vs := ((row.drop (32 * b)).take 32).map (fun e => if e.isNum then some e.toQ else none)
    (mxIndex dst r b, mxExport mxt vs)))
  let all := blks.flatten
  let s := spWriteAll s v 0 dst.dev
    (all.map (fun (i, _, cs, _) => (pl.1 + i * 4 * w, clean (natToBytes (4 * w) (packCodes w cs)))) ++
     all.map (fun (i, xb, _, _) => (pl.2 + i, clean [BitVec.ofNat 8 xb])))
  pure (nanConsumed s v nan, orFlags (all.map (fun p => p.2.2.2)) ||| m.flags ||| (if nan then fNV else 0#4))

/-! ### CVT, CONVERT and VWAIT -/

/-- The SBASE field of a descriptor. -/
def rawSbase (x : Vcore) (off : Nat) : Nat := bits (memNat x.ctlMem.bytes off 64) 159 112

/-- CVT (R113). A source is wide, an MX tensor to import, or a narrow tensor to export or to decode into a wide format
(R62). -/
def runCvt (s : State) (v : VRef) (x : Vcore) (n : Nat) (o : UOp) : Res Ran := do
  let c ← readCvd x (arg3 o)
  checkCvd c false
  let src ← mkOpnd s n x (arg1 o) false 0 false
  let dst ← mkOpnd s n x (arg2 o) false o.ix (ixAxis o)
  need (dst.fmtw == cvFmtw c) 0x1006
  need (src.rows == dst.rows && src.cols == dst.cols) 0x1002
  let mxt := fmtwMxt (cvFmtw c)
  let (s, p) ← if mxt != 0 && !fmtwExport (cvFmtw c) then do
      need (cvRot c == 0) 0x1006
      let (s, fl) ← mxImport s v x n c src dst (rawSbase x (arg1 o))
      pure (s, ({ fl := fl, outs := dst.outs } : CvtOut))
    else if mxt != 0 then do
      need (cvRot c == 0) 0x1006
      let (s, fl) ← mxExportOp s v x n c src dst (rawSbase x (arg2 o))
      pure (s, ({ fl := fl, outs := dst.outs } : CvtOut))
    else do
      need (!src.dev) 0x1002
      need (if src.narrow then !dst.narrow && cvRot c == 0 else src.fmt == cvSfmt c) 0x1006
      let size := 8 * 2 ^ cvRot c
      need (cvRot c == 0 || (padCols dst % size == 0 && dst.col0 % size == 0 &&
        (dst.cols % size == 0 || dst.col0 + dst.cols == dst.tcols))) 0x1006
      checkRuns s n x false src.runs
      let rd := rdOf s x false
      let nan ← consume rd false src.runs
      let m := readMat rd src
      let rot := m.full.map (rotateRow c dst.col0)
      let (s, p) ← passInto s v x n c dst (rot.map Prod.fst) o.susp nan
      pure (s, { p with fl := p.fl ||| orFlags (rot.map Prod.snd) ||| m.flags ||| (if nan then fNV else 0#4) })
  pure { st := cvtFlags s x.core v.ctx p.fl, d1 := some (dataTok (arg2 o)), outs := p.outs, feeds := p.feeds, groups := p.groups,
         susp := o.susp, resid := o.resid }

/-- The exact values of a buffer (R93): an element times its captured row scales. -/
def bufferValues (b : Lacc) : List (List FV) :=
  let sc := fun (l : List Word32) (i : Nat) => match l[i]? with
    | some w => (rowScaleOf w.toNat).1
    | none => some Q.one
  let (ra, rb) := b.scales.getD ([], [])
  (List.range b.m).map (fun i => (List.range b.n).map (fun j =>
    match (b.elems[i * b.n + j]?).getD none, sc ra i, sc rb j with
    | some a, some p, some q =>
      let base := if b.t3 then fpDecode fp32 (ofSigned 32 a) else FV.ofQ ((Q.ofInt a).scale b.frame)
      match base with
      | .num g m => FV.ofQ ((((FV.num g m).toQ.mul p).mul q).norm)
      | w => w
    | _, _, _ => .nan))

/-- CONVERT (R93, R111, R120, R137). With HOLD its buffer is not free before the verdicts of the groups that it makes are final.
DESIGN CHOICE (log 42): a destination whose ROWS × COLS differ from the buffer's M × N is refused with 0x1002. -/
def runConvert (s : State) (v : VRef) (x : Vcore) (n : Nat) (o : UOp) : Res Ran := do
  need (!t3Barred s x o) 0x1003
  let c ← readCvd x (arg2 o)
  checkCvd c true
  let dst ← mkOpnd s n x (arg1 o) false o.ix (ixAxis o)
  need (dst.fmtw == cvFmtw c && fmtwMxt (cvFmtw c) == 0) 0x1006
  let l := enterLacc x o
  let b ← leavingBuf s n l o
  need (!b.data || (b.m == dst.rows && b.n == dst.cols)) 0x1002
  let vals := if b.data then bufferValues b
    else List.replicate dst.rows (List.replicate dst.cols (FV.num false Q.zero))
  let (t, p) ← passInto (putLacc s v l) v x n c dst vals b.susp false
  pure { st := cvtFlags t x.core v.ctx p.fl, d1 := some (bufTok (bufOf o)), outs := p.outs, feeds := p.feeds, groups := p.groups,
         hold := if c.getLsbD 46 then p.groups else [], susp := b.susp, resid := b.resid || o.resid,
         mism := recheck s x l (arrOf o) (bufOf o), aux := recBytes b ++ groupBytes s b.feeds,
         run := [v.vc, cvLayer c, dst.row0 / 128, dst.col0 / 128] }

/-- VWAIT (R236): it waits for a final verdict under the CVD's STEP and ATTEMPT. -/
def runVwait (s : State) (v : VRef) (x : Vcore) (n : Nat) (o : UOp) : Res Ran := do
  let c ← readCvd x (arg1 o)
  let ga := cvGsr c + 64 * fld o.s2 31 0
  checkRuns s n x true [(ga, 64)]
  let s := discoverRuns s (some v.ctx) true [(ga, 64)]
  let g ← readDevCtl s n x ga 64
  let mine := cvStep c * 65536 + cvAttempt c
  let has := bits g 63 0 * 65536 + bits g 79 64
  if mine < has then pure { st := s, d1 := some { val := BitVec.ofNat 32 512, kind := kVerdict } }
  else if has = mine ∧ bit g 86 then
    pure { st := s, d1 := some { val := BitVec.ofNat 32 (bits g 89 87 + b2n (bit g 90) * 8 + bits g 82 80 * 16 + bits g 84 83 * 128),
                                 kind := kVerdict } }
  else .error .wait

end Sys2Proof.Machine
end

