-- ==== Sys2Proof/Machine/Vector.lean ====
section
/-! DEFINITION. The vector unit (R201 to R209, R237, R238) and the norm accumulator (R169). -/

namespace Sys2Proof.Machine

open Sys2Proof

/-- Read a VJD (R237); a reserved field's value is ignored (R9). -/
def readVjd (x : Vcore) (off : Nat) : Res (BitVec 512) := do
  let n ← readCtl x off 64
  pure (BitVec.ofNat 512 n)

/-- An operand of the vector unit: FP32 values row by row. -/
structure VecOp where
  o : Opnd
  els : List (List Word32)
  nan : Bool
  flags : Flags
  st : State

/-- The elements of an operand with its Sideshow terms (R289, R293), each rounded to FP32 (R62). -/
def vecEls (rd : Nat → PByte) (o : Opnd) (m : Mat) : List (List FV) :=
  let ss := ssEntries rd o
  m.full.mapIdx (fun r row => row.mapIdx (fun c e =>
    (ss.filter (fun t => t.row == r && t.col == c)).foldl (fun a t =>
      let q := match (m.rho[r]?).getD none with | some q => FV.ofQ q | none => .nan
      (a.add (t.w.mul q).1).1) e))

/-- Read operand descriptor `off` for the vector unit. -/
def vecOperand (s : State) (v : VRef) (n : Nat) (x : Vcore) (off : Nat) : Res VecOp := do
  let o ← mkOpnd s n x off false 0 false
  let ssr := if o.narrow then o.ssRuns else []
  checkRuns s n x o.dev (o.runs ++ ssr)
  let s := discoverRuns s (some v.ctx) o.dev (o.runs ++ ssr)
  let rd := rdOf s x o.dev
  let nan ← consume rd o.dev (o.runs ++ ssr)
  let m := readMat rd o
  let es := (vecEls rd o m).map (fun r => r.map enc32)
  pure { o := o, els := es.map (fun r => r.map Prod.fst), nan := nan,
         flags := m.flags ||| orFlags (es.map (fun r => orFlags (r.map Prod.snd))) ||| (if nan then fNV else 0#4), st := s }

def VecOp.at (a : VecOp) (r c : Nat) : Word32 := ((a.els[r]?).bind (·[c]?)).getD (BitVec.ofNat 32 fp32.qnan)

/-- The output operand: wide (DEDUCED, log 19), and of the shape that the function gives it (R238). -/
def vecOut (s : State) (n : Nat) (x : Vcore) (j : BitVec 512) (rows cols : Nat) : Res Opnd := do
  let o ← mkOpnd s n x (fld j 127 96) false 0 false
  need (!o.narrow && o.rows == rows && o.cols == cols) 0x1002
  checkRuns s n x o.dev o.runs
  pure o

/-- Count evaluations that the RNG unit delivered to the vector unit (R210). -/
def countEvals (s : State) (x : Vcore) (k : Nat) : State := s.modCore x.core (fun r => { r with gevals := satInc r.gevals k })

/-- The distinct evaluations that the elements of an operand take, `per` elements to one. -/
def evalsOf (o : Opnd) (per : Nat) : Nat :=
  ((List.range o.rows).flatMap (fun r => (List.range o.cols).map (fun c => o.index r c / per))).eraseDups.length

/-- Evaluations that the rounding of an output takes (R194): none under RNE, nor for FP32, into which nothing is rounded (DEDUCED,
log 19). -/
def roundEvals (o : Opnd) : Nat := if (fmtwRnd o.fmtw = 1 ∨ fmtwRnd o.fmtw = 2) ∧ o.fmt ≠ 11 then evalsOf o 32 else 0

/-- Write FP32 results into the output format (R62, R63, R194). -/
def vecWrite (s : State) (v : VRef) (x : Vcore) (j : BitVec 512) (o : Opnd) (vals : List (List Word32)) : State × Flags :=
  let rnd := fun i => wideRnd o.fmtw x.jseed (BitVec.ofNat 32 (fld j 159 128)) x.step i
  let (ws, fl) := wideWrites o rnd (vals.map (fun r => r.map dec32))
  (countEvals (spWriteAll s v 0 o.dev ws) x (roundEvals o), fl)

/-- The evaluation of counter index j for an instruction (R194). -/
def vecMix (x : Vcore) (j : BitVec 512) (idx : Nat) : BitVec 128 :=
  mix x.jseed (BitVec.ofNat 32 (fld j 159 128)) (BitVec.ofNat 64 idx) x.step

/-- End of a vector operation: flags, the report of NaN drawn from poison, and its token. -/
def vecDone (s : State) (v : VRef) (x : Vcore) (j : BitVec 512) (o : UOp) (outs : List OutLoc) (fl : Flags) (nan : Bool) : Ran :=
  { st := nanConsumed (vecFlags s x.core v.ctx fl) v nan, d1 := some (dataTok (fld j 127 96)), outs := outs,
    susp := o.susp, resid := o.resid }

/-! ### VOP (R238) -/

/-- How many operands an elementwise function reads; none: a reserved code. -/
def vopArity : Nat → Option Nat
  | 0x00 => some 1 | 0x01 => some 2 | 0x02 => some 2 | 0x03 => some 3 | 0x04 => some 2 | 0x05 => some 2 | 0x06 => some 1
  | 0x07 => some 1 | 0x08 => some 1 | 0x09 => some 1 | 0x0A => some 1 | 0x0B => some 1 | 0x0C => some 1 | 0x0D => some 0
  | _ => none

/-- The elementwise functions. -/
def vopFn (f : Nat) (a b : Word32) (x y z : Word32) : R32 :=
  match f with
  | 0x00 => (x, 0#4)
  | 0x01 => fp32Add x y
  | 0x02 => fp32Mul x y
  | 0x03 => fp32Fma x y z
  | 0x04 => enc32 ((dec32 x).max (dec32 y))
  | 0x05 => enc32 ((dec32 x).min (dec32 y))
  | 0x06 => fp32Exp x
  | 0x07 => fp32Ln x
  | 0x08 => fp32Sqrt x
  | 0x09 => fp32Rsqrt x
  | 0x0A => fp32Cospi x
  | 0x0B => fp32Sinpi x
  | _ => fp32Fma x a b

/-- RAND (R238): words written bit for bit. -/
def vopRand (s : State) (v : VRef) (x : Vcore) (n : Nat) (o : UOp) (j : BitVec 512) : Res Ran := do
  let out ← mkOpnd s n x (fld j 127 96) false 0 false
  need (out.fmt == 11) 0x1002
  checkRuns s n x out.dev out.runs
  let word := fun (i : Nat) => natToBytes 4 (mixWord (vecMix x j (i / 4)) (i % 4)).toNat
  let ws := (List.range out.rows).map (fun r => (out.data + ((out.pr + r) * out.scols + out.pc) * 4,
    clean ((List.range out.cols).flatMap (fun c => word (out.index r c)))))
  pure (vecDone (countEvals (spWriteAll s v 0 out.dev ws) x (evalsOf out 4)) v x j o out.outs 0#4 false)

/-- VOP (R238). -/
def runVop (s : State) (v : VRef) (x : Vcore) (n : Nat) (o : UOp) : Res Ran := do
  let j ← readVjd x (arg1 o)
  let f := immBits o.word 7 0
  match vopArity f with
  | none => .error (.refuse 0x1002 0)
  | some 0 => vopRand s v x n o j
  | some k =>
    let a ← vecOperand s v n x (fld j 31 0)
    let b ← if 2 ≤ k then vecOperand a.st v n x (fld j 63 32) else pure { a with flags := 0#4, nan := false }
    let d ← if 3 ≤ k then vecOperand b.st v n x (fld j 95 64) else pure { b with flags := 0#4, nan := false }
    need (b.o.rows == a.o.rows && b.o.cols == a.o.cols && d.o.rows == a.o.rows && d.o.cols == a.o.cols) 0x1002
    let out ← vecOut d.st n x j a.o.rows a.o.cols
    let res := (List.range a.o.rows).map (fun r => (List.range a.o.cols).map (fun c =>
      vopFn f (BitVec.ofNat 32 (fld j 191 160)) (BitVec.ofNat 32 (fld j 223 192)) (a.at r c) (b.at r c) (d.at r c)))
    let (s, fl) := vecWrite d.st v x j out (res.map (fun r => r.map Prod.fst))
    pure (vecDone s v x j o out.outs (fl ||| a.flags ||| b.flags ||| d.flags ||| orFlags (res.map (fun r => orFlags (r.map Prod.snd))))
      (a.nan || b.nan || d.nan))

/-! ### VRED and VMM (R238) -/

/-- The exact sum of values, with IEEE rules for NaN and infinity. -/
def exactSum (l : List FV) : FV × Bool :=
  l.foldl (fun a e => let r := a.1.add e; (match r.1 with | .num g m => .num g m.norm | w => w, a.2 || r.2))
    (FV.num false Q.zero, false)

/-- One reduction. -/
def reduce (f : Nat) (l : List Word32) : R32 :=
  match f with
  | 0 => finish32 (exactSum (l.map dec32))
  | 1 => finish32 (exactSum (l.map (fun w => ((dec32 w).mul (dec32 w)).1)))
  | k =>
    match l.map dec32 with
    | [] => (0#32, 0#4)
    | e :: es => enc32 (es.foldl (fun a b => if k = 2 then a.max b else a.min b) e)

/-- VRED (R238): along rows it leaves one value in each row, along columns one in each column. -/
def runVred (s : State) (v : VRef) (x : Vcore) (n : Nat) (o : UOp) : Res Ran := do
  let j ← readVjd x (arg1 o)
  let f := immBits o.word 7 0
  need (f < 4) 0x1002
  let a ← vecOperand s v n x (fld j 31 0)
  let cols := j.getLsbD 233
  let out ← if cols then vecOut a.st n x j 1 a.o.cols else vecOut a.st n x j a.o.rows 1
  let res := if cols then [(List.range a.o.cols).map (fun c => reduce f ((List.range a.o.rows).map (fun r => a.at r c)))]
    else a.els.map (fun r => [reduce f r])
  let (s, fl) := vecWrite a.st v x j out (res.map (fun r => r.map Prod.fst))
  pure (vecDone s v x j o out.outs (fl ||| a.flags ||| orFlags (res.map (fun r => orFlags (r.map Prod.snd)))) a.nan)

/-- VMM (R238): one fp32_fma for each term, in ascending index. -/
def runVmm (s : State) (v : VRef) (x : Vcore) (n : Nat) (o : UOp) : Res Ran := do
  let j ← readVjd x (arg1 o)
  need (immBits o.word 7 0 == 0) 0x1002
  let a ← vecOperand s v n x (fld j 31 0)
  let b ← vecOperand a.st v n x (fld j 63 32)
  need (a.o.cols == b.o.rows && a.o.cols ≤ 256) 0x1002
  let out ← vecOut b.st n x j a.o.rows b.o.cols
  let res := (List.range a.o.rows).map (fun r => (List.range b.o.cols).map (fun c =>
    (List.range a.o.cols).foldl (fun (acc : R32) k => let t := fp32Fma (a.at r k) (b.at k c) acc.1; (t.1, acc.2 ||| t.2)) (0#32, 0#4)))
  let (s, fl) := vecWrite b.st v x j out (res.map (fun r => r.map Prod.fst))
  pure (vecDone s v x j o out.outs (fl ||| a.flags ||| b.flags ||| orFlags (res.map (fun r => orFlags (r.map Prod.snd)))) (a.nan || b.nan))

/-! ### VNORM (R169, R184) -/

/-- gm of a bucket (R156, R184): a bucket without a count has one contribution (DEDUCED, log 19). -/
def gmOf (s : State) (n bucket : Nat) : R32 :=
  if (s.part n).active.cmtCtl.getLsbD 24 then
    let d := enc32 (FV.ofQ (Q.ofInt ((tgetD (s.cmt n).contribB bucket 1#32).toNat : Int)))
    let r := fp32Div 0x3F800000#32 d.1
    (r.1, d.2 ||| r.2)
  else (0x3F800000#32, 0#4)

/-- Add one gradient element to a norm accumulator (R169). -/
def normTerm (c : Commit) (g : FV) : Commit :=
  match g with
  | .num _ m =>
    if m.lt (pow2 48) then { c with accT := c.accT + BitVec.ofInt 256 ((m.mul m).scale 96).floor }
    else { c with accOv := true }
  | _ => { c with accNf := true }

/-- VNORM (R238). -/
def runVnorm (s : State) (v : VRef) (x : Vcore) (n : Nat) (o : UOp) : Res Ran := do
  let j ← readVjd x (arg1 o)
  need (immBits o.word 7 0 == 0) 0x1002
  let a ← vecOperand s v n x (fld j 31 0)
  let gm := gmOf s n (fld j 249 234)
  let gs := a.els.flatten.map (fun w => fp32Mul w gm.1)
  let s := a.st.modCmt n (fun c => gs.foldl (fun c g => normTerm c (dec32 g.1)) c)
  pure (vecDone s v x j o [] (a.flags ||| gm.2 ||| orFlags (gs.map Prod.snd)) a.nan)

/-! ### DROP, INIT and SAMPLE (R201 to R209) -/

/-- DROP (R201, R202): both forms take the same decisions from the same inputs. -/
def runDrop (s : State) (v : VRef) (x : Vcore) (n : Nat) (o : UOp) : Res Ran := do
  let j ← readVjd x (arg1 o)
  need (immBits o.word 7 0 == 0) 0x1002
  let a ← vecOperand s v n x (fld j 31 0)
  need (!a.o.narrow) 0x1002
  let out ← vecOut a.st n x j a.o.rows a.o.cols
  let d := fld j 231 224
  let ks := (fp32Div 0x43800000#32 (enc32 (FV.ofQ (Q.ofInt ((256 - d : Nat) : Int)))).1).1
  let one := fun (w : Word32) (i : Nat) =>
    if (dec32 w).isNan || d = 0 then (w, 0#4)
    else if mixByte (vecMix x j (i / 16)) (i % 16) < d then (0#32, 0#4)
    else
      let r := fpEncode (fpOf a.o.fmt) .rne ((dec32 w).mul (dec32 ks)).1
      ((enc32 (fpDecode (fpOf a.o.fmt) r.1)).1, r.2)
  let res := (List.range a.o.rows).map (fun r => (List.range a.o.cols).map (fun c => one (a.at r c) (a.o.index r c)))
  let (s, fl) := vecWrite a.st v x j out (res.map (fun r => r.map Prod.fst))
  pure (vecDone (countEvals s x (if d = 0 then 0 else evalsOf a.o 16)) v x j o out.outs
    (fl ||| a.flags ||| orFlags (res.map (fun r => orFlags (r.map Prod.snd)))) a.nan)

/-- The uniform variate of a word (R203): exact in FP32. -/
def variate (w : Word32) : Word32 := (enc32 (FV.ofQ (((Q.ofInt ((w.toNat / 512 : Nat) : Int)).add ⟨1, 2⟩).scale (-23)))).1

/-- The two normal values of a pair of variates (R206). -/
def normalPair (u1 u2 : Word32) : R32 × R32 :=
  let l := fp32Ln u1
  let m := fp32Mul 0xC0000000#32 l.1
  let r := fp32Sqrt m.1
  let t := fp32Mul 0x40000000#32 u2
  let c := fp32Cospi t.1
  let d := fp32Sinpi t.1
  let z0 := fp32Mul r.1 c.1
  let z1 := fp32Mul r.1 d.1
  let f := l.2 ||| m.2 ||| r.2 ||| t.2
  ((z0.1, f ||| c.2 ||| z0.2), (z1.1, f ||| d.2 ||| z1.2))

/-- One element of INIT (R205). -/
def initElem (x : Vcore) (j : BitVec 512) (f i : Nat) : R32 :=
  let sa := BitVec.ofNat 32 (fld j 191 160)
  let sb := BitVec.ofNat 32 (fld j 223 192)
  match f with
  | 0 =>
    let u := variate (mixWord (vecMix x j (i / 4)) (i % 4))
    let d := fp32Sub sb sa
    let r := fp32Fma u d.1 sa
    (r.1, d.2 ||| r.2)
  | 1 =>
    let e := vecMix x j (i / 4)
    let k := i % 4 / 2 * 2
    let (z0, z1) := normalPair (variate (mixWord e k)) (variate (mixWord e (k + 1)))
    let z := if i % 2 = 0 then z0 else z1
    let r := fp32Fma sb z.1 sa
    (r.1, z.2 ||| r.2)
  | _ => (if (vecMix x j (i / 128)).getLsbD (i % 128) then sa ^^^ 0x80000000#32 else sa, 0#4)

/-- INIT (R205, R206). -/
def runInit (s : State) (v : VRef) (x : Vcore) (n : Nat) (o : UOp) : Res Ran := do
  let j ← readVjd x (arg1 o)
  let f := immBits o.word 7 0
  need (f < 3) 0x1002
  let out ← mkOpnd s n x (fld j 127 96) false 0 false
  need (!out.narrow) 0x1002
  checkRuns s n x out.dev out.runs
  let res := (List.range out.rows).map (fun r => (List.range out.cols).map (fun c => initElem x j f (out.index r c)))
  let (s, fl) := vecWrite s v x j out (res.map (fun r => r.map Prod.fst))
  pure (vecDone (countEvals s x (evalsOf out (if f = 2 then 128 else 4))) v x j o out.outs
    (fl ||| orFlags (res.map (fun r => orFlags (r.map Prod.snd)))) false)

/-- y of one candidate (R208). -/
def gumbel (x : Vcore) (j : BitVec 512) (rt sc : Word32) (i : Nat) : R32 :=
  let u := variate (mixWord (vecMix x j (i / 4)) (i % 4))
  let l1 := fp32Ln u
  let l2 := fp32Ln (l1.1 ^^^ 0x80000000#32)
  let p := fp32Mul sc rt
  let y := fp32Add p.1 (l2.1 ^^^ 0x80000000#32)
  (y.1, l1.2 ||| l2.2 ||| p.2 ||| y.2)

/-- The token of a row from its candidates (R208, R209): none for no candidate or a NaN. -/
def chooseToken (ys : List (Nat × Word32)) : Option Nat :=
  if ys.any (fun p => (dec32 p.2).isNan) then none
  else (ys.foldl (fun (a : Option (Nat × Word32)) p =>
    match dec32 p.2 with
    | .inf true => a
    | y => match a with
      | none => some p
      | some q => if (dec32 q.2).lt y then some p else some q) none).map Prod.fst

/-- SAMPLE (R207 to R209). The mask is control data (DEDUCED, log 19). -/
def runSample (s : State) (v : VRef) (x : Vcore) (n : Nat) (o : UOp) : Res Ran := do
  let j ← readVjd x (arg1 o)
  need (immBits o.word 7 0 == 0) 0x1002
  let sa := BitVec.ofNat 32 (fld j 191 160)
  let okT := sa == 0#32 || (match dec32 sa with
    | .num false m => (pow2 (-16)).le m
    | _ => false)
  need okT 0x1302
  let a ← vecOperand s v n x (fld j 31 0)
  need (a.o.fmt == 9 || a.o.fmt == 11) 0x1002
  let out ← mkOpnd s n x (fld j 127 96) false 0 false (some 11)
  let base := out.data + (out.pr * out.scols + out.pc) * 4
  checkRuns s n x out.dev [(base, 4 * a.o.rows)]
  let mask ← readCtl x (fld j 287 256) ((a.o.cols + 7) / 8)
  let rt := fp32Div 0x3F800000#32 sa
  let rows := (List.range a.o.rows).map (fun r =>
    ((List.range a.o.cols).filter (fun c => bit mask c)).map (fun c =>
      if sa == 0#32 then (c, a.at r c, 0#4)
      else let y := gumbel x j rt.1 (a.at r c) (a.o.index r c); (c, y.1, y.2)))
  let toks := rows.map (fun l => chooseToken (l.map (fun p => (p.1, p.2.1))))
  let fl := orFlags (rows.map (fun l => orFlags (l.map (fun p => p.2.2)))) ||| (if sa == 0#32 then 0#4 else rt.2)
  let s := spWrite a.st v 0 out.dev base (clean (toks.flatMap (fun t => natToBytes 4 (t.getD 0xFFFFFFFF))))
  let s := toks.foldl (fun t k => if k.isNone then raiseCtx t 0x1301 v.ctx (data1 0 0 0 x.core (curStep t n)) else t) s
  let used := (rows.mapIdx (fun r l => l.map (fun p => a.o.index r p.1 / 4))).flatten.eraseDups.length
  pure (vecDone (countEvals s x (if sa == 0#32 then 0 else used)) v x j o [⟨out.dev, base, 4 * a.o.rows⟩] (fl ||| a.flags) a.nan)

end Sys2Proof.Machine
end

