-- ==== Sys2Proof/Machine/Collective.lean ====
section
/-! DEFINITION. Collectives (R337 to R342) with gradient buckets (R182 to R184) and the norm collective (R170, R341). -/

namespace Sys2Proof.Machine

open Sys2Proof

/-! ### Collective descriptors (R337) -/

def clOp (d : BitVec 512) : Nat := fld d 3 0
def clDt (d : BitVec 512) : Nat := fld d 7 4
def clGradb (d : BitVec 512) : Bool := d.getLsbD 8
def clRoot (d : BitVec 512) : Nat := fld d 21 10
def clGroup (d : BitVec 512) : Nat := fld d 29 22
def clSrc (d : BitVec 512) : Nat := fld d 63 32
def clDst (d : BitVec 512) : Nat := fld d 95 64
def clCount (d : BitVec 512) : Nat := fld d 127 96
def clBucket (d : BitVec 512) : Nat := fld d 143 128
def clDl (d : BitVec 512) : Nat := fld d 191 160

/-- Reserved codes of a collective descriptor, a COUNT of 0, and a DTYPE that does not suit OP (R338); a ROOT that is no rank is held to be
a reserved code (DEDUCED, log 19). A reserved field's value is ignored (R9). -/
def collBad (d : BitVec 512) (n : Nat) : Bool :=
  let op := clOp d
  let dt := clDt d
  4 < op || clCount d == 0 ||
  (op != 4 && (3 < dt || (dt == 2 && 1 < op) || (dt == 3 && !(op == 2 || op == 3)))) || (op == 3 && decide (n ≤ clRoot d))

/-- A virtual core's rank in a group (R337, R338): the one programmed where it is the member there. A group whose programmed rank is another
member of this module has this one at its place in the member list (DEDUCED, log 5). -/
def rankOf (g : CGroup) (dev : Nat) (v : VRef) : Option Nat :=
  match g.members[g.rank]? with
  | none => none
  | some m =>
    if m = (dev, v.ctx, v.vc) then some g.rank
    else if m.1 = dev then g.members.findIdx? (fun x => x == (dev, v.ctx, v.vc))
    else none

/-- Elements of a segment (R339). -/
def segSize (n count : Nat) : Nat := alignUp (ceilDiv count n) 64
/-- First element and length of segment r. -/
def segRange (n count r : Nat) : Nat × Nat :=
  let lo := min (r * segSize n count) count
  (lo, min (segSize n count) (count - lo))

/-- The address of element i, `w` bytes each: packed for bytes, records and narrow planes, by stored rows otherwise. -/
def collAddr (o : Opnd) (dt w i : Nat) : Nat :=
  if dt < 2 && !o.narrow then o.data + ((o.pr + i / o.cols) * o.scols + o.pc + i % o.cols) * w else o.data + i * w

/-- The runs of elements lo to lo + k − 1. -/
def collRuns (o : Opnd) (dt w lo k : Nat) : List Run := (List.range k).map (fun i => (collAddr o dt w (lo + i), w))

/-- Bytes with the poison of a message (R288). -/
def withPoison (p : List Byte × List (Nat × Policy)) : List PByte :=
  p.1.mapIdx (fun i b => (b, ((p.2.find? (fun g => g.1 == i / 32)).map Prod.snd)))

/-- A message's data and poisoned granules. -/
def packMsg (bs : List PByte) : List Byte × List (Nat × Policy) := (bs.map Prod.fst, msgPoison bs)

/-! ### Reduction (R339) -/

/-- Element i of some bytes, with its poison. -/
def elemAt (bs : List PByte) (w i : Nat) : List PByte := (bs.drop (i * w)).take w

/-- The sum of FP32 or BF16 elements in the order given. -/
def sumFp (dt : Nat) (xs : List Nat) : Nat :=
  let f := if dt = 0 then fp32 else bf16
  match xs.map (fun w => (enc32 (fpDecode f w)).1) with
  | [] => 0
  | e :: es => (fpEncode f .rne (dec32 (es.foldl (fun a b => (fp32Add a b).1) e))).1

/-- The sum of exact records; `kc` is the KCOUNT written when the sum exceeds the limit, which no rule states. The Bool
reports that. -/
def sumExact (kc : Nat) (recs : List (List PByte)) : List Byte × Bool :=
  let ls := recs.map (fun r => recParse (bytesToNat ((r.take 16).map Prod.fst)) ((clean ((r.drop 16).map Prod.fst))))
  match ls with
  | [] => ([], false)
  | l :: rest =>
    let sum := rest.foldl (fun a b => { a with
      kcount := a.kcount + b.kcount, susp := a.susp || b.susp, elems := a.elems.zipWith (addElem a.paired) b.elems }) l
    if 1048576 < sum.kcount then (recBytes { sum with kcount := kc, elems := sum.elems.map (fun _ => none) }, true)
    else (recBytes sum, false)

/-- The reduced segment from the contributions in order, each of `k` elements of `w` bytes. -/
def reduceSeg (dt w k kc : Nat) (cs : List (List PByte)) : List PByte × Bool :=
  let el := (List.range k).map (fun i =>
    let xs := cs.map (fun c => elemAt c w i)
    let p := xs.foldl (fun a b => joinP a (strongest b)) none
    let r := sumExact kc xs
    if dt = 2 then (r.1.map (fun b => (b, p)), r.2)
    else ((natToBytes w (sumFp dt (xs.map (fun b => bytesToNat (b.map Prod.fst))))).map (fun b => (b, p)), false))
  (el.flatMap Prod.fst, el.any Prod.snd)

/-! ### Progress of a collective -/

def modColl (s : State) (v : VRef) (op : Nat) (f : Coll → Coll) : State :=
  s.modFab (fun b => { b with colls := b.colls.map (fun c => if c.v == v && c.op == op then f c else c) })

/-- The members of a group. -/
def membersOf (s : State) (g : Nat) : List (Nat × Nat × Nat) := match tget s.fab.groups g with | some c => c.members | none => []

/-- Send a message to every other rank that `who` names. -/
def sendRanks (s : State) (ms : List (Nat × Nat × Nat)) (own : Nat) (who : Nat → Bool) (m : Nat → CollMsg) : State :=
  (List.range ms.length).foldl (fun t r => if r == own || !who r then t else match ms[r]? with
    | some (d, c, vc) => t.emit (.coll d c vc (m r))
    | none => t) s

/-- Held contributions of the step before, for a segment (R183). -/
def foldedFor (s : State) (n : Nat) (c : Coll) : List HeldSeg :=
  if !clGradb c.desc then []
  else
    let hs := (s.cmt n).held.filter (fun h => h.group == c.group && h.bucket == clBucket c.desc && h.seg == c.rank && h.step + 1 == c.step)
    (List.range (membersOf s c.group).length).flatMap (fun r => hs.filter (fun h => h.rank == r))

/-- Record the contribution count of a bucket (R184). -/
def reportContrib (s : State) (n bucket count : Nat) : State :=
  s.modCmt n (fun c =>
    let t := tput c.contribB bucket (BitVec.ofNat 32 count)
    { c with contribB := t, contrib := BitVec.ofNat 32 (t.foldl (fun a p => satAdd 32 a p.2.toNat) 0) })

/-- Write the result of a collective into DST from element `lo`, and let its instruction complete. -/
def landResult (s : State) (c : Coll) (parts : List (Nat × List PByte)) : State :=
  match s.vc? c.v with
  | none => s
  | some x =>
    match mkOpnd s (ctxPart s c.v.ctx) x (clDst c.desc) false 0 false with
    | .error _ => s
    | .ok o =>
      let dt := clDt c.desc
      let ws := parts.flatMap (fun (lo, bs) => (List.range (bs.length / max c.size 1)).map (fun i =>
        (collAddr o dt c.size (lo + i), elemAt bs c.size i)))
      spWriteAll s c.v 0 o.dev ws

/-- A collective that has finished. -/
def endColl (s : State) (c : Coll) (err : Option Nat) : State :=
  groupDone (releaseOp (modColl s c.v c.op (fun d => { d with done := true })) c.v c.op err) c.group

/-- What EXACT records must agree in: frame, kind, M and N (R338). -/
def recordKey (h : Nat) : Nat × Bool × Bool × Bool × Nat := (bits h 15 0, bit h 25, bit h 27, bit h 29, bits h 77 64)

/-- Whether the exact records of a source agree in M, N, frame and kind (R338). -/
def recordsAgree (hs : List Nat) : Bool :=
  match hs with
  | [] => true
  | h :: t => t.all (fun g => recordKey g == recordKey h)

/-- Reduce this rank's segment when every contribution has landed or the deadline has closed it; an empty one has nothing to wait for. -/
def reduceOwn (s : State) (c : Coll) : State :=
  let n := ctxPart s c.v.ctx
  let ms := membersOf s c.group
  let k := (segRange ms.length (clCount c.desc) c.rank).2
  if c.reduced || c.done || c.differ || !(clOp c.desc < 2) then s
  else if k = 0 then modColl s c.v c.op (fun d => { d with reduced := true })
  else if !(c.closed || decide (ms.length ≤ c.contrib.length)) then s
  else
    let fs := foldedFor s n c
    let cs := c.contrib.map (fun p => withPoison p.2) ++ fs.map (fun h => withPoison (h.data, h.poison))
    let hs := cs.filterMap (fun r => if 16 ≤ r.length then some (bytesToNat ((r.take 16).map Prod.fst)) else none)
    if clDt c.desc = 2 ∧ !recordsAgree hs then
      let s := modColl s c.v c.op (fun d => { d with differ := true })
      if clOp c.desc = 0 then
        sendRanks s ms c.rank (fun _ => true) (fun _ => {
          group := c.group, rank := c.rank, seg := c.rank, gathered := true, refused := true, step := c.step, attempt := c.attempt,
          bucket := clBucket c.desc, data := [], poison := [] })
      else s
    else
    let (kc, s) := if clDt c.desc = 2 then s.fresh else (0#64, s)
    let (bs, big) := if cs.isEmpty && clDt c.desc = 2 then ([], false)
      else if cs.isEmpty then (clean (List.replicate (k * c.size) 0), false)
      else reduceSeg (clDt c.desc) c.size k kc.toNat cs
    let s := if big then raiseCtx s 0x1004 c.v.ctx (data1 0 0 0 0 c.step) else s
    let s := if clGradb c.desc && c.step == curStep s n && c.attempt == (s.cmt n).attempt then
        reportContrib s n (clBucket c.desc) (c.contrib.length + fs.length) else s
    let s := modColl s c.v c.op (fun d => { d with reduced := true, segs := tput d.segs c.rank (packMsg bs) })
    if clOp c.desc = 0 then
      sendRanks s ms c.rank (fun _ => true) (fun _ => {
        group := c.group, rank := c.rank, seg := c.rank, gathered := true, refused := false, step := c.step, attempt := c.attempt,
        bucket := clBucket c.desc, data := bs.map Prod.fst, poison := msgPoison bs })
    else s

/-- Whether a collective belongs to the attempt that its member works on. -/
def openNow (s : State) (n : Nat) (c : Coll) : Bool := c.step == curStep s n && c.attempt == (s.cmt n).attempt

/-- The norm total of a member's attempt from the partials of every rank (R170, R341). -/
def normTotal (s : State) (n : Nat) (sums : Tab (BitVec 256 × Bool × Bool)) : State :=
  s.modCmt n (fun d => { d with
    totT := sums.foldl (fun a p => a + p.2.1) (0 : BitVec 256), nonfin := sums.any (fun p => p.2.2.1), ovr := sums.any (fun p => p.2.2.2),
    partials := sums.map Prod.fst, att := { d.att with normIn := true } })

/-- Finish a collective whose result is complete (R339). One that a lost member leaves without data ends at its deadline (R342). -/
def finishColl (s : State) (c : Coll) : State :=
  let ms := membersOf s c.group
  let n := ms.length
  let cnt := clCount c.desc
  let have_ := fun r => (tget c.segs r).isSome
  let seg := fun r => withPoison ((tget c.segs r).getD ([], []))
  if c.done then s
  else if c.differ then endColl (raiseCtx s 0x3301 c.v.ctx (data3 0 0 c.step.toNat)) c (some 0x3301)
  else match clOp c.desc with
  | 0 =>
    let need := (List.range n).filter (fun r => (segRange n cnt r).2 != 0)
    if need.all have_ then
      endColl (landResult s c (need.map (fun r => ((segRange n cnt r).1, seg r)))) c none
    else if c.closed && c.lost.any (fun r => need.contains r && !have_ r) then
      endColl (raiseCtx s 0x3302 c.v.ctx (data3 0 0 c.step.toNat)) c (some 0x3302)
    else s
  | 1 => if c.reduced then endColl (landResult s c [(0, seg c.rank)]) c none else s
  | 2 => if (List.range n).all have_ then endColl (landResult s c ((List.range n).map (fun r => (r * cnt, seg r)))) c none
    else if c.closed && !c.lost.isEmpty then endColl (raiseCtx s 0x3302 c.v.ctx (data3 0 0 c.step.toNat)) c (some 0x3302) else s
  | 3 => if have_ (clRoot c.desc) then endColl (landResult s c [(0, seg (clRoot c.desc))]) c none
    else if c.closed && !c.lost.isEmpty then endColl (raiseCtx s 0x3302 c.v.ctx (data3 0 0 c.step.toNat)) c (some 0x3302) else s
  | _ =>
    if n ≤ c.sums.length then endColl (if openNow s (ctxPart s c.v.ctx) c then normTotal s (ctxPart s c.v.ctx) c.sums else s) c none
    else s

/-- The collective of an operation. -/
def collOf (s : State) (v : VRef) (op : Nat) : Option Coll := s.fab.colls.find? (fun c => c.v == v && c.op == op)

/-- Let a collective make what progress it can. -/
def driveColl (s : State) (v : VRef) (op : Nat) : State :=
  match collOf s v op with
  | none => s
  | some c =>
    let s := reduceOwn s c
    match collOf s v op with
    | some c => finishColl s c
    | none => s

/-- Take a contribution or segment into a collective. -/
def takeMsg (c : Coll) (m : CollMsg) : Coll :=
  if m.refused then { c with differ := true }
  else if m.gathered || 2 ≤ clOp c.desc then { c with segs := tput c.segs m.rank (m.data, m.poison) }
  else { c with contrib := tput c.contrib m.rank (m.data, m.poison) }

/-! ### COLL -/

/-- Multicast a norm partial to the other ranks (R341). -/
def sendNorm (s : State) (ms : List (Nat × Nat × Nat)) (m : NormMsg) : State :=
  if ms.length ≤ 1 then s else s.emit (.normsum m)

/-! ### Commit groups (R146, log 17) -/

/-- Whether a partition is a member of a commit group. -/
def isMember (s : State) (n : Nat) : Bool := (n == 0 || (s.part n).exist) && (s.part n).active.cmtCtl.getLsbD 16

def cgidOf (s : State) (n : Nat) : Word16 := BitVec.ofNat 16 (fld (s.part n).active.cmtCtl 15 0)

/-- The other devices that discovery has found: the pod's members, and those behind the trunks (R322, R326). -/
def otherDevs (s : State) : List Nat := (s.fab.memberList ++ s.fab.summaries.flatMap Prod.snd).filter (· != s.devId)

/-- The members of partition n's group on other modules: the group's own as far as their modules are there, and those that it has heard. -/
def farMembers (s : State) (n : Nat) : List Member :=
  let heard := (s.cmt n).peers.filter (fun m => m.dev != s.devId)
  if (otherDevs s).isEmpty then heard
  else heard ++ ((Config.commitGroup (cgidOf s n)).map (fun m => (⟨m.1, m.2⟩ : Member))).filter (fun m =>
    (otherDevs s).contains m.dev && !heard.contains m)

/-- The members of partition n's group. -/
def membersFor (s : State) (n : Nat) : List Member :=
  ((List.range 33).filter (fun p => isMember s p && cgidOf s p == cgidOf s n)).map s.self ++ farMembers s n

/-- Order of leadership: device id, then partition. -/
def memberKey (m : Member) : Nat := m.dev * 64 + m.part

/-- Whether partition n leads its group. -/
def isLeader (s : State) (n : Nat) : Bool := (membersFor s n).all (fun m => memberKey (s.self n) ≤ memberKey m)

/-- Whether this member leads its commit group and its step scalars hold a loss that is not finite (R169). -/
def lossBad (s : State) (n : Nat) : Bool :=
  let r := devNat s (s.part n).active.ssrBase.toNat 64
  isMember s n && isLeader s n && bit r 192 && !(fpDecode fp32 (bits r 191 160)).isNum

/-! ### Stragglers (R182, R183, R340) -/

/-- Count stragglers of a partition; each event once per step. -/
def countLate (s : State) (n k : Nat) (fold : Bool) : State :=
  if k = 0 then s
  else
    let a := s.att n
    let d := data3 0 0 (curStep s n).toNat
    if fold then
      let s := s.modCmt n (fun c => { c with folded := satInc c.folded k, att := { c.att with folded := true } })
      if a.folded then s else raise s 0x3201 (some n) none d
    else
      let s := s.modCmt n (fun c => { c with dropped := satInc c.dropped k, att := { c.att with dropped := true } })
      if a.dropped then s else raise s 0x3202 (some n) none d

/-- Whether STRAGPOL is FOLD (R187). -/
def foldPolicy (s : State) (n : Nat) : Bool := !(s.part n).active.cmtCtl.getLsbD 23

/-- Hold a late contribution under FOLD. DESIGN CHOICE (log 17): the manual gives no address in the firmware-private memory that holds
it, and the field `held` stands for that memory. -/
def holdLate (s : State) (n : Nat) (m : CollMsg) : State :=
  s.modCmt n (fun c => { c with held := c.held ++ [⟨m.group, m.bucket, m.seg, m.rank, m.data, m.poison, m.step⟩] })

/-- A contribution that reached its reduction after the deadline (R183): counted when its segment closed. One that is a
step late is held only while its bucket is still open, else dropped; one of an abandoned attempt is discarded. -/
def lateMsg (s : State) (v : VRef) (m : CollMsg) : State :=
  let n := ctxPart s v.ctx
  let cur := curStep s n
  if !foldPolicy s n then s
  else if m.step = cur ∧ m.attempt = (s.cmt n).attempt then holdLate s n m
  else if m.step + 1 = cur ∧ m.attempt = (s.cmt n).lastAtt then
    let shut := s.fab.colls.any (fun c => c.v == v && c.group == m.group && clBucket c.desc == m.bucket && c.step == cur &&
      c.attempt == (s.cmt n).attempt && (c.closed || c.reduced))
    if shut then countLate s n 1 false else holdLate s n m
  else s

/-- The deadline of a collective, once its attempt is open (R337, R340). -/
def deadlineOf (s : State) (n : Nat) (c : Coll) : Option Nat :=
  let own := clDl c.desc
  let dl := if own ≠ 0 then own else if clGradb c.desc then (s.part n).active.gradDl.toNat else 0
  if clOp c.desc = 4 then none
  else if c.due.isSome then c.due
  else if dl = 0 ∨ !(s.att n).isOpen ∨ !openNow s n c then none else some ((s.att n).openAt + dl)

/-- Whether a collective takes contributions no more: its deadline is past. -/
def pastDue (s : State) (n : Nat) (c : Coll) : Bool := match deadlineOf s n c with | some t => decide (t < s.now) | none => false

/-- Close a segment at its deadline: the ranks that are missing are stragglers (R340), counted unless their attempt is abandoned. -/
def shutColl (s : State) (n : Nat) (c : Coll) : State :=
  let ms := membersOf s c.group
  let missing := (List.range ms.length).filter (fun r => !(tget c.contrib r).isSome)
  let k := if (segRange ms.length (clCount c.desc) c.rank).2 = 0 then 0 else missing.length
  let s := modColl s c.v c.op (fun d => { d with closed := true })
  if clGradb c.desc && decide (clOp c.desc < 2) && openNow s n c then countLate s n k (foldPolicy s n) else s

/-- Close a segment and let its collective go on. -/
def closeColl (s : State) (n : Nat) (c : Coll) : State := driveColl (shutColl s n c) c.v c.op

/-- Whether data of a gradient bucket that lands at `t` is in time (R182); other collectives have no stragglers. -/
def inTime (s : State) (n : Nat) (c : Coll) (t : Nat) : Bool :=
  match deadlineOf s n c with
  | some dl => !clGradb c.desc || decide (t ≤ dl)
  | none => true

/-- A message of a rank's collective. -/
def collMsg (c : Coll) (seg : Nat) (gathered : Bool) (p : List Byte × List (Nat × Policy)) : CollMsg := {
  group := c.group, rank := c.rank, seg := seg, gathered := gathered, refused := false, step := c.step, attempt := c.attempt,
  bucket := clBucket c.desc, data := p.1, poison := p.2 }

/-- NORMSUM (R170): the first rank of a partition on a module brings the module's sums, the others nothing. -/
def enterNorm (s : State) (n : Nat) (ms : List (Nat × Nat × Nat)) (c : Coll) : State × Coll :=
  let first := (ms.take c.rank).all (fun m => !(m.1 == s.devId && ctxPart s m.2.1 == n))
  let q := s.cmt n
  let a := if first then (q.accT, q.accNf || lossBad s n, q.accOv) else (0, false, false)
  let s := sendNorm s ms { group := c.group, rank := c.rank, step := c.step, attempt := c.attempt, t := a.1, nonfin := a.2.1, ovr := a.2.2 }
  let now := fun (e : VRef × NormMsg) => e.1 == c.v && e.2.group == c.group && e.2.step == c.step && e.2.attempt == c.attempt
  let sums := (s.fab.earlySums.filter now).foldl (fun t e => tput t e.2.rank (e.2.t, e.2.nonfin, e.2.ovr)) (tput [] c.rank a)
  (s.modFab (fun b => { b with earlySums := b.earlySums.filter (fun e => !now e) }), { c with sums := sums })

/-- The other collectives (R338, R339): the operands are checked, and this rank's contributions leave. After the deadline its own one is a
straggler (R182). -/
def enterData (s : State) (x : Vcore) (n : Nat) (ms : List (Nat × Nat × Nat)) (c : Coll) : Res (State × Coll) := do
  let d := c.desc
  let op := clOp d
  let nm := ms.length
  let cnt := clCount d
  let dst ← mkOpnd s n x (clDst d) false 0 false
  let send := op != 3 || c.rank == clRoot d
  let src ← mkOpnd s n x (clSrc d) false 0 false
  if clDt d == 2 then checkRuns s n x src.dev [(src.data, 16)]
  let w := if clDt d == 2 then recLen (rdNat (rdOf s x src.dev) src.data 16) else c.size
  let runs := collRuns src (clDt d) w 0 cnt
  if send then checkRuns s n x src.dev runs
  let s := if send then discoverRuns s (some c.v.ctx) src.dev runs else s
  let rd := rdOf s x src.dev
  need (clDt d != 2 || recordsAgree (runs.map (fun r => rdNat rd r.1 16))) 0x3301
  let outLen := if op = 2 then nm * cnt else if op = 1 then (segRange nm cnt c.rank).2 else cnt
  checkRuns s n x dst.dev (collRuns dst (clDt d) w 0 outLen)
  let bytes := fun (lo k : Nat) => packMsg ((runs.drop lo).take k |>.flatMap (fun r => rdRun rd r.1 r.2))
  let c := { c with size := w }
  if op < 2 then
    let piece := fun r => bytes (segRange nm cnt r).1 (segRange nm cnt r).2
    let s := sendRanks s ms c.rank (fun r => (segRange nm cnt r).2 != 0) (fun r => collMsg c r false (piece r))
    let own := collMsg c c.rank false (piece c.rank)
    pure (if inTime s n c s.now then (s, takeMsg c own) else (lateMsg s c.v own, c))
  else if send then
    pure (sendRanks s ms c.rank (fun _ => true) (fun _ => collMsg c c.rank true (bytes 0 cnt)), { c with segs := tput [] c.rank (bytes 0 cnt) })
  else pure (s, c)

/-- The contributions that landed before their rank's COLL are taken; those that landed after the deadline are stragglers (R182). -/
def takeEarly (s : State) (n : Nat) (c : Coll) : State :=
  let here := fun (e : VRef × CollMsg × Nat) => e.1 == c.v && e.2.1.group == c.group && clBucket c.desc == e.2.1.bucket &&
    e.2.1.step == c.step && e.2.1.attempt == c.attempt
  let (now, late) := (s.fab.early.filter here).partition (fun e => e.2.1.gathered || 2 ≤ clOp c.desc || inTime s n c e.2.2)
  let c := now.foldl (fun c e => takeMsg c e.2.1) c
  let s := s.modFab (fun b => { b with colls := b.colls ++ [c], early := b.early.filter (fun e => !here e) })
  if inTime s n c s.now then s else late.foldl (fun t e => lateMsg t c.v e.2.1) (shutColl s n c)

/-- COLL (R338 to R341): this rank's contributions leave, those that landed early are taken, and D1 waits. -/
def runColl (s : State) (v : VRef) (x : Vcore) (n : Nat) (o : UOp) : Res Ran := do
  let dn ← readCtl x (arg1 o) 64
  let d := BitVec.ofNat 512 dn
  match tget s.fab.groups (clGroup d) with
  | none => .error (.refuse 0x3301 0)
  | some g =>
    match rankOf g s.devId v with
    | none => .error (.refuse 0x3301 0)
    | some rank => do
      need (!collBad d g.members.length && g.clearing.isNone) 0x3301
      let c : Coll := { v := v, op := o.id, group := clGroup d, desc := d, step := curStep s n, attempt := (s.cmt n).attempt, rank := rank,
                        size := match clDt d with | 0 => 4 | 1 => 2 | _ => 1 }
      let (s, c) ← if clOp d = 4 then pure (enterNorm s n g.members c) else enterData s x n g.members c
      pure { st := takeEarly s n c, d1 := some (dataTok (clDst d)), held := true }

end Sys2Proof.Machine
end

