-- ==== Sys2Proof/Machine/Units.lean ====
section
/-! DEFINITION. The units of a core: the start of an operation (R218, R222, R224, R225), its effect, and its completion
(R232). Log 1 says how the three commands share the work. -/

namespace Sys2Proof.Machine

open Sys2Proof

/-! ### Start (R218, R224, R225) -/

/-- The operands of an operation whose sources are all present: values, popped tokens and the virtual core without them. -/
def takeOperands (x : Vcore) (o : UOp) : Option (Word64 × Word64 × Word64 × List Token × Vcore) :=
  match takeSrc x (s1Of o.word) o.p1 with
  | none => none
  | some (a, ta, x1) =>
    match takeSrc x1 (s2Of o.word) o.p2 with
    | none => none
    | some (b, tb, x2) =>
      match takeSrc x2 (s3Of o.word) o.p3 with
      | none => none
      | some (c, tc, x3) => some (a, b, c, [ta, tb, tc].filterMap id, x3)

/-- Reserve a slot in a destination queue, if one is asked for (R218). -/
def reserveDst (x : Option Vcore) (d op : Nat) : Option Vcore :=
  x.bind (fun y => match dstQ d with
    | none => some y
    | some q => if qFree y q then some (reserveQ y q op) else none)

/-- Array operations of one array take effect in program order, which keeps every wait of R91 and R486 and changes no sum
(R89). -/
def arrayReady (x : Vcore) (o : UOp) : Bool :=
  x.ops.all (fun p => !(p.phase == .started && ((inUnit .arra p.word && inUnit .arra o.word) || (inUnit .arrb p.word && inUnit .arrb o.word))))

/-- Whether an operation of a virtual core cannot go on: its die has stopped, or it is an array operation during the pause
of a dip (R438, R439). -/
def opPaused (s : State) (x : Vcore) (o : UOp) : Bool :=
  dieStopped s (x.core / 64) || (dieWindow s (x.core / 64) && (inUnit .arra o.word || inUnit .arrb o.word))

/-- Start the oldest operation of a unit: each destination must have a free slot before the sources are popped (R218). It pops its
sources, reserves its destinations and takes the window as it reads it; during a warning window it starts suspect (R439). An ERROR
token among its sources takes the place of its effect (R222). -/
def startOp (s : State) (v : VRef) (u : UnitId) : State :=
  match s.vc? v with
  | none => s
  | some x =>
    match x.ops.find? (fun o => o.phase == .queued && inUnit u o.word) with
    | none => s
    | some o =>
      let first := allUnits.all (fun w => !inUnit w o.word ||
        ((x.ops.find? (fun p => p.phase == .queued && inUnit w p.word)).map UOp.id == some o.id))
      if !first || coreStopped s x.core || opPaused s x o then s
      else match takeOperands x o with
      | none => s
      | some (a, b, c, ts, y) =>
        let err := (ts.find? (fun t => t.kind == kError)).map Token.val
        let o := { o with s1 := a, s2 := b, s3 := c, err := err, susp := o.susp || (dieWindow s (x.core / 64) && 0x20 ≤ opOf o.word),
                          ctl := x.win, ctlPoison := x.winPoison, phase := if err.isSome then .performed else .started }
        if !arrayReady x o then s
        else if (reserveDst (reserveDst (some x) (d1Of o.word) o.id) (d2Of o.word) o.id).isNone then s
        else match reserveDst (reserveDst (some y) (d1Of o.word) o.id) (d2Of o.word) o.id with
        | none => s
        | some z =>
          let z := { z with ops := z.ops.map (fun p => if p.id = o.id then o else p) }
          (putVc s v z).modCore x.core (fun r => { r with progress := r.progress + 1 })

/-- OPERATION_START (R218). -/
def execOperationStart (v : VRef) (u : UnitId) (s : State) : Host.Outcome State Fault Refusal := .next (startOp s v u)

/-! ### Effect -/

/-- The event of a refused operation, once (R222, R375). -/
def refuseEvent (s : State) (v : VRef) (x : Vcore) (n code da : Nat) : State :=
  let s := refusedAccess s n code
  let d := match code / 4096 with
    | 2 => data2 da 0 (regionOf da)
    | 3 => data3 0 0 (curStep s n).toNat
    | 7 => data7 v.vc x.core 0 x.pos.idx
    | _ => data1 0 0 0 x.core (curStep s n)
  raiseCtx s code v.ctx d

/-- Whether the check area of a partition can take a record (R402, R434). -/
def areaOk (s : State) (n : Nat) : Bool :=
  let q := (s.part n).sn
  let b := q.base.toNat
  q.size != 0 && b % 4096 == 0 && (accessRefusal s (.part n) b (q.size.toNat * 0x4000000)).isNone

/-- The bytes at some output places. -/
def outBytes (s : State) (v : VRef) (outs : List OutLoc) : List Byte :=
  match s.vc? v with
  | none => []
  | some x => outs.flatMap (fun l => (rdRun (rdOf s x l.dev) l.addr l.len).map Prod.fst)

/-- Queue a check of an operation's outputs (R401, R402): its record holds them, with `aux` and the groups that they make, whose
verdicts it awaits (R32). It lands once the check area has room. -/
def queueCheck (s : State) (v : VRef) (x : Vcore) (n : Nat) (outs : List OutLoc) (aux : List Byte) (waits : List (Group × Nat)) (op : Nat)
    (suspect resid : Bool) : State :=
  let c : Check := { id := s.rel.nextCheck, part := n, ctx := some v.ctx, core := x.core, suspect := suspect, resid := resid,
                     a := outBytes s v outs ++ aux, outs := outs, vref := some v, op := some op, waits := waits }
  (s.modRel (fun r => { r with checks := r.checks ++ [c], nextCheck := r.nextCheck + 1 })).modPart n
    (fun p => { p with sn := { p.sn with pending := satInc p.sn.pending } })

/-- Whether the outputs of an operation with opcode `op` end a run (R400). -/
def endsRun (op : Nat) : Bool := op == 0x23 || op == 0x24 || op == 0x26

/-- Whether a run is sampled (R401). The tile-driver routines, whose bodies are not given, number the runs by the graph (R400): the
run id is an open value of what names the run's output (log 15), so that a run computed again is sampled alike. -/
def runSampled (s : State) (x : Vcore) (n : Nat) (runId : Word64) : Bool :=
  (mixWord (mix x.jseed 0xFFFFFF00#32 runId x.step) 0).toNat % 2 ^ (s.part n).sn.log2frac.toNat == 0

/-- A run that is not suspect ends: sampled, it is checked with its outputs in use, or skipped for want of room (R402, R403). -/
def sampleRun (s : State) (v : VRef) (x : Vcore) (n : Nat) (outs : List OutLoc) (aux : List Byte) (waits : List (Group × Nat))
    (run : List Nat) (op : Nat) : State :=
  if !runSampled s x n (Config.runId run) then s
  else if !areaOk s n then s.modRel (fun r => { r with skipped := satInc r.skipped })
  else queueCheck s v x n outs aux waits op false false

/-- The unit class of an opcode (R415): 0 DMA, 1 arrays, 2 conversion, 3 vector. -/
def unitClass (op : Nat) : Nat := if op < 0x20 then 0 else if op < 0x30 then 1 else if op < 0x40 then 2 else 3

/-- Record the last window operand that a unit class touched: the output where it lies in the window, else the first
operand (R415; DEDUCED, log 19). -/
def touch (s : State) (core op : Nat) (o : UOp) (outs : List OutLoc) : State :=
  let off := match outs.find? (fun l => !l.dev) with | some l => l.addr | none => arg1 o
  s.modCore core (fun r => { r with last := tput r.last (unitClass op) off })

/-- An operation has run and left the state `r.st`: its tokens wait for OPERATION_COMPLETE, and the outputs of a suspect
run are held for their check, those of another run sampled (R400 to R403). -/
def landOp (s : State) (v : VRef) (x : Vcore) (n op : Nat) (o : UOp) (r : Ran) : State :=
  let q := (s.part n).sn
  let check := q.en && endsRun op && (r.susp || o.susp || q.all)
  let t := modOp (touch r.st x.core op o r.outs) v o.id (fun p => { p with
      phase := .performed, d1 := r.d1, d2 := r.d2, outs := r.outs, held := r.held || check, susp := p.susp || r.susp,
      resid := p.resid || r.resid, msg := r.msg, hold := r.hold })
  let t := landFeeds t v r.outs r.feeds
  if check then queueCheck t v x n r.outs r.aux r.groups o.id true (r.resid || o.resid)
  else if q.en && endsRun op then sampleRun t v x n r.outs r.aux r.groups r.run o.id
  else t

/-- An operation is refused (R222): its event is raised and its code goes to the tokens. -/
def refuseOp (s : State) (v : VRef) (x : Vcore) (n : Nat) (o : UOp) (code da : Nat) : State :=
  modOp (refuseEvent s v x n code da) v o.id (fun p => { p with phase := .performed, err := some (BitVec.ofNat 32 code) })

/-- An operation consumes poison (R290): its context is treated, and the event's code goes to the tokens. -/
def poisonOp (s : State) (v : VRef) (o : UOp) (p : Policy) (da : Nat) (found : List (Nat × Nat)) : State :=
  modOp (poisonCtx (discoverRuns s (some v.ctx) true found) v.ctx p da) v o.id (fun q => { q with
    phase := .performed, err := some (if p = .partition then 0x2303 else 0x2301) })

/-- The oldest started operation with an opcode. -/
def startedOp (x : Vcore) (op : Nat) : Option UOp := x.ops.find? (fun o => o.phase == .started && opOf o.word == op)

/-- The virtual core as its unit sees it: control data comes from the window at the start of the operation (R223). -/
def unitView (x : Vcore) (o : UOp) : Vcore := { x with ctl := some (o.ctl, o.ctlPoison) }

/-- The buffers whose contents an array operation made. -/
def bufsMade (l : LaccSet) (o : UOp) : List Nat :=
  match opOf o.word with
  | 0x20 | 0x21 | 0x25 | 0x26 => [bufIdx l (arrOf o) (bufOf o)]
  | 0x22 => [bufIdx l 0 (immBits o.word 2 2), bufIdx l 1 (immBits o.word 5 5)]
  | _ => []

/-- Mark an operation in flight suspect, with what it has already made (R101, R102, R139, R403, R439): the sums of an array,
the SUSP bit of a record, the contributions of a conversion pass, and the outputs that end a run, which are then held for
their check. DESIGN CHOICE (log 42): of an EXPORT or a CONVERT that is the output alone, not the buffer that it reads. -/
def suspectOp (s : State) (v : VRef) (id : Nat) (resid : Bool) : State :=
  match s.vc? v with
  | none => s
  | some x =>
    match x.ops.find? (fun o => o.id == id) with
    | none => s
    | some o =>
      let op := opOf o.word
      let s := modOp s v id (fun p => { p with susp := true, resid := p.resid || resid })
      if o.phase != .performed || o.err.isSome then s
      else
        let s := s.modVc v (fun y => { y with lacc := (bufsMade y.lacc o).foldl (fun l i =>
          l.set i { l.get i with susp := true, resid := (l.get i).resid || resid }) y.lacc })
        let s := match op, o.outs with
          | 0x24, l :: _ | 0x26, l :: _ => s.modVc v (fun y => { y with win := memPut y.win (l.addr + 3) (memGet y.win (l.addr + 3) ||| 1) })
          | _, _ => s
        let cvd := match readCtl (unitView x o) (if op = 0x30 then arg3 o else arg2 o) 64 with
          | .ok c => c
          | .error _ => 0
        let s := if op = 0x23 ∨ op = 0x30 then
            { s with gsrq := s.gsrq.map (fun m => if m.v = v ∧ m.cvd.toNat = cvd then { m with suspect := true } else m) } else s
        let n := ctxPart s v.ctx
        if (s.part n).sn.en && endsRun op && !o.held then
          let s := modOp s v id (fun p => { p with held := true })
          if s.rel.checks.any (fun c => c.vref == some v && c.op == some id) then
            s.modRel (fun r => { r with checks := r.checks.map (fun c =>
              if c.vref == some v && c.op == some id then { c with suspect := true, resid := c.resid || resid } else c) })
          else queueCheck s v x n o.outs [] [] id true resid
        else s

/-! ### Mismatches (R101, R104, R107, R398) -/

/-- Record a mismatch of the arrays in ARR_RESERR (R107). -/
def latchResErr (r : Word32) (arrB bufB lockstep : Bool) (k : Nat) : Word32 :=
  let n := min (fld r 31 16 + 1) 65535
  if r.getLsbD 0 then setFld r 31 16 n
  else BitVec.ofNat 32 (1 + b2n arrB * 2 + b2n bufB * 4 + b2n lockstep * 8 + k % 64 * 2 ^ 8 + 2 ^ 14 + n * 2 ^ 16)

/-- A mismatch in an operation (R101): event 0x4101, and everything that the operation made is suspect. -/
def mismatchOp (s : State) (v : VRef) (x : Vcore) (o : UOp) : State :=
  suspectOp (raiseCtx s 0x4101 v.ctx (data4 x.core (x.core / 8) 0 (curStep s (ctxPart s v.ctx)))) v o.id true

/-- The report of a mismatch in an array (R101, R107): ARR_RESERR records it. -/
def mismatchArr (s : State) (v : VRef) (x : Vcore) (o : UOp) (arrB bufB lockstep : Bool) : State :=
  mismatchOp (s.modCore x.core (fun r => { r with resErr := latchResErr r.resErr arrB bufB lockstep v.ctx })) v x o

/-- Make the effect of the oldest started operation with opcode `op`. A wait leaves the operation as it is. A
mismatch that the arrays' residues show is reported at its end (R100, R101). -/
def perform (s : State) (v : VRef) (op : Nat) (run : State → VRef → Vcore → Nat → UOp → Res Ran) : State :=
  match s.vc? v with
  | none => s
  | some x =>
    match startedOp x op with
    | none => s
    | some o =>
      let n := ctxPart s v.ctx
      if opPaused s x o then s
      else match run s v (unitView x o) n o with
      | .error .wait => s
      | .error (.refuse code da) => refuseOp s v x n o code da
      | .error (.poisoned p da found) => poisonOp s v o p da found
      | .ok r =>
        let t := landOp s v x n op o r
        match r.mism with
        | some (arrB, bufB) => mismatchArr t v x o arrB bufB false
        | none => t

/-- LOAD (R231). -/
def execLoad (v : VRef) (s : State) : Host.Outcome State Fault Refusal := .next (perform s v 0x10 runLoad)
/-- GATHER (R234). -/
def execGather (v : VRef) (s : State) : Host.Outcome State Fault Refusal := .next (perform s v 0x11 runGather)
/-- STORE (R231). -/
def execStore (v : VRef) (s : State) : Host.Outcome State Fault Refusal := .next (perform s v 0x12 runStore)
/-- COLL (R337): progress that is possible at once is made. -/
def execColl (v : VRef) (s : State) : Host.Outcome State Fault Refusal :=
  .next (let t := perform s v 0x14 runColl
    (t.fab.colls.filter (fun c => c.v == v)).foldl (fun u c => driveColl u c.v c.op) t)
/-- ZERO (R88). -/
def execZero (v : VRef) (s : State) : Host.Outcome State Fault Refusal := .next (perform s v 0x20 runZero)
/-- ACC (R83). -/
def execAcc (v : VRef) (s : State) : Host.Outcome State Fault Refusal := .next (perform s v 0x21 runAcc)
/-- TWIN (R96). -/
def execTwin (v : VRef) (s : State) : Host.Outcome State Fault Refusal := .next (perform s v 0x22 runTwin)
/-- CONVERT (R93). -/
def execConvert (v : VRef) (s : State) : Host.Outcome State Fault Refusal := .next (perform s v 0x23 runConvert)
/-- EXPORT (R92). -/
def execExport (v : VRef) (s : State) : Host.Outcome State Fault Refusal := .next (perform s v 0x24 runExport)
/-- IMPORT (R92). -/
def execImport (v : VRef) (s : State) : Host.Outcome State Fault Refusal := .next (perform s v 0x25 runImport)
/-- SWAP (R92). -/
def execSwap (v : VRef) (s : State) : Host.Outcome State Fault Refusal := .next (perform s v 0x26 runSwap)
/-- CVT (R113). -/
def execCvt (v : VRef) (s : State) : Host.Outcome State Fault Refusal := .next (perform s v 0x30 runCvt)
/-- VWAIT (R236). -/
def execVwait (v : VRef) (s : State) : Host.Outcome State Fault Refusal := .next (perform s v 0x31 runVwait)
/-- VOP (R238). -/
def execVop (v : VRef) (s : State) : Host.Outcome State Fault Refusal := .next (perform s v 0x40 runVop)
/-- VRED (R238). -/
def execVred (v : VRef) (s : State) : Host.Outcome State Fault Refusal := .next (perform s v 0x41 runVred)
/-- VMM (R238). -/
def execVmm (v : VRef) (s : State) : Host.Outcome State Fault Refusal := .next (perform s v 0x42 runVmm)
/-- VNORM (R169). -/
def execVnorm (v : VRef) (s : State) : Host.Outcome State Fault Refusal := .next (perform s v 0x43 runVnorm)
/-- DROP (R201). -/
def execDrop (v : VRef) (s : State) : Host.Outcome State Fault Refusal := .next (perform s v 0x44 runDrop)
/-- INIT (R205). -/
def execInit (v : VRef) (s : State) : Host.Outcome State Fault Refusal := .next (perform s v 0x45 runInit)
/-- SAMPLE (R208). -/
def execSample (v : VRef) (s : State) : Host.Outcome State Fault Refusal := .next (perform s v 0x46 runSample)

/-! ### Completion (R232) -/

/-- Whether a result token announces an output of the operation (R232): D1 does, D2 only of TWIN; the others announce an
operand that is released. -/
def announces (o : UOp) (second : Bool) : Bool := !second || opOf o.word == 0x22

/-- The result token of an operation: its tag, the mark of the output that it announces, or its error (R216, R222, R235). -/
def resultTok (o : UOp) (second : Bool) (t : Option Token) : Token :=
  match o.err with
  | some e => { val := e, tag := o.tag, kind := kError }
  | none =>
    let t := t.getD (dataTok 0)
    { t with tag := o.tag, susp := announces o second && (o.susp || t.susp) }

/-- A result token enters the slot that its operation reserved (R218). -/
def fillDst (x : Vcore) (o : UOp) (d : Nat) (second : Bool) (t : Option Token) : Vcore :=
  match dstQ d with
  | some q => fillQ x q o.id (resultTok o second t)
  | none => x

/-- Complete the oldest operation of a unit whose effect is made: its tokens enter their reserved slots (R218). Under HOLD it waits
for the verdicts that keep its buffer (R111). -/
def completeOp (s : State) (v : VRef) (u : UnitId) : State :=
  match s.vc? v with
  | none => s
  | some x =>
    match x.ops.find? (fun o => o.phase == .performed && !o.held && !o.hold.any (verdictDue s (ctxPart s v.ctx)) && inUnit u o.word &&
        !opPaused s x o) with
    | none => s
    | some o =>
      let y := fillDst (fillDst x o (d1Of o.word) false o.d1) o (d2Of o.word) true o.d2
      destroyDone (trySave (putVc s v { y with ops := y.ops.filter (fun p => p.id != o.id) }) v) v.ctx

/-- OPERATION_COMPLETE (R232). -/
def execOperationComplete (v : VRef) (u : UnitId) (s : State) : Host.Outcome State Fault Refusal := .next (completeOp s v u)

end Sys2Proof.Machine
end

