-- ==== Sys2Proof/Machine/Messages.lean ====
section
/-! DEFINITION. Messages between virtual cores as they land: SEND (R334 to R336), collective contributions (R339 to R342)
with stragglers (R182, R183), norm partials (R170) and the gradient deadline (R340). -/

namespace Sys2Proof.Machine

open Sys2Proof

/-! ### SEND (R334 to R336) -/

/-- Answer a SEND (R334): a SEND_ACK flit on VC3 with the message's id. How it carries a refusal is not given: in its TAG (log 5). -/
def answerSend (s : State) (m : SendMsg) (refused : Bool) : State :=
  launch (s.emit (.sendAck m.src m.msgid refused))
    { type := 2, vc := 3, dst := m.src, tag := if refused then 0x3305 else 0, msgid := m.msgid } [(0, [])]

/-- Refuse a SEND (R335): event 0x3305 at the target. -/
def refuseSend (s : State) (m : SendMsg) : State :=
  let d := fun (n : Nat) => data3 0 m.src (curStep s n).toNat
  let s := if (s.ctx? m.ctx).isSome then raiseCtx s 0x3305 m.ctx (d (ctxPart s m.ctx)) else raise s 0x3305 (some 0) none (d 0)
  answerSend s m true

/-- Whether the arrival token of a SEND finds room in Q2 or in the arrival list (R336). -/
def arrivalRoom (x : Vcore) : Bool := (x.arrivals.isEmpty && qFree x 2) || decide (x.arrivals.length < 16)

/-- Push an arrival token (R334, R336). -/
def pushArrival (x : Vcore) (t : Token) : Vcore :=
  if x.arrivals.isEmpty && qFree x 2 then pushQ x 2 t else { x with arrivals := x.arrivals ++ [t] }

/-- Whether a virtual core's core is being reset: what arrives for it is absorbed (R411). -/
def absorbs (s : State) (v : VRef) : Bool := match s.vc? v with | some x => coreInReset s x.core | none => false

/-- A SEND message lands (R334, R335, R411): the checks, the bytes, the token and the answer; none: there is no room for its token. -/
def landSend (s : State) (m : SendMsg) : Option State :=
  match s.ctx? m.ctx, s.vc? ⟨m.ctx, m.vc⟩ with
  | some c, some x =>
    if absorbs s ⟨m.ctx, m.vc⟩ then some (answerSend s m true)
    else if c.job.toNat ≠ m.job ∨ x.winSize < m.addr + m.data.length then some (refuseSend s m)
    else if !arrivalRoom x then none
    else
      let t := spWrite s ⟨m.ctx, m.vc⟩ 0 false m.addr (withPoison (m.data, m.poison))
      some (answerSend (t.modVc ⟨m.ctx, m.vc⟩ (fun y => pushArrival y
        { val := BitVec.ofNat 32 m.addr, tag := BitVec.ofNat 16 m.tag })) m false)
  | _, _ => some (refuseSend s m)

/-- Two messages that land in order: one VC, one target (R334). -/
def sameTarget (a b : SendMsg) : Bool := a.ctx == b.ctx && a.vc == b.vc && a.vch == b.vch

/-- Land the messages that wait, oldest first; one without room stays, with those behind it, and holds its receive buffer slot (R336). -/
def landInbox (s : State) : State :=
  let r := s.fab.inbox.foldl (fun (p : State × List (SendMsg × Option (Nat × Nat))) e =>
    if p.2.any (fun w => sameTarget w.1 e.1) then (p.1, p.2 ++ [e])
    else match landSend p.1 e.1 with
      | none => (p.1, p.2 ++ [e])
      | some t => (freeBuffer t (e.2.map Prod.fst) ((e.2.map Prod.snd).getD 0), p.2)) (s, [])
  r.1.modFab (fun b => { b with inbox := r.2 })

/-- The SEND with a message id that waits for its answer. -/
def sendOf (s : State) (id : Nat) : Option SendWait := s.fab.sends.find? (fun w => w.msgid == id)

/-- Let a waiting SEND complete. -/
def endSend (s : State) (w : SendWait) (err : Option Nat) : State :=
  releaseOp (s.modFab (fun b => { b with sends := b.sends.filter (fun y => y.msgid != w.msgid) })) w.v w.op err

/-- The answer to a SEND has come (R334, R335). -/
def takeSendAck (s : State) (id : Nat) (refused : Bool) : State :=
  match sendOf s id with
  | some w => endSend s w (if refused then some 0x3305 else none)
  | none => s

/-- SEND_ACK (R334, R335). -/
def execSendAck (id : Nat) (refused : Bool) (s : State) : Host.Outcome State Fault Refusal := .next (takeSendAck s id refused)

/-- SEND_TIMEOUT (R335): SEND_TMO is in microseconds. -/
def execSendTimeout (id : Nat) (s : State) : Host.Outcome State Fault Refusal :=
  .next (match sendOf s id with
    | some w => if w.at_ + s.fab.sendTmo.toNat * 1000 ≤ s.now then
        endSend (raiseCtx s 0x3306 w.v.ctx (data3 0 w.dst (curStep s (ctxPart s w.v.ctx)).toNat)) w (some 0x3306) else s
    | none => s)

/-! ### Collectives -/

/-- Whether a message belongs to a collective of its virtual core. -/
def matchesColl (v : VRef) (m : CollMsg) (c : Coll) : Bool :=
  c.v == v && c.group == m.group && clBucket c.desc == m.bucket && c.step == m.step && c.attempt == m.attempt

/-- Whether a message's tag is older than the attempt that a partition works on. -/
def staleTag (s : State) (n : Nat) (step : Word64) (attempt : Word16) : Bool :=
  decide (step.toNat < (curStep s n).toNat) || (step == curStep s n && decide (attempt.toNat < (s.cmt n).attempt.toNat))

/-- A contribution or segment for a collective in progress: one that lands after the deadline of a gradient bucket is a straggler, and
closes the segment where nothing has closed it yet (R182, R340). -/
def landMsg (s : State) (v : VRef) (n : Nat) (m : CollMsg) (c : Coll) : State :=
  let part := !m.gathered && decide (clOp c.desc < 2)
  if part && clGradb c.desc && staleTag s n m.step m.attempt then lateMsg s v m
  else if part && c.closed then (if clGradb c.desc then lateMsg s v m else s)
  else if part && clGradb c.desc && pastDue s n c then lateMsg (closeColl s n c) v m
  else driveColl (modColl s v c.op (fun d => takeMsg d m)) v c.op

/-- COLL_ARRIVAL (R339, R340, R411): a contribution or a gathered segment lands at a member. -/
def execCollArrival (v : VRef) (m : CollMsg) (s : State) : Host.Outcome State Fault Refusal :=
  .next (
    let n := ctxPart s v.ctx
    if absorbs s v then s
    else match s.fab.colls.find? (fun c => matchesColl v m c && !c.done && (m.gathered || !(tget c.contrib m.rank).isSome)) with
    | some c => landMsg s v n m c
    | none =>
      if s.fab.colls.any (fun c => matchesColl v m c && clGradb c.desc) then lateMsg s v m
      else if (s.vc? v).isNone || (m.refused && s.fab.colls.any (matchesColl v m)) then s
      else if staleTag s n m.step m.attempt then s
      else s.modFab (fun b => { b with early := b.early ++ [(v, m, s.now)] }))

/-- The norm collective that a partial belongs to. -/
def matchesNorm (v : VRef) (m : NormMsg) (c : Coll) : Bool :=
  c.v == v && clOp c.desc == 4 && c.group == m.group && c.step == m.step && c.attempt == m.attempt && !c.done && !(tget c.sums m.rank).isSome

/-- NORMSUM_PARTIAL (R170, R341): a member's partial lands at virtual core `v`; one of an abandoned attempt enters no later total (R340). -/
def execNormsumPartial (v : VRef) (rank : NormTag) (t : BitVec 256) (nonfin ovr : Bool) (s : State) : Host.Outcome State Fault Refusal :=
  let m : NormMsg := { rank with t := t, nonfin := nonfin, ovr := ovr }
  .next (if absorbs s v then s else match s.fab.colls.find? (matchesNorm v m) with
    | some c => driveColl (modColl s v c.op (fun d => { d with sums := tput d.sums m.rank (m.t, m.nonfin, m.ovr) })) v c.op
    | none => if (s.vc? v).isNone || staleTag s (ctxPart s v.ctx) m.step m.attempt then s
      else s.modFab (fun b => { b with earlySums := b.earlySums ++ [(v, m)] }))

/-! ### The gradient deadline (R182, R340) -/

/-- GRAD_DEADLINE (R340): every collective of the partition whose deadline has passed closes. -/
def execGradDeadline (n : Nat) (s : State) : Host.Outcome State Fault Refusal :=
  .next (
    let dl := (s.part n).active.gradDl.toNat
    let a := s.att n
    let s := if dl != 0 && a.isOpen && decide (a.openAt + dl ≤ s.now) then s.modAtt n (fun a => { a with gradClosed := true }) else s
    let due := s.fab.colls.filter (fun c => ctxPart s c.v.ctx == n && !c.closed && !c.done &&
      (match deadlineOf s n c with | some t => decide (t ≤ s.now) | none => false))
    due.foldl (fun t c => closeColl t n c) s)

end Sys2Proof.Machine
end

