-- ==== Sys2Proof/Machine/Msix.lean ====
section
/-! DEFINITION. MSI-X messages of a function (R377, R378). -/

namespace Sys2Proof.Machine

open Sys2Proof

/-- The minimum interval of a vector, in µs (R368, R377). -/
def vecImod (s : State) (fn vec : Nat) : Nat :=
  let c := s.chan fn (if fn = 0 then vec / 32 else 0)
  let k := if fn = 0 then vec % 32 else vec
  if k < 8 then (tgetD c.rings k {}).imod.toNat else if k = 8 then c.evrImod.toNat else 0

/-- Whether a function may send (R355, R356): MSI-X enabled, mastering, and not in D3hot. -/
def canSend (f : Fn) : Bool := f.msixEn && f.bme && !f.d3

/-- Send the message of a vector now. -/
def sendVec (s : State) (fn vec : Nat) : State :=
  (s.modHost (fun h => { h with msix := h.msix ++ [(fn, vec)] })).modFn fn (fun f =>
    { f with vecs := tmod f.vecs vec {} (fun w => { w with pend := false, moderated := false, lastAt := some s.now }) })

/-- Signal a vector: a masked one becomes pending, and one within its interval waits (R378). -/
def signal (s : State) (fn vec : Nat) : State :=
  let f := s.fn fn
  let w := tgetD f.vecs vec {}
  let hold := fun (g : Vec → Vec) => s.modFn fn (fun f => { f with vecs := tmod f.vecs vec {} g })
  if !f.msixEn then s
  else if w.masked || !canSend f then hold (fun w => { w with pend := true })
  else match w.lastAt with
    | some t => if s.now < t + 1000 * vecImod s fn vec then hold (fun w => { w with moderated := true }) else sendVec s fn vec
    | none => sendVec s fn vec

/-- MSIX_MODERATION_EXPIRY (R378). -/
def execMsixModerationExpiry (fn vec : Nat) (s : State) : Host.Outcome State Fault Refusal :=
  let w := tgetD (s.fn fn).vecs vec {}
  .next (match w.lastAt with
    | some t => if w.moderated && decide (t + 1000 * vecImod s fn vec ≤ s.now) then
        (if w.masked || !canSend (s.fn fn) then
          s.modFn fn (fun f => { f with vecs := tmod f.vecs vec {} (fun w => { w with pend := true, moderated := false }) })
         else sendVec s fn vec) else s
    | none => s)

/-- The function and the channel of a partition's host (R357, R376). -/
def partChan (s : State) (n : Nat) : Nat × Nat := if n = 0 then (0, s.fab.slot.toNat) else (n, 0)

end Sys2Proof.Machine
end

