-- ==== Sys2Proof/Machine/Verdict.lean ====
section
/-! DEFINITION. Group statistics and tensor maxima as their contributions land (R122, R127), group verdicts (R128 to R136,
R139) and numerics telemetry (R140 to R143). -/

namespace Sys2Proof.Machine

open Sys2Proof

/-! ### Contributions -/

/-- Maximum of two gathered maxima, NaN propagating (R64). -/
def maxNan (a b : Nat) : Nat :=
  if (fpDecode fp32 a).isNan || (fpDecode fp32 b).isNan then fp32.qnan else max a b

/-- Add to a 32-bit count of a record, saturating (R126). -/
def addCount (g hi lo k : Nat) : Nat := setBits g hi lo (satAdd 32 (bits g hi lo) k)

/-- A GSR with a contribution's counts added. -/
def gsrAdd (g : Nat) (m : GsrMsg) : Nat :=
  let g := setBits g 127 96 (maxNan (bits g 127 96) m.gmax.toNat)
  let g := addCount (addCount (addCount (addCount g 159 128 m.cover) 191 160 m.nonzero) 223 192 m.clipped) 255 224 m.vanished
  let g := addCount (addCount (addCount (addCount g 287 256 m.nzblk) 319 288 m.floorblk) 351 320 m.satblk) 383 352 m.nanblk
  if m.suspect then setBits g 90 90 1 else g

/-- Land a contribution at its GSR (R127). The contribution that brings COVER to the group's padded count closes the group. One under
an old level of its tensor is discarded (R139). The home controller's read finds failed symbols (R287). -/
def landGsr (s : State) (m : GsrMsg) : State :=
  let s := demand s (some m.v.ctx) m.gsr 64
  match (if oldLevel s m.cvd then none else gsrOpen (devNat s m.gsr 64) m.cvd m.thr) with
  | none => s
  | some g =>
    let g := gsrAdd g m
    if m.total ≤ bits g 159 128 && !bit g 85 then
      let s := homeWrite s m.gsr (natToBytes 64 (setBits g 85 85 1))
      let h := devNat s (cvTsr m.cvd) 64
      let s := if cvHasTsr m.cvd && bits h 63 0 == cvStep m.cvd && bits h 79 64 == cvAttempt m.cvd then
          homeWrite s (cvTsr m.cvd) (natToBytes 64 (addCount h 159 128 1)) else s
      { s with verdicts := s.verdicts ++ [{ v := m.v, gsr := m.gsr, cvd := m.cvd, group := m.group, cap := m.cap }] }
    else homeWrite s m.gsr (natToBytes 64 g)

/-- Whether a pass of a contribution's virtual core has still to complete: until then the contribution may become suspect
(R139, R439). -/
def passOpen (s : State) (m : GsrMsg) : Bool :=
  match s.vc? m.v with
  | some x => x.ops.any (fun o => o.phase == .performed && !o.held && o.hold.isEmpty && (opOf o.word == 0x23 || opOf o.word == 0x30))
  | none => false

/-- GSR_TAGGED_UPDATE (R127): the oldest contribution lands whose pass has completed, or waits for a check or a verdict alone. An
update of a region that is being cleared waits (R271). -/
def execGsrTaggedUpdate (s : State) : Host.Outcome State Fault Refusal :=
  .next (match s.gsrq.find? (fun m => !passOpen s m && !accessWaits s m.gsr 64) with
    | none => s
    | some m => landGsr { s with gsrq := s.gsrq.erase m } m)

/-- Land a gathered maximum in its history slot (R122). -/
def landTsr (s : State) (m : TsrMsg) : State :=
  let a := m.tsr + 64 + 16 * (m.step.toNat % 16)
  let s := demand s (some m.v.ctx) a 16
  let sl := devNat s a 16
  let fresh := bits sl 63 0 != m.step.toNat || bits sl 111 96 != m.attempt.toNat
  let x := if fresh then m.gmax.toNat else maxNan (bits sl 95 64) m.gmax.toNat
  homeWrite s a (natToBytes 16 (setBits (setBits (setBits sl 63 0 m.step.toNat) 95 64 x) 111 96 m.attempt.toNat))

/-- TSR_TAGGED_MAX (R122): the oldest maximum on its way lands whose region is not being cleared (R271). -/
def execTsrTaggedMax (s : State) : Host.Outcome State Fault Refusal :=
  .next (match s.tsrq.find? (fun m => !accessWaits s m.tsr 320) with
    | none => s
    | some m => landTsr { s with tsrq := s.tsrq.erase m } m)

/-! ### Verdicts (R128, R133) -/

/-- The widening of R133 to a ladder position. -/
def widen (c : BitVec 512) (rb : Bool) (pos : Nat) : Verdict :=
  if !rb || c.getLsbD 47 || fld c 50 48 < pos || 4 < pos then 5
  else if cvTuse c || c.getLsbD 45 then 4 else 3

/-- M_j of a tensor for the current step. -/
def mjBits (t : Nat) (c : BitVec 512) : Nat := bits (tsrSlot t (cvStep c % 16)) 95 64

/-- Whether M_j × 2^VGAP ≤ M_d (R128, R133). -/
def farTooLarge (t g : Nat) (c : BitVec 512) : Bool :=
  match fpDecode fp32 (mjBits t c) with
  | .num _ m => (m.scale (bits g 487 480)).le (delayedMax t (cvStep c) (fld c 79 76 + 1))
  | _ => false

/-- The clip trigger and the vanish trigger of R128. -/
def clips (g : Nat) : Bool := 0 < bits g 351 320 || bits g 463 448 * bits g 191 160 < bits g 223 192 * 65536
def vanishes (g : Nat) : Bool := bits g 479 464 * bits g 287 256 < bits g 319 288 * 65536

/-- The events that the procedure of R133 raises for a group, before it waits for anything. -/
def verdictEvents (g cap : Nat) : List Nat :=
  if 0 < bits g 383 352 then []
  else if cap < bits g 415 384 then [0x1104]
  else (if clips g then [0x1101] else []) ++ (if vanishes g then [0x1102] else [])

/-- The verdict and the events of R133; none while it waits for the tensor to close. -/
def verdictOf (g t : Nat) (c : BitVec 512) (rb : Bool) (cap : Nat) : Option (Verdict × List Nat) :=
  let level := bits g 82 80
  let ev := verdictEvents g cap
  if 0 < bits g 383 352 then some (0, ev)
  else if cap < bits g 415 384 then some (widen c rb (max (level + 1) 3), ev)
  else
    let clip := clips g
    let van := vanishes g
    if !clip && !van then some (0, ev)
    else if !rb || c.getLsbD 47 then some (5, ev)
    else if cvDelayed c && bits g 84 83 == 0 && cvFirst c && clip && !van then some (1, ev)
    else if cvDelayed c && bits g 84 83 == 0 && cvFirst c && van && !clip && bits t 84 83 == 0 && bits g 487 480 != 0 then
      if bits t 159 128 != bits t 191 160 then none
      else if farTooLarge t g c then some (2, ev)
      else some (widen c rb (level + 1), ev)
    else some (widen c rb (level + 1), ev)

/-- The ladder position that a widening verdict asks for (R133). -/
def widenPos (g cap : Nat) : Nat := if cap < bits g 415 384 then max (bits g 82 80 + 1) 3 else bits g 82 80 + 1

/-- What a verdict writes into the TSR (R134), whose header carries its tag: a MOMENT verdict is only recorded. -/
def verdictTsr (s : State) (c : BitVec 512) (t g : Nat) (cap : Nat) (v : Verdict) : State :=
  let h := devNat s (cvTsr c) 64
  if !(cvHasTsr c || cvTsr c != 0) || cvRecipe c == 3 || (accessRefusal s .fw (cvTsr c) 320).isSome ||
      bits h 63 0 != cvStep c || bits h 79 64 != cvAttempt c then s
  else if v = 2 && bits h 84 83 == 0 then
    let rr := match fpDecode fp32 (mjBits t c) with
      | .num _ m => rowScaleBits (m.div (fmtEmax (cvFmt c)))
      | _ => fp32.qnan
    homeWrite s (cvTsr c) (natToBytes 64 (setBits (setBits h 84 83 2) 127 96 rr))
  else if v = 4 then homeWrite s (cvTsr c) (natToBytes 64 (setBits h 82 80 (widenPos g cap)))
  else s

/-- The descriptor of a pass that a verdict calls for (R134): the rescale state, or the wider format of the tensor's lineage (R132). -/
def dueCvd (c : BitVec 512) (g cap : Nat) (v : Verdict) : BitVec 512 :=
  if v < 3 then setFld c 81 80 v
  else
    let f := formatAt (cvRecipe c) (cvFmt c) (widenPos g cap)
    let c := setFld (setFld (setFld c 81 80 0) 82 82 0) 3 0 f
    if fmtWide f then setFld c 5 4 0 else c

/-- The passes that a verdict calls for (R134, R135): of the group, or of every group of the tensor. The resident routines issue them
(R236); the update engines act on a MOMENT verdict themselves (R132). -/
def passesDue (s : State) (m : VerdictMsg) (g t : Nat) (v : Verdict) : List RebakeDue :=
  let c := m.cvd
  if v = 0 ∨ v = 5 ∨ cvRecipe c = 3 then []
  else
    let d := dueCvd c g m.cap v
    let gs := if v = 1 ∨ v = 3 then [m.group] else List.range (max (bits t 191 160) (m.group + 1))
    (gs.map (fun i => (⟨cvGsr c + 64 * i, d⟩ : RebakeDue))).filter (fun b => gsrKey (devNat s b.gsr 64) < cvKey d && !s.rebakes.contains b)

/-- Make a verdict final (R133, R134, R138, R140). -/
def finalVerdict (s : State) (m : VerdictMsg) (x : Vcore) (v : Verdict) (ev : List Nat) : State :=
  let c := m.cvd
  let n := ctxPart s m.v.ctx
  let g := devNat s m.gsr 64
  let t := devNat s (cvTsr c) 320
  let ovf := decide (m.cap < bits g 415 384)
  let rec_ := setBits (setBits (setBits g 89 87 v) 86 86 1) 90 90 (max (bits g 90 90) (b2n (v == 5)))
  let s := homeWrite s m.gsr (natToBytes 64 rec_)
  let d := data1 (cvLayer c) (cvFmt c) m.group x.core (BitVec.ofNat 64 (cvStep c))
  let s := ((if m.raised then [] else ev) ++ (if v = 5 then [0x1103] else [])).foldl (fun u e => raiseCtx u e m.v.ctx d) s
  let s := verdictTsr s c t g m.cap v
  let s := { s with rebakes := s.rebakes ++ passesDue s m g t v }
  let s := if bit rec_ 90 then suspectFed s (cvGroup c m.gsr) else s
  let s := s.modCore x.core (fun r => countVerdict r v ovf)
  telAdd s n (cvLayer c) (cvFmt c)
    (if v = 0 ∨ v = 5 then groupCounts g m.cap v
     else if v < 3 then [0, 0, 0, 0, 0, 1, 0, 0, 0, 0] else [0, 0, 0, 0, 0, 0, 1, 0, 0, 0])

/-- The records that a verdict is formed from. -/
def verdictRuns (c : BitVec 512) (gsr : Nat) : List Run := (gsr, 64) :: (if cvHasTsr c then [(cvTsr c, 320)] else [])

/-- Whether a closed group can be judged now: superseded groups and groups without a core are dropped at once. A verdict that is
formed from poison consumes it: its context is treated under R290 (R289). The tensor's maxima still on their way are awaited with its
close (R133). -/
def judge (s : State) (m : VerdictMsg) : Option State :=
  let g := devNat s m.gsr 64
  match s.vc? m.v with
  | none => some s
  | some x =>
    if gsrKey g ≠ cvKey m.cvd ∨ bit g 86 then some s
    else
      let n := ctxPart s m.v.ctx
      let rs := verdictRuns m.cvd m.gsr
      let s := discoverRuns s (some m.v.ctx) true rs
      match runsPoison (rdOf s x true) rs with
      | some p => some (poisonCtx s m.v.ctx (if p = .nan then .context else p) (firstPoison (rdOf s x true) rs))
      | none =>
        match verdictOf g (devNat s (cvTsr m.cvd) 320) m.cvd ((s.part n).active.numThr.getLsbD 48) m.cap with
        | none => none
        | some (v, ev) =>
          if v = 2 ∧ s.tsrq.any (fun t => t.tsr == cvTsr m.cvd && t.step.toNat == cvStep m.cvd) then none
          else some (finalVerdict s m x v ev)

/-- The events of a verdict that waits for its tensor (R133). -/
def raiseEarly (s : State) (m : VerdictMsg) : State :=
  let core := match s.vc? m.v with | some x => x.core | none => 0
  (verdictEvents (devNat s m.gsr 64) m.cap).foldl (fun u e => raiseCtx u e m.v.ctx
    (data1 (cvLayer m.cvd) (cvFmt m.cvd) m.group core (BitVec.ofNat 64 (cvStep m.cvd)))) s

/-- Judge the first closed group whose verdict can be formed; one that has to wait for its tensor raises its events now. A verdict
whose records lie in a region that is being cleared waits (R271). -/
def judgeFirst (s : State) : List VerdictMsg → List VerdictMsg → State
  | _, [] => s
  | before, m :: after =>
    let acc := (s.part (ctxPart s m.v.ctx)).tel.accBase.toNat + 64 * (16 * cvLayer m.cvd + cvFmt m.cvd)
    if ((acc, 64) :: verdictRuns m.cvd m.gsr).any (fun r => accessWaits s r.1 r.2) then judgeFirst s (before ++ [m]) after
    else match judge s m with
    | some t => { t with verdicts := before ++ after }
    | none => if m.raised then judgeFirst s (before ++ [m]) after
      else { raiseEarly s m with verdicts := before ++ { m with raised := true } :: after }

/-- GROUP_VERDICT (R133). -/
def execGroupVerdict (s : State) : Host.Outcome State Fault Refusal := .next (judgeFirst s [] s.verdicts)

/-! ### Telemetry records (R140 to R143) -/

/-- A share in UQ0.16, rounded down (R141). -/
def shareOf (a b : Nat) : Nat := if b = 0 then 0 else min (a * 65536 / b) 0xFFFF

/-- The record of an entry (R141). -/
def telRecord (e i : Nat) (step : Word64) (attempt : Word16) (dropped : Bool) : Nat :=
  let r := setBits (setBits e 127 0 0) 511 480 0
  r + step.toNat + attempt.toNat * 2 ^ 64 + i / 16 % 4096 * 2 ^ 80 + i % 16 * 2 ^ 92 + b2n dropped * 2 ^ 96 +
  b2n (bits e 431 416 != 0) * 2 ^ 97 + b2n (bits e 383 352 != 0) * 2 ^ 98 +
  shareOf (bits e 255 192) (bits e 191 128) * 2 ^ 480 + shareOf (bits e 319 256) (bits e 191 128) * 2 ^ 496

/-- Write one entry's record and clear the entry; the pairs report a record written and a record lost. -/
def flushEntry (n : Nat) (step : Word64) (attempt : Word16) (dropped : Bool) (p : State × Bool × Bool) (i : Nat) : State × Bool × Bool :=
  let (s, wrote, lost) := p
  let q := s.part n
  let da := q.tel.accBase.toNat + 64 * i
  if (accessRefusal s .fw da 64).isSome then p
  else
    let s := demand s none da 64
    let bad := (strongest (devRead s da 64)).isSome
    let e := devNat s da 64
    let s' := devWrite s da (clean (List.replicate 64 0))
    let miss := fun (t : State) => t.modPart n (fun p => { p with tel := { p.tel with lost := satInc p.tel.lost } })
    if bad then (miss s', wrote, lost)
    else if !q.active.numThr.getLsbD 49 || telFields.all (fun f => bits e f.1 f.2 == 0) then (s', wrote, lost)
    else if 2 ^ q.tel.log2.toNat ≤ (q.tel.head - q.tel.tail).toNat then (miss s', wrote, true)
    else
      let ra := q.tel.base.toNat + 64 * (q.tel.head.toNat % 2 ^ q.tel.log2.toNat)
      let s' := if (accessRefusal s' .fw ra 64).isSome then s'
        else devWrite s' ra (clean (natToBytes 64 (telRecord e i step attempt dropped)))
      (s'.modPart n (fun p => { p with tel := { p.tel with head := p.tel.head + 1 } }), true, lost)

/-- The sticky flags of a partition's engines that are not clear (R66): core k's conversion unit at 3k, its vector unit at 3k + 1, its
arrays at 3k + 2, and the update engine of cluster k at 768 + k. -/
def partFlags (s : State) (n : Nat) : Tab Word32 :=
  (((s.cores.filter (fun c => holdsCluster s n (c.1 / 8))).flatMap (fun (e : Nat × Core) =>
      [(3 * e.1, e.2.cvtNf), (3 * e.1 + 1, e.2.vecNf), (3 * e.1 + 2, e.2.arrNf)])) ++
    (s.clusters.filter (fun c => holdsCluster s n c.1)).map (fun (e : Nat × Cluster) => (768 + e.1, e.2.updNf))).filter (fun e => e.2 != 0)

/-- TELEMETRY_FLUSH (R67, R140, R143, R378): it waits while a region that it reads or writes is being cleared (R271). DESIGN CHOICE
(log 41): R141 gives a record no place for the sticky flags, and the copy stands beside the ring. -/
def execTelemetryFlush (n : Nat) (s : State) : Host.Outcome State Fault Refusal :=
  let q := (s.part n).tel
  .next (match q.due with
    | none => s
    | some (step, attempt, dropped) =>
      if q.touched.any (fun i => accessWaits s (q.accBase.toNat + 64 * i) 64) || accessWaits s q.base.toNat (64 * 2 ^ q.log2.toNat) then s
      else
      let (s, wrote, lost) := q.touched.foldl (flushEntry n step attempt dropped) (s, false, false)
      let flags := if (s.part n).active.numThr.getLsbD 49 then (step, partFlags s n) else q.flags
      let s := s.modPart n (fun p => { p with tel := { p.tel with
        due := none, touched := [], dropped := [], flags := flags, ev2001 := dropped && p.tel.ev2001 } })
      let s := if lost then raise s 0x1106 (some n) none (data1 0 0 0 0 step) else s
      let (fn, ch) := partChan s n
      if wrote && (s.chan fn ch).tien then signal s fn (32 * (if fn = 0 then ch else 0) + 9) else s)

end Sys2Proof.Machine
end

