-- ==== Sys2Proof/Machine/Update.lean ====
section
/-! DEFINITION. The update engines (R150 to R166, R174, R189), the preconditioner refresh (R167, R168) and the arming of
layers (R159). -/

namespace Sys2Proof.Machine

open Sys2Proof

/-! ### Layer update descriptors (R150, R151) -/

def ludEn (l : BitVec 1024) : Bool := l.getLsbD 14
def ludRule (l : BitVec 1024) : Nat := fld l 13 12
/-- Format of tensor t: 0 P, 1 M1, 2 M2, 3 RES, 4 forward copy. -/
def ludFmt (l : BitVec 1024) (t : Nat) : Nat := fld l (19 + 4 * t) (16 + 4 * t)
/-- Whether a tensor is present. -/
def ludHas (l : BitVec 1024) (t : Nat) : Bool := t == 0 || ludFmt l t != 0xF
def ludUe (l : BitVec 1024) : Nat := fld l 53 49
def ludNrec (l : BitVec 1024) : Nat := fld l 95 64
def ludF32 (l : BitVec 1024) (hi : Nat) : Word32 := BitVec.ofNat 32 (fld l hi (hi - 31))
def ludPcb (l : BitVec 1024) : Nat := pcbSize (fld l 47 45)

/-- The enabled layers of a partition, in ascending order. -/
def enabledLayers (s : State) (n : Nat) : List Nat :=
  (List.range (s.part n).active.nlayers.toNat).filter (fun l => ludEn (ludAt s n l))

/-- Bits per element of tensor t in a record, 0 when absent. -/
def recWidth (l : BitVec 1024) (t : Nat) : Nat := if ludHas l t then fmtWidth (ludFmt l t) else 0
/-- Size of a state record (R153). -/
def recSize (l : BitVec 1024) : Nat := alignUp (8 + 2 * ((List.range 4).map (recWidth l)).sum) 16
/-- Byte offset of tensor t's data in a record. -/
def recOff (l : BitVec 1024) (t : Nat) : Nat := 8 + 2 * ((List.range t).map (recWidth l)).sum

/-- Whether the descriptor of an enabled layer is valid (R151, R166); its reserved fields are ignored (R9). DEDUCED (log 22): an entry
whose LAYER is not its index, and a PC_LAG of 0 beside a refresh period, are reserved codes. -/
def ludValid (s : State) (n idx : Nat) (l : BitVec 1024) : Bool :=
  let narrowOr := fun (t : Nat) => ludFmt l t ≤ 8 || ludFmt l t == 0xF
  let b := ludPcb l
  let aligned := fun (hi lo a : Nat) => fld l hi lo % a == 0
  fld l 11 0 == idx && ludRule l != 3 && ludFmt l 0 ≤ 9 && narrowOr 1 && narrowOr 2 && narrowOr 3 && narrowOr 4 &&
  fld l 38 37 != 3 && fld l 40 39 != 3 && (fld l 44 41 == 7 || fld l 44 41 == 9 || fld l 44 41 == 0xB) && fld l 47 45 ≤ 4 &&
  (match ludRule l with
   | 0 => ludHas l 1 && !ludHas l 2 && b == 0
   | 1 => ludHas l 1 && ludHas l 2 && b == 0
   | _ => ludHas l 1 && !ludHas l 2 && b != 0) &&
  holdsCluster s n (ludUe l) && aligned 303 256 256 && aligned 351 304 256 && aligned 399 352 64 && aligned 447 400 64 &&
  (!ludHas l 4 || (aligned 495 448 256 && aligned 543 496 256)) && aligned 591 544 256 && aligned 687 640 256 &&
  (b == 0 || (aligned 639 592 4096 && layerStrip l != 0 && ludNrec l % layerStrip l == 0 && shardRows l % b == 0 &&
    (Config.layerShape l).2 % layerStrip l == 0 && shardRow0 l % b == 0 && (fld l 703 688 == 0 || fld l 707 704 != 0)))

/-- The step scalar record (R154). -/
def ssrOf (s : State) (n : Nat) : BitVec 512 := BitVec.ofNat 512 (devNat s (s.part n).active.ssrBase.toNat 64)

/-! ### Where a layer's state lies (R152, R153, R165) -/

/-- Record array, header and forward copy of a set. -/
def setBase (l : BitVec 1024) (set : Bool) : Nat := if set then fld l 351 304 else fld l 303 256
def hdrBase (l : BitVec 1024) (set : Bool) : Nat := if set then fld l 447 400 else fld l 399 352
def fwdBase (l : BitVec 1024) (set : Bool) : Nat := if set then fld l 543 496 else fld l 495 448
/-- A set's half of the preconditioner area. -/
def pcBase (l : BitVec 1024) (set : Bool) : Nat := fld l 639 592 + (if set then pcHalf l else 0)
/-- The snapshot area. -/
def pcSnap (l : BitVec 1024) : Nat := fld l 639 592 + 2 * pcHalf l

/-- Runs of a set of a layer: record array, header, forward copy, preconditioner half. -/
def setRuns (l : BitVec 1024) (set : Bool) : List Run :=
  let nb := ludNrec l
  let f := ludFmt l 4
  let d := fwdBase l set
  let (sc, rh) := defaultPlanes f d nb
  [(setBase l set, nb * recSize l), (hdrBase l set, 1600)] ++
  (if ludHas l 4 then [(d, nb * blockBytes f), (sc, nb), (rh, 4)] else []) ++
  (if ludPcb l = 0 then [] else [(pcBase l set, pcHalf l)])

/-- Runs of the reduced gradient (R150). -/
def gradRuns (l : BitVec 1024) : List Run :=
  let nb := ludNrec l
  let d := fld l 591 544
  if fld l 44 41 = 7 then
    let (sc, rh) := defaultPlanes 7 d nb
    [(d, nb * blockBytes 7), (sc, nb), (rh, 4)]
  else [(d, 16 * nb * (fmtWidth (fld l 44 41) / 8))]

/-! ### Decoding (R36, R156) -/

/-- FP32 values with the flags gathered so far. -/
abbrev Vals := List Word32 × Flags

/-- The 16 elements of a block whose data and scale byte are given, times 2^k, rounded to FP32. -/
def decBlock (f : Nat) (rho : Option Q) (byte data : Nat) (k : Int) : Vals :=
  let bad := g4iBad f data
  let es := (List.range 16).map (fun i =>
    let c := unpackCode (fmtWidth f) data i
    let v := if fmtNarrow f then decodeElem f byte bad rho c else fpDecode (fpOf f) c
    enc32 (match v with | .num g m => .num g (m.scale k) | w => w))
  (es.map Prod.fst, orFlags (es.map Prod.snd) ||| (if bad && byte != 0 && byte != 0xFF && !rhoSettles rho then fNV else 0#4))

/-- What an update pass holds fixed. -/
structure UpdCtx where
  lud : BitVec 1024
  layer : Nat
  active : Bool
  gm : Word32
  clip : Word32
  ob1 : Word32
  ob2 : Word32
  bc1 : Word32
  bc2 : Word32
  nlr : Word32
  fr : Int
  seed : Word64
  step : Word64
  attempt : Word16
  /-- Row scales that the active set's tensors are read with. -/
  rhoIn : List (Option Q)

/-- The row scale by the WEIGHT rule from a maximum, with the floor 2⁻¹²⁶ (R117). -/
def weightRho (f w : Nat) : Q :=
  match fpDecode fp32 w with
  | .num _ m => if m.isZero then pow2 (-126) else pow2 (max ((m.div (fmtEmax f)).clog2) (-126))
  | _ => pow2 (-126)

/-- The header of TSR t in a 1,600-byte set header. -/
def hdrTsr (h t : Nat) : Nat := bits h (2560 * t + 2559) (2560 * t)

/-- Row scales of the five tensors from a header (R153, R157): the forward copy shares that of P, or takes the WEIGHT rule
with its own Emax beside BF16 parameters (DEDUCED, log 22). -/
def headerRho (l : BitVec 1024) (h : Nat) : List Q :=
  let w := bits (hdrTsr h 0) 255 224
  let p := if ludFmt l 0 = 9 then Q.one else weightRho (ludFmt l 0) w
  let fr := fun t => pow2 (toSigned 16 (bits (hdrTsr h t) 271 256))
  [p, fr 1, fr 2, fr 3, if ludFmt l 0 = 9 then weightRho (ludFmt l 4) w else p]

/-- The gradient of the shard, element 16·i + e at place e of record i, decoded to FP32 (DEDUCED, log 22: every format in
the parameters' block order). -/
def readGrad (s : State) (l : BitVec 1024) : List Vals :=
  let nb := ludNrec l
  let d := fld l 591 544
  let f := fld l 44 41
  let (sc, rh) := defaultPlanes 7 d nb
  let rho := rowScaleOf (devNat s rh 4)
  (List.range nb).map (fun i =>
    if f = 7 then
      let r := decBlock 7 rho.1 (devNat s (sc + i) 1) (devNat s (d + i * blockBytes 7) (blockBytes 7)) 0
      (r.1, r.2 ||| rho.2)
    else decBlock f none 0 (devNat s (d + i * 2 * fmtWidth f) (2 * fmtWidth f)) 0)

/-! ### The arithmetic of R156 -/

/-- Inputs of one record: P, M1, M2, RES in its frame, and g″. -/
structure RecIn where
  p : List Word32
  m1 : List Word32
  m2 : List Word32
  r : List Word32
  g : List Word32
  fl : Flags

/-- Element e of a list of words. -/
def wAt (l : List Word32) (e : Nat) : Word32 := l[e]?.getD 0#32

/-- Read record i of the active set and scale its gradient. -/
def readRec (s : State) (u : UpdCtx) (i : Nat) (g : Vals) : RecIn :=
  let l := u.lud
  let rec_ := devNat s (setBase l u.active + i * recSize l) (recSize l)
  let part := fun (t : Nat) (k : Int) =>
    if ludHas l t then
      let lo := 8 * recOff l t
      decBlock (ludFmt l t) ((u.rhoIn[t]?).getD none) (bits rec_ (8 * t + 7) (8 * t)) (bits rec_ (lo + 16 * recWidth l t - 1) lo) k
    else (List.replicate 16 0#32, 0#4)
  let p := part 0 0
  let m1 := part 1 0
  let m2 := part 2 0
  let r := part 3 (-u.fr)
  let gs := g.1.map (fun w => let a := fp32Mul w u.gm; let b := fp32Mul a.1 u.clip; (b.1, a.2 ||| b.2))
  { p := p.1, m1 := m1.1, m2 := m2.1, r := r.1, g := gs.map Prod.fst,
    fl := p.2 ||| m1.2 ||| m2.2 ||| r.2 ||| g.2 ||| orFlags (gs.map Prod.snd) }

/-- New first moments of a record. -/
def newM (u : UpdCtx) (x : RecIn) : Vals :=
  let b1 := ludF32 u.lud 159
  let es := (List.range 16).map (fun e =>
    if ludRule u.lud = 0 then fp32Fma b1 (wAt x.m1 e) (wAt x.g e)
    else let a := fp32Mul u.ob1 (wAt x.g e); let r := fp32Fma b1 (wAt x.m1 e) a.1; (r.1, a.2 ||| r.2))
  (es.map Prod.fst, orFlags (es.map Prod.snd))

/-- New second moments of a record. -/
def newV (u : UpdCtx) (x : RecIn) : Vals :=
  let es := (List.range 16).map (fun e =>
    let q := fp32Mul (wAt x.g e) (wAt x.g e)
    let a := fp32Mul u.ob2 q.1
    let r := fp32Fma (ludF32 u.lud 191) (wAt x.m2 e) a.1
    (r.1, q.2 ||| a.2 ||| r.2))
  (es.map Prod.fst, orFlags (es.map Prod.snd))

/-- The direction before weight decay, without a preconditioner. -/
def plainDir (u : UpdCtx) (m v : List Word32) : Vals :=
  if ludRule u.lud = 1 then
    let es := (List.range 16).map (fun e =>
      let a := fp32Mul (wAt m e) u.bc1
      let b := fp32Mul (wAt v e) u.bc2
      let c := fp32Sqrt b.1
      let d := fp32Add c.1 (ludF32 u.lud 223)
      let r := fp32Div a.1 d.1
      (r.1, a.2 ||| b.2 ||| c.2 ||| d.2 ||| r.2))
    (es.map Prod.fst, orFlags (es.map Prod.snd))
  else (m, 0#4)

/-- d with weight decay, y and x of a record. -/
structure RecOut where
  m : List Word32
  v : List Word32
  d : List Word32
  y : List Word32
  x : List Word32
  fl : Flags

def finishRec (u : UpdCtx) (x : RecIn) (m v d0 : Vals) : RecOut :=
  let es := (List.range 16).map (fun e =>
    let d := fp32Fma (ludF32 u.lud 255) (wAt x.p e) (wAt d0.1 e)
    let y := fp32Fma u.nlr d.1 (wAt x.r e)
    let z := fp32Ldexp y.1 u.fr
    let w := fp32Add (wAt x.p e) z.1
    (d.1, y.1, w.1, d.2 ||| y.2 ||| z.2 ||| w.2))
  { m := m.1, v := v.1, d := es.map (·.1), y := es.map (·.2.1), x := es.map (·.2.2.1),
    fl := x.fl ||| m.2 ||| v.2 ||| d0.2 ||| orFlags (es.map (·.2.2.2)) }

/-! ### PRECOND (R165) -/

/-- A dot product in ascending index, one fp32_fma per term. -/
def dotFma (l : List (Word32 × Word32)) : R32 :=
  l.foldl (fun (a : R32) p => let r := fp32Fma p.1 p.2 a.1; (r.1, a.2 ||| r.2)) (0#32, 0#4)

/-- Record and place of element (row, col) of the shard, by block shape (R51). -/
def shardPos (l : BitVec 1024) (row col : Nat) : Nat × Nat :=
  if l.getLsbD 36 then (row / 4 * layerStrip l + col / 4, row % 4 * 4 + col % 4) else (row * layerStrip l + col / 16, col % 16)

/-- Row (within the shard) and column of element e of record i. -/
def elemPos (l : BitVec 1024) (i e : Nat) : Nat × Nat :=
  let st := max (layerStrip l) 1
  if l.getLsbD 36 then (i / st * 4 + e / 4, i % st * 4 + e % 4) else (i / st, i % st * 16 + e)

/-- Element of a shard-wide list of records. -/
def shardAt (l : BitVec 1024) (rs : List (List Word32)) (row col : Nat) : Word32 :=
  let (i, e) := shardPos l row col
  wAt ((rs[i]?).getD []) e

/-- The FP32 matrix j of a preconditioner half: which = 0 for S, 1 for Q. -/
def pcMatAddr (l : BitVec 1024) (base j which : Nat) : Nat := base + (2 * j + which) * ludPcb l * ludPcb l * 4

/-- Read a b × b matrix, row-major. -/
def readMatrix (s : State) (a b : Nat) : List Word32 := (List.range (b * b)).map (fun i => BitVec.ofNat 32 (devNat s (a + 4 * i) 4))

/-- The bytes of a list of FP32 words. -/
def wordBytes (l : List Word32) : List Byte := l.flatMap (fun w => natToBytes 4 w.toNat)

/-- New statistic of block j. -/
def newStat (u : UpdCtx) (gs : List (List Word32)) (old : List Word32) (j : Nat) : Vals :=
  let b := ludPcb u.lud
  let cols := layerCols u.lud
  let es := (List.range (b * b)).map (fun k =>
    let row := fun (r : Nat) => (List.range cols).map (fun c => shardAt u.lud gs (j * b + r) c)
    let dot := dotFma ((row (k / b)).zip (row (k % b)))
    let a := fp32Mul u.ob2 dot.1
    let r := fp32Fma (ludF32 u.lud 191) (wAt old k) a.1
    (r.1, dot.2 ||| a.2 ||| r.2))
  (es.map Prod.fst, orFlags (es.map Prod.snd))

/-- The preconditioned direction of record i. -/
def precDir (u : UpdCtx) (qs : List (List Word32)) (ms : List (List Word32)) (i : Nat) : Vals :=
  let b := max (ludPcb u.lud) 1
  let es := (List.range 16).map (fun e =>
    let (row, col) := elemPos u.lud i e
    let j := row / b
    let q := (qs[j]?).getD []
    dotFma ((List.range b).map (fun k => (wAt q (row % b * b + k), shardAt u.lud ms (j * b + k) col))))
  (es.map Prod.fst, orFlags (es.map Prod.snd))

/-! ### Encoding (R157, R158) -/

/-- One encoded block of tensor t: codes packed, scale byte, the values read back, counts and flags. -/
structure EncOut where
  data : Nat
  byte : Nat
  back : List Word32
  counts : Counts
  fl : Flags
  bad : Bool

/-- The rounding of element e of record i of tensor t (R59, R157); a pad element draws no bits (R195). -/
def updRnd (u : UpdCtx) (t i e : Nat) : Rnd :=
  let mode := if t = 0 then fld u.lud 38 37 else fld u.lud 40 39
  let (row, col) := elemPos u.lud i e
  if layerCols u.lud ≤ col ∨ Config.layerRows u.lud ≤ shardRow0 u.lud + row then .rne
  else rndOf mode u.seed (BitVec.ofNat 32 (u.layer * 16 + t)) u.step ((shardRow0 u.lud + row) * layerCols u.lud + col)

/-- Encode 16 values as block i of tensor t. A parameter that overflows BF16 is non-finite (DEDUCED, log 22). -/
def encRec (u : UpdCtx) (t : Nat) (rho : Q) (i : Nat) (xs : List Word32) : EncOut :=
  let f := ludFmt u.lud t
  if fmtNarrow f then
    let b := encodeBlock f (.jit 0xFE) (updRnd u t i) (xs.map (fun w => (dec32 w, some rho)))
    let data := packCodes (fmtWidth f) b.codes
    let back := decBlock f (some rho) b.byte data 0
    ⟨data, b.byte, back.1, b.counts, b.flags ||| back.2, false⟩
  else
    let es := xs.mapIdx (fun e w => fpEncode bf16 (updRnd u t i e) (dec32 w))
    let data := packCodes 16 (es.map Prod.fst)
    let nz := (xs.filter (fun w => isNonzero (dec32 w))).length
    let van := ((xs.zip es).filter (fun p => isNonzero (dec32 p.1) && (fpDecode bf16 p.2.1).isZero)).length
    ⟨data, 0, (decBlock 9 none 0 data 0).1, { cover := 16, nonzero := nz, vanished := van, nzblk := if nz = 0 then 0 else 1 },
     orFlags (es.map Prod.snd), es.any (fun p => !(fpDecode bf16 p.1).isNum)⟩

/-- The new residuals of a record whose parameters read back as `back` (R156). -/
def newResidual (u : UpdCtx) (x : RecIn) (o : RecOut) (back : List Word32) : Vals :=
  let es := (List.range 16).map (fun e =>
    let a := fp32Sub (wAt x.p e) (wAt back e)
    let b := fp32Ldexp a.1 (-u.fr)
    let c := fp32Add (wAt o.y e) b.1
    let r := fp32Ldexp c.1 u.fr
    (r.1, a.2 ||| b.2 ||| c.2 ||| r.2))
  (es.map Prod.fst, orFlags (es.map Prod.snd))

/-- One record encoded: its tensors, its new residuals and the flags of their arithmetic. -/
structure RecEnc where
  parts : List (Option EncOut)
  rn : List Word32
  fl : Flags

/-- All tensors of one record. -/
def encAll (u : UpdCtx) (rho : List Q) (i : Nat) (x : RecIn) (o : RecOut) : RecEnc :=
  let l := u.lud
  let r := fun t => (rho[t]?).getD Q.one
  let p := encRec u 0 (r 0) i o.x
  let rn := if ludHas l 3 then newResidual u x o p.back else ([], 0#4)
  let part := fun t xs => if ludHas l t then some (encRec u t (r t) i xs) else none
  let parts := [some p, part 1 o.m, part 2 o.v, part 3 rn.1, part 4 o.x]
  { parts := parts, rn := rn.1, fl := rn.2 ||| orFlags (parts.filterMap (fun e => e.map EncOut.fl)) }

/-- The values whose maximum tensor t gathers. -/
def tensorVals (t : Nat) (o : RecOut) (e : RecEnc) : List FV :=
  (match t with | 1 => o.m | 2 => o.v | 3 => e.rn | _ => o.x).map dec32

/-- The bytes of a written record (R153). -/
def recBytesOf (l : BitVec 1024) (es : List (Option EncOut)) : List Byte :=
  let n := (es.take 4).mapIdx (fun t e => match e with
    | some b => b.byte * 2 ^ (8 * t) + b.data * 2 ^ (8 * recOff l t)
    | none => 0) |>.sum
  natToBytes (recSize l) n

/-- A pass over a layer: what it writes and what it counts. -/
structure PassOut where
  recs : List (List (Option EncOut))
  maxes : List Word32
  counts : List Counts
  fl : Flags
  /-- NV or OF when a computed value is not finite (R161). -/
  nonfin : Option Flags

/-- Run the encoders on computed records. -/
def encPass (u : UpdCtx) (rho : List Q) (xs : List RecIn) (os : List RecOut) : PassOut :=
  let encs := (xs.zip os).mapIdx (fun i p => encAll u rho i p.1 p.2)
  let recs := encs.map RecEnc.parts
  let vals := os.flatMap (fun o => o.m ++ o.v ++ o.d ++ o.y ++ o.x)
  let nan := vals.any (fun w => (dec32 w).isNan)
  let inf := vals.any (fun w => !(dec32 w).isNum && !(dec32 w).isNan) ||
    recs.any (fun r => r.any (fun e => match e with | some b => b.bad | none => false))
  let col := fun (t : Nat) => recs.filterMap (fun r => (r[t]?).join)
  { recs := recs,
    maxes := (List.range 5).map (fun t => gatherMax ((os.zip encs).map (fun p => tensorVals t p.1 p.2))),
    counts := (List.range 5).map (fun t => (col t).foldl (fun a e => a.add e.counts) {}),
    fl := orFlags (os.map RecOut.fl) ||| orFlags (encs.map RecEnc.fl),
    nonfin := if nan || inf then some ((if nan then fNV else 0#4) ||| (if inf then fOF else 0#4)) else none }

/-! ### Writing the shadow set (R155, R157) -/

/-- The shadow header (R157, R164). -/
def shadowHdr (u : UpdCtx) (h : Nat) (maxes : List Word32) (frames : List (Option Int)) : List Byte :=
  (List.range 5).flatMap (fun t =>
    let tsr := hdrTsr h t
    let m := ((maxes[t]?).getD 0#32).toNat
    let lo := 512 + 128 * (u.step.toNat % 16)
    let tsr :=
      if !ludHas u.lud t then tsr
      else if t = 0 ∨ t = 4 then setBits tsr 255 224 m
      else setBits tsr (lo + 127) lo (u.step.toNat + m * 2 ^ 64 + u.attempt.toNat * 2 ^ 96)
    let tsr := match (frames[t]?).join with | some f => setBits tsr 271 256 (ofSigned 16 f) | none => tsr
    natToBytes 320 tsr)

/-- Write the pass into the shadow set. -/
def writeShadow (s : State) (u : UpdCtx) (rho : List Q) (h : Nat) (o : PassOut) (frames : List (Option Int))
    (pcm : List Byte) : State :=
  let l := u.lud
  let sh := !u.active
  let f := ludFmt l 4
  let d := fwdBase l sh
  let (sc, rh) := defaultPlanes f d (ludNrec l)
  let fw := o.recs.filterMap (fun r => (r[4]?).join)
  let s := devWrite s (setBase l sh) (clean (o.recs.flatMap (recBytesOf l)))
  let s := devWrite s (hdrBase l sh) (clean (shadowHdr u h o.maxes frames))
  let s := if ludHas l 4 then
      let s := devWrite s d (clean (fw.flatMap (fun e => natToBytes (blockBytes f) e.data)))
      let s := devWrite s sc (clean (fw.map (fun e => BitVec.ofNat 8 e.byte)))
      devWrite s rh (clean (natToBytes 4 (fpEncode fp32 .rne (FV.ofQ ((rho[4]?).getD Q.one))).1))
    else s
  if ludPcb l = 0 then s else devWrite s (pcBase l sh) (clean pcm)

/-! ### Statistics, verdicts and reframing (R158, R164) -/

/-- A descriptor that stands for tensor t's encoder in the procedures of R127 and R133: recipe WEIGHT or MOMENT, ladder
position 0 in the tag, CEIL 4. -/
def updCvd (u : UpdCtx) (t resc : Nat) : BitVec 512 :=
  let v : Nat := (if t = 0 ∨ t = 4 then 0 else 3) * 2 ^ 32 + 4 * 2 ^ 48 + u.layer * 2 ^ 64 + resc * 2 ^ 80 + 2 ^ 82 +
    u.step.toNat * 2 ^ 96 + u.attempt.toNat * 2 ^ 160
  BitVec.ofNat 512 v

/-- Add a tensor's contribution to its open record, form its verdict and report it; the Nat is the verdict. -/
def judgeRecord (s : State) (n : Nat) (u : UpdCtx) (again : Bool) (t : Nat) (m : GsrMsg) : Option Nat → State × Verdict
  | none => (s, 0)
  | some g =>
    let f := ludFmt u.lud t
    let g := gsrAdd g m
    let (v0, ev0) := (verdictOf g 0 m.cvd ((s.part n).active.numThr.getLsbD 48) 0).getD (0, [])
    let v := if again && v0 != 0 then 5 else v0
    let ev := ev0 ++ (if v = 5 then [0x1103] else [])
    let g := setBits (setBits (setBits (setBits g 85 85 1) 86 86 1) 89 87 v) 90 90 (b2n (v == 5))
    let s := homeWrite s m.gsr (natToBytes 64 g)
    let s := ev.foldl (fun w e => raise w e (some n) none (data1 u.layer f t 0 u.step)) s
    (telAdd s n u.layer f (if v = 0 ∨ v = 5 then groupCounts g 0 v else [0, 0, 0, 0, 0, 0, 1, 0, 0, 0]), v)

/-- The contribution of tensor t of a pass. -/
def tensorMsg (s : State) (n : Nat) (u : UpdCtx) (o : PassOut) (again : Bool) (t : Nat) : GsrMsg :=
  let cn := (o.counts[t]?).getD {}
  { v := ⟨0, 0⟩, gsr := fld u.lud 687 640 + 64 * t, cvd := updCvd u t (b2n again), group := t, total := 16 * ludNrec u.lud, cap := 0,
    cover := cn.cover, nonzero := cn.nonzero, clipped := cn.clipped, vanished := cn.vanished, nzblk := cn.nzblk, floorblk := cn.floorblk,
    satblk := cn.satblk, nanblk := cn.nanblk, gmax := (o.maxes[t]?).getD 0#32, suspect := false, thr := (s.part n).active.numThr }

/-- Count a tensor of a pass and judge it. The repeat after a reframe carries RESC 1 (DEDUCED, log 22). -/
def judgeTensor (s : State) (n : Nat) (u : UpdCtx) (o : PassOut) (again : Bool) (t : Nat) : State × Verdict :=
  let m := tensorMsg s n u o again t
  judgeRecord s n u again t m (gsrOpen (devNat s m.gsr 64) m.cvd m.thr)

/-- Judge every tensor present; the verdicts in order. -/
def judgeAll (s : State) (n : Nat) (u : UpdCtx) (o : PassOut) (again : Bool) : State × List Verdict :=
  (List.range 5).foldl (fun (p : State × List Verdict) t =>
    if ludHas u.lud t then let r := judgeTensor p.1 n u o again t; (r.1, p.2 ++ [r.2]) else (p.1, p.2 ++ [0])) (s, [])

/-- The new frame of tensor t, if its maximum allows one (R164). -/
def reframe (u : UpdCtx) (t : Nat) (m : Word32) : Option Int :=
  if t = 0 ∨ t = 4 ∨ !goodMax m.toNat then none
  else some (((dec32 m).toQ.div (fmtEmax (ludFmt u.lud t))).clog2 - 8)

/-- Row scales for the repeat: reframed tensors take their new scale (R164). The forward copy has that of a narrow P (R157); it takes one of
its own where it alone is reframed, or P is not narrow (DEDUCED, log 22). -/
def reframeRho (u : UpdCtx) (rho : List Q) (maxes : List Word32) (vs : List Verdict) : List Q :=
  let bad := fun (t : Nat) => ((vs[t]?).getD 0) != 0
  let m := fun (t : Nat) => (maxes[t]?).getD 0#32
  let old := fun (t : Nat) => (rho[t]?).getD Q.one
  let p := if bad 0 && ludFmt u.lud 0 != 9 && goodMax (m 0).toNat then weightRho (ludFmt u.lud 0) (m 0).toNat else old 0
  let mo := fun (t : Nat) => if bad t then (match reframe u t (m t) with | some f => pow2 f | none => old t) else old t
  let fw := if bad 0 && ludFmt u.lud 0 != 9 then p
    else if bad 4 && goodMax (m 4).toNat then weightRho (ludFmt u.lud 4) (m 4).toNat
    else if ludFmt u.lud 0 ≠ 9 then p
    else if bad 0 && goodMax (m 0).toNat then weightRho (ludFmt u.lud 4) (m 0).toNat
    else old 4
  [p, mo 1, mo 2, mo 3, fw]

/-! ### The pass (R155) -/

/-- Raise an event of a layer's pass. -/
def layerEvent (s : State) (n code layer : Nat) : State := raise s code (some n) none (data1 layer 0 0 0 (curStep s n))

/-- End a layer's pass with an abandonment. -/
def failPass (s : State) (n k : Nat) : State := causeAbandon (s.modCluster k (fun c => { c with busy := none, waitpc := false })) n 2

/-- The refresh that the pass of this step installs, if one is due (R167). -/
def dueRefresh (s : State) (n layer : Nat) (l : BitVec 1024) : Option Refresh :=
  (s.part n).refreshes.find? (fun r => r.layer == layer && r.step + BitVec.ofNat 64 (fld l 707 704) == curStep s n)

/-- Whether a check of the layer's pass is due by sampling (R401). -/
def layerSampled (s : State) (n layer : Nat) (seed step : Word64) : Bool :=
  (mixWord (mix seed 0xFFFFFF01#32 (BitVec.ofNat 64 layer) step) 0).toNat % 2 ^ (s.part n).sn.log2frac.toNat == 0

/-- Queue a check of a layer pass (R162). -/
def queueLayerCheck (s : State) (n k layer : Nat) (l : BitVec 1024) (shadow suspect : Bool) : State :=
  let q := (s.part n).sn
  if !q.en then s
  else if !areaOk s n && !suspect then s.modRel (fun r => { r with skipped := satInc r.skipped })
  else
    let outs := ((setRuns l shadow).take (if ludHas l 4 then 5 else 2)).map (fun r => OutLoc.mk true r.1 r.2)
    let a := outs.flatMap (fun o => devBytes s o.addr o.len)
    let c : Check := { id := s.rel.nextCheck, part := n, ctx := none, core := k, layer := some layer, suspect := suspect,
                       a := a, outs := outs }
    (s.modRel (fun r => { r with checks := r.checks ++ [c], nextCheck := r.nextCheck + 1 })).modPart n
      (fun p => { p with sn := { p.sn with pending := satInc p.sn.pending } })

/-- The write stream of a layer has landed; a pass that is due for a check is queued for it (R401, R439). -/
def passDone (s : State) (n k layer : Nat) (l : BitVec 1024) (u : UpdCtx) : State :=
  let s := (s.modAtt n (fun a => { a with passed := a.passed ++ [layer] })).modCluster k (fun c =>
    { c with busy := some layer, records := c.records + ludNrec l })
  let dip := dieWindow s (k / 8)
  if dip || layerSampled s n layer u.seed u.step then queueLayerCheck s n k layer l (!u.active) dip else s

/-- The repeat of a pass with new frames for the tensors that failed (R164). -/
def reframePass (s : State) (n k layer : Nat) (l : BitVec 1024) (u : UpdCtx) (rho : List Q) (h : Nat) (o : PassOut) (os : List RecOut)
    (xs : List RecIn) (pcm : List Byte) (flg : Flags) (vs : List Verdict) (failed : List Nat) : State :=
  let s := failed.foldl (fun w t => (raise w 0x1204 (some n) none (data1 layer (ludFmt l t) t 0 u.step)).modCluster k
    (fun c => { c with reframes := satInc c.reframes })) s
  let rho2 := reframeRho u rho o.maxes vs
  let frames := (List.range 5).map (fun t => if failed.contains t then reframe u t ((o.maxes[t]?).getD 0#32) else none)
  let o2 := encPass u rho2 xs os
  match o2.nonfin with
  | some f => failPass (layerEvent (updFlags s k (flg ||| o2.fl ||| f)) n 0x1202 layer) n k
  | none =>
    let s := (judgeAll (writeShadow s u rho2 h o2 frames pcm) n u o2 true).1
    passDone (updFlags s k (flg ||| o2.fl)) n k layer l u

/-- What a pass leaves: a value that is no number ends it, and a tensor whose verdict is not to keep has it repeated once (R158). -/
def landPass (s : State) (n k layer : Nat) (l : BitVec 1024) (u : UpdCtx) (rho : List Q) (h : Nat) (o : PassOut) (os : List RecOut)
    (xs : List RecIn) (pcm : List Byte) (flg : Flags) : Option Flags → State
  | some f => failPass (layerEvent (updFlags s k (flg ||| f)) n 0x1202 layer) n k
  | none =>
    let r := judgeAll (writeShadow s u rho h o [] pcm) n u o false
    let failed := (List.range 5).filter (fun t => (r.2[t]?).getD 0 != 0)
    if failed.isEmpty then passDone (updFlags r.1 k flg) n k layer l u
    else reframePass r.1 n k layer l u rho h o os xs pcm flg r.2 failed

/-- The whole pass of one layer whose inputs may be read. -/
def layerPass (s : State) (n k layer : Nat) (l : BitVec 1024) (inst : Option Refresh) : State :=
  let cm := s.cmt n
  let ssr := ssrOf s n
  let act := cm.sel.getLsbD layer
  let h := devNat s (hdrBase l act) 1600
  let fr := if ludHas l 3 then toSigned 16 (bits (hdrTsr h 3) 271 256) else 0
  let w32 := fun (hi : Nat) => BitVec.ofNat 32 (fld ssr hi (hi - 31))
  let prod := fp32Mul (w32 95) (ludF32 l 127)
  let lrs := fp32Ldexp prod.1 (-fr)
  let zeroLr := (dec32 lrs.1).isZero && !(dec32 (w32 95)).isZero && !(dec32 (ludF32 l 127)).isZero
  let wm := fpDecode fp32 (bits (hdrTsr h 0) 255 224)
  let badW : Bool := match wm with | .num g m => g && !m.isZero | _ => true
  let rho := headerRho l h
  let gm := gmOf s n (fld l 727 712)
  let ob1 := fp32Sub 0x3F800000#32 (ludF32 l 159)
  let ob2 := fp32Sub 0x3F800000#32 (ludF32 l 191)
  let u : UpdCtx := {
    lud := l, layer := layer, active := act, gm := gm.1, clip := cm.clipf, ob1 := ob1.1, ob2 := ob2.1, bc1 := w32 127, bc2 := w32 159,
    nlr := (fp32Mul 0xBF800000#32 lrs.1).1, fr := fr, seed := BitVec.ofNat 64 (fld ssr 319 256), step := curStep s n,
    attempt := cm.attempt, rhoIn := rho.map some }
  let gs := readGrad s l
  let xs := gs.mapIdx (fun i g => readRec s u i g)
  let ms := xs.map (newM u)
  let vs := xs.map (fun x => if ludRule l = 1 then newV u x else (List.replicate 16 0#32, 0#4))
  let b := ludPcb l
  let nj := pcBlocks l
  let oldQ := (List.range nj).map (fun j => readMatrix s (pcMatAddr l (pcBase l act) j 1) b)
  let qs := match inst with
    | some r => oldQ.mapIdx (fun j q => match r.qs[j]? with | some m => if m.isEmpty then q else m | none => q)
    | none => oldQ
  let stats := (List.range nj).map (fun j =>
    newStat u (xs.map RecIn.g) (readMatrix s (pcMatAddr l (pcBase l act) j 0) b) j)
  let pcm := (stats.zip qs).flatMap (fun p => wordBytes p.1.1 ++ wordBytes p.2)
  let pcm := pcm ++ List.replicate (pcHalf l - pcm.length) 0
  let dirs := (ms.zip vs).mapIdx (fun i p => if ludRule l = 2 then precDir u qs (ms.map Prod.fst) i else plainDir u p.1.1 p.2.1)
  let os := ((xs.zip (ms.zip vs)).zip dirs).map (fun p => finishRec u p.1.1 p.1.2.1 p.1.2.2 p.2)
  let o := encPass u rho xs os
  let once := if ludRule l = 0 then gm.2 else gm.2 ||| ob1.2 ||| ob2.2
  let flg := o.fl ||| orFlags (stats.map Prod.snd) ||| prod.2 ||| lrs.2 ||| once
  let bad := if !(dec32 lrs.1).isNum then some (if (dec32 lrs.1).isNan then fNV else fOF)
    else if zeroLr then some fOF else if badW then some fNV else o.nonfin
  landPass s n k layer l u rho h o os xs pcm flg bad

/-- The next layer of cluster k (R155): enabled, its own, neither passed nor refused. -/
def nextLayer (s : State) (n k : Nat) : Option Nat :=
  (enabledLayers s n).find? (fun l => ludUe (ludAt s n l) == k && !(s.att n).passed.contains l && !(s.att n).refused.contains l &&
    !(s.cmt n).armed.getLsbD l)

/-- A refused access of an engine, of a refresh or of a mirror, in the name of its partition (R267). -/
def updAccess (s : State) (n : Nat) (rs : List Run) : Option (Nat × Nat) :=
  rs.findSome? (fun r => (accessRefusal s (.part n) r.1 r.2).map (fun c => (c, r.1)))

/-- What a pass reads (R150, R154, R155, R158): its descriptor, the step scalars, the active set, the gradient, and the statistics
records that its verdicts are formed from. -/
def layerInputs (s : State) (n layer : Nat) (l : BitVec 1024) (act : Bool) : List Run :=
  let job := (s.part n).active
  [(job.ltBase.toNat + 128 * layer, 128), (job.ssrBase.toNat, 64)] ++ setRuns l act ++ gradRuns l ++ [(fld l 687 640, 320)]

/-- A pass that consumes poison (R291). -/
def poisonPass (s : State) (n k : Nat) (r : Run) : State :=
  let da := firstPoison (fun a => ((devRead s a 1)[0]?).getD (0, none)) [r]
  failPass ((raise s 0x2305 (some n) none (data2 da 0 (regionOf da))).modPart n (fun p => { p with poisonc := satInc p.poisonc })) n k

/-- UPDATE_PASS (R155): the engine of cluster k makes the pass of its next layer. A refused access ends the pass (DEDUCED, log 22). -/
def execUpdatePass (k : Nat) (s : State) : Host.Outcome State Fault Refusal :=
  let n := clusterPart s k
  .next (
    if dieStopped s (k / 8) || ((s.cluster k).busy.isSome && !(s.cluster k).waitpc) || (s.att n).gate != some true || (s.att n).abortSent then s
    else match nextLayer s n k with
    | none => s
    | some layer =>
      let l := ludAt s n layer
      let act := (s.cmt n).sel.getLsbD layer
      let shadow := setRuns l (!act)
      if shadow.any (fun r => (regionsOf r.1 r.2).any (fun g => reFrozen (entry s g))) then
        (layerEvent s n 0x1207 layer).modCmt n (fun c =>
          { c with frozenRef := satInc c.frozenRef, att := { c.att with refused := c.att.refused ++ [layer] } })
      else
        let ins := layerInputs s n layer l act
        let all := ins ++ shadow
        match updAccess s n all with
        | some (code, da) => failPass (raise (countRefused s n) code (some n) none (data2 da 0 (regionOf da))) n k
        | none =>
          if all.any (fun r => accessWaits s r.1 r.2) then s
          else
            let due := dueRefresh s n layer l
            let wait := match due with | some r => !r.done | none => false
            if wait then
              let late := match due with | some r => r.late | none => true
              let s := s.modCluster k (fun c => { c with waitpc := true, busy := some layer })
              if late then s
              else (layerEvent s n 0x1206 layer).modPart n (fun p => { p with
                refreshes := p.refreshes.map (fun r => if r.layer = layer then { r with late := true } else r) })
            else
              let s := discoverRuns (s.modCluster k (fun c => { c with waitpc := false })) none true ins
              match ins.find? (fun r => (strongest (devRead s r.1 r.2)).isSome) with
              | some r => poisonPass s n k r
              | none => layerPass s n k layer l due)

/-- LAYER_ARM (R159): the write stream of a layer has landed and its verdicts are final. -/
def execLayerArm (n layer : Nat) (s : State) : Host.Outcome State Fault Refusal :=
  .next (if (s.att n).passed.contains layer && !(s.cmt n).armed.getLsbD layer && (s.att n).gate == some true then
      let k := ludUe (ludAt s n layer)
      (s.modCmt n (fun c => { c with armed := c.armed ||| (1#4096 <<< layer) })).modCluster k (fun c =>
        { c with busy := none, armedCnt := c.armedCnt + 1 })
    else s)

/-! ### The preconditioner refresh (R167, R168) -/

/-- The snapshot's reads and writes, as pairs: block j's statistic and its place in the snapshot area. -/
def snapMoves (l : BitVec 1024) (act : Bool) : List (Run × Run) :=
  let sz := ludPcb l * ludPcb l * 4
  (List.range (pcBlocks l)).map (fun j => ((pcMatAddr l (pcBase l act) j 0, sz), (pcSnap l + j * sz, sz)))

/-- PC_SNAPSHOT (R167): after the commit of step n with n mod PC_PERIOD = 0, the committed statistics are copied, poison along with them
(R288). A refused access leaves the refresh without a result (DEDUCED, log 22). -/
def execPcSnapshot (n layer : Nat) (s : State) : Host.Outcome State Fault Refusal :=
  let l := ludAt s n layer
  let b := ludPcb l
  let step := (s.cmt n).stepC
  let per := fld l 703 688
  let known := (s.part n).refreshes.any (fun r => r.layer == layer && (r.step == step || !r.done))
  .next (if (s.part n).active.nlayers.toNat ≤ layer || !ludEn l || b == 0 || per == 0 || step == 0 || step.toNat % per != 0 || known then s
    else
      let ms := snapMoves l ((s.cmt n).sel.getLsbD layer)
      let new : Refresh := { layer := layer, step := step, snapped := true }
      let put := fun (t : State) (r : Refresh) => t.modPart n (fun p => { p with refreshes := p.refreshes ++ [r] })
      match updAccess s n (ms.flatMap (fun m => [m.1, m.2])) with
      | some (code, da) => put (raise (countRefused s n) code (some n) none (data2 da 0 (regionOf da))) { new with done := true }
      | none =>
        if ms.any (fun m => accessWaits s m.1.1 m.1.2 || accessWaits s m.2.1 m.2.2) then s
        else
          let s := discoverRuns s none true (ms.map Prod.fst)
          put (ms.foldl (fun t m => devWrite t m.2.1 (devRead t m.1.1 m.1.2)) s) new)

/-- A product of b × b matrices, every entry a dot product in ascending index. -/
def matMul (b : Nat) (x y : List Word32) : Vals :=
  let es := (List.range (b * b)).map (fun i => dotFma ((List.range b).map (fun k => (wAt x (i / b * b + k), wAt y (k * b + i % b)))))
  (es.map Prod.fst, orFlags (es.map Prod.snd))

/-- The Frobenius norm, in ascending index. -/
def frobenius (x : List Word32) : R32 :=
  let d := dotFma (x.map (fun w => (w, w)))
  let r := fp32Sqrt d.1
  (r.1, d.2 ||| r.2)

/-- The identity matrix. -/
def identity (b : Nat) : List Word32 := (List.range (b * b)).map (fun i => if i / b = i % b then 0x3F800000#32 else 0#32)

/-- K Newton iterations on (Y, Z), with the flags gathered so far. -/
def newton (b : Nat) : Nat → List Word32 × List Word32 × Flags → List Word32 × List Word32 × Flags
  | 0, p => p
  | k + 1, (y, z, fl) =>
    let zy := matMul b z y
    let ts := zy.1.mapIdx (fun i w =>
      let d := fp32Sub (if i / b = i % b then 0x40400000#32 else 0#32) w
      let r := fp32Mul 0x3F000000#32 d.1
      (r.1, d.2 ||| r.2))
    let t := ts.map Prod.fst
    let y' := matMul b y t
    let z' := matMul b t z
    newton b k (y'.1, z'.1, fl ||| zy.2 ||| orFlags (ts.map Prod.snd) ||| y'.2 ||| z'.2)

/-- The elements of a matrix times a word. -/
def scaleBy (r : Word32) (x : List Word32) : Vals :=
  let es := x.map (fun w => fp32Mul w r)
  (es.map Prod.fst, orFlags (es.map Prod.snd))

/-- The loop of R168 on a matrix: its Frobenius norm s, and Y and Z after the iterations on A × (1/s). -/
def rootLoop (b iters : Nat) (a : List Word32) : Word32 × List Word32 × List Word32 × Flags :=
  let f := frobenius a
  let i := fp32Div 0x3F800000#32 f.1
  let y := scaleBy i.1 a
  let (y', z, fl) := newton b iters (y.1, identity b, f.2 ||| i.2 ||| y.2)
  (f.1, y', z, fl)

/-- A matrix over the square root of a word. -/
def overRoot (w : Word32) (z : List Word32) : Vals :=
  let r := fp32Sqrt w
  let i := fp32Div 0x3F800000#32 r.1
  let q := scaleBy i.1 z
  (q.1, r.2 ||| i.2 ||| q.2)

/-- Q_j of a snapshot (R168), none when an element is not finite, with the flags of its arithmetic. -/
def refreshQ (b iters : Nat) (root4 : Bool) (eps : Word32) (snap : List Word32) : Option (List Word32) × Flags :=
  let as_ := snap.mapIdx (fun i w => fp32Add w (if i / b = i % b then eps else 0#32))
  let (f, y, z, fl) := rootLoop b iters (as_.map Prod.fst)
  let fl := fl ||| orFlags (as_.map Prod.snd)
  let q := if root4 then
      let rt := fp32Sqrt f
      let bb := scaleBy rt.1 y
      let (fb, _, z2, fl2) := rootLoop b iters bb.1
      let q := overRoot fb z2
      (q.1, rt.2 ||| bb.2 ||| fl2 ||| q.2)
    else overRoot f z
  (if q.1.all (fun w => (dec32 w).isNum) then some q.1 else none, fl ||| q.2)

/-- The core whose vector unit computes a block of a refresh: one of the partition's (R167). -/
def refreshCore (s : State) (n layer block : Nat) : Nat :=
  let cs := (List.range 256).filter (fun c => holdsCluster s n (c / 8))
  (cs[Config.refreshCore n layer block % cs.length]?).getD 0

/-- A refresh takes the result of its next block: none leaves the preconditioner in force, with event 0x1205 (R168). -/
def landBlock (s : State) (n layer : Nat) (l : BitVec 1024) (r : Refresh) (q : Option (List Word32)) : State :=
  (if q.isNone then layerEvent s n 0x1205 layer else s).modPart n (fun p => { p with refreshes := p.refreshes.map (fun x =>
    if x.layer = layer ∧ x.step = r.step then
      { x with nextBlock := x.nextBlock + 1, qs := x.qs ++ [q.getD []], done := decide (pcBlocks l ≤ x.nextBlock + 1) }
    else x) })

/-- PC_REFRESH_SLICE (R168): the next block of the layer's refresh, on a vector unit of the partition. A refused access, or poison in
the snapshot, leaves the block without a result; poison is reported as consumed by the update, whose attempt goes on (DEDUCED, log 22). -/
def execPcRefreshSlice (n layer : Nat) (s : State) : Host.Outcome State Fault Refusal :=
  let l := ludAt s n layer
  let b := ludPcb l
  .next (match (s.part n).refreshes.find? (fun r => r.layer == layer && !r.done) with
    | none => s
    | some r =>
      let run : Run := (pcSnap l + r.nextBlock * b * b * 4, b * b * 4)
      match updAccess s n [run] with
      | some (code, da) => landBlock (raise (countRefused s n) code (some n) none (data2 da 0 (regionOf da))) n layer l r none
      | none =>
        if accessWaits s run.1 run.2 then s
        else
          let s := discoverRuns s none true [run]
          if (strongest (devRead s run.1 run.2)).isSome then
            let da := firstPoison (fun a => ((devRead s a 1)[0]?).getD (0, none)) [run]
            landBlock ((raise s 0x2305 (some n) none (data2 da 0 (regionOf da))).modPart n
              (fun p => { p with poisonc := satInc p.poisonc })) n layer l r none
          else
            let q := refreshQ b (fld l 711 708 + 4) (l.getLsbD 48) (ludF32 l 223) (readMatrix s run.1 b)
            landBlock (s.modCore (refreshCore s n layer r.nextBlock) (fun c => { c with vecNf := setFlags c.vecNf q.2 none })) n layer l r q.1)

/-! ### The gate (R172, R173) -/

/-- GNORM (R172): the FP32 value nearest to √(T × 2⁻⁹⁶). -/
def gnormOf (t : BitVec 256) : Word32 := (enc32 (.num false (sqrtQ ((Q.ofInt (t.toNat : Int)).scale (-96))))).1

/-- The clip factor (R172). -/
def clipOf (gclip gnorm : Word32) : Word32 :=
  if FV.lt (.num false Q.zero) (dec32 gclip) && FV.lt (dec32 gclip) (dec32 gnorm) then (fp32Div gclip gnorm).1 else 0x3F800000#32

/-- The check of the enabled descriptors and the step scalar record before the engines start (R151). -/
def checkLayers (s : State) (n : Nat) : State :=
  let job := (s.part n).active
  let rs := (job.ssrBase.toNat, 64) :: (if job.nlayers = 0 then [] else [(job.ltBase.toNat, 128 * job.nlayers.toNat)])
  let stop := fun (t : State) (r : Nat) => causeAbandon t n r
  match updAccess s n rs with
  | some (code, da) => stop (raise (countRefused s n) code (some n) none (data2 da 0 (regionOf da))) 3
  | none =>
    let s := discoverRuns s none true rs
    match rs.find? (fun r => (strongest (devRead s r.1 r.2)).isSome) with
    | some r => stop ((raise s 0x2305 (some n) none (data2 r.1 0 (regionOf r.1))).modPart n
        (fun p => { p with poisonc := satInc p.poisonc })) 2
    | none =>
      match (enabledLayers s n).find? (fun l => !ludValid s n l (ludAt s n l)) with
      | some l => stop (layerEvent s n 0x1208 l) 3
      | none => if fld (ssrOf s n) 63 0 ≠ (curStep s n).toNat then stop (layerEvent s n 0x1208 0) 3 else s

/-- NORM_GATE (R172, R173): the member evaluates the norm total of its open attempt. -/
def execNormGate (n : Nat) (s : State) : Host.Outcome State Fault Refusal :=
  let a := s.att n
  let c := s.cmt n
  .next (if !a.isOpen || !a.normIn || a.gate.isSome then s
    else
      let g := gnormOf c.totT
      let closed := c.nonfin || c.ovr
      let s := s.modCmt n (fun d => { d with
        gnorm := g, gnV := true, clipf := clipOf (s.part n).active.gclip g, att := { d.att with gate := some (!closed) } })
      let s := (List.range 32).foldl (fun t k => if holdsCluster t n k then t.modCluster k (fun q => { q with armedCnt := 0 }) else t) s
      if closed then causeAbandon (raise s 0x1201 (some n) none (data1 0 0 0 0 (curStep s n))) n 1
      else checkLayers s n)

end Sys2Proof.Machine
end

