-- ==== Sys2Proof/Machine/Commit.lean ====
section
/-! DEFINITION. Commit groups (R146), the commit of a step (R175 to R179), abandonment (R180, R181), the return to work
(R420) and the start of the Starter mirror (R343, R345). -/

namespace Sys2Proof.Machine

open Sys2Proof

/-! ### Members heard (log 17) -/

/-- Put a member into a list. -/
def addMember (l : List Member) (m : Member) : List Member := if l.contains m then l else l ++ [m]

/-- A message of another member has been heard. -/
def hear (s : State) (n : Nat) (m : Member) : State :=
  if m.dev = s.devId then s else s.modCmt n (fun c => { c with peers := addMember c.peers m })

/-! ### The Starter mirror at a commit (R343, R345) -/

/-- The device runs that a mirror carries: the layer table, and the active sets of the enabled layers. -/
def mirrorRuns (s : State) (n : Nat) : List Run :=
  let job := (s.part n).active
  ((job.ltBase.toNat, 128 * job.nlayers.toNat) ::
    (enabledLayers s n).flatMap (fun l => setRuns (ludAt s n l) ((s.cmt n).sel.getLsbD l))).filter (fun r => r.2 != 0)

/-- The commit selector table: bit 2n is SEL of layer n and bit 2n + 1 its ARMED bit (R188). -/
def selTable (c : Commit) : List Byte :=
  (List.range 1024).map (fun i => BitVec.ofNat 8 ((List.range 4).foldl (fun a j =>
    a + (b2n (c.sel.getLsbD (4 * i + j)) + 2 * b2n (c.armed.getLsbD (4 * i + j))) * 4 ^ j) 0))

/-- The 4 KiB header of the commit record: STEP_COMMITTED, CGID, and the selector table at 0x400 (DESIGN CHOICE, log 24). -/
def mirrorHeader (s : State) (n : Nat) : List Byte :=
  natToBytes 8 (s.cmt n).stepC.toNat ++ natToBytes 1016 (cgidOf s n).toNat ++ selTable (s.cmt n) ++ List.replicate 2048 0

/-- Where the runs of a mirror lie in a slot: the header first, the layer table behind it, and each set's run at the next 4 KiB
(DESIGN CHOICE, log 24). -/
def mirrorPlaces (base : Nat) : List Run → List Nat
  | [] => []
  | r :: rs => base :: mirrorPlaces (alignUp (base + r.2) 4096) rs

/-- Send the mirror of partition n to the slot of the buddy that does not hold the latest copy (R343, R344): the header, then the runs, as
STARTER flits of one message. A refused read ends it, and one that must wait leaves it unsent: it is abandoned at the next commit (R345). -/
def sendMirror (s : State) (n : Nat) : State :=
  let st := s.fab.starter
  let b := st.buddy.toNat
  let base := if st.toB then (Config.starterSlots b).2 else (Config.starterSlots b).1
  let rs := mirrorRuns s n
  match rs.findSome? (fun r => (accessRefusal s (.part n) r.1 r.2).map (fun c => (c, r.1))) with
  | some (code, da) => countRefused (raise s code (some n) none (data2 da 0 (regionOf da))) n
  | none =>
    if rs.any (fun r => accessWaits s r.1 r.2) then s
    else
      let s := rs.foldl (fun t r => demand t none r.1 r.2) s
      let parts := (base, clean (mirrorHeader s n)) :: (mirrorPlaces (base + 4096) rs).zip (rs.map (fun r => devRead s r.1 r.2))
      let s := (parts.mapIdx (fun i p => (i + 1 == parts.length, p))).foldl (fun t p =>
        let bs := packMsg p.2.2
        t.emit (.starter b { src := s.devId, step := (s.cmt n).stepC, da := p.2.1, data := bs.1, last := p.1, poison := bs.2 })) s
      launch (s.modFab (fun f => { f with nextMsg := f.nextMsg + 1 }))
        { type := 5, vc := 2, dst := b, msgid := s.fab.nextMsg.toNat } parts

/-- The mirror's part in a commit instant. -/
def mirrorAtCommit (s : State) (n : Nat) : State :=
  let s := match s.fab.starter.next with
    | some w => s.modFab (fun b => { b with starter := { b.starter with
        buddy := BitVec.ofNat 12 (fld w 11 0), en := w.getLsbD 12, every := BitVec.ofNat 8 (fld w 23 16),
        bw := BitVec.ofNat 16 (fld w 39 24), next := none } })
    | none => s
  let st := s.fab.starter
  let s := if (tget st.busy n).isSome then
      (raiseDev s 0x3501 (data3 0 st.buddy.toNat (s.cmt n).stepC.toNat)).modFab (fun b => { b with
        starter := { b.starter with busy := tdel b.starter.busy n, abandoned := satInc b.starter.abandoned } })
    else s
  if !st.en || st.every == 0 || (s.cmt n).stepC.toNat % st.every.toNat != 0 then s
  else if hasRoute s st.buddy.toNat then
    sendMirror (s.modFab (fun b => { b with
      starter := { b.starter with busy := tput b.starter.busy n (s.cmt n).stepC, suspended := false } })) n
  else
    let s := if st.suspended then s else raiseDev s 0x3503 (data3 0 st.buddy.toNat 0)
    s.modFab (fun b => { b with starter := { b.starter with suspended := true } })

/-! ### Commit (R175 to R178) -/

/-- Every enabled layer is armed or refused (R175). -/
def allArmed (s : State) (n : Nat) : Bool :=
  (enabledLayers s n).all (fun l => (s.cmt n).armed.getLsbD l || (s.att n).refused.contains l)

/-- MEMBER_READY (R175). -/
def execMemberReady (n : Nat) (s : State) : Host.Outcome State Fault Refusal :=
  let a := s.att n
  .next (if isMember s n && a.isOpen && a.gate == some true && !a.readySent && !a.abortSent && !a.resetHit && allArmed s n &&
      (s.part n).sn.pending == 0 && !(s.part n).inReset then
      (s.emit (.ready (s.self n) (curStep s n) (s.cmt n).attempt)).modAtt n (fun a => { a with readySent := true })
    else s)

/-- Whether a message is for the attempt that a partition works on. -/
def current (s : State) (n : Nat) (step : Word64) (attempt : Word16) : Bool := step == curStep s n && attempt == (s.cmt n).attempt

/-- The earliest commit instant: T_c of R176 for a last READY at `t`. -/
def commitInstant (s : State) (n t : Nat) : Nat := markAt s.time (t + max (s.part n).active.cmtLead.toNat 20000)

/-- READY_RECEIVE (R176): the leader commits once every member is ready. -/
def execReadyReceive (n : Nat) (m : Member) (step : Word64) (attempt : Word16) (s : State) : Host.Outcome State Fault Refusal :=
  .next (
    let s := hear s n m
    if !isLeader s n || !current s n step attempt || (s.att n).decided then s
    else
      let s := s.modAtt n (fun a => { a with ready := addMember a.ready m })
      if (membersFor s n).all (fun x => (s.att n).ready.contains x) then
        (s.emit (.commit (cgidOf s n) step attempt (BitVec.ofNat 64 (commitInstant s n s.now)))).modAtt n (fun a => { a with decided := true })
      else s)

/-- ABORT_RECEIVE (R178): before its decision the leader abandons the attempt; afterwards ABORT is ignored. -/
def execAbortReceive (n : Nat) (m : Member) (step : Word64) (attempt : Word16) (reason : Nat) (s : State) :
    Host.Outcome State Fault Refusal :=
  .next (
    let s := hear s n m
    if !isLeader s n || !current s n step attempt || (s.att n).decided then s
    else (s.emit (.abandon (cgidOf s n) step attempt reason)).modAtt n (fun a => { a with decided := true }))

/-- What SNET_SET asked for takes effect when the next step opens (R383). -/
def sampleNext (s : State) (n : Nat) : State :=
  s.modPart n (fun p => { p with
    sn := match p.sn.next with | some (e, l) => { p.sn with en := e, log2frac := l, next := none } | none => p.sn })

/-- No layer is armed in a new attempt (R189). -/
def clearArmed (s : State) (n : Nat) : State :=
  (List.range 32).foldl (fun t k => if clusterPart t k == n then
    t.modCluster k (fun q => { q with busy := none, waitpc := false, armedCnt := 0 }) else t) s

/-- The flip at a commit instant (R176): SEL changes where ARMED is set, the step is counted, the next step opens, and
every context receives COMMITTED. -/
def flip (s : State) (n tc : Nat) : State :=
  let c := s.cmt n
  let step := curStep s n
  let s := s.modCmt n (fun c => { c with
    sel := c.sel ^^^ c.armed, armed := 0, stepC := c.stepC + 1, lastAtt := c.attempt, attempt := 0, tLast := BitVec.ofNat 64 tc,
    accT := 0, accNf := false, accOv := false, partials := [], gnV := false, clipf := 0x3F800000, contrib := 0, contribB := [],
    held := c.held.filter (fun h => decide (step.toNat ≤ h.step.toNat)), att := { isOpen := true, openAt := tc } })
  let s := { s with abandons := s.abandons.filter (fun a => a.part != n) }
  let s := s.modPart n (fun p => { p with
    refreshes := p.refreshes.filter (fun r => !(r.done && decide (r.step.toNat + fld (ludAt s n r.layer) 707 704 ≤ step.toNat))),
    tel := { p.tel with due := some (step, c.attempt, false) } })
  let s := sampleNext s n
  let s := s.modFab (fun b => { b with
    colls := b.colls.filter (fun x => !(x.done && ctxPart s x.v.ctx == n && decide (x.step.toNat < step.toNat))) })
  let s := clearArmed s n
  let s := { s with ctxs := tmap s.ctxs (fun _ x => if x.part == n && x.rcv then
    { x with vcs := tmap x.vcs (fun _ v => { v with saveDue := true }) } else x) }
  mirrorAtCommit (sendCtl s n 1 step) n

/-- COMMIT_RECEIVE (R178): the member flips at T_c, or at once with event 0x3204 when T_c has passed. -/
def execCommitReceive (n : Nat) (step : Word64) (attempt : Word16) (tc : Word64) (s : State) : Host.Outcome State Fault Refusal :=
  .next (if !isMember s n || !(s.att n).isOpen || !current s n step attempt || (s.att n).commit.isSome then s
    else if tc.toNat < s.now then flip (raise s 0x3204 (some n) none (data3 0 0 step.toNat)) n tc.toNat
    else s.modAtt n (fun a => { a with commit := some tc.toNat }))

/-- COMMIT_FLIP (R176): Pod Time has reached T_c. -/
def execCommitFlip (n : Nat) (s : State) : Host.Outcome State Fault Refusal :=
  .next (match (s.att n).commit with
    | some tc => if tc ≤ s.now then flip s n tc else s
    | none => s)

/-- COMMIT_TIMEOUT (R178): the leader abandons an attempt whose READY messages are not all there in time. -/
def execCommitTimeout (n : Nat) (s : State) : Host.Outcome State Fault Refusal :=
  .next (
    let a := s.att n
    let job := (s.part n).active
    let lim := a.openAt + job.gradDl.toNat + fld job.cmtCtl 47 32 * s.time.beatPeriod.toNat
    if !isMember s n || !a.isOpen || !isLeader s n || a.decided || s.now < lim then s
    else
      let step := curStep s n
      let silent := (membersFor s n).filter (fun m => !a.ready.contains m)
      let s := silent.foldl (fun t m => raise t 0x3203 (some n) none (data3 0 m.dev step.toNat)) s
      (s.emit (.abandon (cgidOf s n) step (s.cmt n).attempt 6)).modAtt n (fun a => { a with decided := true }))

/-! ### Abandonment (R180, R181) and the next attempt (R420) -/

/-- Abandonments of one step after which HALT applies (R181; log 25). -/
def haltLimit (job : JobCfg) (nan : Bool) : Nat := if nan then fld job.cmtCtl 22 19 else 15

/-- What contexts receive after an abandonment (R181): 2 HALTED, 3 ABANDONED_RETRY, 4 ABANDONED_SKIP. -/
def outcomeToken (job : JobCfg) (reason consec : Nat) : Nat :=
  let nan := reason == 1 || reason == 2
  match (if nan then fld job.cmtCtl 18 17 else 1) with
  | 1 => if haltLimit job nan < consec then 2 else 3
  | 2 => 4
  | _ => 2

/-- A member sends RESUME (R420). -/
def sendResume (s : State) (n : Nat) : State :=
  (s.emit (.resume (s.self n) (curStep s n) (s.cmt n).attempt)).modAtt n (fun a => { a with resumeDue := false })

/-- The checks of a partition's attempt conclude with it (R406), and the operations they held complete. -/
def dropChecks (s : State) (n : Nat) : State :=
  let cs := s.rel.checks.filter (fun c => c.part == n)
  let s := s.modRel (fun r => { r with
    checks := r.checks.filter (fun c => c.part != n), checksN := satInc r.checksN cs.length })
  let s := s.modPart n (fun p => { p with sn := { p.sn with pending := 0, checks := satInc p.sn.checks cs.length } })
  cs.foldl (fun t c => match c.vref, c.op with
    | some v, some o => releaseOp t v o none
    | _, _ => t) s

/-- Whether contexts of a partition wait for their recovery (R419). -/
def recovering (s : State) (n : Nat) : Bool := s.rel.recover.any (fun k => ctxPart s k == n)

/-- The collectives of an attempt that is abandoned keep the deadline that it gave them; what has landed early for it goes (R340). -/
def leaveColls (s : State) (n : Nat) : State :=
  let step := curStep s n
  let att := (s.cmt n).attempt
  s.modFab (fun b => { b with
    colls := b.colls.map (fun c => if ctxPart s c.v.ctx = n ∧ openNow s n c then { c with due := deadlineOf s n c } else c),
    early := b.early.filter (fun e => !(ctxPart s e.1.ctx == n && e.2.1.step == step && e.2.1.attempt == att)),
    earlySums := b.earlySums.filter (fun e => !(ctxPart s e.1.ctx == n && e.2.step == step && e.2.attempt == att)) })

/-- Abandon the open attempt of a member (R180). A contribution that was late in it goes with it (R183). -/
def abandonAttempt (s : State) (n reason : Nat) : State :=
  let c := s.cmt n
  let step := curStep s n
  let consec := c.att.consec + 1
  let tok := outcomeToken (s.part n).active reason consec
  let s := (leaveColls s n).modCmt n (fun c => { c with
    held := c.held.filter (fun h => h.step != step),
    armed := 0, attempt := c.attempt + 1, abandons := satInc c.abandons, why := BitVec.ofNat 4 reason, halted := tok == 2,
    accT := 0, accNf := false, accOv := false, partials := [], gnV := false, clipf := 0x3F800000, contrib := 0, contribB := [],
    att := { consec := if tok = 2 then 0 else consec, resume := c.att.resume, resumeDue := true, folded := c.att.folded,
             dropped := c.att.dropped } })
  let s := { s with abandons := s.abandons.filter (fun a => a.part != n) }
  let s := s.modPart n (fun p => { p with tel := { p.tel with due := some (step, c.attempt, true) } })
  let s := clearArmed s n
  let s := sendCtl (dropChecks s n) n tok step
  if tok == 2 || (s.part n).inReset || recovering s n then s else sendResume s n

/-- ATTEMPT_ABANDON (R180): a cause of this member's own or ABANDON from the leader ends the open attempt, unless it has
a COMMIT (R178). -/
def execAttemptAbandon (n reason : Nat) (s : State) : Host.Outcome State Fault Refusal :=
  .next (if !isMember s n || !(s.att n).isOpen || (s.att n).commit.isSome then s
    else abandonAttempt s n (match s.abandons.find? (fun a => a.part == n) with | some a => a.reason | none => reason))

/-- RESUME_RECEIVE (R420): after the last RESUME the leader opens the next attempt at the first beat mark at least 1 ms
later. -/
def execResumeReceive (n : Nat) (m : Member) (step : Word64) (attempt : Word16) (s : State) : Host.Outcome State Fault Refusal :=
  .next (
    let s := hear s n m
    let c := s.cmt n
    if !isLeader s n || step != curStep s n || !(attempt == c.attempt || attempt == c.attempt + 1) then s
    else
      let s := s.modAtt n (fun a => { a with resume := addMember a.resume m })
      if attempt == c.attempt && !c.att.isOpen && (membersFor s n).all (fun x => (s.att n).resume.contains x) then
        (s.emit (.open_ (cgidOf s n) step attempt (BitVec.ofNat 64 (markAt s.time (s.now + 1000000))))).modAtt n
          (fun a => { a with resume := [] })
      else s)

/-- OPEN_RECEIVE (R420). -/
def execOpenReceive (n : Nat) (step : Word64) (attempt : Word16) (topen : Word64) (s : State) : Host.Outcome State Fault Refusal :=
  .next (if isMember s n && current s n step attempt && !(s.att n).isOpen then
      s.modAtt n (fun a => { a with openMsg := some topen.toNat }) else s)

/-- ATTEMPT_OPEN (R420): the attempt opens at T_o, from which its deadlines count; what contexts have already given it stays. -/
def execAttemptOpen (n : Nat) (s : State) : Host.Outcome State Fault Refusal :=
  .next (match (s.att n).openMsg with
    | some t => if t ≤ s.now && !(s.cmt n).halted then
        s.modAtt n (fun a => { a with isOpen := true, openAt := t, openMsg := none })
      else s
    | none => s)

/-- The first attempt of a new member opens at a beat mark (log 25). -/
def openFirst (s : State) (mark : Nat) : State :=
  (List.range 33).foldl (fun t n =>
    if isMember t n && !(t.att n).isOpen && (t.cmt n).attempt == 0 && !(t.cmt n).halted then
      (sampleNext t n).modAtt n (fun a => { a with isOpen := true, openAt := mark })
    else t) s

end Sys2Proof.Machine
end

