-- ==== Sys2Proof/Machine/Transport.lean ====
section
/-! DEFINITION. The transport: flits delivered to this module put together into messages (R310, R334), the Starter store that they fill
(R344), and the commands SEND, SEND_ARRIVAL and FLIT_RECEIVE over them. -/

namespace Sys2Proof.Machine

open Sys2Proof

/-! ### The Starter store (R344) -/

/-- Whether a range of bytes lies within listed regions. -/
def inSlot (sl : Nat × Nat) (da n : Nat) : Bool :=
  decide (sl.1 * 2 ^ 25 ≤ da) && decide (da + n ≤ (sl.1 + sl.2) * 2 ^ 25)

/-- Mirror data of a source land in the slot that holds their address; with the last the slot becomes the current Starter in one update and
is confirmed. `step` is the mirrored step; none: it stands at the start of the slot, in the header (log 24). -/
def starterLand (s : State) (src da : Nat) (bs : List PByte) (last : Bool) (step : Option Word64) : State :=
  let bad := fun (t : State) => raiseDev t 0x3502 (data3 0 src (step.getD 0).toNat)
  match tget s.fab.starter.rx src with
  | none => bad s
  | some x =>
    let inA := inSlot x.a da bs.length
    if !inA && !inSlot x.b da bs.length || (accessRefusal s .starter da bs.length).isSome then bad s
    else if accessWaits s da bs.length then s
    else
      let s := devWrite s da bs
      let st := step.getD (BitVec.ofNat 64 (devNat s ((if inA then x.a.1 else x.b.1) * 2 ^ 25) 8))
      let done := if last then some st else none
      let x' := if inA then { x with aStep := done } else { x with bStep := done }
      let cur := if last then some (!inA) else if x.current == some (!inA) then none else x.current
      let s := s.modFab (fun b => { b with starter := { b.starter with rx := tput b.starter.rx src { x' with current := cur } } })
      if last then s.emit (.starterConfirm src st) else s

/-- STARTER_RECEIVE (R344). -/
def execStarterReceive (f : StarterFlit) (s : State) : Host.Outcome State Fault Refusal :=
  .next (starterLand s f.src f.da (withPoison (f.data, f.poison)) f.last (some f.step))

/-! ### Flits delivered (R310, R312) -/

/-- A SEND flit joins its message; the last one completes it, and keeps its receive buffer slot until the message has landed. -/
def joinSend (s : State) (came : Option Nat) (f : BitVec 2048) : State :=
  let h := flitHdr f
  let same := fun (m : SendMsg) => m.src == hdrSrc h && m.vch == hdrVc h && m.msgid == hdrMsg h
  let d := flitData f
  let old := if hdrFirst h then none else s.fab.asm.find? same
  let m : SendMsg := old.getD { src := hdrSrc h, vch := hdrVc h, ctx := hdrCtx h, vc := hdrVcore h, job := hdrJob h, addr := hdrAddr h, tag := hdrTag h,
                                msgid := hdrMsg h, data := [], poison := [] }
  let m := { m with data := m.data ++ d.map Prod.fst,
                    poison := m.poison ++ (msgPoison d).map (fun p => (p.1 + m.data.length / 32, p.2)) }
  let s := s.modFab (fun b => { b with asm := b.asm.filter (fun y => !same y) })
  if hdrLast h then s.modFab (fun b => { b with inbox := b.inbox ++ [(m, came.map (fun l => (l, hdrVc h)))] })
  else freeBuffer (s.modFab (fun b => { b with asm := b.asm ++ [m] })) came (hdrVc h)

/-- Take one delivered flit by its type. A STARTER flit for a region that is being cleared waits (R271). -/
def takeFlit (s : State) (e : Option Nat × BitVec 2048) : State :=
  let f := e.2
  let h := flitHdr f
  match hdrType h with
  | 1 => joinSend s e.1 f
  | 2 => freeBuffer (takeSendAck s (hdrMsg h) (hdrTag h == 0x3305)) e.1 (hdrVc h)
  | 5 =>
    if accessWaits s (hdrAddr h) (flitData f).length then s.modFab (fun b => { b with arrived := b.arrived ++ [e] })
    else freeBuffer (starterLand s (hdrSrc h) (hdrAddr h) (flitData f) (hdrLast h) none) e.1 (hdrVc h)
  | 4 =>
    let s := if Config.isHeartbeat f then s.modFab (fun b => { b with missed := tdel b.missed (hdrSrc h) }) else s
    freeBuffer (s.modFab (fun b => { b with delivered := b.delivered ++ [f] })) e.1 (hdrVc h)
  | _ => freeBuffer (s.modFab (fun b => { b with delivered := b.delivered ++ [f] })) e.1 (hdrVc h)

def takeArrived (s : State) : State := s.fab.arrived.foldl takeFlit (s.modFab (fun b => { b with arrived := [] }))

/-- Take what has been delivered, land the messages that it completes, and take the answers to those of this module. -/
def settle (s : State) : State := takeArrived (landInbox (takeArrived s))

/-- SEND (R334): a message for this device is delivered at once. -/
def execSend (v : VRef) (s : State) : Host.Outcome State Fault Refusal := .next (settle (perform s v 0x13 runSend))

/-- SEND_ARRIVAL (R334, R335, R411): a message has come, or one that waited lands now. -/
def execSendArrival (m : SendMsg) (s : State) : Host.Outcome State Fault Refusal :=
  .next (settle (if s.fab.inbox.any (fun e => e.1 == m) then s else s.modFab (fun b => { b with inbox := b.inbox ++ [(m, none)] })))

/-- FLIT_RECEIVE (R311): a bad or unexpected flit is discarded and asked for again, a bad one counted against the lane that its
parity code names (log 6); a good one is routed, and what it brings to this module is taken. -/
def execFlitReceive (n : Nat) (came : FlitIn) (s : State) : Host.Outcome State Fault Refusal :=
  .next (if !isUp s n then s
    else
      let f := came.bits
      let h := flitHdr f
      if flitCrc f ≠ flitCrcField f then
        let s := laneError (s.modLink n (fun l => { l with crcErr := satInc l.crcErr, nak := true })) n came.lane
        if isUp s n then sendIdle s n else s
      else if hdrType h = 0 then takeAck s n h
      else if hdrSeq h ≠ (s.link n).rxSeq.toNat then sendIdle (s.modLink n (fun l => { l with nak := true })) n
      else
        let s := takeAck s n h
        let s := s.modLink n (fun l => { l with rxSeq := l.rxSeq + 1, unacked := l.unacked + 1 })
        let s := settle (routeFlit s (some n) f)
        if 32 ≤ (s.link n).unacked then sendIdle s n else s)

end Sys2Proof.Machine
end

