-- ==== Sys2Proof/Machine/Pod.lean ====
section
/-! DEFINITION. Pods: discovery (R322, R323), routes (R314, R318, R326), the time master's election (R328), the loss of a
member (R179, R325, R342, R426, R427), the Starter store (R344) and the return of a shard from it (R427). -/

namespace Sys2Proof.Machine

open Sys2Proof

/-! ### Link lists (R322, R323) -/

/-- Peers that two different ends claim by one and the same link: two modules report that device id (DEDUCED, log 28). -/
def clashes (t : Tab (List LinkEnd)) : List Nat :=
  let ends := t.flatMap (fun p => p.2.map (fun e => (p.1, e.link, e.peer, e.peerLink)))
  (ends.filter (fun a => ends.any (fun b => a.2.2 == b.2.2 && (a.1 != b.1 || a.2.1 != b.2.1)))).map (fun a => a.2.2.1)

/-- The lowest device id of the pod that this module has heard, its own among them (R320, R322). -/
def lowestHeard (s : State) : Nat :=
  (s.fab.topo.map Prod.fst).foldl (fun a d => if s.fab.excluded.contains d then a else min a d) s.devId

/-! ### Routes (R314, R318): up*/down* order on a breadth-first tree from the leader (log 28) -/

/-- Edges of a topology: from, link, to. -/
def edgesOf (t : Tab (List LinkEnd)) : List (Nat × Nat × Nat) := t.flatMap (fun p => p.2.map (fun e => (p.1, e.link, e.peer)))

/-- One round of relaxation of distances along edges that `ok` allows. -/
def relax (es : List (Nat × Nat × Nat)) (ok : Nat → Nat → Bool) (d : Tab Nat) : Tab Nat :=
  es.foldl (fun t e => if ok e.1 e.2.2 then (match tget t e.2.2 with
    | some k => if (match tget t e.1 with | some j => decide (k + 1 < j) | none => true) then tput t e.1 (k + 1) else t
    | none => t) else t) d

/-- Distances to `dst`, by as many rounds as there are modules. -/
def distances (es : List (Nat × Nat × Nat)) (ok : Nat → Nat → Bool) (start : Tab Nat) (rounds : Nat) : Tab Nat :=
  (List.range rounds).foldl (fun t _ => relax es ok t) start

/-- A routing entry over at most four links. -/
def routeEntry (ls : List Nat) : Word32 :=
  match ls.take 4 with
  | [] => 0
  | ps => BitVec.ofNat 32 ((ps.mapIdx (fun i l => l % 64 * 2 ^ (6 * i))).foldl (· + ·) 0 + (ps.length - 1) * 2 ^ 24 + 2 ^ 27)

/-- The entry of module `src` for destination `dst`: downward where a path leads down, else upward. No path leads through a module of
`bar` (R324). -/
def routeOf (t : Tab (List LinkEnd)) (bar : List Nat) (root src dst : Nat) : Word32 :=
  if src = dst then BitVec.ofNat 32 (2 ^ 26 + 2 ^ 27)
  else
    let es := (edgesOf t).filter (fun e => e.1 == src || !bar.contains e.1)
    let n := t.length + 1
    let lvl := distances (edgesOf t) (fun _ _ => true) [(root, 0)] n
    let above := fun (a b : Nat) => decide ((tgetD lvl a 4096) < (tgetD lvl b 4096)) || (tgetD lvl a 4096 == tgetD lvl b 4096 && decide (a < b))
    let down := distances es (fun a b => above a b) [(dst, 0)] n
    let full := distances es (fun a b => above b a) down n
    let mine := es.filter (fun e => e.1 == src)
    let pick := fun (d : Tab Nat) (ok : Nat → Bool) =>
      (mine.filter (fun e => ok e.2.2 && (match tget d e.2.2, tget d src with
        | some a, some b => a + 1 == b
        | _, _ => false))).map (fun e => e.2.1)
    if (tget down src).isSome then routeEntry (pick down (fun b => above src b)) else routeEntry (pick full (fun b => above b src))

/-- The links of a module to its parent on the breadth-first tree from `root`: the lowest device id, then the lowest link (log 28). -/
def parentEnd (t : Tab (List LinkEnd)) (root d : Nat) : Option LinkEnd :=
  let lvl := distances (edgesOf t) (fun _ _ => true) [(root, 0)] (t.length + 1)
  let up := (tgetD t d []).filter (fun e => d != root && (match tget lvl e.peer, tget lvl d with
    | some a, some b => a + 1 == b
    | _, _ => false))
  up.foldl (fun a e => match a with
    | none => some e
    | some b => if e.peer < b.peer ∨ (e.peer = b.peer ∧ e.link < b.link) then some e else some b) none

/-- The links of module `src` to its children on that tree. -/
def childLinks (t : Tab (List LinkEnd)) (root src : Nat) : List Nat :=
  (t.filterMap (fun p => (parentEnd t root p.1).bind (fun e => if e.peer = src then some e.peerLink else none))).eraseDups

/-- The routing table that the leader computes for a module. -/
def routesFor (s : State) (src : Nat) : List (Nat × Word32) :=
  (s.fab.topo.map Prod.fst).map (fun d => (d, routeOf s.fab.topo s.fab.joining s.fab.leader.toNat src d))

/-- The leader's broadcast group, a loop-free tree (R317, R318): this module, and the links to its children (group 1; log 28). -/
def mcastFor (s : State) (src : Nat) : List (Nat × BitVec 128) :=
  [(1, BitVec.ofNat 128 (((childLinks s.fab.topo s.fab.leader.toNat src).map (fun l => 2 ^ l)).sum + 2 ^ 64 + 2 ^ 65))]

/-- The upstream link of a module on the time tree, a breadth-first tree from the time master (R322, R330). -/
def upstreamFor (s : State) (d : Nat) : Option Nat := (parentEnd s.fab.topo s.fab.tm.toNat d).map LinkEnd.link

/-- The leader sends every member its tables, the time tree and the time master; routes to the modules of `gone` are removed (R322,
R325). -/
def sendRoutes (s : State) (gone : List Nat) : State :=
  if s.fab.leader.toNat = s.devId then
    (s.fab.topo.map Prod.fst).foldl (fun t d =>
      t.emit (.routes d (routesFor s d ++ gone.map (fun g => (g, 0))) (mcastFor s d) (upstreamFor s d) s.fab.tm.toNat)) s
  else s

/-! ### Link lists as they come (R320, R322, R324) -/

/-- LINK_LIST_RECEIVE (R322): the list of a module of this pod is kept and flooded on, the leader is the lowest id heard, and an id that
two modules report is excluded. In an UP pod the leader answers with routes: none goes through a module that joins before the next POD_UP
(R324). -/
def execLinkListReceive (dev : Nat) (list : LinkList) (s : State) : Host.Outcome State Fault Refusal :=
  let serial := list.serial
  let ls := list.ends
  .next (
    if s.fab.excluded.contains dev || dev / 64 != s.fab.pod.toNat then s
    else if dev = s.devId then (if ls = ownLinks s then s else hearSerial s dev serial)
    else
      let s := hearSerial s dev serial
      let s := (ls.filter (fun e => e.peer != s.devId)).foldl (fun t e => hearSerial t e.peer e.peerSerial) s
      if s.fab.excluded.contains dev then s
      else
      let fresh := decide (tget s.fab.topo dev ≠ some ls)
      let s := s.modFab (fun b => { b with topo := tput b.topo dev ls })
      let s := if fresh then s.emit (.linkList dev serial ls) else s
      let s := (clashes s.fab.topo).foldl excludeDev s
      if !s.fab.podup then s.modFab (fun b => { b with leader := BitVec.ofNat 12 (lowestHeard s) })
      else if !fresh then s
      else
        let s := if s.fab.memberList.contains dev || s.fab.joining.contains dev || s.fab.excluded.contains dev then s
          else s.modFab (fun b => { b with joining := b.joining ++ [dev] })
        sendRoutes s [])

/-! ### The time master (R328) -/

/-- Put the module into its part as elected: event 0x3101 on an election or a change, and a master of a domain that is not running
starts Pod Time at 0 unless PT_SYNC sets it. -/
def setMaster (s : State) (tm : Nat) : State :=
  let s := if s.fab.tmKnown && s.fab.tm.toNat == tm then s else raiseDev s 0x3101 (data3 0 tm 0)
  let s := s.modFab (fun b => { b with tm := BitVec.ofNat 12 tm, tmKnown := true })
  let me := tm == s.devId
  let s := s.modTime (fun t => { t with isTm := me })
  if me && !s.time.valid && s.time.tmSrc != 2 then
    s.modTime (fun t => { t with pt := 0, valid := true, lock := true, holdover := false, beatNum := 0, lastMark := 0 })
  else s

/-- TM_PRIO of a device as this module knows it: its own, or what a peer heard in training. -/
def prioOf (s : State) (d : Nat) : Nat :=
  if d = s.devId then s.time.tmPrio.toNat
  else (((s.fab.topo.flatMap Prod.snd).find? (fun e => e.peer == d)).map LinkEnd.peerPrio).getD 0

/-- The modules of the domain that may be master (R328), with TM_PRIO and REF_OK: the members of the pod, and modules of other pods at the
end of a trunk. PT_EN of a trunk is known at this module's own end (DEDUCED, log 28). -/
def candidates (s : State) : List (Nat × Nat × Bool) :=
  let far := s.fab.topo.flatMap (fun p => (p.2.filter (fun e => e.peer / 64 != s.fab.pod.toNat && (p.1 != s.devId || (s.link e.link).ptEn))).map
    LinkEnd.peer)
  let ds := ((s.fab.topo.map Prod.fst ++ far).eraseDups).filter (fun d => d != s.devId && !s.fab.excluded.contains d)
  (s.devId, s.time.tmPrio.toNat, s.time.refOk) :: ds.map (fun d => (d, prioOf s d, s.fab.refs.contains d))

/-- The best of some candidates: the highest TM_PRIO, then REF_OK, then the lowest device id. -/
def bestOf (cs : List (Nat × Nat × Bool)) : Option Nat :=
  let better := fun (a b : Nat × Nat × Bool) =>
    decide (b.2.1 < a.2.1) || (a.2.1 == b.2.1 && ((a.2.2 && !b.2.2) || (a.2.2 == b.2.2 && decide (a.1 < b.1))))
  (cs.foldl (fun (m : Option (Nat × Nat × Bool)) c => match m with
    | none => some c
    | some b => if better c b then some c else some b) none).map Prod.fst

/-- The leader elects the master, among members with REF_OK alone where the master holds over (R329), and sends the pod its tables. -/
def electMaster (s : State) (refOnly : Bool) (gone : List Nat) : State :=
  if s.fab.leader.toNat ≠ s.devId then s
  else match bestOf (if refOnly then (candidates s).filter (fun c => c.2.2) else candidates s) with
    | some tm => sendRoutes (setMaster s tm) gone
    | none => sendRoutes s gone

/-- LEADER_ELECT (R322): the choice of leader is final; the leader elects the time master and sends routes. -/
def execLeaderElect (s : State) : Host.Outcome State Fault Refusal :=
  .next (if s.fab.excluded.contains s.devId then s
    else
      let s := s.modFab (fun b => { b with leader := BitVec.ofNat 12 (lowestHeard s), topo := tput b.topo s.devId (ownLinks s) })
      electMaster s false [])

/-- Install routing entries and multicast groups; an entry 0 removes a route. -/
def installRoutes (s : State) (rs : List (Nat × Word32)) (ms : List (Nat × BitVec 128)) : State :=
  s.modFab (fun b => { b with
    route := rs.foldl (fun t r => if r.2 = 0 then tdel t r.1 else tput t r.1 r.2) b.route,
    mcast := ms.foldl (fun t m => tput t m.1 m.2) b.mcast })

/-- ROUTES_INSTALL (R322): tables, the upstream link of the time tree and the time master; the module acknowledges. -/
def execRoutesInstall (rs : List (Nat × Word32)) (ms : List (Nat × BitVec 128)) (p : TimePlace) (s : State) :
    Host.Outcome State Fault Refusal :=
  .next ((setMaster ((installRoutes s rs ms).modFab (fun b => { b with upstream := p.upstream })) p.tm).emit (.routesAck s.fab.leader.toNat))

/-- The trunks of the pod's members: member, link (R326). -/
def trunksOf (s : State) : List (Nat × Nat) :=
  s.fab.topo.flatMap (fun p => (p.2.filter (fun e => e.peer / 64 != s.fab.pod.toNat)).map (fun e => (p.1, e.link)))

/-- POD_UP (R322): the leader multicasts it, and every member sets PODUP with event 0x3401. Modules that joined are members now, and
routes may lead through them (R324); the leader sends the pod's summary over every trunk (R326). -/
def execPodUp (members : List Nat) (pt : Word64) (s : State) : Host.Outcome State Fault Refusal :=
  .next (
    let lead := s.fab.leader.toNat == s.devId
    let joined := !s.fab.joining.isEmpty
    let s := if lead then s.emit (.podUp members pt) else s
    let s := s.modFab (fun b => { b with
      podup := true, members := BitVec.ofNat 7 members.length, memberList := members, joining := [], missed := [] })
    let s := raiseDev s 0x3401 (data3 0 s.fab.leader.toNat members.length)
    let s := if joined then sendRoutes s [] else s
    if lead then (trunksOf s).foldl (fun t l => t.emit (.routeSummary l.1 l.2 members)) s else s)

/-- DISCOVERY_TIMEOUT (R322): the pod is not up within 8 s. -/
def execDiscoveryTimeout (s : State) : Host.Outcome State Fault Refusal :=
  .next (if s.fab.podup then s else raiseDev s 0x3403 (data3 0 s.fab.leader.toNat 0))

/-- ROUTE_SUMMARY_RECEIVE (R326): the leader hears what lies behind a trunk of the pod, and gives every member the routes. -/
def execRouteSummaryReceive (pod : Nat) (trunk : Trunk) (devices : List Nat) (s : State) : Host.Outcome State Fault Refusal :=
  .next (
    if s.fab.leader.toNat ≠ s.devId then s
    else
      let ds := devices.filter (fun d => d / 64 == pod && pod != s.fab.pod.toNat)
      let s := s.modFab (fun b => { b with summaries := tput b.summaries pod ds })
      let routes := fun (m : Nat) => ds.map (fun d =>
        (d, if m = trunk.via then routeEntry [trunk.link] else routeOf s.fab.topo s.fab.joining s.fab.leader.toNat m trunk.via))
      (s.fab.memberList.filter (· != s.devId)).foldl (fun t m => t.emit (.routes m (routes m) [] (upstreamFor s m) s.fab.tm.toNat))
        (installRoutes s (routes s.devId) []))

/-! ### Loss of a member (R325, R342, R179, R426) -/

/-- The collectives that a lost member takes part in (R342): without a deadline they end with 0x3302, with one at that deadline. -/
def loseColls (s : State) (dev : Nat) : State :=
  (s.fab.colls.filter (fun c => !c.done && (membersOf s c.group).any (fun m => m.1 == dev))).foldl (fun t c =>
    let n := ctxPart t c.v.ctx
    let ranks := (List.range (membersOf t c.group).length).filter (fun r => match (membersOf t c.group)[r]? with
      | some m => m.1 == dev
      | none => false)
    if (deadlineOf t n c).isSome then driveColl (modColl t c.v c.op (fun d => { d with lost := d.lost ++ ranks })) c.v c.op
    else endColl (raiseCtx t 0x3302 c.v.ctx (data3 0 dev c.step.toNat)) c (some 0x3302)) s

/-- The instant of a COMMIT for the open attempt that a surviving member of the group holds: one of this module, or one of another. -/
def heldCommit (s : State) (n : Nat) (held : List (Word16 × Word64)) : Option Nat :=
  ((List.range 33).findSome? (fun p => if isMember s p && cgidOf s p == cgidOf s n then (s.att p).commit else none)).or
    ((held.find? (fun h => h.1 == cgidOf s n)).map (fun h => h.2.toNat))

/-- A module with members of the commit group of partition n is lost (R179, R427): the leader that is left sends the COMMIT that a member
holds, or abandons the attempt. The reason is not given: 6 (DEDUCED, log 27). -/
def loseGroupMember (s : State) (n : Nat) (held : List (Word16 × Word64)) : State :=
    let a := s.att n
    if !isLeader s n then s
    else match heldCommit s n held with
      | some tc => (s.emit (.commit (cgidOf s n) (curStep s n) (s.cmt n).attempt (BitVec.ofNat 64 tc))).modAtt n (fun a => { a with decided := true })
      | none => if a.decided || !a.isOpen then s
        else (s.emit (.abandon (cgidOf s n) (curStep s n) (s.cmt n).attempt 6)).modAtt n (fun a => { a with decided := true })

/-- The step of the latest complete Starter that this module holds for a device. -/
def starterStep (s : State) (dev : Nat) : Option Word64 :=
  match tget s.fab.starter.rx dev with
  | some x => match x.current with
    | some false => x.aStep
    | some true => x.bStep
    | none => none
  | none => none

/-- Halt a commit group whose shard cannot be restored (R426). -/
def haltGroup (s : State) (n : Nat) : State :=
  sendCtl (s.modCmt n (fun c => { c with halted := true, why := 6 })) n 2 (curStep s n)

/-- What this module does toward the recovery of a lost device (R426, R427): as buddy it copies the Starter, as standby it
takes the alias, and as leader it names the device and halts the groups when it knows that no Starter is complete
(log 29). -/
def startRecovery (s : State) (dev : Nat) (groups : List Nat) : State :=
  let lead := s.fab.leader.toNat == s.devId
  if lead && !s.rel.ctl.getLsbD 33 then s
  else
    let s := if groups.isEmpty then s else s.modRel (fun r => { r with lostId := BitVec.ofNat 12 dev, phase := 1 })
    match tget s.fab.starter.rx dev with
    | some _ =>
      match starterStep s dev with
      | some st => (s.emit (.starterCopy dev st)).modRel (fun r => { r with phase := 2 })
      | none => if groups.isEmpty then s
        else (groups.foldl haltGroup (raiseDev s 0x4602 (data4 0 0 0 0))).modRel (fun r => { r with phase := 5 })
    | none =>
      if s.rel.ctl.getLsbD 32 then
        s.modRel (fun r => { r with alias_ := BitVec.ofNat 12 dev, aliasV := true, lostId := BitVec.ofNat 12 dev, phase := 2 })
          |>.modFab (fun b => { b with route := tput b.route dev (BitVec.ofNat 32 (2 ^ 26 + 2 ^ 27)) })
      else s

/-- Why a member counts as lost (R325): every link to it is DOWN, or its heartbeat has been missing for three beats. -/
def isLost (s : State) (dev : Nat) : Bool :=
  let ls := s.fab.links.filter (fun l => match l.2.peer with | some p => p.1 == dev | none => false)
  decide (3 ≤ tgetD s.fab.missed dev 0) || (!ls.isEmpty && ls.all (fun l => l.2.st == .down))

/-- Take a lost device out of the pod: a new leader and a new time master where it was one, and the leader's tables without it. -/
def dropMember (s : State) (dev : Nat) : State :=
  let was := s.fab.leader.toNat
  let s := s.modFab (fun b => { b with
    memberList := b.memberList.filter (· != dev), topo := tdel (tmap b.topo (fun _ l => l.filter (fun e => e.peer != dev))) dev,
    missed := tdel b.missed dev, serials := tdel b.serials dev, joining := b.joining.filter (· != dev), refs := b.refs.filter (· != dev) })
  let s := if was = dev then
      raiseDev (s.modFab (fun b => { b with leader := BitVec.ofNat 12 (b.memberList.foldl min s.devId) })) 0x3405
        (data3 0 (s.fab.memberList.foldl min s.devId) 0)
    else s
  if s.fab.tm.toNat = dev then electMaster s false [dev] else sendRoutes s [dev]

/-- A member forgets those of its group on a lost module. -/
def forget (s : State) (n dev : Nat) : State := s.modCmt n (fun c => { c with peers := c.peers.filter (fun m => m.dev != dev) })

/-- MEMBER_LOST (R325). -/
def execMemberLost (loss : Loss) (s : State) : Host.Outcome State Fault Refusal :=
  let dev := loss.dev
  .next (if !s.fab.memberList.contains dev || dev = s.devId || !isLost s dev then s
    else
      let groups := (List.range 33).filter (fun n => isMember s n && (farMembers s n).any (fun m => m.dev == dev))
      let s := dropMember (raiseDev s 0x3404 (data3 0 dev 0)) dev
      let s := loseColls s dev
      let s := groups.foldl (fun t n => loseGroupMember (forget t n dev) n loss.held) s
      startRecovery s dev groups)

/-- STARTER_RESTORE_LANDED (R427): the shard of partition `n` lies in its active sets; the commit state takes the record's
values, contexts start, a standby becomes a member, and RESUME goes out. -/
def execStarterRestoreLanded (n : Nat) (rec_ : CommitRecord) (s : State) : Host.Outcome State Fault Refusal :=
  .next (
    let s := s.modCmt n (fun c => { c with
      stepC := rec_.step, sel := rec_.sel, armed := 0, halted := false, accT := 0, accNf := false, accOv := false, gnV := false,
      clipf := 0x3F800000, held := [], att := {} })
    let s := raiseDev s 0x4603 (data4 0 0 0 rec_.step)
    let s := { s with ctxs := tmap s.ctxs (fun _ c => if c.part == n && c.st == .loaded then { c with st := .running } else c) }
    let mib := ((mirrorRuns s n).foldl (fun a r => a + r.2) 0) / 1048576
    let s := s.modRel (fun r => { r with
      phase := 4, mib := BitVec.ofNat 32 mib, ctl := if r.aliasV then setFld r.ctl 32 32 0 else r.ctl })
    sendResume s n)

/-! ### The mirror confirmed (R344) -/

/-- STARTER_CONFIRM (R344): the buddy holds the mirror of a step, and the next one goes to the other slot. -/
def execStarterConfirm (step : Word64) (s : State) : Host.Outcome State Fault Refusal :=
  .next (s.modFab (fun b => { b with
    starter := { b.starter with last := step, toB := !b.starter.toB, busy := b.starter.busy.filter (fun p => p.2 != step) } }))

end Sys2Proof.Machine
end

