-- ==== Sys2Proof/Machine/PodTime.lean ====
section
/-! DEFINITION. Pod Time: exchanges and holdover (R330, R331), PT_SYNC and PT_REF (R329), beat marks with what they bring
(R332, R386, R409), beat changes and alarms (R333). -/

namespace Sys2Proof.Machine

open Sys2Proof

/-! ### Taking time (R327, R330, R331) -/

/-- A signed 16-bit value, saturating (R350). -/
def satSigned16 (x : Int) : Word16 := BitVec.ofInt 16 (max (-32768) (min 32767 x))

/-- The number of the last beat mark at a PT (R332). -/
def beatAt (period : Word32) (origin : Word64) (pt : Nat) : Word64 :=
  if period = 0 then 0 else BitVec.ofNat 64 ((pt - origin.toNat) / period.toNat)

/-- Set PT before PT_VALID. -/
def setPt (t : Time) (pt : Nat) : Time :=
  { t with pt := BitVec.ofNat 64 pt, beatNum := beatAt t.beatPeriod t.beatOrigin pt,
           lastMark := pt - markPhase t.beatPeriod t.beatOrigin pt, valid := true, lock := true, holdover := false, slew := 0 }

/-- The alignment of R330: 8 ns within a pod, 16 ns to a master of another pod. -/
def ptBound (s : State) : Nat := if s.fab.tm.toNat / 64 = s.fab.pod.toNat then 8 else 16

/-- A difference in quarters of a nanosecond in whole nanoseconds, to the nearest. -/
def toNs (x : Int) : Int := (x + 2) / 4

/-- TIME_EXCHANGE (R330): the module exchanges CTRL flits with its upstream neighbour; `offset` is its PT less the neighbour's, in units of
0.25 ns (log 6). Before PT_VALID it sets PT; afterwards it is slewed in, and an error above 1 µs raises event 0x3105. -/
def execTimeExchange (offset : Int) (s : State) : Host.Outcome State Fault Refusal :=
  let live : Bool := match s.fab.upstream with
    | some l => isUp s l && (s.link l).ptEn
    | none => false
  .next (if s.time.isTm || !live then s
    else
      let ns := toNs offset
      let s := match s.fab.upstream with
        | some l => s.emit (.timeExchange l)
        | none => s
      if !s.time.valid then
        s.modTime (fun t => { setPt t (((t.pt.toNat : Int) - ns).toNat) with offset := satSigned16 ns, lastExchange := ((t.pt.toNat : Int) - ns).toNat })
      else
        let s := if 4000 < offset.natAbs then raiseDev s 0x3105 (data3 0 s.fab.tm.toNat ns.natAbs) else s
        s.modTime (fun t => { t with
          offset := satSigned16 ns, slew := -ns, lastExchange := t.pt.toNat, holdover := false,
          lock := decide (offset.natAbs ≤ 4 * ptBound s) }))

/-- HOLDOVER_TIMEOUT (R331): no exchange for 3 ms. -/
def execHoldoverTimeout (s : State) : Host.Outcome State Fault Refusal :=
  .next (if s.time.isTm || !s.time.valid || s.time.holdover || s.now < s.time.lastExchange + 3000000 then s
    else (raiseDev s 0x3102 (data3 0 s.fab.tm.toNat 0)).modTime (fun t => { t with lock := false, holdover := true }))

/-- PT_SYNC_EDGE (R329): the first edge sets PT; a later one within 1 µs is slewed in, and another is ignored. -/
def execPtSyncEdge (s : State) : Host.Outcome State Fault Refusal :=
  let t := s.time
  let next := t.syncNext.toNat
  .next (if !t.isTm || t.tmSrc != 2 then s
    else if !t.valid then
      s.modTime (fun t => { setPt t next with syncOk := true, syncNext := t.syncNext + t.syncPeriod })
    else if ((next : Int) - t.pt.toNat).natAbs ≤ 1000 then
      s.modTime (fun t => { t with slew := (next : Int) - t.pt.toNat, syncOk := true, syncNext := t.syncNext + t.syncPeriod })
    else (raiseDev s 0x3104 (data3 0 s.devId 0)).modTime (fun t => { t with syncOk := false }))

/-- What the pod knows of a member's REF_OK; a member tells the leader of its own (log 28). -/
def noteRef (s : State) (dev : Nat) (ok : Bool) : State :=
  let s := s.modFab (fun b => { b with refs := if ok then (if b.refs.contains dev then b.refs else b.refs ++ [dev]) else b.refs.filter (· != dev) })
  if dev = s.devId ∧ s.fab.leader.toNat ≠ s.devId then s.emit (.refState dev ok) else s

/-- The leader elects where a member's REF_OK has changed: on a loss only for the time master, among members whose REF_OK is set (R328,
R329). -/
def refElect (s : State) (dev : Nat) (ok : Bool) : State :=
  if s.fab.podup && (ok || s.fab.tm.toNat == dev) then electMaster s (!ok) [] else s

/-- Another member has told of its REF_OK (log 28). -/
def hearRef (s : State) (dev : Nat) (ok : Bool) : State := if dev = s.devId then s else refElect (noteRef s dev ok) dev ok

/-- PT_REF_LOSS (R329): PT_REF is absent or out of tolerance. A master clears REF_OK with event 0x3103 and holds over, and
the leader elects a new master among members whose REF_OK is set. -/
def execPtRefLoss (s : State) : Host.Outcome State Fault Refusal :=
  .next (
    let s := noteRef s s.devId false
    let s := if !s.time.isTm then s.modTime (fun t => { t with refOk := false })
      else (raiseDev s 0x3103 (data3 0 s.devId 0)).modTime (fun t => { t with refOk := false, holdover := true })
    refElect s s.devId false)

/-- PT_REF_RETURN (R329): REF_OK is set, a master ends its holdover, and the leader elects again (R328). -/
def execPtRefReturn (s : State) : Host.Outcome State Fault Refusal :=
  .next (
    let s := noteRef s s.devId true
    let s := s.modTime (fun t => { t with refOk := true, holdover := if t.isTm then false else t.holdover })
    refElect s s.devId true)

/-! ### Beat marks (R332) -/

/-- Whether a beat period is allowed: 1 ms to 1 s, a multiple of 1 µs. -/
def beatOk (p : Word32) : Bool := 1000000 ≤ p.toNat && p.toNat ≤ 1000000000 && p.toNat % 1000 == 0

/-- A beat change that falls on this mark applies. -/
def applyBeatChange (s : State) (mark : Nat) : State :=
  match s.time.beatPend with
  | some b =>
    if b.beat ≤ s.time.beatNum.toNat then
      let s := s.modTime (fun t => { t with
        beatPeriod := b.period, beatOrigin := b.origin, beatNum := beatAt b.period b.origin mark, beatPend := none })
      match b.who with
      | some o => finish s o 0 0
      | none => s
    else s
  | none => s

/-- The configuration swaps of this mark (R386, R462): the active set takes the shadow values, unless a reset spans the
partition. -/
def swapConfigs (s : State) (beat mark : Nat) : State :=
  (s.parts.map Prod.fst).foldl (fun t n =>
    match (t.part n).swap with
    | some w =>
      if w.beat ≤ beat then
        let t := t.modPart n (fun p => { p with swap := none })
        if (t.part n).inReset then finish (raise t 0x6302 (some n) none 0) w.origin 9 0
        else finish (raise (t.modPart n (fun p => { p with active := p.shadow })) 0x6301 (some n) none 0) w.origin 0 mark
      else t
    | none => t) s

/-- Whether an operation counts as work queued (R409): one that runs and does not wait for others, or an instruction that has not started,
unless the tokens it lacks are all of Q0 and Q2. -/
def opWork (x : Vcore) (o : UOp) : Bool :=
  match o.phase with
  | .queued =>
    let lacks := [s1Of o.word, s2Of o.word, s3Of o.word].filter (fun q => q < 16 && (headTok x q).isNone)
    lacks.isEmpty || lacks.any (fun q => q != 0 && q != 2)
  | _ => !o.held

/-- WORK of CORE_HEALTH (R409, R433). -/
def coreWork (s : State) (n : Nat) : Bool :=
  (s.core n).slots.any (fun p => match s.vc? p.2 with
    | some x => x.ops.any (opWork x)
    | none => false)

/-- The watchdogs at a mark (R409): a counter that has not advanced since the last mark, with work queued at both (DEDUCED, log 31). -/
def countStalls (s : State) : State :=
  let bump := fun (b : BitVec 4) => BitVec.ofNat 4 (min (b.toNat + 1) 15)
  { s with
    cores := tmap s.cores (fun n r => { r with
      stallb := if r.progress == r.progAt && r.workAt && coreWork s n then bump r.stallb else 0, progAt := r.progress,
      workAt := coreWork s n }),
    clusters := tmap s.clusters (fun _ k => { k with
      stallb := if k.records == k.recordsAt && k.workAt && k.busy.isSome && !k.waitpc then bump k.stallb else 0, recordsAt := k.records,
      workAt := k.busy.isSome && !k.waitpc }) }

/-- BEAT_MARK (R332): Pod Time has reached the next mark; the heartbeats of the other members are due (R325). -/
def execBeatMark (s : State) : Host.Outcome State Fault Refusal :=
  let mark := nextMark s.time
  .next (if s.time.beatPeriod = 0 || s.now < mark || s.pwr.st = .off then s
    else
      let s := s.modTime (fun t => { t with beatNum := beatAt t.beatPeriod t.beatOrigin mark, lastMark := mark })
      let beat := s.time.beatNum.toNat
      let s := if s.pwr.st = .carousel then s
        else s.modMgmt (fun m => { m with rmHb := m.rmHb + 1 })
      let s := if s.fab.podup && s.pwr.st != .carousel then s.emit (.heartbeat s.devId) else s
      let s := if s.fab.podup then s.modFab (fun b => { b with
          missed := (b.memberList.filter (· != s.devId)).foldl (fun t m => tmod t m 0 (· + 1)) b.missed }) else s
      let s := countStalls s
      let s := s.modMem (fun m => { m with parts := tmap m.parts (fun _ p => { p with ceRaised := false }) })
      let s := s.modPwr (fun p => { p with inputRaised := false })
      let s := openFirst (swapConfigs s beat mark) mark
      applyBeatChange s mark)

/-- BEAT_CHANGE (R332): the leader's message names the mark at which the new beat applies. -/
def execBeatChange (period : Word32) (origin beat : Word64) (s : State) : Host.Outcome State Fault Refusal :=
  .next (if !beatOk period || beat.toNat ≤ s.time.beatNum.toNat then s
    else s.modTime (fun t => { t with beatPend := some ⟨period, origin, beat.toNat, match t.beatPend with | some b => b.who | none => none⟩ }))

/-- PT_ALARM (R333): an armed alarm whose value has come fires, an edge for the wake source (R452). -/
def execPtAlarm (k : Nat) (s : State) : Host.Outcome State Fault Refusal :=
  .next (if s.time.arm.getLsbD k && decide ((tgetD s.time.alm k 0).toNat ≤ s.now) && s.pwr.st != .off then
      (s.modTime (fun t => { t with fired := setFld t.fired k k 1, arm := setFld t.arm k k 0 })).modPwr (fun p => { p with
        alarmEdge := decide (p.st ≠ .run) })
    else s)

end Sys2Proof.Machine
end

