-- ==== Sys2Proof/Machine/Reset.lean ====
section
/-! DEFINITION. Quarantine and spares (R34, R407, R421), scratchpad samples (R415), the reset scopes (R411 to R414), device
reset and always-on restart (R459, R460) and what survives them (R461), recovery (R417 to R419), and cold start (R456). -/

namespace Sys2Proof.Machine

open Sys2Proof

/-! ### Spares (R34, R399, R421) -/

/-- The spare that takes the place of a core of a die: the lowest that is a healthy check core (log 10). -/
def pickSpare (s : State) (die : Nat) : Option Nat :=
  ((List.range 8).map (· + 8 * die)).find? (fun i => !s.rel.spareUsed.contains i && !(tgetD s.rel.checkCores i {}).quar)

/-- A list in an order that `f` chooses: at each place one of those still left. -/
def orderBy (f : Nat → Nat) : Nat → List Nat → List Nat
  | 0, _ => []
  | k + 1, l =>
    let x := (l[f k % l.length]?).getD 0
    x :: orderBy f k (l.erase x)

/-- The physical core that stands at place i of a die, 0 to 63 for its logical cores as manufactured and 64 to 71 for its spares: nine
clusters of eight cores, each once (R3, R16). Bits as in R432: die, cluster, core. -/
def physAt (die i : Nat) : Nat :=
  let p := ((orderBy (fun k => Config.physicalCore (72 * die + k)) 72 (List.range 72))[i]?).getD 0
  die + p / 8 * 4 + p % 8 * 64

/-- The physical position of spare i (eight to a die). -/
def physSpare (i : Nat) : Nat := physAt (i / 8 % 4) (64 + i % 8)

/-- The physical position that backs a logical core: die, cluster and core (R432). -/
def physOf (s : State) (n : Nat) : Nat := match (s.map n).spare with
  | some i => physSpare i
  | none => physAt (n / 64 % 4) (n % 64)

/-- Retire the physical core behind logical core n and remap a spare into its place. -/
def retireCore (s : State) (n cause : Nat) : State :=
  match pickSpare s (n / 64) with
  | some i =>
    let ph := physOf s n
    let s := s.modMap n (fun _ => { marks := [], quar := false, spare := some i })
    let s := s.modRel (fun r => { r with
      spareUsed := r.spareUsed ++ [i], retired := r.retired + 1, checkCores := tdel r.checkCores i,
      checks := r.checks.map (fun c => if c.on == some i then { c with on := none, started := false } else c) })
    remapEvent s 0 n ph cause n (n / 8)
  | none => (failBeyond s 0 n (physOf s n) cause n (n / 8)).modRel (fun r => { r with retired := r.retired + 1 })

/-- Retire the update engine of a cluster. -/
def retireEngine (s : State) (k cause : Nat) : State :=
  let d := k / 8
  if s.rel.engUsed.getLsbD d then failBeyond s 1 k d cause 0xFF k
  else remapEvent (s.modRel (fun r => { r with
    engUsed := setFld r.engUsed d d 1,
    checks := r.checks.map (fun c => if c.on == some (256 + d) then { c with on := none, started := false } else c) })) 1 k d cause 0xFF k

/-- Marks within the last SUSP_WIN hours (R407). -/
def recentMarks (s : State) (ms : List Nat) : List Nat :=
  ms.filter (fun t => decide (s.now < t + fld s.rel.ctl 31 16 * 3600000000000))

/-- Quarantine a core (R407). -/
def quarantine (s : State) (n cause : Nat) : State :=
  if (s.map n).quar then s
  else addRepair (s.modMap n (fun m => { m with quar := true })) 0 1 n (physOf s n) cause

/-- A suspect mark on a logical core (R407). -/
def markCore (s : State) (n cause : Nat) : State :=
  let ms := recentMarks s (s.map n).marks ++ [s.now]
  let s := addRepair (s.modMap n (fun m => { m with marks := ms })) 0 2 n (physOf s n) cause
  if fld s.rel.ctl 15 4 ≤ ms.length then quarantine s n cause else s

/-- A suspect mark on a check core. -/
def markCheckCore (s : State) (i cause : Nat) : State :=
  let c := tgetD s.rel.checkCores i {}
  let ms := recentMarks s c.marks ++ [s.now]
  let ph := physSpare i
  let q := c.quar || decide (fld s.rel.ctl 15 4 ≤ ms.length)
  let s := addRepair (s.modRel (fun r => { r with checkCores := tput r.checkCores i { marks := ms, quar := q } })) 0 2 0xFFFF ph cause
  if q && !c.quar then addRepair s 0 1 0xFFFF ph cause else s

/-- The check cores of a die: spares in place, healthy or not yet retired. -/
def checkCoresOf (s : State) (die : Nat) : List Nat :=
  ((List.range 8).map (· + 8 * die)).filter (fun i => !s.rel.spareUsed.contains i && !(tgetD s.rel.checkCores i {}).quar)

/-! ### Scratchpad samples (R415) -/

/-- One chunk of a sample: the window bytes from a recorded offset. -/
def sampleChunk (s : State) (r : Core) (cls : Nat) : List Byte :=
  let off := tgetD r.last cls 0 / 64 * 64
  let v := match r.issuing with | some i => tget r.slots i | none => none
  let x := v.bind s.vc?
  let step := match x with | some x => x.step.toNat | none => 0
  let ctx := match v with | some v => v.ctx | none => 0xFF
  let bytes := match x with | some x => memBytes x.win off 1008 | none => List.replicate 1008 0
  natToBytes 4 off ++ [BitVec.ofNat 8 cls, BitVec.ofNat 8 ctx, BitVec.ofNat 8 (match r.issuing with | some i => i | none => 0), 0] ++
  natToBytes 8 step ++ bytes

/-- Write the sample of a core into the sample store. -/
def takeSample (s : State) (n : Nat) : State :=
  let r := s.core n
  s.modRel (fun q => { q with samples := tput q.samples n ((List.range 4).flatMap (sampleChunk s r)) })

/-! ### What a reset does to cores, contexts and members -/

/-- A virtual core whose state is lost: it keeps its place and its window's size. -/
def lostVc (x : Vcore) : Vcore := { core := x.core, slot := x.slot, bank := x.bank, winSize := x.winSize, winBase := x.winBase }

/-- A core's registers after a reset of core to compute scope (R461): settings are restored, status is lost. -/
def resetCore (r : Core) : Core :=
  { arrCtl := r.arrCtl, issCtl := r.issCtl, tseed := r.tseed, tstream := r.tstream, tidx := r.tidx, tstep := r.tstep,
    slots := r.slots, took := r.took }

/-- A context with a virtual core in scope (R419): with recovery saves it awaits its recovery, else it is stopped. One that a fault or
poison has stopped stays stopped (R259, R290). -/
def resetCtx (s : State) (inScope : Nat → Bool) (k : Nat) (c : Ctx) : State :=
  let c' := { c with st := .stopped, vcs := tmap c.vcs (fun _ x => if inScope x.core then lostVc x else x) }
  let s := endSave (s.putCtx k c') k 9
  let gone := fun (v : VRef) => v.ctx == k && (match tget c.vcs v.vc with | some x => inScope x.core | none => false)
  let s := s.modFab (fun b => { b with
    colls := b.colls.filter (fun x => !gone x.v), sends := b.sends.filter (fun x => !gone x.v) })
  let s := groupsDone s
  if c.rcv && c.st != .stopped then s.modRel (fun r => { r with recover := if r.recover.contains k then r.recover else r.recover ++ [k] }) else s

/-- Reset a set of logical cores: samples, registers and contexts. -/
def resetCores (s : State) (inScope : Nat → Bool) : State :=
  let s := ((List.range 256).filter inScope).foldl takeSample s
  let hit := s.ctxs.filter (fun c => c.2.vcs.any (fun x => inScope x.2.core))
  let s := hit.foldl (fun t c => resetCtx t inScope c.1 c.2) s
  { s with cores := tmap s.cores (fun n r => if inScope n then resetCore r else r) }

/-- Retire and replace the quarantined cores of a scope, and the units that fail the self-check: cores below 256, then
update engines as 256 plus their cluster (log 6). -/
def remapScope (s : State) (inScope : Nat → Bool) (engines : Bool) (failed : List Nat) : State :=
  let ns := (List.range 256).filter (fun n => inScope n && ((s.map n).quar || failed.contains n))
  let s := ns.foldl (fun t n => retireCore t n 0x4401) s
  if engines then ((List.range 32).filter (fun k => inScope (8 * k) && (s.rel.engQuar.getLsbD k || failed.contains (256 + k)))).foldl
    (fun t k => (retireEngine t k 0x4401).modRel (fun r => { r with engQuar := setFld r.engQuar k k 0 })) s
  else s

/-- A base die loses a Pantry bank (64 × die + bank): one of its two spares takes its place (R34, R421). -/
def spareBank (s : State) (unit cause : Nat) : State :=
  let used := s.rel.repair.filter (fun e => e.kind == 4 && e.action == 0 && e.logical / 64 == unit / 64 % 4)
  if 2 ≤ used.length then failBeyond s 4 unit unit cause 0 0
  else remapEvent (s.modMem (fun m => { m with bspared := m.bspared + 1 })) 4 unit unit cause 0 0

/-- A stack loses a pseudo-channel: its one spare takes its place (R34, R421). -/
def spareChannel (s : State) (p cause : Nat) : State :=
  if (s.memPart p).spared then failBeyond s 3 p 64 cause 0 0
  else remapEvent ((s.modMemPart p (fun m => { m with spared := true })).modMem (fun m => { m with pcspared := m.pcspared + 1 })) 3 p 64 cause 0 0

/-- The memory units that a compute or device reset finds failed: Pantry banks as 512 + 64 × die + bank, stacks as 768 + stack (R34,
log 6). -/
def spareMemory (s : State) (failed : List Nat) : State :=
  (failed.filter (fun u => 512 ≤ u)).foldl (fun t u =>
    if u < 768 then spareBank t (u - 512) 0x4401 else spareChannel t ((u - 768) % 32) 0x4401) s

/-- The partitions that hold a cluster of a scope. -/
def scopeParts (s : State) (inScope : Nat → Bool) : List Nat :=
  (List.range 33).filter (fun n => (List.range 256).any (fun c => inScope c && clusterPart s (c / 8) == n))

/-- A reset touches a member: the attempt is abandoned with WHY 5 (R412). -/
def hitMember (s : State) (n : Nat) : State := (causeAbandon s n 5).modAtt n (fun a => { a with resetHit := true })

/-- A member whose reset and recovery are over sends the RESUME that is due (R420). -/
def resumeMember (s : State) (n : Nat) : State :=
  if (s.att n).resumeDue && !(s.cmt n).halted && !(s.part n).inReset && !recovering s n then sendResume s n else s

/-- Write back and invalidate the cached lines of a partition (R412). -/
def flushPart (s : State) (n : Nat) : State := s.modMem (fun m => { m with lines := m.lines.filter (fun l => l.owner != n) })

/-- Whether a requested reset lies within the scope of a running one (R414). -/
def within (s : State) (scope target : Nat) (q : Nat × Nat × Option Origin) : Bool :=
  if q.1 = scope then q.2.1 == target || 3 ≤ scope
  else decide (q.1 < scope) && (match scope with
    | 1 => q.1 == 0 && q.2.1 / 8 == target
    | 2 => (q.1 == 0 && clusterPart s (q.2.1 / 8) == target) || (q.1 == 1 && clusterPart s q.2.1 == target)
    | _ => true)

/-- Record the end of a reset: RST_STAT with a duration that the model does not measure (log 8), and event 0x4401. -/
def resetDone (s : State) (scope target : Nat) : State :=
  let (d, s) := s.fresh
  let s := s.modRel (fun r => { r with
    rstScope := BitVec.ofNat 3 scope, rstTarget := BitVec.ofNat 8 target, rstDur := BitVec.ofNat 32 d.toNat,
    rstCount := satInc r.rstCount, rstBusy := !r.rstQueue.isEmpty })
  raiseDev s 0x4401 (data4 (if scope = 0 then target else 0) (if scope = 1 then target else 0) scope 0)

/-- A core that stands for where suspects came from: the core itself, or the first of an update engine's cluster (256 plus cluster). -/
def suspectCore (n : Nat) : Nat := if n < 256 then n else 8 * (n - 256)

/-- Whose turn it is among the suspects of a core or of an update engine (R417). -/
def suspectTurn (s : State) (n : Nat) : Option Nat :=
  if n < 256 then (s.core n).isol else (s.part (clusterPart s (n - 256))).isol

/-- Give the turn to a suspect, or end the isolation. -/
def giveTurn (s : State) (n : Nat) (k : Option Nat) : State :=
  let s := if k.isSome then s else s.modRel (fun r => { r with suspects := tdel r.suspects n })
  if n < 256 then s.modCore n (fun r => { r with isol := k }) else s.modPart (clusterPart s (n - 256)) (fun p => { p with isol := k })

/-- Start the isolation of the suspects of a scope (R417). -/
def startIsolation (s : State) (inScope : Nat → Bool) : State :=
  (s.rel.suspects.filter (fun q => inScope (suspectCore q.1))).foldl (fun t q =>
    giveTurn t q.1 (if (t.part (clusterPart t (suspectCore q.1 / 8))).sn.rcvCtl.getLsbD 1 then q.2.head? else none)) s

/-- A reset of core, cluster, partition or compute scope. -/
def doScopeReset (s : State) (scope target : Nat) (failed : List Nat) : State :=
  let inScope := scopeCores s scope target
  let ps := scopeParts s inScope
  let s := (ps.filter (isMember s)).foldl hitMember s
  let s := resetCores s inScope
  let s := { s with clusters := tmap s.clusters (fun k q => if 1 ≤ scope ∧ inScope (8 * k) then {} else q) }
  let s := if scope = 2 then flushPart s target else if scope = 3 then pantryFlush s else s
  let s := if scope = 3 then s.modRel (fun r => { r with checks := r.checks.map (fun c => { c with started := false, on := none }) }) else s
  let s := remapScope s inScope (1 ≤ scope) failed
  let s := if scope = 3 then spareMemory s failed else s
  let s := startIsolation s inScope
  let met := s.rel.rstQueue.filter (within s scope target)
  let s := s.modRel (fun r => { r with rstQueue := r.rstQueue.filter (fun q => !within s scope target q) })
  let s := { s with
    parts := tmap s.parts (fun n p => if ps.contains n then { p with
      inReset := s.rel.rstQueue.any (fun q => 2 ≤ q.1 && (3 ≤ q.1 || q.2.1 == n)) } else p) }
  let s := resetDone s scope target
  let s := (met.filterMap (fun q => q.2.2)).foldl (fun t o => finish t o 0 0) s
  ps.foldl resumeMember s

/-- Ask for a reset: BUSY is set, and the partitions that a wide scope spans count as in reset (R462). -/
def requestReset (s : State) (scope target : Nat) (o : Option Origin) : State :=
  let s := s.modRel (fun r => { r with rstQueue := r.rstQueue ++ [(scope, target, o)], rstBusy := true })
  if scope = 2 then s.modPart target (fun p => { p with inReset := true })
  else if 3 ≤ scope then (List.range 33).foldl (fun t n => if n = 0 || (t.part n).exist then t.modPart n (fun p => { p with inReset := true }) else t) s
  else s

/-- A compute reset has failed (R413): event 0x4402, and a device reset follows. -/
def computeFailed (s : State) : State :=
  requestReset ((raiseDev s 0x4402 (data4 0 0 3 0)).modRel (fun r => { r with rstFailed := true })) 4 0 none

/-- Whether every VCORE rail has recovered long enough for a compute reset that a reset-level event caused (R440). -/
def railsReady (s : State) : Bool := s.pwr.rails.all (fun r => !r.2.below)

/-- Whether a wider reset that covers this one has been asked for, which supersedes it (R414). -/
def superseded (s : State) (scope target : Nat) : Bool :=
  s.rel.rstQueue.any (fun q => scope < q.1 && within s q.1 q.2.1 (scope, target, none))

/-- COMPUTE_RESET_FAIL (R413, R440): a compute reset that is not over in time. -/
def execComputeResetFail (s : State) : Host.Outcome State Fault Refusal :=
  .next (if s.rel.rstQueue.any (fun q => q.1 == 3) then
      let os := (s.rel.rstQueue.filter (fun q => q.1 == 3)).filterMap (fun q => q.2.2)
      let s := s.modRel (fun r => { r with rstQueue := r.rstQueue.filter (fun q => q.1 != 3) })
      os.foldl (fun t o => finish t o 9 0) (computeFailed s)
    else s)

/-! ### Images and the Ringmaster (R387 to R390) -/

/-- The bytes of an image slot. -/
def slotImage (s : State) (b : Bool) : Option (List Byte) :=
  match (if b then s.mgmt.imgB else s.mgmt.imgA) with
  | .shipped => some (Config.shippedImage b)
  | .empty => none
  | .staged bs => some bs

/-- Whether the boot ROM finds a slot that verifies: a staged image has verified under R389, and the shipped ones do
(log 12). -/
def slotGood (s : State) (b : Bool) : Bool := (slotImage s b).isSome

/-- Whether a Ringmaster core is retired in the repair record (R422). -/
def rmRetired (s : State) (b : Bool) : Bool := s.rel.repair.any (fun e => e.kind == 5 && e.action == 0 && e.logical == b2n b)

/-- The boot ROM starts the preferred slot on a Ringmaster core, or the other slot with event 0x6403; with neither it stays
(R390). -/
def boot (s : State) (rm : Bool) : State :=
  let go := fun (s : State) (b : Bool) =>
    let img := (slotImage s b).getD []
    s.modMgmt (fun m => { m with
      fwstate := 1, slot := b, rmcore := rm, standbyOk := !rmRetired s (!rm), bootrom := false, ready := true,
      fwver := Config.imageVersion img, minSvn := max m.minSvn (Config.imageSvn img) })
  let p := s.mgmt.preferB
  if slotGood s p then go s p
  else if slotGood s (!p) then raiseDev (go s (!p)) 0x6403 0
  else s.modMgmt (fun m => { m with fwstate := 3, bootrom := true, ready := true, rmcore := rm, standbyOk := false })

/-! ### Device scope (R459, R460, R461) -/

/-- Complete every command that runs with a status. -/
def endRunning (s : State) (st : Nat) : State :=
  let rs := s.host.fns.flatMap (fun f => f.2.chans.flatMap (fun c => (c.2.rings.filter (fun r => r.2.running)).map (fun r => Origin.ring f.1 c.1 r.1)))
  let ro := s.host.remoteRunning.map (fun k => if k = 512 then Origin.oob else Origin.remote (k / 8) (k % 8))
  (rs ++ ro).foldl (fun t o => finish t o st 0) s

/-- A link after a device reset: it trains again if it is lit. -/
def freshLink (l : Link) : Link := { lit := l.lit, st := if l.lit then .train else .off }

/-- What the Device column of the survival table keeps. -/
def deviceState (s : State) : State :=
  { s with
    cores := [], clusters := [], parts := [], ctxs := [], gsrq := [], rhos := [], feeds := [], groups := [], rebakes := [],
    tsrq := [], verdicts := [], abandons := [],
    mem := { s.mem with
      region := (s.mem.region.filter (fun e => reOwner e.2 == 0x3E ||
        (reOwner e.2 == 0x3F && !s.ctxs.any (fun c => c.2.rcvRegions.contains e.1)))).map (fun e => (e.1, setFld e.2 39 32 0)),
      clearing := [], clearFor := [], parts := tmap s.mem.parts (fun _ p => { spared := p.spared, t3lim := p.t3lim }),
      ready := true, rgnSel := 0, ue := 0, nrp := 0, hinted := false, trans := false, share := [], lines := [] },
    fab := { slot := s.fab.slot, pod := s.fab.podNext, podNext := s.fab.podNext,
             links := tmap s.fab.links (fun _ l => freshLink l),
             optics := tmap s.fab.optics (fun _ o => { laserOk := o.laserOk, temp := o.temp }),
             starter := { rx := s.fab.starter.rx }, delivered := s.fab.delivered, out := s.fab.out },
    time := { s.time with
      valid := false, lock := false, holdover := false, isTm := false, syncOk := false, offset := 0, slew := 0, beatPend := none },
    rel := { s.rel with
      rstQueue := [], rstBusy := false, alias_ := 0, aliasV := false, aliasCtx := [], checks := [], recover := [], suspects := [],
      failed := false },
    pwr := { s.pwr with
      st := .run, goal := none, wakePend := none, capOn := false, thLim := false, trip := false,
      aclk := (List.range 4).map (fun d => (d, 1500)), lock := if s.pwr.rmPll then 0xFF else 0xFE, slices := false,
      lastWake := 0, rails := [] },
    mgmt := { s.mgmt with fwstate := 2, ready := true, thermtrip := false } }

/-- The members of the module send ABORT after a device reset (R175). -/
def abortAfter (before s : State) : State :=
  (List.range 33).foldl (fun t n => if isMember before n then
    t.emit (.abort (before.self n) (curStep before n) (before.cmt n).attempt 5) else t) s

/-- The body of a device reset: units that fail their self-check are replaced, and memory units as for a compute reset. -/
def doDeviceReset (s : State) (scope : Nat) (failed : List Nat) : State :=
  let before := s
  let s := (List.range 256).foldl takeSample s
  let s := (s.parts.filter (fun p => p.2.swap.isSome)).foldl (fun t p =>
    raise (t.modPart p.1 (fun q => { q with swap := none })) 0x6302 (some p.1) none 0) s
  let s := endRunning s 9
  let s := spareMemory (remapScope (deviceState s) (fun _ => true) true failed) failed
  resetDone (abortAfter before s) scope 0

/-- A requested device reset runs (R459); after a thermal trip only when every die has cooled (R445). A module whose firmware does not run
boots first (DEDUCED, log 12). `failed` names the units that fail its self-check. -/
def runDeviceReset (s : State) (failed : List Nat) : State :=
  if !s.rel.rstQueue.any (fun q => q.1 == 4) || (s.pwr.trip && !s.pwr.hot.isEmpty) then s
  else if s.mgmt.bootrom then
    let t := boot s s.mgmt.rmcore
    if t.mgmt.bootrom then t.modRel (fun r => { r with rstQueue := [], rstBusy := false }) else doDeviceReset t 4 failed
  else doDeviceReset s 4 failed

/-- DEVICE_RESET (R459): one in which every unit passes its self-check. -/
def execDeviceReset (s : State) : Host.Outcome State Fault Refusal := .next (runDeviceReset s [])

/-- SCOPE_RESET (R411): a requested reset runs. A compute reset with a failed self-check fails whole (R413); `failed` names cores, update
engines as 256 plus their cluster, and for a compute reset the memory units that it replaces. With scope 4 it is a device reset whose
self-check finds failed units (DESIGN CHOICE, log 6). -/
def execScopeReset (scope target : Nat) (failed : List Nat) (s : State) : Host.Outcome State Fault Refusal :=
  .next (if scope = 4 then runDeviceReset s failed
    else if 3 < scope || !s.rel.rstQueue.any (fun q => q.1 == scope && (q.2.1 == target || scope == 3)) || superseded s scope target then s
    else if scope = 3 then
      (if !railsReady s then s
       else if failed.any (fun u => u < 512) then computeFailed (s.modRel (fun r => { r with rstQueue := r.rstQueue.filter (fun q => q.1 != 3) }))
       else
         let s := s.modPwr (fun p => { p with rails := tmap p.rails (fun _ r => { r with resetAt := none }) })
         (doScopeReset s 3 0 failed).modRel (fun r => { r with rstFailed := false }))
    else doScopeReset s scope target failed)

/-- A function at its reset values (R359, R361), with no VF enabled. -/
def freshHost (h : HostIf) : HostIf :=
  { bytes := h.bytes, msix := h.msix, poisonOut := h.poisonOut, reply := h.reply, cfgReady := true, perst := h.perst }

/-- ALWAYS_ON_RESTART (R460): the Ringmaster core that passes its boot self-check, if one does, and the units that fail theirs (log 6). -/
def execAlwaysOnRestart (bootCore : Option (Bool × List Nat)) (s : State) : Host.Outcome State Fault Refusal :=
  .next (match bootCore with
    | none =>
      let s := deviceState s
      { s with
        fab := { s.fab with links := tmap s.fab.links (fun _ l => { l with st := .off }) },
        host := { freshHost s.host with cfgReady := false },
        mgmt := { s.mgmt with fwstate := 0, ready := false, bootrom := true, standbyOk := false },
        rel := { s.rel with failed := true } }
    | some (b, failed) =>
      let m0 := s.mgmt
      let t := doDeviceReset { s with rel := { s.rel with rstQueue := [] } } 5 failed
      let t := { t with
        time := { up := t.time.up },
        host := { freshHost t.host with raised := t.host.raised },
        mgmt := { imgA := m0.imgA, imgB := m0.imgB, preferB := m0.preferB, minSvn := m0.minSvn, smbAddr := m0.smbAddr,
                  rstOnPerst := m0.rstOnPerst, eid := m0.eid, tid := m0.tid, evtReceiver := m0.evtReceiver } }
      let t := boot t b
      if t.mgmt.bootrom then t else t.modMgmt (fun m => { m with fwstate := 2 }))

/-! ### Recovery (R417, R419) -/

/-- Restore a virtual core from a recovery save: it keeps its place. -/
def restoreVc (x save : Vcore) : Vcore := { save with core := x.core, slot := x.slot, bank := x.bank, winBase := x.winBase }

/-- A context whose recovery is over. -/
def recovered (s : State) (k : Nat) : State :=
  resumeMember (s.modRel (fun r => { r with recover := r.recover.filter (· != k) })) (ctxPart s k)

/-- Whether a save carries poison that its restore consumes (R430). -/
def savePoison (x : Vcore) : Option Policy := x.winPoison.foldl (fun a p => joinP a (some p.2)) none

/-- What poison in a recovery save does to its context, which the reset has stopped already (R290, R430): the event of its policy, and
under PARTITION the stop of the partition's other contexts. -/
def savePoisoned (s : State) (k : Nat) (c : Ctx) (p : Policy) : State :=
  let s := s.modPart c.part (fun q => { q with poisonc := satInc q.poisonc })
  match p with
  | .partition => (partCtxs s c.part).foldl stopCtx (raiseCtx s 0x2303 k 0)
  | _ => raiseCtx s 0x2301 k 0

/-- CONTEXT_RECOVERY (R419): a context in a reset's scope is restored from its latest recovery saves, once the operations that it has
issued on other cores are over. Poison in a save is consumed, and firmware falls back to the older save once (R430); without any save, or
without RCV_EN, the context stays stopped. -/
def execContextRecovery (k : Nat) (s : State) : Host.Outcome State Fault Refusal :=
  .next (match s.ctx? k with
    | none => s
    | some c =>
      if !s.rel.recover.contains k || c.vcs.any (fun p => p.2.ops.any (fun o => o.phase != .queued)) then s
      else
        let pick := fun (i : Nat) => c.vcs.map (fun p => (p.1, p.2, (tgetD c.saves p.1 [])[i]?))
        let usable := fun (l : List (Nat × Vcore × Option Vcore)) => l.all (fun p => match p.2.2 with
          | some x => (savePoison x).isNone
          | none => false)
        let whole := fun (l : List (Nat × Vcore × Option Vcore)) => l.all (fun p => p.2.2.isSome)
        let worst := fun (l : List (Nat × Vcore × Option Vcore)) => l.foldl (fun a p => joinP a (p.2.2.bind savePoison)) none
        let back := fun (t : State) (l : List (Nat × Vcore × Option Vcore)) =>
          recovered (t.modCtx k (fun c => { c with
            st := .running, vcs := l.map (fun p => (p.1, match p.2.2 with | some x => restoreVc p.2.1 x | none => p.2.1)) })) k
        if usable (pick 0) then back s (pick 0)
        else
          let s := match worst (pick 0) with
            | some p => if whole (pick 0) then savePoisoned s k c p else s
            | none => s
          if usable (pick 1) then back s (pick 1) else recovered s k)

/-- The next suspect's turn; after the last, with none that reproduced the fault, every suspect resumes and the core receives a suspect
mark (R417). An update engine carries no marks. -/
def nextSuspect (s : State) (n k : Nat) (last : Bool) : State :=
  match (tgetD s.rel.suspects n []).filter (fun j => decide (k < j) && !last) with
  | j :: _ => giveTurn s n (some j)
  | [] => giveTurn (if n < 256 then markCore s n 0x4301 else s) n none

/-- ISOLATION_REPLAY (R417): the turn of a suspect ends. An update engine's suspects stand under 256 plus its cluster. -/
def execIsolationReplay (n k : Nat) (r : IsolationResult) (s : State) : Host.Outcome State Fault Refusal :=
  .next (if suspectTurn s n != some k then s
    else match r with
    | .reproduced parity =>
      let step := match s.ctx? k with | some c => curStep s c.part | none => 0
      let s := raiseCtx s (if parity then 0x4102 else 0x4301) k (data4 (if n < 256 then n else 0xFF) (suspectCore n / 8) 0 step)
      giveTurn (stopCtx s k) n none
    | .unfinished => nextSuspect s n k false
    | .clean last => nextSuspect s n k last)

/-! ### Cold start (R456 to R458, R422 to R424) -/

/-- A unit that fails a power-up test (R424). Units: a logical core (sets 1, 2), a cluster (3), a die's bank as 64 × die +
bank (5), a stack (6), a package (7), a link lane as 5 × link + lane or, from 320 on, a laser as 6 × engine + laser (8);
log 6. -/
def testFailure (s : State) (set unit : Nat) : State :=
  let s := raiseDev s 0x4601 (data4 (if set ≤ 2 then unit else 0) (if set = 3 then unit else 0) 0 0)
  match set with
  | 1 | 2 => retireCore s (unit % 256) 0x4601
  | 3 => retireEngine s (unit % 32) 0x4601
  | 5 => spareBank s unit 0x4601
  | 6 => spareChannel s (unit % 32) 0x4601
  | 8 =>
    if unit < 320 then
      let l := unit / 5
      if unit % 5 = 4 then s.modLink l (fun k => { k with spareDark := true })
      else if (s.link l).spareIn || (s.link l).spareDark then failBeyond s 2 l (unit % 5) 0x4601 0 0
      else remapEvent (s.modLink l (fun k => { k with spareIn := true, spared := BitVec.ofNat 2 (unit % 5) })) 2 l (unit % 5) 0x4601 0 0
    else
      let e := (unit - 320) / 6 % 8
      let m := (unit - 320) % 6
      let s := s.modOptic e (fun o => { o with laserOk := setFld o.laserOk m m 0 })
      if m < 5 && !(s.optic e).spareUsed then
        remapEvent (s.modOptic e (fun o => { o with spareUsed := true, spared := BitVec.ofNat 3 m })) 6 (8 * e + m) m 0x4601 0 0
      else s
  | 7 => failBeyond s 3 (32 + unit % 48) 0 0x4601 0 0
  | _ => declareFailed s 0 0

/-- The region entry of the sample store (R415): firmware-private, SCRATCH, HASH256. -/
def sampleEntry : Word64 := BitVec.ofNat 64 (1 + 0x3F * 2 + 2 * 2 ^ 13)

/-- What a cold power-up leaves before the boot ROM runs (the Cold column of R461), with the straps and the light found. -/
def coldState (s : State) (c : ColdStart) : State :=
  let spared := fun (k : Nat) => s.rel.repair.filter (fun e => e.kind == k && e.action == 0)
  { pending := s.pending, free := s.free, maps := tmap s.maps (fun _ m => { spare := m.spare }),
    mem := { pcspared := BitVec.ofNat 8 (spared 3).length, bspared := BitVec.ofNat 8 (spared 4).length,
             parts := (spared 3).foldl (fun t e => tput t e.logical { spared := true }) [] },
    fab := { slot := BitVec.ofNat 6 c.slot, pod := s.fab.podNext, podNext := s.fab.podNext, out := s.fab.out,
             links := c.litLinks.foldl (fun t l => tput t l { lit := true, st := .train }) [],
             optics := (List.range 8).map (fun e => (e, { laserOk := 0x3F })) },
    host := { bytes := s.host.bytes, msix := s.host.msix, poisonOut := s.host.poisonOut, perst := s.host.perst, cfgReady := !s.host.perst },
    mgmt := { imgA := s.mgmt.imgA, imgB := s.mgmt.imgB, preferB := s.mgmt.preferB, minSvn := s.mgmt.minSvn,
              smbAddr := s.mgmt.smbAddr, rstOnPerst := s.mgmt.rstOnPerst },
    rel := { repair := s.rel.repair, spareUsed := s.rel.spareUsed, engUsed := s.rel.engUsed,
             retired := s.rel.retired, lifeBase := lifeSeconds s } }

/-- The clocks after step 3 (R442). -/
def startClocks (s : State) (rpll : Bool) : State :=
  let s := s.modPwr (fun p => { p with
    rmPll := rpll, lock := if rpll then 0xFF else 0xFE, xoOk := true, aclk := (List.range 4).map (fun d => (d, 1500)) })
  if rpll then s else declareFailed (raiseDev s 0x4601 (data4 0 0 0 0)) 0 0

/-- The memories after step 6 (R295, R415, R456). -/
def startMemory (s : State) : State :=
  let lim := fun (p : Nat) => BitVec.ofNat 8 (max 75 (min 105 (Config.partThreshold p))).toNat
  let s := putEntry s (Config.sampleRegion % 131072) sampleEntry
  s.modMem (fun m => { m with
    ready := true, parts := (List.range 80).map (fun p => (p, { (tgetD m.parts p {} : MemPart) with t3lim := lim p })) })

/-- COLD_START (R456): from the unpowered module, or after OFF. -/
def execColdStart (c : ColdStart) (s : State) : Host.Outcome State Fault Refusal :=
  .next (if s.pwr.st != .off && s.mgmt.fwstate != 0 then s
    else
      let s := coldState s c
      let rm := rmRetired s false
      let s := boot s rm
      if s.mgmt.bootrom then s
      else
        let s := startMemory (startClocks s c.rpllLocks)
        let s := c.fails.foldl (fun t f => testFailure t f.1 f.2) s
        if s.rel.failed then s.modMgmt (fun m => { m with fwstate := 3 })
        else (s.modMem (fun m => { m with hinted := false })).modMgmt (fun m => { m with fwstate := 2 }))

end Sys2Proof.Machine
end

