-- ==== Sys2Proof/Machine/Host.lean ====
section
/-! DEFINITION. The host interface: command rings (R368 to R373), event records and rings (R374 to R376, R394), BAR2 (R365,
R366, R292), function resets (R359, R360), bus mastering and D3hot (R355, R356), management traffic (R320, R367). -/

namespace Sys2Proof.Machine

open Sys2Proof

/-! ### Functions and channels -/

/-- The opcodes of R380 to R385. -/
def knownOps : List Nat :=
  [0x6001, 0x6002, 0x6010, 0x6011, 0x6012, 0x6013, 0x6020, 0x6021, 0x6030, 0x6031, 0x6032, 0x2001, 0x2002, 0x2010, 0x2020,
   0x3001, 0x3002, 0x3003, 0x3010, 0x3011, 0x3020, 0x3021, 0x4001, 0x4002, 0x4003, 0x4004, 0x4005, 0x5001, 0x5002, 0x5003,
   0x5004, 0x7001, 0x7002, 0x7003, 0x7004, 0x7005, 0x7006, 0x7007, 0x7008]

/-- Whether the module executes anything: not in CAROUSEL or OFF. -/
def awake (s : State) : Bool := s.pwr.st != .carousel && s.pwr.st != .off

/-- Whether a channel addresses another member (R367). -/
def chanRemote (s : State) (fn ch : Nat) : Bool := fn == 0 && ch != s.fab.slot.toNat

/-- The device that PF0's channel addresses. -/
def chanDev (s : State) (ch : Nat) : Nat := s.fab.pod.toNat * 64 + ch

/-- REACH of a channel (R368). -/
def chanReach (s : State) (fn ch : Nat) : Bool :=
  !chanRemote s fn ch || (s.fab.memberList.contains (chanDev s ch) && hasRoute s (chanDev s ch))

/-- READY of a channel (R368, R457): the local channel of PF0 also while FWSTATE is 0x1 or the boot ROM waits. -/
def chanReady (s : State) (fn ch : Nat) : Bool :=
  awake s && s.mgmt.ready && chanReach s fn ch &&
  (s.mgmt.fwstate == 2 || s.mgmt.fwstate == 4 || (fn == 0 && ch == s.fab.slot.toNat))

/-- Whether a function may issue requests (R355, R356). -/
def canDma (s : State) (fn : Nat) : Bool := (s.fn fn).bme && !(s.fn fn).d3

def ringSize (r : Ring) : Nat := 2 ^ r.log2.toNat

/-- The partition of a function. -/
def fnPart (fn : Nat) : Nat := fn

/-- Stop a ring (R373). -/
def stopRing (s : State) (fn ch r code : Nat) : State :=
  raise (s.modRing fn ch r (fun x => { x with stopped := true })) code (some (fnPart fn)) none 0

/-! ### Host memory -/

def hostBytes (s : State) (a n : Nat) : List Byte := memBytes s.host.bytes a n
def hostNat (s : State) (a n : Nat) : Nat := memNat s.host.bytes a n
def hostWrite (s : State) (a : Nat) (bs : List Byte) : State := s.modHost (fun h => { h with bytes := memPutAll h.bytes a bs })

/-! ### Commands (R369 to R373) -/

/-- The head of a ring on a remote channel travels to its member (R320), and fails at once if none can be reached (R393). -/
def startRemote (s : State) (fn ch r : Nat) : State :=
  let x := s.ring fn ch r
  match x.fetched with
  | [] => s
  | e :: _ =>
    if x.running || x.done.isSome then s
    else if chanReach s fn ch then (s.modRing fn ch r (fun x => { x with running := true })).emit (.mgmt ch (.command r e))
    else finish s (.ring fn ch r) 0x0C 0

/-- A command that has come to the head of its ring: one for another member leaves, and an unknown opcode completes with
0x01 (R354). -/
def headCome (s : State) (fn ch r : Nat) : State :=
  if chanRemote s fn ch then startRemote s fn ch r
  else
    let x := s.ring fn ch r
    match x.fetched with
    | e :: _ => if !x.running && x.done.isNone && !knownOps.contains (fld e 15 0) then finish s (.ring fn ch r) 1 0 else s
    | [] => s

/-- New commands of a ring, up to a producer index: their doorbell takes the next number (R372), and the numbers of commands that
have completed are forgotten. -/
def ringBell (s : State) (fn ch r : Nat) (value : Word32) : State :=
  (s.modRing fn ch r (fun x => { x with
    prod := value,
    bells := x.bells.filter (fun b => b.1 != x.cons && decide ((b.1 - x.cons).toNat < 2 ^ 31)) ++ [(value, s.host.bellNo)] })).modHost
    (fun h => { h with bellNo := h.bellNo + 1 })

/-- A command that has come to the module by MGMT traffic or out of band, in order of arrival (R372). -/
def queueRemote (s : State) (key : Nat) (e : Entry) : State :=
  s.modHost (fun h => { h with remote := tmod h.remote key [] (· ++ [e]), remoteBells := tmod h.remoteBells key [] (· ++ [h.bellNo]),
                               bellNo := h.bellNo + 1 })

/-- A write to MBX_DB_CMD (R371, R373): ignored while READY is 0, but kept in CAROUSEL, where it wakes (R451). -/
def cmdDoorbell (s : State) (fn ch r : Nat) (value : Word32) : State :=
  let x := s.ring fn ch r
  if !x.en || x.stopped || (s.fn fn).d3 || (s.pwr.st != .carousel && !chanReady s fn ch) then s
  else if ringSize x < (value - x.sqHead).toNat then stopRing s fn ch r 0x6101
  else ringBell s fn ch r value

/-- COMMAND_DOORBELL (R371, R373). -/
def execCommandDoorbell (fn ch r : Nat) (value : Word32) (s : State) : Host.Outcome State Fault Refusal :=
  .next (cmdDoorbell s fn ch r value)

/-- COMMAND_FETCH (R371 to R373): the next command of a ring; `bad` is a fetch that returns an error or poison. -/
def execCommandFetch (fn ch r : Nat) (bad : Bool) (s : State) : Host.Outcome State Fault Refusal :=
  let x := s.ring fn ch r
  .next (if !x.en || x.stopped || x.sqHead == x.prod || !canDma s fn || !chanReady s fn ch || ringSize x ≤ (x.sqHead - x.cons).toNat then s
    else if bad then stopRing s fn ch r 0x6102
    else
      let e := BitVec.ofNat 512 (hostNat s (x.base.toNat + 64 * (x.sqHead.toNat % ringSize x)) 64)
      headCome (s.modRing fn ch r (fun x => { x with fetched := x.fetched ++ [e], sqHead := x.sqHead + 1 })) fn ch r)

/-- PHASE of entry i of a ring of 2^log2 entries (R370). -/
def phaseOf (i : Word32) (log2 : Nat) : Nat := 1 - i.toNat / 2 ^ log2 % 2

/-- COMPLETION_POST (R370, R377): the finished command's entry goes to its slot, then the vector is signalled, and the next
command may start. -/
def execCompletionPost (fn ch r : Nat) (s : State) : Host.Outcome State Fault Refusal :=
  let x := s.ring fn ch r
  .next (match x.done with
    | none => s
    | some d =>
      if !awake s then s
      else if x.drop != 0 then
        headCome (s.modRing fn ch r (fun x => { x with fetched := x.fetched.tail, done := none, running := false, drop := x.drop - 1 })) fn ch r
      else if !canDma s fn then s
      else
        let c := (cplBits d.cid d.status.toNat d.result.toNat).toNat + phaseOf x.cqTail x.log2.toNat * 2 ^ 24 + x.sqHead.toNat * 2 ^ 32
        let s := hostWrite s (x.cplBase.toNat + 16 * (x.cqTail.toNat % ringSize x)) (natToBytes 16 c)
        let s := s.modRing fn ch r (fun x => { x with cqTail := x.cqTail + 1, fetched := x.fetched.tail, done := none, running := false })
        let s := if x.ien then signal s fn (if fn = 0 then 32 * ch + r else r) else s
        headCome s fn ch r)

/-- A write to MBX_DB_CPL (R371, R373). -/
def cplDoorbell (s : State) (fn ch r : Nat) (value : Word32) : State :=
  let x := s.ring fn ch r
  if !x.en || x.stopped || (s.fn fn).d3 || !awake s then s
  else if (x.cqTail - x.cons).toNat < (value - x.cons).toNat then stopRing s fn ch r 0x6101
  else s.modRing fn ch r (fun x => { x with cons := value })

/-- COMPLETION_DOORBELL (R371, R373). -/
def execCompletionDoorbell (fn ch r : Nat) (value : Word32) (s : State) : Host.Outcome State Fault Refusal :=
  .next (cplDoorbell s fn ch r value)

/-- A write to MBX_DB_EVT (R376). -/
def evtDoorbell (s : State) (fn ch : Nat) (value : Word32) : State :=
  if (s.fn fn).d3 || !awake s then s else s.modChan fn ch (fun c => { c with evrTail := value })

/-- EVENT_DOORBELL (R376). -/
def execEventDoorbell (fn ch : Nat) (value : Word32) (s : State) : Host.Outcome State Fault Refusal :=
  .next (evtDoorbell s fn ch value)

/-- Write EN of a ring (R368): 0 to 1 sets every index to 0 and ends a stop. -/
def setRingEn (s : State) (fn ch r : Nat) (en : Bool) : State :=
  s.modRing fn ch r (fun x =>
    if en && !x.en then { x with en := true, stopped := false, sqHead := 0, cqTail := 0, prod := 0, cons := 0, bells := [] } else { x with en := en })

/-- RING_ENABLE (R368, R373). -/
def execRingEnable (fn ch r : Nat) (en : Bool) (s : State) : Host.Outcome State Fault Refusal :=
  .next (if (s.fn fn).d3 || !awake s then s else setRingEn s fn ch r en)

/-- RESET of a channel (R368): every ring is disabled, the event ring too, as for EN = 0 (R373): the commands it has fetched
complete, and their completions are discarded. -/
def resetChan (s : State) (fn ch : Nat) : State :=
  s.modChan fn ch (fun c => { c with
    evrEn := false, rings := tmap c.rings (fun _ x => { x with en := false, drop := x.fetched.length }) })

/-- CHANNEL_RESET (R368). -/
def execChannelReset (fn ch : Nat) (s : State) : Host.Outcome State Fault Refusal :=
  .next (if (s.fn fn).d3 || !awake s then s else resetChan s fn ch)

/-! ### Events (R374 to R376, R394) -/

/-- Severity of an event code (R394). -/
def severity (code : Nat) : Nat :=
  if [0x1204, 0x1206, 0x2101, 0x2401, 0x2402, 0x3001, 0x3003, 0x3004, 0x3101, 0x3401, 0x4303, 0x4401, 0x4501, 0x4603, 0x5301,
      0x5302, 0x5303, 0x6201, 0x6301, 0x6401, 0x6404, 0x6501, 0x6502].contains code then 0
  else if [0x2403, 0x4402, 0x4502, 0x4602, 0x5103, 0x5204].contains code then 3
  else if [0x1001, 0x1002, 0x1003, 0x1004, 0x1005, 0x1006, 0x1202, 0x1208, 0x1302, 0x2001, 0x2002, 0x2003, 0x2102, 0x2201,
      0x2301, 0x2303, 0x2305, 0x3002, 0x3203, 0x3301, 0x3302, 0x3305, 0x3306, 0x3402, 0x3403, 0x3404, 0x3502, 0x4101, 0x4102,
      0x4203, 0x4301, 0x4302, 0x4601, 0x5101, 0x6101, 0x6102, 0x6402, 0x7001, 0x7002, 0x7003, 0x7004, 0x7006, 0x7007, 0x7008,
      0x7009].contains code then 2
  else 1

/-- An event record, without its phase (R374). -/
def eventRecord (s : State) (e : Event) : Nat :=
  severity e.code.toNat * 2 + b2n e.ptv * 2 ^ 4 + (match e.ctx with | some k => 2 ^ 5 + k % 64 * 2 ^ 6 | none => 0) +
  (match e.part with | some n => n % 64 | none => 0x3F) * 2 ^ 12 + s.fab.slot.toNat * 2 ^ 18 + e.code.toNat * 2 ^ 32 +
  e.pt.toNat * 2 ^ 64 + e.data.toNat * 2 ^ 128

/-- Put one record into an event ring that has room; the vector is signalled by the caller. -/
def putRecord (s : State) (fn ch rec_ : Nat) : State :=
  let c := s.chan fn ch
  let n := 2 ^ c.evrLog2.toNat
  (hostWrite s (c.evrBase.toNat + 32 * (c.evrHead.toNat % n)) (natToBytes 32 (setBits rec_ 0 0 (phaseOf c.evrHead c.evrLog2.toNat)))).modChan
    fn ch (fun c => { c with evrHead := c.evrHead + 1 })

/-- Whether an event ring has room for a record. -/
def evrRoom (c : Chan) : Bool := decide ((c.evrHead - c.evrTail).toNat < 2 ^ c.evrLog2.toNat)

/-- The record of event 0x6103 with the number of records lost (R375, R376). -/
def lostRecord (s : State) (fn lost : Nat) : Nat :=
  eventRecord s { code := 0x6103, part := some (fnPart fn), ctx := none, data := BitVec.ofNat 128 (lost * 2 ^ 64), ptv := s.time.valid,
                  pt := if s.time.valid then s.time.pt else s.time.up }

/-- Deliver a record to a channel (R376, R380): a disabled ring discards it, EVENT_MASK suppresses it, a full ring counts
it, and the first record after a loss is event 0x6103. -/
def deliverEvent (s : State) (rec_ : Nat) (fn ch : Nat) : State :=
  let c := s.chan fn ch
  let code := bits rec_ 47 32
  if !c.evrEn || c.maskClass.getLsbD (code / 4096 - 1) || bits rec_ 3 1 < c.maskSev.toNat then s
  else
    let s := if 0 < c.lostNew && evrRoom c then
        (putRecord s fn ch (lostRecord s fn c.lostNew)).modChan fn ch (fun c => { c with lostNew := 0 }) else s
    let s := if evrRoom (s.chan fn ch) then putRecord s fn ch rec_
      else s.modChan fn ch (fun c => { c with evrLost := satInc c.evrLost, lostNew := c.lostNew + 1 })
    if c.evrIen && (s.chan fn ch).evrHead != c.evrHead then signal s fn (if fn = 0 then 32 * ch + 8 else 8) else s

/-- The channels of an event (R376). -/
def eventChans (s : State) (e : Event) : List (Nat × Nat) :=
  let pf := (0, s.fab.slot.toNat)
  match e.part with
  | some n => if n = 0 then [pf] else (n, 0) :: (if (s.chan 0 s.fab.slot.toNat).allpart then [pf] else [])
  | none => [pf]

/-- Whether an event goes out of band as a PlatformEventMessage (R391). -/
def isPlatformEvent (e : Event) : Bool :=
  let c := e.code.toNat
  e.part.isNone && ((2 ≤ severity c && (c / 4096 == 2 || c / 4096 == 4 || c / 4096 == 5)) || c == 0x6402 || c == 0x6403)

/-- Whether every ring that an event needs can be written (R355). -/
def eventReady (s : State) (e : Event) : Bool := (eventChans s e).all (fun p => !(s.chan p.1 p.2).evrEn || canDma s p.1)

/-- EVENT_POST (R376, R391): the first event that can be posted goes to its channels, from another member to the gateway of an UP pod, and out
of band where it qualifies. -/
def execEventPost (s : State) : Host.Outcome State Fault Refusal :=
  .next (if !awake s then s
    else match s.host.raised.find? (eventReady s) with
    | none => s
    | some e =>
      let s := s.modHost (fun h => { h with raised := h.raised.erase e })
      let rec_ := eventRecord s e
      let s := (eventChans s e).foldl (fun t p => deliverEvent t rec_ p.1 p.2) s
      let s := if isPlatformEvent e then s.emit (.pldmEvent (BitVec.ofNat 256 rec_)) else s
      if s.fab.podup && s.fab.slot.toNat != Config.gatewaySlot then s.emit (.mgmt Config.gatewaySlot (.event (BitVec.ofNat 256 rec_))) else s)

/-- MGMT_MESSAGE (R320, R367, R393): a command for this member, or an answer, an event or the loss of one. -/
def execMgmtMessage (slot : Nat) (m : MgmtMsg) (s : State) : Host.Outcome State Fault Refusal :=
  .next (match m with
    | .command r e =>
      if knownOps.contains (fld e 15 0) then queueRemote s (slot * 8 + r) e
      else s.emit (.mgmt slot (.completion r (cplBits (BitVec.ofNat 16 (fld e 31 16)) 1 0)))
    | .completion r c =>
      if (s.ring 0 slot r).running then finish s (.ring 0 slot r) (fld c 23 16) (fld c 127 64) else s
    | .event rec_ => deliverEvent s rec_.toNat 0 slot
    | .unreachable =>
      let rs := (s.chan 0 slot).rings.filter (fun r => r.2.running)
      let s := rs.foldl (fun t r => finish t (.ring 0 slot r.1) 0x0C 0) s
      raiseDev s 0x6503 0
    | .refState dev ok => hearRef s dev ok)

/-! ### BAR2 (R365, R366, R268, R292) -/

/-- Runs of enabled bytes of a write, with the poison of an EP write (R355). -/
def writeRuns (da : Nat) (bs : List (Option Byte)) (ep : Bool) : List (Nat × List PByte) :=
  joinWrites ((bs.mapIdx (fun i b => (i, b))).filterMap (fun p => p.2.map (fun b => (da + p.1, [(b, if ep then some .context else none)]))))

/-- The DA of an offset in a function's window (R365): the window size is set through the Resizable BAR capability and aligns the
window, so BAR2_BASE bits below it do not count (DEDUCED, log 26). -/
def barDa (s : State) (fn off : Nat) : Nat :=
  let win := 2 ^ (30 + (s.fn fn).bar2Log2)
  (s.chan fn 0).bar2Base.toNat % 2 ^ 48 / win * win + off % win

/-- Answer a host read. -/
def reply (s : State) (r : Reply) : State := s.modHost (fun h => { h with reply := some r })

/-- A refused host access (R268): the event goes to PF0. -/
def refuseHost (s : State) (code da : Nat) : State := raise s code (some 0) none (data2 da 0 (regionOf da))

/-- The refusal of a BAR2 access (R267): a VF whose partition does not exist has every access refused (R358). -/
def barRefusal (s : State) (fn da n : Nat) : Option Nat :=
  (accessRefusal s (.host fn) da n).or (if fn = 0 || (s.part fn).exist then none else some 0x2001)

/-- BAR2_ACCESS (R366): outside RUN and IDLE reads return all-ones and writes are discarded (R451). An AtomicOp request, and a read
that no BAR decodes (R356), complete as an Unsupported Request (R355). -/
def execBar2Access (fn : Nat) (a : Bar2) (s : State) : Host.Outcome State Fault Refusal :=
  let ones := fun (n : Nat) => Reply.data (List.replicate n 0xFF) false
  .next (if s.pwr.st = .off then s
    else if (s.fn fn).d3 then (match a with
      | .write _ _ _ => s
      | _ => reply s .unsupported)
    else match a with
    | .atomic _ => reply s .unsupported
    | .read off n =>
      let da := barDa s fn off
      if s.pwr.st != .run && s.pwr.st != .idle then reply s (ones n)
      else match barRefusal s fn da n with
        | some code => reply (refuseHost s code da) (ones n)
        | none =>
          if accessWaits s da n then s
          else
            let s := demand s none da n
            let bs := devRead s da n
            let ep := (strongest bs).isSome
            let s := reply s (.data (bs.map Prod.fst) ep)
            let g := poisonedAt da bs
            if ep then raiseDev s 0x2304 (data2 g 0 (regionOf g)) else s
    | .write off bs ep =>
      let da := barDa s fn off
      if s.pwr.st != .run && s.pwr.st != .idle then s
      else match barRefusal s fn da bs.length with
        | some code => refuseHost s code da
        | none =>
          if accessWaits s da bs.length then s
          else (writeRuns da bs ep).foldl (fun t w => devWrite t w.1 w.2) s)

/-! ### Function resets (R359, R360) -/

/-- A function at its reset values; a VF stays enabled. A command that was running runs on, and its completion is not posted (R359). -/
def freshFn (f : Fn) : Fn :=
  { enabled := f.enabled,
    chans := tmap f.chans (fun _ c => { rings := tmap c.rings (fun _ x =>
      if x.running && x.done.isNone then { fetched := x.fetched.take 1, running := true, drop := 1 } else {}) }) }

/-- A function-level reset: checks abandoned (R430), contexts destroyed, a partition reset, the function's own registers, event 0x6502. -/
def doFlr (s : State) (fn : Nat) : State :=
  let n := fnPart fn
  let s := s.modFn fn freshFn
  let s := if n = 0 || (s.part n).exist then
      let s := dropChecks s n
      let s := (partCtxs s n).foldl endCtx s
      doScopeReset s 2 n []
    else s
  raiseDev s 0x6502 0

/-- FLR (R359). -/
def execFlr (fn : Nat) (s : State) : Host.Outcome State Fault Refusal := .next (doFlr s fn)

/-- Function-level resets of every enabled VF (R360). -/
def flrVfs (s : State) : State :=
  (s.host.fns.filter (fun f => f.1 != 0 && f.2.enabled)).foldl (fun t f => doFlr t f.1) s

/-- VF_ENABLE_CLEAR (R360). -/
def execVfEnableClear (s : State) : Host.Outcome State Fault Refusal :=
  .next ((flrVfs s).modHost (fun h => { h with fns := tmap h.fns (fun n f => if n = 0 then f else { f with enabled := false }) }))

/-- A conventional or hot reset (R360): every function, the configuration space, and the device where RST_ON_PERST asks. -/
def conventionalReset (s : State) : State :=
  let s := doFlr (flrVfs s) 0
  let s := s.modHost (fun h => { h with fns := tmap h.fns (fun _ f => { freshFn f with enabled := false }), resetDue := false })
  if s.mgmt.rstOnPerst then requestReset s 4 0 none else s

/-- PERST_OR_HOT_RESET (R360, R463): in CAROUSEL it takes effect once the module has left it. -/
def execPerstOrHotReset (perst : Bool) (s : State) : Host.Outcome State Fault Refusal :=
  let s := if perst then s.modHost (fun h => { h with perst := true, cfgReady := false, training := false }) else s
  .next (if s.pwr.st == .carousel then s.modHost (fun h => { h with resetDue := true })
    else if s.pwr.st == .off then s
    else conventionalReset s)

/-- PERST_DEASSERT (R457): the link trains, and the configuration space becomes ready. -/
def execPerstDeassert (s : State) : Host.Outcome State Fault Refusal :=
  .next (s.modHost (fun h => { h with perst := false, training := true, cfgReady := s.mgmt.fwstate != 0 }))

/-- Signal the pending vectors of a function that may send again. -/
def sendPending (s : State) (fn : Nat) : State :=
  ((s.fn fn).vecs.filter (fun v => v.2.pend && !v.2.masked)).foldl (fun t v => signal t fn v.1) s

/-- BUS_MASTER_ENABLE (R355). The host's enabling of a VF and of MSI-X comes with it (log 26). -/
def execBusMasterEnable (fn : Nat) (s : State) : Host.Outcome State Fault Refusal :=
  .next (sendPending (s.modFn fn (fun f => { f with bme := true, enabled := true, msixEn := true })) fn)

/-- D3HOT_ENTRY (R356). -/
def execD3hotEntry (fn : Nat) (s : State) : Host.Outcome State Fault Refusal := .next (s.modFn fn (fun f => { f with d3 := true }))

/-- RETURN_TO_D0 (R356). -/
def execReturnToD0 (fn : Nat) (s : State) : Host.Outcome State Fault Refusal :=
  .next (sendPending (s.modFn fn (fun f => { f with d3 := false })) fn)

/-! ### Commit commands (R187) -/

/-- Resume a halted member (R181, R420). -/
def releaseMember (s : State) (n : Nat) : State :=
  if (s.cmt n).halted then sendResume (sendCtl (s.modCmt n (fun c => { c with halted := false })) n 5 (curStep s n)) n else s

/-- Whether a function sees a partition's block (R361). -/
def seesPart (fn n : Nat) : Bool := fn == 0 || fn == n

/-- RELEASE (R187). -/
def execRelease (fn n : Nat) (s : State) : Host.Outcome State Fault Refusal :=
  .next (if seesPart fn n && !(s.fn fn).d3 && awake s then releaseMember s n else s)

/-- ABANDON (R187): the current attempt is abandoned with reason 7. -/
def abandonMember (s : State) (n : Nat) : State := if (s.att n).isOpen then causeAbandon s n 7 else s

/-- ABANDON (R187). -/
def execAbandon (fn n : Nat) (s : State) : Host.Outcome State Fault Refusal :=
  .next (if seesPart fn n && !(s.fn fn).d3 && awake s then abandonMember s n else s)

end Sys2Proof.Machine
end

