-- ==== Sys2Proof/Machine/Registers.lean ====
section
/-! DEFINITION. BAR0 (R361 to R364): what every register reads as, and what a write does to it. Reserved fields read as zero and
ignore what is written (R9). -/

namespace Sys2Proof.Machine

open Sys2Proof

/-! ### Layout (R361, R362) -/

/-- The register blocks of BAR0. -/
inductive Block where
  | chan (c : Nat) | part (n : Nat) | cluster (k : Nat) | core (n : Nat) | mem | fab | rel | pwr | mgmt
  deriving DecidableEq, Repr

/-- The block of an offset, as a function sees it, and the offset in the block. -/
def blockOf (s : State) (fn off : Nat) : Option (Block × Nat) :=
  if off < 0x10000 then (if fn = 0 ∨ off < 0x400 then some (.chan (off / 0x400), off % 0x400) else none)
  else if off < 0x20000 then some (.part (fnPart fn), off - 0x10000)
  else if off < 0x40000 then
    let k := (off - 0x20000) / 4096
    if fn = 0 || holdsCluster s fn k then some (.cluster k, off % 4096) else none
  else if off < 0x100000 then none
  else if off < 0x200000 then
    let n := (off - 0x100000) / 4096
    if fn = 0 || holdsCluster s fn (n / 8) then some (.core n, off % 4096) else none
  else if fn ≠ 0 then none
  else if off < 0x210000 then some (.mem, off - 0x200000)
  else if off < 0x220000 then some (.fab, off - 0x210000)
  else if off < 0x230000 then some (.rel, off - 0x220000)
  else if off < 0x240000 then some (.pwr, off - 0x230000)
  else if off < 0x250000 then some (.mgmt, off - 0x240000)
  else if off < 0x400000 then none
  else if off < 0x600000 then some (.part ((off - 0x400000) / 0x10000 + 1), off % 0x10000)
  else none

/-- A 64-bit register put together from fields: (lowest bit, value). -/
def pack (fs : List (Nat × Nat)) : Word64 := BitVec.ofNat 64 (fs.foldl (fun a f => a + f.2 * 2 ^ f.1) 0)

/-! ### Reads -/

/-- Channel registers (R368). -/
def readChan (s : State) (fn c o : Nat) : Word64 :=
  let x := s.chan fn c
  let remote := chanRemote s fn c
  if o = 0 then pack [(0, b2n x.allpart), (2, b2n x.tien)]
  else if o = 0x8 then
    pack [(0, b2n (chanReady s fn c)), (1, b2n !remote), (2, b2n (chanReach s fn c)),
          (3, b2n (s.mgmt.bootrom && s.mgmt.ready && fn == 0 && !remote)), (4, if remote then chanDev s c else s.devId)]
  else if o = 0x10 then x.evrBase
  else if o = 0x18 then pack [(0, x.evrLog2.toNat), (5, b2n x.evrEn), (6, b2n x.evrIen), (7, x.evrImod.toNat)]
  else if o = 0x20 then pack [(0, x.evrHead.toNat)]
  else if o = 0x30 then pack [(0, x.evrLost.toNat)]
  else if o = 0x300 then (if c = 0 then x.bar2Base else 0)
  else if 0x40 ≤ o ∧ o < 0x140 then
    let r := tgetD x.rings ((o - 0x40) / 0x20) {}
    match (o - 0x40) % 0x20 with
    | 0 => r.base
    | 8 => r.cplBase
    | 0x10 => pack [(0, r.log2.toNat), (4, b2n r.en), (5, b2n r.ien), (6, r.imod.toNat), (22, b2n r.stopped), (23, b2n r.fetched.isEmpty)]
    | 0x18 => pack [(0, r.sqHead.toNat), (32, r.cqTail.toNat)]
    | _ => 0
  else 0

/-- The commit selector table (R188): the word of layers 32·i to 32·i + 31. -/
def readSel (c : Commit) (i : Nat) : Word64 :=
  pack ((List.range 32).flatMap (fun j => [(2 * j, b2n (c.sel.getLsbD (32 * i + j))), (2 * j + 1, b2n (c.armed.getLsbD (32 * i + j)))]))

/-- Partition registers (R130, R142, R187, R188, R301, R363, R434). -/
def readPart (s : State) (n o : Nat) : Word64 :=
  let p := s.part n
  let j := if p.view then p.shadow else p.active
  let c := p.cmt
  match o with
  | 0x100 => pack [(0, b2n p.view)]
  | 0x108 => pack [(0, (if n = 0 || p.exist then clusterSet s n else 0).toNat), (32, (partCtxs s n).length), (39, b2n (n == 0 || p.exist)),
                   (40, b2n p.idle), (41, b2n p.swap.isSome)]
  | 0x110 => match p.swap with | some w => BitVec.ofNat 64 w.beat | none => 0
  | 0x200 => s.time.pt
  | 0x300 => j.numThr
  | 0x308 => pack [(0, p.tel.base.toNat)]
  | 0x310 => pack [(0, p.tel.log2.toNat)]
  | 0x318 => pack [(0, p.tel.head.toNat)]
  | 0x320 => pack [(0, p.tel.tail.toNat)]
  | 0x328 => pack [(0, p.tel.lost.toNat)]
  | 0x330 => pack [(0, p.tel.accBase.toNat)]
  | 0x340 => j.cmtCtl
  | 0x348 => c.stepC
  | 0x350 => pack [(0, c.attempt.toNat), (16, c.abandons.toNat), (32, c.why.toNat), (36, b2n c.halted)]
  | 0x358 => c.tLast
  | 0x360 => pack [(0, j.cmtLead.toNat)]
  | 0x368 => pack [(0, j.gradDl.toNat)]
  | 0x370 => pack [(0, c.gnorm.toNat), (32, b2n c.nonfin), (33, b2n c.ovr), (34, b2n c.gnV)]
  | 0x378 => pack [(0, j.gclip.toNat)]
  | 0x380 => pack [(0, j.ssrBase.toNat)]
  | 0x388 => pack [(0, j.ltBase.toNat), (48, j.nlayers.toNat)]
  | 0x390 => pack [(0, c.folded.toNat), (32, c.dropped.toNat)]
  | 0x398 => pack [(0, c.contrib.toNat), (32, c.frozenRef.toNat)]
  | 0x3C0 => pack [(0, p.refused.toNat), (16, p.poisonc.toNat), (32, p.nrp.toNat)]
  | 0x3E0 => pack [(0, b2n p.sn.en), (1, p.sn.log2frac.toNat), (6, b2n p.sn.all), (16, p.sn.pending.toNat), (32, p.sn.checks.toNat)]
  | 0x3E8 => pack [(0, p.sn.base.toNat), (48, p.sn.size.toNat)]
  | 0x3F0 => pack [(0, p.sn.rcvCtl.toNat)]
  | _ => if 0x2000 ≤ o ∧ o < 0x2400 then readSel c ((o - 0x2000) / 8) else 0

/-- Cluster registers (R66, R189). -/
def readCluster (s : State) (k o : Nat) : Word64 :=
  let c := s.cluster k
  match o with
  | 0x180 => pack [(0, c.updNf.toNat)]
  | 0x188 => pack [(0, b2n (c.busy.isSome || c.waitpc)), (1, b2n c.waitpc), (8, (c.busy.getD 0) % 4096), (20, b2n c.busy.isSome),
                   (32, c.armedCnt.toNat), (48, c.reframes.toNat)]
  | _ => 0

/-- The virtual cores that hold slots of a core. -/
def coreVcs (s : State) (n : Nat) : List (VRef × Vcore) :=
  (s.core n).slots.filterMap (fun p => (s.vc? p.2).map (fun x => (p.2, x)))

/-- The virtual core that issues on a core. -/
def issuingVc (s : State) (n : Nat) : Option (VRef × Vcore) :=
  let r := s.core n
  (r.issuing.bind (tget r.slots)).bind (fun v => (s.vc? v).map (fun x => (v, x)))

/-- The context of an operation that runs on a unit of a core, if one runs. -/
def runningOn (s : State) (n : Nat) (u : UOp → Bool) : Option Nat :=
  ((coreVcs s n).find? (fun p => p.2.ops.any (fun o => o.phase != .queued && u o))).map (fun p => p.1.ctx)

def onArrays (o : UOp) : Bool := inUnit .arra o.word || inUnit .arrb o.word

/-- ARR_STAT (R106): over the virtual cores of the core (log 7). -/
def arrStat (s : State) (n : Nat) : Word64 :=
  let ls := (coreVcs s n).map (fun p => p.2.lacc)
  let k := runningOn s n onArrays
  pack [(0, b2n (ls.any (fun l => l.a0.data))), (1, b2n (ls.any (fun l => l.a1.data || (l.a0.data && l.a0.paired)))),
        (2, b2n (ls.any (fun l => l.b0.data))), (3, b2n (ls.any (fun l => l.b1.data || (l.b0.data && l.b0.paired)))),
        (4, b2n (ls.any (fun l => l.a0.paired))), (5, b2n (ls.any (fun l => l.b0.paired))),
        (6, b2n (runningOn s n (fun o => opOf o.word == 0x21 && t3Of o)).isSome),
        (8, (k.getD 0) % 64), (14, b2n k.isSome),
        (15, b2n (ls.any (fun l => l.a0.susp || l.a1.susp || l.b0.susp || l.b1.susp)))]

/-- CVT_STAT (R145): the passes are those of CVT and of CONVERT; a VWAIT is none. -/
def cvtStat (s : State) (n : Nat) : Word64 :=
  let k := runningOn s n (fun o => opOf o.word == 0x30 || opOf o.word == 0x23)
  let waitv := s.verdicts.any (fun m => (match s.vc? m.v with | some x => x.core == n | none => false) && (judge s m).isNone)
  let last := (s.core n).lastv
  pack [(0, b2n k.isSome), (1, b2n waitv), (8, (k.getD 0) % 64), (14, b2n k.isSome), (16, (last.getD 0).toNat), (19, b2n last.isSome)]

/-- Whether the issuing virtual core waits on an empty queue or a full unit queue (R261). -/
def waitQ (s : State) (v : VRef) (x : Vcore) : Bool :=
  match s.ctx? v.ctx with
  | some c =>
    (!x.waitPatch && waits s c v x) || (match nextWord s c v x with
      | some w => 0x10 ≤ opOf w && !unitRoom x w
      | none => false)
  | none => false

/-- ISS_STAT (R261). -/
def issStat (s : State) (n : Nat) : Word64 :=
  let r := s.core n
  let used := fun (b : Bool) => ((coreVcs s n).filter (fun p => p.2.bank == b)).foldl (fun a p => a + 2 ^ p.2.slot) 0
  match issuingVc s n with
  | none => pack [(32, used false), (40, used true)]
  | some (v, x) =>
    let quiet := match s.ctx? v.ctx with | some c => quiescent s c v x | none => false
    pack [(0, (r.issuing.getD 0) % 8), (3, 1), (4, v.ctx % 64), (10, b2n x.bank), (11, b2n (waitQ s v x)), (12, b2n quiet),
          (13, b2n x.waitPatch), (16, x.pos.idx % 65536), (32, used false), (40, used true)]

/-- CORE_HEALTH (R433). -/
def coreHealth (s : State) (n : Nat) : Word64 :=
  let r := s.core n
  pack [(0, r.progress.toNat), (32, r.stallb.toNat), (36, b2n (coreWork s n)), (37, b2n r.parErr), (38, r.parSrc.toNat),
        (41, (r.parCtx.getD 0) % 64), (47, b2n r.parCtx.isSome), (48, r.falseRes.toNat)]

/-- The mix of the four test inputs of a core (R210). -/
def testMix (r : Core) : BitVec 128 := mix r.tseed r.tstream r.tidx r.tstep

/-- Core registers (R66, R105 to R107, R144, R145, R210, R261, R262, R433). -/
def readCore (s : State) (n o : Nat) : Word64 :=
  let r := s.core n
  match o with
  | 0x400 => pack [(0, r.arrCtl.toNat)]
  | 0x408 => arrStat s n
  | 0x410 => pack [(0, r.resErr.toNat)]
  | 0x480 => pack [(0, r.cvtNf.toNat)]
  | 0x488 => pack [(0, r.vecNf.toNat)]
  | 0x490 => pack [(0, r.arrNf.toNat)]
  | 0x500 => r.rbcnt
  | 0x508 => cvtStat s n
  | 0x600 => match issuingVc s n with | some (_, x) => x.jseed | none => 0
  | 0x608 => match issuingVc s n with | some (_, x) => x.step | none => 0
  | 0x610 => pack [(0, r.gevals.toNat)]
  | 0x620 => r.tseed
  | 0x628 => pack [(0, r.tstream.toNat)]
  | 0x630 => r.tidx
  | 0x638 => r.tstep
  | 0x640 => BitVec.ofNat 64 (testMix r).toNat
  | 0x648 => BitVec.ofNat 64 ((testMix r).toNat / 2 ^ 64)
  | 0x700 => issStat s n
  | 0x710 => r.issFault
  | 0x718 => r.issCtl
  | 0x780 => coreHealth s n
  | _ => 0

/-- Memory registers (R298 to R300). -/
def readMem (s : State) (o : Nat) : Word64 :=
  let m := s.mem
  match o with
  | 0 => m.ctl
  | 0x8 => pack [(0, b2n m.ready), (1, b2n (m.parts.any (fun p => p.2.fenced))), (2, b2n (m.parts.any (fun p => p.2.t3on))), (8, m.pcspared.toNat)]
  | 0x10 => pack [(0, m.rgnSel.toNat)]
  | 0x18 => entryRead s m.rgnSel.toNat
  | 0x20 => m.ue
  | 0x28 => pack [(0, m.nrp.toNat)]
  | 0x380 => pack [(0, b2n m.hinted)]
  | 0x388 => pack [(0, b2n m.trans), (8, poolBanks s 0), (16, poolBanks s 1), (24, poolBanks s 2), (32, poolBanks s 3), (40, m.bspared.toNat)]
  | _ =>
    if 0x100 ≤ o ∧ o < 0x380 then
      let p := s.memPart ((o - 0x100) / 8)
      pack [(0, ofSigned 8 p.temp), (8, p.rmul.toNat), (10, b2n p.t3on), (11, b2n p.fenced), (12, b2n p.spared), (16, p.t3lim.toNat),
            (24, p.ce.toNat), (48, p.ue.toNat)]
    else if 0x400 ≤ o ∧ o < 0x508 then tgetD m.share ((o - 0x400) / 8) 0
    else 0

def linkCode : LinkState → Nat
  | .off => 0 | .train => 1 | .up => 2 | .down => 3

/-- LINK_STAT (R348). -/
def linkStat (l : Link) : Word64 :=
  pack [(0, linkCode l.st), (3, b2n l.spareIn), (4, l.spared.toNat), (6, b2n l.trunk), (7, b2n l.wireErr),
        (8, match l.peer with | some p => p.1 % 4096 | none => 0), (20, match l.peer with | some p => p.2 % 64 | none => 0),
        (26, b2n l.peer.isSome), (32, l.replays.toNat), (48, l.crcErr.toNat)]

/-- Fabric, Pod Time and Starter registers (R347 to R350). -/
def readFab (s : State) (o : Nat) : Word64 :=
  let f := s.fab
  let t := s.time
  match o with
  | 0 => pack [(0, s.devId % 4096), (16, f.podNext.toNat), (22, b2n f.stdwire), (24, f.members.toNat), (31, b2n f.podup),
               (32, f.leader.toNat), (44, f.tm.toNat)]
  | 0x8 => f.arb
  | 0x10 => pack [(0, f.sendTmo.toNat)]
  | 0x600 => t.pt
  | 0x608 => pack [(0, b2n t.valid), (1, b2n t.lock), (2, b2n t.holdover), (3, b2n t.refOk), (4, b2n t.syncOk), (5, b2n t.isTm), (16, t.offset.toNat)]
  | 0x610 => pack [(0, t.tmSrc.toNat), (2, t.tmPrio.toNat)]
  | 0x618 => t.syncNext
  | 0x620 => t.syncPeriod
  | 0x628 => pack [(0, t.beatPeriod.toNat)]
  | 0x630 => t.beatOrigin
  | 0x638 => t.beatNum
  | 0x6C0 => pack [(0, t.arm.toNat), (16, t.fired.toNat)]
  | 0x700 => pack [(0, f.starter.buddy.toNat), (12, b2n f.starter.en), (16, f.starter.every.toNat), (24, f.starter.bw.toNat)]
  | 0x708 => pack [(0, b2n !f.starter.busy.isEmpty), (1, b2n f.starter.suspended), (16, f.starter.abandoned.toNat)]
  | 0x710 => f.starter.last
  | _ =>
    if 0x100 ≤ o ∧ o < 0x300 then linkStat (s.link ((o - 0x100) / 8))
    else if 0x300 ≤ o ∧ o < 0x500 then
      let l := s.link ((o - 0x300) / 8)
      pack [(0, b2n l.en), (2, b2n l.ptEn)]
    else if 0x500 ≤ o ∧ o < 0x540 then
      let e := s.optic ((o - 0x500) / 8)
      pack [(0, e.laserOk.toNat), (6, b2n e.spareUsed), (7, e.spared.toNat), (16, ofSigned 8 e.temp)]
    else if 0x640 ≤ o ∧ o < 0x6C0 then tgetD t.alm ((o - 0x640) / 8) 0
    else if 0x4000 ≤ o ∧ o < 0x8000 then
      let i := (o - 0x4000) / 4
      pack [(0, (tgetD f.route i 0).toNat), (32, (tgetD f.route (i + 1) 0).toNat)]
    else if 0x8000 ≤ o ∧ o < 0x9000 then BitVec.ofNat 64 ((tgetD f.mcast ((o - 0x8000) / 16) 0).toNat / 2 ^ (8 * (o % 16)))
    else 0

/-- Whether every condition of R396 holds, one by one. -/
def resAll (s : State) : Bool := s.cores.all (fun c => c.2.arrCtl.getLsbD 0)
def eccAll (s : State) : Bool := s.mem.region.all (fun e => !reValid e.2 || reEcc e.2 == 0)
def snAll (s : State) : Bool :=
  s.ctxs.all (fun c => (s.part c.2.part).sn.en && decide ((s.part c.2.part).sn.log2frac.toNat ≤ 10))
/-- The operating ranges of R447. -/
def rangeOk (s : State) : Bool :=
  !s.pwr.inputBad && s.pwr.rails.all (fun r => r.2.resetAt.isNone) && !s.pwr.trip && s.pwr.coolOut.isEmpty
def chkOk (s : State) : Bool := decide (2 ≤ ((List.range 4).map (fun d => (checkCoresOf s d).length)).sum)

/-- REL_STAT (R431). -/
def relStat (s : State) : Word64 :=
  let fw := s.mgmt.fwstate == 2
  let spare := (List.range 4).foldl (fun a d => if s.rel.engUsed.getLsbD d then a else a + 2 ^ d) 0
  pack ([(0, b2n (resAll s && eccAll s && snAll s && fw && rangeOk s && chkOk s)), (1, b2n (resAll s)), (2, b2n (eccAll s)),
         (3, b2n (snAll s)), (4, b2n fw), (5, b2n (rangeOk s)), (6, b2n (chkOk s)), (24, spare), (32, min s.rel.retired 255)] ++
        (List.range 4).map (fun d => (8 + 4 * d, (checkCoresOf s d).length)))

/-- Reliability registers (R431, R432). -/
def readRel (s : State) (o : Nat) : Word64 :=
  let r := s.rel
  match o with
  | 0 => r.ctl
  | 0x8 => relStat s
  | 0x10 => pack [(0, r.rstScope.toNat), (3, b2n r.rstBusy), (4, b2n r.rstFailed), (8, r.rstTarget.toNat), (16, r.rstDur.toNat), (48, r.rstCount.toNat)]
  | 0x18 => pack [(0, r.missed.toNat), (16, r.failovers.toNat)]
  | 0x20 => pack [(0, r.checksN.toNat), (32, r.disagree.toNat)]
  | 0x28 => pack [(0, r.majority.toNat), (32, r.threeway.toNat), (48, r.skipped.toNat)]
  | 0x30 => pack [(0, r.alias_.toNat), (12, b2n r.aliasV)]
  | 0x38 => pack [(0, r.lostId.toNat), (12, r.phase.toNat), (16, r.mib.toNat)]
  | _ =>
    if 0x100 ≤ o ∧ o < 0x300 then pack [(0, (tgetD r.aliasCtx ((o - 0x100) / 8) 0).toNat % 128)]
    else if 0x1000 ≤ o ∧ o < 0x1800 then
      let n := (o - 0x1000) / 8
      let m := s.map n
      let p := physOf s n
      pack [(0, p % 4), (2, p / 4 % 16), (6, p / 64 % 8), (16, min (recentMarks s m.marks).length 255), (24, b2n m.quar), (25, b2n m.spare.isSome)]
    else 0

def stateCode : PState → Nat
  | .run => 0 | .idle => 1 | .hold => 2 | .carousel => 3 | .off => 4

/-- ACLK of a die in MHz. -/
def aclkOf (s : State) (d : Nat) : Nat := tgetD s.pwr.aclk d 0

/-- Power registers (R464). -/
def readPwr (s : State) (o : Nat) : Word64 :=
  let p := s.pwr
  match o with
  | 0 => pack [(0, stateCode p.st), (3, b2n p.goal.isSome), (4, b2n p.capOn), (5, b2n p.thLim), (6, b2n p.trip), (8, p.lastWake.toNat),
               (16, min (min (aclkOf s 0) (aclkOf s 1)) (min (aclkOf s 2) (aclkOf s 3))), (32, p.pinW.toNat), (48, p.capW.toNat)]
  | 0x8 => pack [(0, p.wakeEn.toNat), (8, b2n p.wakeTo)]
  | 0x10 => pack [(0, p.carPeriod.toNat), (32, p.carSamples.toNat)]
  | 0x20 => pack [(0, p.tdieWarn.toNat), (8, 0x6E), (16, p.tinWarn.toNat), (24, p.flowWarn.toNat)]
  | 0x28 => pack [(0, b2n p.rmPll), (1, p.lock.toNat), (9, b2n p.xoOk), (16, aclkOf s 0), (28, aclkOf s 1), (40, aclkOf s 2), (52, aclkOf s 3)]
  | _ =>
    if 0x40 ≤ o ∧ o < 0x60 then
      let r := tgetD p.rails ((o - 0x40) / 8) {}
      pack [(0, r.dips.toNat), (16, r.vresets.toNat), (32, r.minmv.toNat), (48, b2n r.below)]
    else if 0x100 ≤ o ∧ o < 0x200 then tgetD p.carThr ((o - 0x100) / 8) 0
    else 0

/-- Management registers (R364, R479). -/
def readMgmt (s : State) (o : Nat) : Word64 :=
  let m := s.mgmt
  match o with
  | 0 => pack [(0, m.fwstate.toNat), (4, b2n m.slot), (5, b2n m.rmcore), (6, b2n m.standbyOk), (7, b2n m.rstOnPerst), (16, m.fwver.toNat)]
  | 0x8 => m.rmHb
  | 0x100 => pack [(0, b2n m.jtagEn), (1, b2n m.obsEn)]
  | 0x108 => pack [(0, m.sel.toNat), (16, b2n m.selSrc)]
  | _ => 0

/-- The register at an 8-byte aligned offset of BAR0, as a function reads it (R361, R362, R451). -/
def readReg (s : State) (fn off : Nat) : Word64 :=
  match blockOf s fn off with
  | none => 0
  | some (b, o) =>
    if s.pwr.st == .carousel then (if b = .pwr ∧ o = 0 then 3 else 0)
    else match b with
      | .chan c => readChan s fn c o
      | .part n => readPart s n o
      | .cluster k => readCluster s k o
      | .core n => readCore s n o
      | .mem => readMem s o
      | .fab => readFab s o
      | .rel => readRel s o
      | .pwr => readPwr s o
      | .mgmt => readMgmt s o

/-- A read of BAR0 (R356, R362). -/
def readBar0 (s : State) (fn off size : Nat) : Reply :=
  if (s.fn fn).d3 || !(size == 4 || size == 8) || off % size != 0 then .unsupported
  else .data (natToBytes size ((readReg s fn (off / 8 * 8)).toNat / 2 ^ (8 * (off % 8)))) false

/-- RNG_TOUT_READ (R210). -/
def execRngToutRead (fn core : Nat) (hi : Bool) (s : State) : Host.Outcome State Fault Refusal :=
  .next (if s.pwr.st == .off then s else reply s (readBar0 s fn (0x100000 + 4096 * core + 0x640 + (if hi then 8 else 0)) 8))

/-! ### Writes (R8) -/

/-- A write to one 64-bit register: its value and the bits that are written. -/
structure Wr where
  v : Word64
  m : Word64
  deriving DecidableEq, Repr

/-- An RW field whose lowest bit is `lo`. -/
def Wr.fld {n : Nat} (w : Wr) (lo : Nat) (old : BitVec n) : BitVec n := maskWrite old ((w.v >>> lo).setWidth n) ((w.m >>> lo).setWidth n)
/-- An RW bit. -/
def Wr.flag (w : Wr) (lo : Nat) (old : Bool) : Bool := if w.m.getLsbD lo then w.v.getLsbD lo else old
/-- Whether a 1 is written to a bit. -/
def Wr.one (w : Wr) (lo : Nat) : Bool := w.m.getLsbD lo && w.v.getLsbD lo
/-- The low 32 bits, if the write reaches them. -/
def Wr.low (w : Wr) : Option Word32 := if w.m.getLsbD 0 then some (w.v.setWidth 32) else none

/-- The register and bits of an aligned write of 4 or 8 bytes (R362). -/
def wrOf (off size : Nat) (value : Word64) : Option (Nat × Wr) :=
  if size = 8 ∧ off % 8 = 0 then some (off, ⟨value, BitVec.allOnes 64⟩)
  else if size = 4 ∧ off % 4 = 0 then
    let sh := 8 * (off % 8)
    some (off / 8 * 8, ⟨(value &&& 0xFFFFFFFF#64) <<< sh, 0xFFFFFFFF#64 <<< sh⟩)
  else none

/-- Channel registers (R368). -/
def writeChan (s : State) (fn c o : Nat) (w : Wr) : State :=
  if o = 0 then
    let s := s.modChan fn c (fun x => { x with
      allpart := w.flag 0 x.allpart, tien := w.flag 2 x.tien })
    if w.one 1 then resetChan s fn c else s
  else if o = 0x10 then s.modChan fn c (fun x => { x with evrBase := w.fld 0 x.evrBase })
  else if o = 0x18 then
    s.modChan fn c (fun x => { x with
      evrLog2 := w.fld 0 x.evrLog2, evrEn := w.flag 5 x.evrEn, evrIen := w.flag 6 x.evrIen, evrImod := w.fld 7 x.evrImod,
      evrHead := if !x.evrEn && w.one 5 then 0 else x.evrHead })
  else if o = 0x28 then match w.low with | some v => evtDoorbell s fn c v | none => s
  else if o = 0x300 then (if c = 0 then s.modChan fn c (fun x => { x with bar2Base := w.fld 0 x.bar2Base &&& 0xFFFFFFFFFFFF#64 }) else s)
  else if 0x40 ≤ o ∧ o < 0x140 then
    let r := (o - 0x40) / 0x20
    match (o - 0x40) % 0x20 with
    | 0 => s.modRing fn c r (fun x => { x with base := w.fld 0 x.base })
    | 8 => s.modRing fn c r (fun x => { x with cplBase := w.fld 0 x.cplBase })
    | 0x10 =>
      let s := s.modRing fn c r (fun x => { x with log2 := w.fld 0 x.log2, ien := w.flag 5 x.ien, imod := w.fld 6 x.imod })
      setRingEn s fn c r (w.flag 4 (s.ring fn c r).en)
    | _ => s
  else if 0x200 ≤ o ∧ o < 0x240 then match w.low with | some v => cmdDoorbell s fn c ((o - 0x200) / 8) v | none => s
  else if 0x240 ≤ o ∧ o < 0x280 then match w.low with | some v => cplDoorbell s fn c ((o - 0x240) / 8) v | none => s
  else s

/-- The masked write of a job-configuration register: it goes to the shadow set (R130, R187). -/
def writeJob (j : JobCfg) (o : Nat) (w : Wr) : JobCfg :=
  match o with
  | 0x300 => { j with numThr := maskWrite j.numThr w.v (w.m &&& 0x0003FFFFFFFFFFFF#64) }
  | 0x340 => { j with cmtCtl := maskWrite j.cmtCtl w.v (w.m &&& 0x0000FFFF01FFFFFF#64) }
  | 0x360 => { j with cmtLead := w.fld 0 j.cmtLead }
  | 0x368 => { j with gradDl := w.fld 0 j.gradDl }
  | 0x378 => { j with gclip := w.fld 0 j.gclip }
  | 0x380 => { j with ssrBase := w.fld 0 j.ssrBase }
  | 0x388 => { j with ltBase := w.fld 0 j.ltBase, nlayers := w.fld 48 j.nlayers }
  | _ => j

/-- Partition registers. -/
def writePart (s : State) (n o : Nat) (w : Wr) : State :=
  match o with
  | 0x100 => s.modPart n (fun p => { p with view := w.flag 0 p.view })
  | 0x308 => s.modPart n (fun p => { p with tel := { p.tel with base := w.fld 0 p.tel.base } })
  | 0x310 => s.modPart n (fun p => { p with tel := { p.tel with log2 := w.fld 0 p.tel.log2 } })
  | 0x320 => s.modPart n (fun p => { p with tel := { p.tel with tail := w.fld 0 p.tel.tail } })
  | 0x330 => s.modPart n (fun p => { p with tel := { p.tel with accBase := w.fld 0 p.tel.accBase } })
  | 0x3A0 =>
    let s := if w.one 0 then releaseMember s n else s
    if w.one 1 then abandonMember s n else s
  | 0x3E0 => s.modPart n (fun p => { p with sn := { p.sn with all := w.flag 6 p.sn.all } })
  | 0x3E8 => s.modPart n (fun p => { p with sn := { p.sn with base := w.fld 0 p.sn.base, size := w.fld 48 p.sn.size } })
  | 0x3F0 => s.modPart n (fun p => { p with sn := { p.sn with rcvCtl := w.fld 0 p.sn.rcvCtl } })
  | _ => s.modPart n (fun p => { p with shadow := writeJob p.shadow o w })

/-- Core registers: ARR_CTL, ISS_CTL and the test inputs take writes of PF0 only (R105, R210, R262). -/
def writeCore (s : State) (fn n o : Nat) (w : Wr) : State :=
  let pf := fun (f : Core → Core) => if fn = 0 then s.modCore n f else s
  let low := (w.v &&& w.m).setWidth 32
  match o with
  | 0x400 => pf (fun r => { r with arrCtl := maskWrite r.arrCtl (w.v.setWidth 32) (w.m.setWidth 32 &&& 0x7#32) })
  | 0x410 => s.modCore n (fun r => { r with resErr := if w.one 0 then setFld r.resErr 0 0 0 else r.resErr })
  | 0x480 => s.modCore n (fun r => { r with cvtNf := clearFlags r.cvtNf low })
  | 0x488 => s.modCore n (fun r => { r with vecNf := clearFlags r.vecNf low })
  | 0x490 => s.modCore n (fun r => { r with arrNf := clearFlags r.arrNf low })
  | 0x600 => match issuingVc s n with | some (v, _) => s.modVc v (fun x => { x with jseed := w.fld 0 x.jseed }) | none => s
  | 0x608 => match issuingVc s n with | some (v, _) => s.modVc v (fun x => { x with step := w.fld 0 x.step }) | none => s
  | 0x620 => pf (fun r => { r with tseed := w.fld 0 r.tseed })
  | 0x628 => pf (fun r => { r with tstream := w.fld 0 r.tstream })
  | 0x630 => pf (fun r => { r with tidx := w.fld 0 r.tidx })
  | 0x638 => pf (fun r => { r with tstep := w.fld 0 r.tstep })
  | 0x710 => s.modCore n (fun r => { r with issFault := if w.one 0 then setFld r.issFault 0 0 0 else r.issFault })
  | 0x718 => pf (fun r => { r with issCtl := maskWrite r.issCtl w.v (w.m &&& 0xFFFFFF#64) })
  | 0x780 => s.modCore n (fun r => { r with parErr := r.parErr && !w.one 37 })
  | _ => s

/-- Reliability registers (R431). -/
def writeRel (s : State) (o : Nat) (w : Wr) : State :=
  if o = 0 then s.modRel (fun r => { r with ctl := maskWrite r.ctl w.v (w.m &&& 0x3FFFFFFFF#64) })
  else if o = 0x30 then s.modRel (fun r => { r with alias_ := w.fld 0 r.alias_, aliasV := w.flag 12 r.aliasV })
  else if 0x100 ≤ o ∧ o < 0x300 then
    s.modRel (fun r => { r with aliasCtx := tmod r.aliasCtx ((o - 0x100) / 8) 0 (fun b => w.fld 0 b &&& 0x7F#8) })
  else s

/-- Power registers (R464). -/
def writePwr (s : State) (o : Nat) (w : Wr) : State :=
  if o = 0x8 then s.modPwr (fun p => { p with wakeEn := w.fld 0 p.wakeEn, wakeTo := w.flag 8 p.wakeTo })
  else if o = 0x10 then s.modPwr (fun p => { p with carPeriod := w.fld 0 p.carPeriod })
  else if o = 0x20 then
    s.modPwr (fun p => { p with tdieWarn := w.fld 0 p.tdieWarn, tinWarn := w.fld 16 p.tinWarn, flowWarn := w.fld 24 p.flowWarn })
  else if 0x100 ≤ o ∧ o < 0x200 then
    s.modPwr (fun p => { p with carThr := tmod p.carThr ((o - 0x100) / 8) 0 (fun e => w.fld 0 e) })
  else s

/-! ### Observation pins (R479 to R481) -/

/-- The levels that a select code brings out: the bits that the state decides, and a mask of the bits that show the
activity of a moment, which the manual does not fix here (log 15). -/
def obsLevels (s : State) (sel : Word16) : Nat × Nat :=
  let u := fld sel 11 0
  let busy := fun (n : Nat) (x : UnitId) => b2n (runningOn s n (fun o => inUnit x o.word)).isSome
  let of := fun (l : List (Nat × Nat)) => (pack l).toNat
  match fld sel 15 12 with
  | 1 => if u = 0 then (of [(1, b2n s.time.lock), (5, fld s.time.pt 20 10)], 0x1D) else (0, 0)
  | 2 =>
    if u < 4 then
      let r := tgetD s.pwr.rails u {}
      (of [(0, b2n r.below), (1, b2n r.resetAt.isSome), (2, b2n r.window), (3, b2n r.window), (4, b2n s.pwr.capOn),
           (5, b2n (s.pwr.dieWarm.contains u))], 0)
    else (0, 0)
  | 3 =>
    if u < 256 then
      let quiet := match issuingVc s u with
        | some (v, x) => (match s.ctx? v.ctx with | some c => quiescent s c v x | none => false)
        | none => false
      (of [(1, busy u .arra), (2, busy u .arrb), (3, busy u .cvt), (4, busy u .vec), (5, busy u .dmai), (6, busy u .dmao),
           (9, b2n (coreWork s u)), (10, b2n ((s.core u).stallb != 0)), (11, b2n quiet), (12, ((s.core u).issuing.getD 0) % 8),
           (15, fld (arrStat s u) 15 15)], 0x181)
    else (0, 0)
  | 4 =>
    if u < 64 then
      let l := s.link u
      (of [(0, linkCode l.st), (3, b2n l.spareIn), (14, b2n l.lit)], 0xBFF0)
    else (0, 0)
  | 5 =>
    if u < 80 then
      let p := s.memPart u
      (of [(0, p.rmul.toNat), (2, b2n p.t3on), (3, b2n p.fenced)], 0x70)
    else (0, 0)
  | 6 => if u = 0 then (of [(1, b2n s.mgmt.rmcore), (2, b2n s.mgmt.standbyOk)], 0x79) else (0, 0)
  | 7 => if u = 0 then (of [(8, s.pwr.lock.toNat)], 0xFF) else (0, 0)
  | _ => (0, 0)

/-- Drive the pins after a change of the selection: high impedance while OBS_EN is 0, and in CAROUSEL and OFF (R474). -/
def driveObs (s : State) : State :=
  if !s.mgmt.obsEn || !awake s then s.modMgmt (fun m => { m with obs := none })
  else
    let (known, open_) := obsLevels s s.mgmt.sel
    let (f, s) := if open_ = 0 then ((0 : Word64), s) else s.fresh
    s.modMgmt (fun m => { m with obs := some (BitVec.ofNat 16 (known ||| (f.toNat &&& open_))) })

/-- A write to SEL from BAR0 or from JTAG, which sets OBS_EN as well (R479). -/
def setSel (s : State) (sel : Word16) (jtag : Bool) : State :=
  driveObs (s.modMgmt (fun m => { m with sel := sel, selSrc := jtag, obsEn := m.obsEn || jtag }))

/-- Management registers (R364, R479). -/
def writeMgmt (s : State) (o : Nat) (w : Wr) : State :=
  match o with
  | 0 => s.modMgmt (fun m => { m with rstOnPerst := w.flag 7 m.rstOnPerst })
  | 0x100 => driveObs (s.modMgmt (fun m => { m with jtagEn := w.flag 0 m.jtagEn, obsEn := w.flag 1 m.obsEn }))
  | 0x108 => if w.m.getLsbD 0 then setSel s (w.fld 0 s.mgmt.sel) false else s
  | _ => s

/-- A write to BAR0 (R361, R362, R451): discarded in D3hot, and in CAROUSEL but for doorbells; the memory block takes one
write, UE_V of MEM_UE (R298), and the fabric block none (R347). -/
def writeReg (s : State) (fn off size : Nat) (value : Word64) : State :=
  match wrOf off size value with
  | none => s
  | some (off, w) =>
    match blockOf s fn off with
    | none => s
    | some (b, o) =>
      if (s.fn fn).d3 || s.pwr.st == .off then s
      else if s.pwr.st == .carousel then
        (match b with
         | .chan c => if 0x200 ≤ o ∧ o < 0x240 then writeChan s fn c o w else s
         | _ => s)
      else match b with
        | .chan c => writeChan s fn c o w
        | .part n => writePart s n o w
        | .cluster k =>
          if o = 0x180 then s.modCluster k (fun c => { c with updNf := clearFlags c.updNf ((w.v &&& w.m).setWidth 32) }) else s
        | .core n => writeCore s fn n o w
        | .mem => if o = 0x20 ∧ w.one 63 then s.modMem (fun m => { m with ue := 0 }) else s
        | .fab => s
        | .rel => writeRel s o w
        | .pwr => writePwr s o w
        | .mgmt => writeMgmt s o w

/-- REGISTER_WRITE (R8). -/
def execRegisterWrite (fn off size : Nat) (value : Word64) (s : State) : Host.Outcome State Fault Refusal :=
  .next (writeReg s fn off size value)

/-- OBS_SEL_WRITE (R479): only PF0 writes it. -/
def execObsSelWrite (fn : Nat) (sel : Word16) (s : State) : Host.Outcome State Fault Refusal :=
  .next (if fn = 0 && !(s.fn 0).d3 && awake s then setSel s sel false else s)

end Sys2Proof.Machine
end

