-- ==== Sys2Proof/Machine/Mailbox.lean ====
section
/-! DEFINITION. How a mailbox command runs (R371, R372, R379, R393, R395): when it may start, whether its sender may issue it, whether its
parameters are in range, and how it completes. -/

namespace Sys2Proof.Machine

open Sys2Proof

/-! ### Answers -/

/-- What the body of a command answers: the state, and its status and result, or none while it runs on. -/
abbrev Ans := State × Option (Nat × Nat)

/-- Success with a result. -/
def ok (s : State) (result : Nat) : Ans := (s, some (0, result))
/-- A failure status. -/
def bad (s : State) (status : Nat) : Ans := (s, some (status, 0))
/-- Refused by a rule that raises an event (R379). -/
def ruled (s : State) (code : Nat) : Ans := (s, some (0x0B, code))
/-- The command completes later. -/
def later (s : State) : Ans := (s, none)

/-! ### Senders (R357, R379, R391) -/

/-- The function whose rights a sender has: out of band, and from the gateway, those of PF0. -/
def rightsOf : Origin → Nat
  | .ring fn _ _ => fn
  | _ => 0

/-- The partition of a command (R369). -/
def targetPart (o : Origin) (e : Entry) : Nat := if rightsOf o = 0 then fld e 37 32 else rightsOf o

/-- Whether a partition exists (R26). -/
def partExists (s : State) (n : Nat) : Bool := n == 0 || (s.part n).exist

/-- Whether the host memory that a command names can be reached now (R355). -/
def hostOk (s : State) : Origin → Bool
  | .ring fn _ _ => canDma s fn
  | .oob => canDma s 0
  | .remote _ _ => true

/-! ### The order of commands on common objects (R372) -/

/-- The objects that a command touches (R372), as a kind, the first and how many: 0 partitions and their job configurations, 1 regions,
2 contexts, 3 collective groups, 4 links, 5 the image slots, 6 the power state. -/
def objectsOf (e : Entry) (n : Nat) : List (Nat × Nat × Nat) :=
  let ctx := [(2, fld e 69 64, 1)]
  match fld e 15 0 with
  | 0x6010 | 0x6011 | 0x6012 => [(0, 0, 1), (0, fld e 69 64, 1)]
  | 0x6013 | 0x6020 | 0x6021 | 0x4002 | 0x5002 | 0x7001 | 0x7004 => [(0, n, 1)]
  | 0x6030 | 0x6031 | 0x6032 => [(5, 0, 1)]
  | 0x2001 => [(1, fld e 82 64, fld e 102 83)]
  | 0x2002 => [(1, fld e 82 64, 1)]
  | 0x2010 => [(0, fld e 69 64, 1)]
  | 0x2020 => [(1, regionOf (fld e 175 128), fld e 207 176 / 2 ^ 25 + 2)]
  | 0x3001 => [(4, fld e 69 64, 1)]
  | 0x3010 | 0x3011 => [(3, fld e 71 64, 1)]
  | 0x3020 => [(1, fld e 146 128, fld e 165 147), (1, fld e 210 192, fld e 229 211)]
  | 0x4001 => if fld e 66 64 < 3 then [(0, n, 1)] else [(0, 0, 33), (6, 0, 1)]
  | 0x4004 => [(0, 0, 1)]
  | 0x5001 => [(6, 0, 1)]
  | 0x7002 | 0x7003 | 0x7005 | 0x7007 | 0x7008 => ctx
  | _ => []

/-- Whether two commands touch a common object. -/
def share (a b : List (Nat × Nat × Nat)) : Bool :=
  a.any (fun x => b.any (fun y => x.1 == y.1 && x.2.1 < y.2.1 + y.2.2 && y.2.1 < x.2.1 + x.2.2))

/-- The number of the doorbell that brought the command of an index. -/
def bellOf (x : Ring) (i : Word32) : Nat :=
  match x.bells.find? (fun b => b.1 != i && decide ((b.1 - i).toNat < 2 ^ 31)) with
  | some b => b.2
  | none => 0

/-- The index of the first command of a ring that has not started. -/
def nextIdx (x : Ring) : Word32 :=
  x.sqHead - BitVec.ofNat 32 x.fetched.length + (if x.running || x.done.isSome then 1 else 0)

/-- The commands of a ring that have not started, each with the number of its doorbell: those fetched, and those still to be fetched
from an enabled ring. -/
def waitingOf (s : State) (x : Ring) : List (Nat × Entry) :=
  let left := if x.en && !x.stopped then min (x.prod - x.sqHead).toNat (ringSize x) else 0
  let es := (if x.running || x.done.isSome then x.fetched.tail else x.fetched) ++
    (List.range left).map (fun i => BitVec.ofNat 512 (hostNat s (x.base.toNat + 64 * ((x.sqHead.toNat + i) % ringSize x)) 64))
  es.mapIdx (fun i e => (bellOf x (nextIdx x + BitVec.ofNat 32 i), e))

/-- The commands that have come to the module and have not started: the number of arrival, the target partition and the entry. -/
def arrivals (s : State) : List (Nat × Nat × Entry) :=
  s.host.fns.flatMap (fun f => f.2.chans.flatMap (fun c => if chanRemote s f.1 c.1 then [] else c.2.rings.flatMap (fun r =>
    (waitingOf s r.2).map (fun w => (w.1, targetPart (.ring f.1 c.1 r.1) w.2, w.2))))) ++
  s.host.remote.flatMap (fun q =>
    (((tgetD s.host.remoteBells q.1 []).zip q.2).drop (if s.host.remoteRunning.contains q.1 then 1 else 0)).map
      (fun w => (w.1, targetPart .oob w.2, w.2)))

/-- When the command at the head of an origin arrived. -/
def arrivalOf (s : State) : Origin → Nat
  | .ring fn ch r => bellOf (s.ring fn ch r) (nextIdx (s.ring fn ch r))
  | o => ((tgetD s.host.remoteBells (originKey o) []).head?).getD 0

/-- Whether a command would overtake one that arrived before it, has not started, and touches a common object (R372, R392). -/
def overtakes (s : State) (o : Origin) (e : Entry) : Bool :=
  (arrivals s).any (fun a => decide (a.1 < arrivalOf s o) && share (objectsOf a.2.2 a.2.1) (objectsOf e (targetPart o e)))

/-! ### When a command may start -/

/-- Whether a command can be executed now: it heads its ring, its channel is local, and firmware or the boot ROM runs
(R371), and it overtakes none (R372). -/
def cmdReady (s : State) (o : Origin) (e : Entry) : Bool :=
  awake s && s.mgmt.ready && originEntry s o == some e &&
  (match o with
   | .ring fn ch r => !chanRemote s fn ch && !(s.ring fn ch r).running && (s.ring fn ch r).done.isNone
   | o => !s.host.remoteRunning.contains (originKey o)) &&
  !overtakes s o e

/-- Mark the command of a sender as running. -/
def setRunning (s : State) : Origin → State
  | .ring fn ch r => s.modRing fn ch r (fun x => { x with running := true })
  | o => s.modHost (fun h => { h with remoteRunning := h.remoteRunning ++ [originKey o] })

/-! ### Commands -/

/-- The clusters of a bit set. -/
def setOf (m : Nat) : List Nat := (List.range 32).filter (fun k => bit m k)

/-- A command's row in R380 to R385, with its effect. -/
structure Cmd where
  op : Nat
  /-- Only PF0 may issue it. -/
  pf0 : Bool := false
  /-- Also accepted out of band. -/
  oob : Bool := false
  /-- A VF without a partition may issue it (R358). -/
  free : Bool := false
  /-- Accepted while FWSTATE is 0x1 (R457). -/
  bringUp : Bool := false
  /-- Accepted by the boot ROM when both images fail (R390). -/
  rom : Entry → Bool := fun _ => false
  /-- The PARAM fields: every other PARAM bit is reserved. -/
  fields : List (Nat × Nat) := []
  /-- It reads or writes a host buffer. -/
  host : Entry → Bool := fun _ => false
  /-- It cannot start yet for a reason of its own. -/
  wait : State → Entry → Nat → Bool := fun _ _ _ => false
  body : State → Origin → Entry → Nat → Ans

/-- Whether a PARAM sets a bit outside its fields (R379). -/
def paramBad (fields : List (Nat × Nat)) (e : Entry) : Bool :=
  (fields.foldl (fun x f => setBits x f.1 f.2 0) e.toNat) / 2 ^ 64 != 0

/-- The status that turns a command away before its own rules are looked at (R358, R379, R390, R457). -/
def gate (s : State) (c : Cmd) (o : Origin) (e : Entry) : Option Nat :=
  let fn := rightsOf o
  if s.mgmt.bootrom then (if c.rom e then none else some 0x0E)
  else if s.mgmt.fwstate = 1 && !c.bringUp || s.mgmt.fwstate = 3 && !c.rom e || s.mgmt.fwstate = 0 then some 0x0E
  else if fn ≠ 0 && !partExists s fn && !c.free then some 6
  else if (c.pf0 && fn ≠ 0) || (o == .oob && !c.oob) then some 3
  else if 32 < targetPart o e || paramBad c.fields e then some 2
  else if !c.pf0 && !c.free && !c.oob && !partExists s (targetPart o e) then some 6
  else none

/-- Run one mailbox command: nothing happens until it heads its ring and what it needs is there; it completes now, or
runs on. -/
def runCmd (c : Cmd) (o : Origin) (e : Entry) (s : State) : State :=
  if !(fld e 15 0 == c.op && cmdReady s o e) then s
  else match gate s c o e with
  | some st => finish s o st 0
  | none =>
    if (c.host e && !hostOk s o) || c.wait s e (targetPart o e) then s
    else match c.body (setRunning s o) o e (targetPart o e) with
    | (s, some (st, res)) => finish s o st res
    | (s, none) => s

end Sys2Proof.Machine
end

