-- ==== Sys2Proof/Machine/Commands.lean ====
section
/-! DEFINITION. The mailbox commands other than those of programs: management (R380, R386, R389, R390), memory (R381, R270, R282),
fabric and Pod Time (R382), reliability (R383, R422, R424, R415) and power (R384, R449). -/

namespace Sys2Proof.Machine

open Sys2Proof

/-! ### Management (R380) -/

/-- The version in an image slot, 0 when it is empty. -/
def slotVersion (s : State) (b : Bool) : Nat := match slotImage s b with | some i => (Config.imageVersion i).toNat | none => 0

/-- The facts that the identify page holds (R380). -/
def identifyFacts (s : State) (pf0 : Bool) : List Nat :=
  (Config.serial ++ Config.orderNumber).map BitVec.toNat ++ [slotVersion s false, slotVersion s true, Config.romVersion, s.fab.pod.toNat, s.fab.slot.toNat] ++
  (if pf0 then (List.range 33).map (fun n => if partExists s n then (clusterSet s n).toNat else 0) else [])

def cmdIdentify : Cmd where
  op := 0x6001
  oob := true
  free := true
  bringUp := true
  rom := fun _ => true
  fields := [(127, 64)]
  host := fun e => fld e 127 64 != 0
  body := fun s o e _ =>
    let a := fld e 127 64
    let page := (List.range 4096).map (Config.identifyPage (identifyFacts s (rightsOf o == 0)))
    ok (if a = 0 then s else hostWrite s a page)
      (s.devId % 4096 + s.mgmt.fwstate.toNat * 2 ^ 12 + s.mgmt.fwver.toNat * 2 ^ 16 + 0xB1 * 2 ^ 48)

/-- IDENTIFY (R380). -/
def execIdentify (o : Origin) (e : Entry) (s : State) : Host.Outcome State Fault Refusal := .next (runCmd cmdIdentify o e s)

def cmdEventMask : Cmd where
  op := 0x6002
  fields := [(74, 65)]
  body := fun s _ e n =>
    let (fn, ch) := partChan s n
    ok (s.modChan fn ch (fun c => { c with maskClass := BitVec.ofNat 7 (fld e 71 65), maskSev := BitVec.ofNat 3 (fld e 74 72) })) 0

/-- EVENT_MASK (R380). -/
def execEventMask (o : Origin) (e : Entry) (s : State) : Host.Outcome State Fault Refusal := .next (runCmd cmdEventMask o e s)

/-- Whether a cluster holds a context: a virtual core on one of its cores. -/
def clusterUsed (s : State) (k : Nat) : Bool := s.ctxs.any (fun c => c.2.vcs.any (fun x => x.2.core / 8 == k))

/-- Event 0x6501 of a partition command. -/
def partEvent (s : State) (e : Entry) : State := raiseDev s 0x6501 (data6 (fld e 15 0) (fld e 31 16) 0 0)

def cmdPartCreate : Cmd where
  op := 0x6010
  pf0 := true
  fields := [(69, 64), (127, 96)]
  body := fun s _ e _ =>
    let n := fld e 69 64
    let m := fld e 127 96
    if n = 0 ∨ 32 < n ∨ m = 0 then bad s 2
    else if (s.part n).exist then bad s 7
    else if (setOf m).all (fun k => holdsCluster s 0 k && !clusterUsed s k) then
      ok (partEvent (s.modPart n (fun p => { p with exist := true, clusters := BitVec.ofNat 32 m })) e) 0
    else bad s 4

/-- PART_CREATE (R380). -/
def execPartCreate (o : Origin) (e : Entry) (s : State) : Host.Outcome State Fault Refusal := .next (runCmd cmdPartCreate o e s)

def cmdPartResize : Cmd where
  op := 0x6011
  pf0 := true
  fields := [(69, 64), (127, 96)]
  body := fun s _ e _ =>
    let n := fld e 69 64
    let m := fld e 127 96
    if n = 0 ∨ 32 < n ∨ m = 0 then bad s 2
    else if !(s.part n).exist then bad s 6
    else if (List.range 32).all (fun k => let mine := holdsCluster s n k
        if mine == bit m k then true else (mine || holdsCluster s 0 k) && !clusterUsed s k) then
      ok (partEvent (s.modPart n (fun p => { p with clusters := BitVec.ofNat 32 m })) e) 0
    else bad s 4

/-- PART_RESIZE (R380). -/
def execPartResize (o : Origin) (e : Entry) (s : State) : Host.Outcome State Fault Refusal := .next (runCmd cmdPartResize o e s)

/-- Whether a partition owns a region. -/
def ownsRegion (s : State) (n : Nat) : Bool := s.mem.region.any (fun r => reValid r.2 && reOwner r.2 == n)

def cmdPartRemove : Cmd where
  op := 0x6012
  pf0 := true
  fields := [(69, 64)]
  body := fun s _ e _ =>
    let n := fld e 69 64
    if n = 0 ∨ 32 < n then bad s 2
    else if !(s.part n).exist then bad s 6
    else if ownsRegion s n || !(partCtxs s n).isEmpty || (s.part n).swap.isSome then bad s 4
    else
      let s := s.modPart n (fun _ => {})
      let s := pantryTrim (s.modMem (fun m => { m with share := tdel m.share n }))
      let s := s.modFab (fun f => { f with groups := f.groups.filter (fun g => g.2.owner != n) })
      ok (partEvent s e) 0

/-- PART_REMOVE (R380). -/
def execPartRemove (o : Origin) (e : Entry) (s : State) : Host.Outcome State Fault Refusal := .next (runCmd cmdPartRemove o e s)

def cmdPartQuery : Cmd where
  op := 0x6013
  free := true
  body := fun s _ _ n =>
    ok s (if partExists s n then (clusterSet s n).toNat + (partCtxs s n).length * 2 ^ 32 + 2 ^ 39 else 0)

/-- PART_QUERY (R380). -/
def execPartQuery (o : Origin) (e : Entry) (s : State) : Host.Outcome State Fault Refusal := .next (runCmd cmdPartQuery o e s)

def cmdCfgSwap : Cmd where
  op := 0x6020
  fields := [(127, 64)]
  body := fun s o e n =>
    let b := fld e 127 64
    if (s.part n).swap.isSome then bad s 4
    else if b < s.time.beatNum.toNat + 2 then bad s 7
    else later (s.modPart n (fun p => { p with swap := some ⟨b, o⟩ }))

/-- CFG_SWAP (R386). -/
def execCfgSwap (o : Origin) (e : Entry) (s : State) : Host.Outcome State Fault Refusal := .next (runCmd cmdCfgSwap o e s)

def cmdCfgCopy : Cmd where
  op := 0x6021
  body := fun s _ _ n => ok (s.modPart n (fun p => { p with shadow := p.active })) 0

/-- CFG_COPY (R386). -/
def execCfgCopy (o : Origin) (e : Entry) (s : State) : Host.Outcome State Fault Refusal := .next (runCmd cmdCfgCopy o e s)

/-! ### Firmware images (R389, R390) -/

/-- The source of a staging session: a channel, or out of band. -/
def sourceOf : Origin → Origin
  | .ring fn ch _ => .ring fn ch 0
  | .remote slot _ => .remote slot 0
  | .oob => .oob

/-- Write the contents of the slot that is not running. -/
def setIdleSlot (s : State) (x : FwSlot) : State :=
  s.modMgmt (fun m => if m.slot then { m with imgA := x } else { m with imgB := x })

/-- The bytes staged so far, to the last that is not zero (log 12). -/
def stagedBytes (cells : List Host.Cell) : List Byte :=
  memBytes cells 0 (cells.foldl (fun a c => max a (c.1 + 1)) 0)

/-- A chunk for the slot that is not running (R389): the first opens the session and marks the slot empty, and LAST
verifies it. The answer is a status. -/
def stageChunk (s : State) (src : Origin) (off : Nat) (bs : List Byte) (last : Bool) : State × Nat :=
  if (match s.mgmt.staging with | some (o, _) => o != src | none => false) then (s, 4)
  else
    let old := match s.mgmt.staging with | some (_, c) => c | none => []
    let s := if s.mgmt.staging.isSome then s else setIdleSlot s .empty
    let cells := memPutAll old off bs
    if !last then (s.modMgmt (fun m => { m with staging := some (src, cells) }), 0)
    else
      let s := s.modMgmt (fun m => { m with staging := none })
      let img := stagedBytes cells
      if !Config.imageVerifies img then (s, 0x0D)
      else if Config.imageSvn img < s.mgmt.minSvn then (s, 0x0F)
      else (raiseDev (setIdleSlot s (.staged img)) 0x6401 0, 0)

/-- Size of an image slot (R387). -/
def imageSlotBytes : Nat := 24 * 2 ^ 20

def cmdFwStage : Cmd where
  op := 0x6030
  pf0 := true
  oob := true
  rom := fun _ => true
  fields := [(192, 64)]
  host := fun _ => true
  body := fun s o e _ =>
    let n := fld e 159 128
    let off := fld e 191 160
    let last := bit e.toNat 192
    if (!last && n % 4096 != 0) || decide (imageSlotBytes < off + n) then bad s 2
    else
      let (s, st) := stageChunk s (sourceOf o) off (hostBytes s (fld e 127 64) n) last
      (s, some (st, 0))

/-- FW_STAGE (R389). -/
def execFwStage (o : Origin) (e : Entry) (s : State) : Host.Outcome State Fault Refusal := .next (runCmd cmdFwStage o e s)

/-- Whether another command than the sender's own is running. -/
def othersRun (s : State) (o : Option Origin) : Bool :=
  s.host.fns.any (fun f => f.2.chans.any (fun c => !chanRemote s f.1 c.1 &&
    c.2.rings.any (fun r => r.2.running && o != some (.ring f.1 c.1 r.1)))) ||
  s.host.remoteRunning.any (fun k => match o with | some (.ring _ _ _) | none => true | some q => k != originKey q)

/-- Activate the other slot live (R390), as command `o` asks: the answer is a status. -/
def activateLive (s : State) (o : Option Origin) : State × Nat :=
  let b := !s.mgmt.slot
  match slotImage s b with
  | none => (s, 7)
  | some img =>
    if !s.mgmt.standbyOk then (s, 7)
    else if !Config.imageSelfCheck img then (raiseDev s 0x6402 0, 0x0D)
    else if othersRun s o then (s, 4)
    else
      let s := s.modMgmt (fun m => { m with slot := b, rmcore := !m.rmcore, fwver := Config.imageVersion img })
      (raiseDev s 0x6404 0, 0)

def cmdFwActivate : Cmd where
  op := 0x6031
  pf0 := true
  oob := true
  rom := fun _ => true
  fields := [(64, 64)]
  body := fun s o e _ =>
    if bit e.toNat 64 then
      let (s, st) := activateLive s (some o)
      (s, some (st, 0))
    else if slotGood s (!s.mgmt.slot) then ok (s.modMgmt (fun m => { m with preferB := !m.slot })) 0
    else bad s 7

/-- FW_ACTIVATE (R390). -/
def execFwActivate (o : Origin) (e : Entry) (s : State) : Host.Outcome State Fault Refusal := .next (runCmd cmdFwActivate o e s)

def cmdFwQuery : Cmd where
  op := 0x6032
  oob := true
  free := true
  bringUp := true
  rom := fun _ => true
  body := fun s _ _ _ => ok s (s.mgmt.fwver.toNat + slotVersion s (!s.mgmt.slot) * 2 ^ 32)

/-- FW_QUERY (R380). -/
def execFwQuery (o : Origin) (e : Entry) (s : State) : Host.Outcome State Fault Refusal := .next (runCmd cmdFwQuery o e s)

/-! ### Memory (R381, R270 to R272, R282) -/

/-- Writable bits of a region entry (R265). -/
def regionMask : Word64 := 0x3FFFF
/-- Reserved bits of a region entry. -/
def regionReserved : Word64 := 0xFFFFFF00FFE00000

/-- Whether an entry holds only defined codes (R265, R266). -/
def entryOk (e : Word64) : Bool :=
  reIl e ≤ 3 && fld e 12 11 ≤ 2 && rePhint e ≤ 2 && reEcc e ≤ 2 && (reOwner e ≤ 32 || reOwner e == 0x3E || reOwner e == 0x3F)

/-- Whether a change of an entry needs MAPS = 0 and clears the region (R270). -/
def clears (old new : Word64) : Bool :=
  reValid old != reValid new || reOwner old != reOwner new || reIl old != reIl new || reEcc old != reEcc new ||
  (rePhint old == 2) != (rePhint new == 2)

/-- Whether every region of the placement sets that a range touches shares its block's IL (R272). -/
def placed (t : Tab Word64) (first count : Nat) : Bool :=
  let il := fun (r : Nat) => reIl (tgetD t r 0)
  let setBase := fun (r : Nat) => if r < 131072 then r / 32 * 32 else 131072 + (r - 131072) / 48 * 48
  let setLen := fun (r : Nat) => if r < 131072 then 32 else 48
  (List.range count).all (fun i =>
    let b := setBase (first + i)
    let n := setLen (first + i)
    (i != 0 && first + i != b) || (List.range n).all (fun j =>
      let w := ilWidth (il (b + j)) n
      (List.range w).all (fun m => il (b + j / w * w + m) == il (b + j))))

/-- The region table after a write of masked values to a range. -/
def writtenTable (t : Tab Word64) (first count : Nat) (v m : Word64) : Tab Word64 :=
  (List.range count).foldl (fun t i =>
    let e := maskWrite (tgetD t (first + i) 0) v m
    if e = 0 then tdel t (first + i) else tput t (first + i) e) t

def cmdRegionSet : Cmd where
  op := 0x2001
  fields := [(102, 64), (255, 128)]
  body := fun s o e n =>
    let first := fld e 82 64
    let count := fld e 102 83
    let v := BitVec.ofNat 64 (fld e 191 128)
    let mask := BitVec.ofNat 64 (fld e 255 192)
    let m := mask &&& regionMask
    let rs := (List.range count).map (· + first)
    let new := fun (r : Nat) => maskWrite (entry s r) v m
    let vf := rightsOf o != 0
    if count = 0 || 524288 < first + count || v &&& regionReserved != 0 || mask &&& regionReserved != 0 || rs.any (fun r => !entryOk (new r)) then bad s 2
    else if vf && (m &&& ~~~(0x27C00#64) != 0 ||
        rs.any (fun r => !reValid (entry s r) || reOwner (entry s r) != n || (rePhint (entry s r) == 2) != (rePhint (new r) == 2))) then bad s 3
    else
      let t := writtenTable s.mem.region first count v m
      let cl := rs.filter (fun r => clears (entry s r) (new r))
      let ilCh := rs.any (fun r => reIl (entry s r) != reIl (new r))
      let scCh := cl.any (fun r => rePhint (entry s r) == 2 || rePhint (new r) == 2)
      if (!cl.isEmpty && rs.any (fun r => reMaps (entry s r) != 0)) || (ilCh && !placed t first count) ||
         (scCh && !banksFit s.mem.fwBanks s.mem.share t) then
        ruled (raise s 0x2003 (some n) none (data2 0 0 first)) 0x2003
      else
        let hint := rs.filter (fun r => rePhint (entry s r) != rePhint (new r))
        let s := s.modMem (fun q => { q with
          region := t, clearing := q.clearing.filter (fun r => !cl.contains r) ++ cl,
          lines := q.lines.filter (fun l => !hint.contains (regionOf (256 * l.line))) })
        let s := pantryTrim (cl.foldl (fun t r => putEntry t r (setFld (entry t r) 18 18 1)) s)
        if cl.isEmpty then ok s 0
        else later (s.modMem (fun q => { q with clearFor := q.clearFor ++ [(o, first, count)] }))

/-- REGION_SET (R270). -/
def execRegionSet (o : Origin) (e : Entry) (s : State) : Host.Outcome State Fault Refusal := .next (runCmd cmdRegionSet o e s)

def cmdRegionQuery : Cmd where
  op := 0x2002
  fields := [(82, 64)]
  body := fun s o e n =>
    let r := fld e 82 64
    if rightsOf o != 0 && (!reValid (entry s r) || reOwner (entry s r) != n) then bad s 3
    else ok s (entryRead s r).toNat

/-- REGION_QUERY (R381). -/
def execRegionQuery (o : Origin) (e : Entry) (s : State) : Host.Outcome State Fault Refusal := .next (runCmd cmdRegionQuery o e s)

def cmdPantryShare : Cmd where
  op := 0x2010
  pf0 := true
  fields := [(69, 64), (183, 128)]
  body := fun s _ e _ =>
    let n := fld e 69 64
    let v := BitVec.ofNat 64 (fld e 183 128)
    if 32 < n then bad s 2
    else if !partExists s n then bad s 6
    else
      let share := if v = 0 then tdel s.mem.share n else tput s.mem.share n v
      if !banksFit s.mem.fwBanks share s.mem.region then ruled (raiseDev s 0x2201 (data2 0 0 0)) 0x2201
      else
        ok (pantryTrim (s.modMem (fun m => { m with share := share }))) 0

/-- PANTRY_SHARE (R282). -/
def execPantryShare (o : Origin) (e : Entry) (s : State) : Host.Outcome State Fault Refusal := .next (runCmd cmdPantryShare o e s)

def cmdHostCopy : Cmd where
  op := 0x2020
  fields := [(208, 64)]
  host := fun _ => true
  wait := fun s e _ => accessWaits s (fld e 175 128) (fld e 207 176)
  body := fun s _ e n =>
    let a := fld e 127 64
    let da := fld e 175 128
    let len := fld e 207 176
    if len % 32 != 0 then bad s 2
    else match accessRefusal s (.part n) da len with
    | some code => ruled (countRefused (raise s code (some n) none (data2 da 0 (regionOf da))) n) code
    | none =>
      if bit e.toNat 208 then
        let s := demand s none da len
        let bs := devRead s da len
        let ep := (bs.mapIdx (fun i b => (i, b))).filterMap (fun p => if p.2.2.isSome then some ((a + p.1) / 32) else none)
        let s := hostWrite s a (bs.map Prod.fst)
        if ep.isEmpty then ok s len
        else
          let s := s.modHost (fun h => { h with poisonOut := h.poisonOut ++ ep.eraseDups })
          let g := poisonedAt da bs
          (raiseDev s 0x2304 (data2 g 0 (regionOf g)), some (0x0F, len))
      else ok (devWrite s da (clean (hostBytes s a len))) len

/-- HOST_COPY (R381). -/
def execHostCopy (o : Origin) (e : Entry) (s : State) : Host.Outcome State Fault Refusal := .next (runCmd cmdHostCopy o e s)

/-! ### Fabric and Pod Time (R382) -/

def cmdLinkCtl : Cmd where
  op := 0x3001
  pf0 := true
  fields := [(72, 64)]
  body := fun s _ e _ =>
    let n := fld e 69 64
    let en := bit e.toNat 70
    let was := s.link n
    let s := s.modLink n (fun l => { l with en := en, ptEn := bit e.toNat 72 })
    let s := if bit e.toNat 71 || (en && !was.en && was.st == .off && was.lit) then trainLink s n else s
    ok s (linkCode (s.link n).st)

/-- LINK_CTL_COMMAND (R382). -/
def execLinkCtlCommand (o : Origin) (e : Entry) (s : State) : Host.Outcome State Fault Refusal := .next (runCmd cmdLinkCtl o e s)

def cmdFabricSet : Cmd where
  op := 0x3002
  pf0 := true
  oob := true
  fields := [(258, 64)]
  body := fun s o e _ =>
    let sel := fun (i : Nat) => bit e.toNat (256 + i)
    let id := fld e 127 64
    let arb := fld e 191 128
    let tmo := fld e 255 192
    if o == .oob && (sel 1 || sel 2) then bad s 3
    else if (sel 0 && (bits id 15 12 != 0 || bit id 23 || bits id 63 56 != 0)) || (sel 1 && bits arb 63 36 != 0) ||
            (sel 2 && bits tmo 63 24 != 0) then bad s 2
    else ok (s.modFab (fun f => { f with
      podNext := if sel 0 then BitVec.ofNat 6 (bits id 21 16) else f.podNext, stdwire := if sel 0 then bit id 22 else f.stdwire,
      arb := if sel 1 then BitVec.ofNat 64 arb else f.arb, sendTmo := if sel 2 then BitVec.ofNat 24 tmo else f.sendTmo })) 0

/-- FABRIC_SET (R382). -/
def execFabricSet (o : Origin) (e : Entry) (s : State) : Host.Outcome State Fault Refusal := .next (runCmd cmdFabricSet o e s)

def cmdPtSet : Cmd where
  op := 0x3003
  pf0 := true
  fields := [(73, 64), (418, 128)]
  body := fun s o e _ =>
    let sel := fun (i : Nat) => bit e.toNat (416 + i)
    let period := BitVec.ofNat 32 (fld e 287 256)
    let beat := fld e 415 352
    if (sel 0 && fld e 65 64 == 3) || (sel 2 && !beatOk period) then bad s 2
    else if sel 2 && (!(s.fab.podup && s.fab.leader.toNat == s.devId) || beat < s.time.beatNum.toNat + 2) then bad s 7
    else if sel 2 && s.time.beatPend.isSome then bad s 4
    else
      let s := if sel 0 then s.modTime (fun t => { t with tmSrc := BitVec.ofNat 2 (fld e 65 64), tmPrio := BitVec.ofNat 8 (fld e 73 66) }) else s
      let s := if sel 1 then s.modTime (fun t => { t with
        syncNext := BitVec.ofNat 64 (fld e 191 128), syncPeriod := BitVec.ofNat 64 (fld e 255 192) }) else s
      if sel 2 then
        let origin := BitVec.ofNat 64 (fld e 351 288)
        let s := s.modTime (fun t => { t with beatPend := some ⟨period, origin, beat, some o⟩ })
        later (s.emit (.beatChange period origin (BitVec.ofNat 64 beat)))
      else ok s 0

/-- PT_SET (R382). -/
def execPtSet (o : Origin) (e : Entry) (s : State) : Host.Outcome State Fault Refusal := .next (runCmd cmdPtSet o e s)

/-- A member of a group, 8 bytes (R382). -/
def memberOf (b : Nat) : Nat × Nat × Nat := (bits b 11 0, bits b 17 12, bits b 25 18)

def cmdCgroupSet : Cmd where
  op := 0x3010
  fields := [(159, 64)]
  host := fun _ => true
  body := fun s _ e n =>
    let g := fld e 71 64
    let k := fld e 83 72 + 1
    let rank := fld e 95 84
    let other : Bool := match tget s.fab.groups g with | some x => x.owner != n | none => false
    if k ≤ rank then bad s 2
    else if other || s.fab.colls.any (fun c => c.group == g && !c.done) then bad s 4
    else
      let ms := (List.range k).map (fun i => memberOf (hostNat s (fld e 159 96 + 8 * i) 8))
      ok (s.modFab (fun f => { f with groups := tput f.groups g { owner := n, rank := rank, members := ms } })) 0

/-- CGROUP_SET (R382). -/
def execCgroupSet (o : Origin) (e : Entry) (s : State) : Host.Outcome State Fault Refusal := .next (runCmd cmdCgroupSet o e s)

def cmdCgroupClear : Cmd where
  op := 0x3011
  fields := [(71, 64)]
  body := fun s o e n =>
    let g := fld e 71 64
    match tget s.fab.groups g with
    | none => bad s 6
    | some x =>
      if x.owner != n then bad s 3
      else if x.clearing.isSome then bad s 4
      else if s.fab.colls.any (fun c => c.group == g && !c.done) then
        later (s.modFab (fun f => { f with groups := tput f.groups g { x with clearing := some o } }))
      else ok (s.modFab (fun f => { f with groups := tdel f.groups g })) 0

/-- CGROUP_CLEAR (R382). -/
def execCgroupClear (o : Origin) (e : Entry) (s : State) : Host.Outcome State Fault Refusal := .next (runCmd cmdCgroupClear o e s)

/-- Whether a range of regions carries OWNER 0x3E. -/
def starterRange (s : State) (first count : Nat) : Bool :=
  first + count ≤ 524288 && (List.range count).all (fun i => reOwner (entry s (first + i)) == 0x3E)

def cmdStarterRecv : Cmd where
  op := 0x3020
  pf0 := true
  fields := [(75, 64), (165, 128), (229, 192)]
  body := fun s _ e _ =>
    let a := (fld e 146 128, fld e 165 147)
    let b := (fld e 210 192, fld e 229 211)
    if starterRange s a.1 a.2 && starterRange s b.1 b.2 then
      ok (s.modFab (fun f => { f with starter := { f.starter with rx := tput f.starter.rx (fld e 75 64) { a := a, b := b } } })) 0
    else bad s 2

/-- STARTER_RECV (R382). -/
def execStarterRecv (o : Origin) (e : Entry) (s : State) : Host.Outcome State Fault Refusal := .next (runCmd cmdStarterRecv o e s)

def cmdStarterSet : Cmd where
  op := 0x3021
  pf0 := true
  fields := [(127, 64)]
  body := fun s _ e _ =>
    let v := fld e 127 64
    if bits v 15 13 != 0 || bits v 63 40 != 0 || bits v 23 16 == 0 then bad s 2
    else ok (s.modFab (fun f => { f with starter := { f.starter with next := some (BitVec.ofNat 64 v) } })) 0

/-- STARTER_SET (R382). -/
def execStarterSet (o : Origin) (e : Entry) (s : State) : Host.Outcome State Fault Refusal := .next (runCmd cmdStarterSet o e s)

/-! ### Reliability (R383) -/

/-- Whether the target of a reset lies in a partition. -/
def targetIn (s : State) (n scope target : Nat) : Bool :=
  match scope with
  | 0 => clusterPart s (target / 8) == n
  | 1 => clusterPart s target == n
  | _ => target == n

def cmdReset : Cmd where
  op := 0x4001
  oob := true
  rom := fun e => fld e 66 64 == 4
  fields := [(66, 64), (79, 72)]
  body := fun s o e n =>
    let scope := fld e 66 64
    let target := fld e 79 72
    if 4 < scope then bad s 2
    else if 3 ≤ scope then
      if rightsOf o != 0 then bad s 3
      else if scope = 4 then ok (requestReset s 4 0 none) 0
      else later (requestReset s 3 0 (some o))
    else if o == .oob then bad s 3
    else if !partExists s n then bad s 6
    else if (scope = 1 ∧ 32 ≤ target) ∨ (scope = 2 ∧ 32 < target) then bad s 2
    else if !targetIn s n scope target then bad s 3
    else later (requestReset s scope target (some o))

/-- RESET (R383). -/
def execReset (o : Origin) (e : Entry) (s : State) : Host.Outcome State Fault Refusal := .next (runCmd cmdReset o e s)

def cmdSnetSet : Cmd where
  op := 0x4002
  fields := [(69, 64)]
  body := fun s _ e n =>
    if 16 < fld e 68 64 then bad s 2
    else
      let s := s.modPart n (fun p => { p with sn := { p.sn with next := some (bit e.toNat 69, BitVec.ofNat 5 (fld e 68 64)) } })
      ok (if isMember s n then s else sampleNext s n) 0

/-- SNET_SET (R383): in force when the next step opens; at once in a partition that opens none (DEDUCED, log 31). -/
def execSnetSet (o : Origin) (e : Entry) (s : State) : Host.Outcome State Fault Refusal := .next (runCmd cmdSnetSet o e s)

/-- An entry of the repair record (R422). -/
def repairBits (r : Repair) : Nat :=
  r.kind % 16 + r.action % 16 * 2 ^ 4 + r.logical % 65536 * 2 ^ 16 + r.physical % 65536 * 2 ^ 32 + r.cause.toNat * 2 ^ 48 +
  r.life % 2 ^ 64 * 2 ^ 64

def cmdRepairQuery : Cmd where
  op := 0x4003
  pf0 := true
  oob := true
  fields := [(127, 64)]
  host := fun _ => true
  body := fun s _ e _ =>
    ok (hostWrite s (fld e 127 64) (s.rel.repair.flatMap (fun r => natToBytes 16 (repairBits r)))) s.rel.repair.length

/-- REPAIR_QUERY (R422). -/
def execRepairQuery (o : Origin) (e : Entry) (s : State) : Host.Outcome State Fault Refusal := .next (runCmd cmdRepairQuery o e s)

/-- Test one unit: whether it fails is a free value (log 8). A unit that fails is quarantined (R424). -/
def testUnit (set : Nat) (p : State × Nat) (unit : Nat) : State × Nat :=
  let (f, s) := p.1.fresh
  if !f.getLsbD 0 then (s, p.2)
  else
    let s := raiseDev s 0x4601 (data4 (if set = 3 then 0 else unit) (if set = 3 then unit else 0) 0 0)
    (if set = 3 then
       if s.rel.engQuar.getLsbD unit then s
       else addRepair (s.modRel (fun r => { r with engQuar := setFld r.engQuar unit unit 1 })) 1 1 unit (unit / 8) 0x4601
     else quarantine s unit 0x4601, p.2 + 1)

def cmdFieldTest : Cmd where
  op := 0x4004
  pf0 := true
  fields := [(71, 64), (127, 96)]
  body := fun s _ e _ =>
    let set := fld e 71 64
    let ks := setOf (fld e 127 96)
    if set = 0 ∨ 3 < set then bad s 2
    else if !ks.all (fun k => holdsCluster s 0 k && !clusterUsed s k) then bad s 4
    else
      let us := if set = 3 then ks else ks.flatMap (fun k => (List.range 8).map (· + 8 * k))
      let (s, n) := us.foldl (testUnit set) (pantryFlush s, 0)
      ok s n

/-- FIELD_TEST (R424). -/
def execFieldTest (o : Origin) (e : Entry) (s : State) : Host.Outcome State Fault Refusal := .next (runCmd cmdFieldTest o e s)

def cmdDiagRead : Cmd where
  op := 0x4005
  pf0 := true
  fields := [(71, 64), (191, 128)]
  host := fun _ => true
  body := fun s _ e _ => ok (hostWrite s (fld e 191 128) (tgetD s.rel.samples (fld e 71 64) (List.replicate 4096 0))) 0

/-- DIAG_READ (R415). -/
def execDiagRead (o : Origin) (e : Entry) (s : State) : Host.Outcome State Fault Refusal := .next (runCmd cmdDiagRead o e s)

/-! ### Power (R384, R449) -/

/-- The power state of a code. -/
def stateOf : Nat → PState
  | 0 => .run | 1 => .idle | 2 => .hold | 3 => .carousel | _ => .off

def cmdPowerState : Cmd where
  op := 0x5001
  pf0 := true
  oob := true
  fields := [(66, 64)]
  wait := fun s _ _ => s.rel.rstBusy || s.pwr.goal.isSome
  body := fun s o e _ =>
    let t := stateOf (fld e 66 64)
    if 4 < fld e 66 64 then bad s 2
    else if t = s.pwr.st then ok s 0
    else if 2 ≤ fld e 66 64 && !s.ctxs.isEmpty then bad s 4
    else if t = .carousel ∨ t = .off then ok (s.modPwr (fun p => { p with goal := some (t, none) })) 0
    else later (s.modPwr (fun p => { p with goal := some (t, some o) }))

/-- POWER_STATE (R449). -/
def execPowerState (o : Origin) (e : Entry) (s : State) : Host.Outcome State Fault Refusal := .next (runCmd cmdPowerState o e s)

def cmdPartIdle : Cmd where
  op := 0x5002
  fields := [(64, 64)]
  body := fun s _ e n =>
    let idle := bit e.toNat 64
    if (s.part n).idle == idle then ok s 0
    else ok (raise (s.modPart n (fun p => { p with idle := idle })) 0x5302 (some n) none (data5 0 0 0)) 0

/-- PART_IDLE (R384). -/
def execPartIdle (o : Origin) (e : Entry) (s : State) : Host.Outcome State Fault Refusal := .next (runCmd cmdPartIdle o e s)

/-- Whether a sensor id is assigned (R465). -/
def sensorOk (id : Nat) : Bool :=
  (1 ≤ id && id ≤ 3) || (0x10 ≤ id && id ≤ 0x14) || (0x100 ≤ id && id ≤ 0x107) || (0x200 ≤ id && id < 0x250) ||
  (0x300 ≤ id && id ≤ 0x307) || (0x400 ≤ id && id < 0x440) || (0x500 ≤ id && id ≤ 0x502) || (0x600 ≤ id && id ≤ 0x603)

/-- The latest reading of a sensor in milli-units that the state holds. -/
def sensorReading (s : State) (id : Nat) : Option Int :=
  if 0x600 ≤ id ∧ id ≤ 0x603 then some (1000 * aclkOf s (id - 0x600))
  else tget s.pwr.sensors id

/-- The answer to a reading: a reading that the state does not hold is a free value, and so is its validity (log 8). -/
def readSensor (s : State) (id : Nat) : State × Nat :=
  match sensorReading s id with
  | some x => (s, ofSigned 32 x + 2 ^ 32)
  | none =>
    let (f, s) := s.fresh
    (s, f.toNat % 2 ^ 33)

def cmdSensorRead : Cmd where
  op := 0x5003
  oob := true
  free := true
  bringUp := true
  fields := [(79, 64)]
  body := fun s _ e _ =>
    if !sensorOk (fld e 79 64) then bad s 2
    else
      let (s, x) := readSensor s (fld e 79 64)
      ok s x

/-- SENSOR_READ (R384). -/
def execSensorRead (o : Origin) (e : Entry) (s : State) : Host.Outcome State Fault Refusal := .next (runCmd cmdSensorRead o e s)

def cmdPowerCap : Cmd where
  op := 0x5004
  pf0 := true
  oob := true
  fields := [(79, 64)]
  body := fun s _ e _ =>
    let w := fld e 79 64
    if w ≠ 0 ∧ (w < 1500 ∨ 5500 < w) then bad s 2
    else ok (s.modPwr (fun p => { p with capW := if w = 0 then 5500 else BitVec.ofNat 16 w })) 0

/-- POWER_CAP (R444). -/
def execPowerCap (o : Origin) (e : Entry) (s : State) : Host.Outcome State Fault Refusal := .next (runCmd cmdPowerCap o e s)

end Sys2Proof.Machine
end

