-- ==== Sys2Proof/Machine/Faults.lean ====
section
/-! DEFINITION. Faults: mismatches and parity errors (R101, R104, R398, R416), the Safety Net's checks (R404 to R407, R430), the
Ringmaster's failover (R408), and the progress watchdogs with the choice of a reset's scope (R409, R410). -/

namespace Sys2Proof.Machine

open Sys2Proof

/-! ### Mismatches (R101, R104, R398) -/

/-- An operation in flight on a unit of a virtual core, the oldest that meets a condition. -/
def inFlight (x : Vcore) (p : UOp → Bool) : Option UOp := x.ops.find? (fun o => o.phase != .queued && p o)

/-- RESIDUE_CHECKPOINT (R101): the report of a latched mismatch. The arrays report residues only under RES_EN (R102). -/
def execResidueCheckpoint (n : Nat) (m : Mismatch) (s : State) : Host.Outcome State Fault Refusal :=
  .next (match m with
    | .array v arrB bufB lockstep twin =>
      match s.vc? v with
      | some x =>
        let fits := fun (o : UOp) => inUnit (if arrB then .arrb else .arra) o.word && (opOf o.word == 0x22) == twin && (!lockstep || t3Of o)
        match (if x.core = n ∧ ((s.core n).arrCtl.getLsbD 0 || lockstep) then inFlight x fits else none) with
        | some o => mismatchArr s v x o arrB bufB lockstep
        | none => s
      | none => s
    | .vector v =>
      match s.vc? v with
      | some x => match (if x.core = n then inFlight x (fun o => inUnit .vec o.word) else none) with
        | some o => mismatchOp s v x o
        | none => s
      | none => s
    | .conversion v =>
      match s.vc? v with
      | some x => match (if x.core = n then inFlight x (fun o => inUnit .cvt o.word) else none) with
        | some o => mismatchOp s v x o
        | none => s
      | none => s
    | .engine k layer =>
      let p := clusterPart s k
      if (s.att p).passed.contains layer && !(s.att p).readySent then
        queueLayerCheck (raise s 0x4101 (some p) none (data4 0xFF k 0 (curStep s p))) p k layer (ludAt s p layer)
          (!(s.cmt p).sel.getLsbD layer) true
      else s)

/-! ### Suspects and scopes (R410, R416) -/

/-- Contexts with a virtual core on a core, in ascending order. -/
def ctxsOn (s : State) (n : Nat) : List Nat := (s.ctxs.filter (fun c => c.2.vcs.any (fun x => x.2.core == n))).map Prod.fst

/-- The scope and target of the reset that firmware chooses for a fault on a core or, with `cluster`, on an update engine: the
smallest that holds it and every other fault whose reset waits (R410). -/
def faultScope (s : State) (n : Nat) (cluster : Bool) : Nat × Nat :=
  let qs := (s.rel.rstQueue.filter (fun q => q.2.2.isNone && decide (q.1 < 3))).map (fun q => (q.1, q.2.1))
  let k := n / 8
  let clusterOf := fun (q : Nat × Nat) => if q.1 = 0 then some (q.2 / 8) else if q.1 = 1 then some q.2 else none
  let partOf := fun (q : Nat × Nat) => match clusterOf q with | some j => clusterPart s j | none => q.2
  if qs.all (fun q => !cluster && q == (0, n)) then (if cluster then (1, k) else (0, n))
  else if qs.all (fun q => clusterOf q == some k) then (1, k)
  else if qs.all (fun q => partOf q == clusterPart s k) then (2, clusterPart s k)
  else (3, 0)

/-- The suspects of a fault of a core that names no context (R416). -/
def suspectAll (s : State) (n : Nat) : State := s.modRel (fun r => { r with suspects := tput r.suspects n (ctxsOn s n) })

/-- The context of an operation that runs on the arrays or the conversion unit of a core: CTX of ARR_STAT or CVT_STAT (R416). -/
def unitCtx (s : State) (n : Nat) : Option Nat :=
  ((s.core n).slots.find? (fun p => match s.vc? p.2 with
    | some x => (inFlight x (fun o => inUnit .arra o.word || inUnit .arrb o.word || opOf o.word == 0x30)).isSome
    | none => false)).map (fun p => p.2.ctx)

/-- The context that a core's status names (R416): that of a slot, else the one issuing, else that of a unit's operation. -/
def namedOn (s : State) (n : Nat) (slot : Option Nat) : Option Nat :=
  match slot with
  | some i => (tget (s.core n).slots i).map VRef.ctx
  | none => match (s.core n).issuing with
    | some i => (tget (s.core n).slots i).map VRef.ctx
    | none => unitCtx s n

/-- An event of a core's fault, with its context where that is named. -/
def coreEvent (s : State) (code n : Nat) (k : Option Nat) : State :=
  let p := match k with | some c => ctxPart s c | none => clusterPart s (n / 8)
  raise s code (some p) k (data4 n (n / 8) 0 (curStep s p))

/-- Ask for the reset that a core's fault needs, with its suspects. -/
def coreFault (s : State) (code n : Nat) (k : Option Nat) : State :=
  let s := coreEvent s code n k
  let s := if k.isNone then suspectAll s n else s
  let (scope, target) := faultScope s n false
  requestReset s scope target none

/-- PARITY_ERROR (R398): recorded in CORE_HEALTH; what carries it is never used, and the core is reset. -/
def execParityError (n source : Nat) (slot : Option Nat) (s : State) : Host.Outcome State Fault Refusal :=
  .next (let k := namedOn s n slot
    let s := s.modCore n (fun r => if r.parErr then r else { r with parErr := true, parSrc := BitVec.ofNat 3 source, parCtx := k })
    coreFault s 0x4102 n k)

/-! ### Checks (R399, R404 to R407, R430) -/

/-- Where a computation of a check may run: not where another runs, not where B ran, and not where one was discarded. -/
def usable (s : State) (c : Check) (i : Nat) : Bool :=
  !s.rel.checks.any (fun d => d.on == some i) && c.bOn != some i && !c.avoid.contains i

/-- The check core of a computation (R404): B runs on one of the original core's die where one exists that the check may use, else on
the die with the most, and waits for it. C may run on any other than B's; those of the same dies come first (log 10). -/
def pickCheckCore (s : State) (c : Check) : Option Nat :=
  let dies := [0, 1, 2, 3]
  let here := fun (d : Nat) => (checkCoresOf s d).filter (fun i => !c.avoid.contains i)
  let count := fun (d : Nat) => (here d).length
  let most := dies.foldl (fun a d => if count a < count d then d else a) 0
  let die := if count (c.core / 64) = 0 then most else c.core / 64
  match (here die).find? (usable s c) with
  | some i => some i
  | none => if c.b.isNone then none else (dies.flatMap here).find? (usable s c)

/-- The engine of a layer's check (R405): a spare, that of the original's die first, else an engine of the same partition. -/
def pickEngine (s : State) (c : Check) : Option Nat :=
  let d := c.core / 8
  let spares := (d :: [0, 1, 2, 3].filter (· != d)).filter (fun e => !s.rel.engUsed.getLsbD e)
  let own := (List.range 32).filter (fun k => k != c.core && clusterPart s k == c.part && !s.rel.engQuar.getLsbD k)
  (spares.map (256 + ·) ++ own.map (300 + ·)).find? (usable s c)

def pickFor (s : State) (c : Check) : Option Nat := if c.layer.isSome then pickEngine s c else pickCheckCore s c

/-- Whether a place for a third computation exists at all, now or later. -/
def thirdExists (s : State) (c : Check) : Bool :=
  if c.layer.isSome then
    ([0, 1, 2, 3].any (fun e => !s.rel.engUsed.getLsbD e && c.bOn != some (256 + e))) ||
    (List.range 32).any (fun k => k != c.core && clusterPart s k == c.part && !s.rel.engQuar.getLsbD k && c.bOn != some (300 + k))
  else [0, 1, 2, 3].any (fun d => (checkCoresOf s d).any (fun i => c.bOn != some i))

/-- Replace a check. -/
def putCheck (s : State) (c : Check) : State :=
  s.modRel (fun r => { r with checks := r.checks.map (fun d => if d.id = c.id then c else d) })

/-- CHECK_START (R404): the oldest check that can start, its record landed in the check area, is assigned its place. One whose output
groups await their verdicts has no final output yet (R32). -/
def execCheckStart (s : State) : Host.Outcome State Fault Refusal :=
  .next (if s.mgmt.fwstate ≠ 2 then s
    else match s.rel.checks.find? (fun c => !c.started && !c.closing && areaOk s c.part &&
        !groupsPending s c.part (c.waits.map Prod.fst) && (pickFor s c).isSome) with
    | some c => putCheck s { c with started := true, on := pickFor s c }
    | none => s)

/-- A check concludes (R406): it is counted, and the operation that it held goes on. -/
def conclude (s : State) (c : Check) : State :=
  let s := s.modRel (fun r => { r with checks := r.checks.filter (fun d => d.id != c.id), checksN := satInc r.checksN })
  let s := s.modPart c.part (fun p => { p with sn := { p.sn with pending := p.sn.pending - 1, checks := satInc p.sn.checks } })
  match c.vref, c.op with
  | some v, some o => releaseOp s v o none
  | _, _ => s

/-- An event of a check. -/
def checkEvent (s : State) (c : Check) (code : Nat) : State :=
  raise s code (some c.part) c.ctx (if c.layer.isSome then data4 0xFF c.core 0 (curStep s c.part)
    else data4 c.core (c.core / 8) 0 (curStep s c.part))

/-- Abandon the attempt of a check with WHY = 4 (R405, R430): the check stays until then; outside a commit group it
concludes at once. -/
def checkAbandons (s : State) (c : Check) : State :=
  if isMember s c.part then causeAbandon (putCheck s { c with started := false, on := none, closing := true }) c.part 4
  else conclude s c

/-- Write results over the places that hold a check's original output. -/
def replaceOut (s : State) (c : Check) (bs : List Byte) : State :=
  (c.outs.foldl (fun (p : State × List Byte) l =>
    let d := clean (p.2.take l.len)
    (if l.dev then devWrite p.1 l.addr d
     else match c.vref with
       | some v => spWrite p.1 v 0 false l.addr d
       | none => p.1, p.2.drop l.len)) (s, bs)).1

/-- A suspect mark on where a computation ran (R407): engines carry none. -/
def markPlace (s : State) (c : Check) (i : Option Nat) (cause : Nat) : State :=
  match i with
  | some j => if c.layer.isSome then s else markCheckCore s j cause
  | none => if c.layer.isSome then s else markCore s c.core cause

/-- Quarantine a check core. -/
def quarantineCheckCore (s : State) (i cause : Nat) : State :=
  addRepair (s.modRel (fun r => { r with checkCores := tput r.checkCores i { (tgetD r.checkCores i {}) with quar := true } })) 0 1 0xFFFF
    (physSpare i) cause

/-- Quarantine all three places of a three-way disagreement (R405): an enabled update engine is retired at the next reset that
covers it (DEDUCED, log 31). -/
def quarantineAll (s : State) (c : Check) (third : Nat) : State :=
  if c.layer.isSome then
    ((some (300 + c.core) :: [c.bOn, some third]).filterMap id).foldl (fun t i =>
      if 300 ≤ i then addRepair (t.modRel (fun r => { r with engQuar := setFld r.engQuar (i - 300) (i - 300) 1 })) 1 1 (i - 300) ((i - 300) / 8) 0x4203
      else t) s
  else ((c.bOn.toList ++ [third]).foldl (fun t i => quarantineCheckCore t i 0x4203) (quarantine s c.core 0x4203))

/-- Compare one computation of a check with the original (R405). -/
def compareCheck (s : State) (c : Check) (i : Nat) (bs : List Byte) : State :=
  match c.b with
  | none =>
    if bs = c.a then
      let s := if c.resid && c.layer.isNone then s.modCore c.core (fun r => { r with falseRes := satInc r.falseRes }) else s
      conclude s c
    else
      let s := checkEvent (s.modRel (fun r => { r with disagree := satInc r.disagree })) c 0x4201
      let c := { c with b := some bs, bOn := some i, started := false, on := none }
      if thirdExists s c then putCheck s c else checkAbandons s c
  | some b =>
    let major := fun (t : State) => checkEvent (t.modRel (fun r => { r with majority := satInc r.majority })) c 0x4202
    if bs = c.a then conclude (markPlace (major s) c c.bOn 0x4202) c
    else if bs = b then
      let held : Bool := c.layer.isSome || (match c.vref, c.op with
        | some v, some o => (match s.vc? v with | some x => x.ops.any (fun p => p.id == o && p.held) | none => false)
        | _, _ => false)
      let s := markPlace (major s) c none 0x4202
      if held then conclude (replaceOut s c bs) c else conclude (causeAbandon s c.part 4) c
    else
      let s := checkEvent (s.modRel (fun r => { r with threeway := satInc r.threeway })) c 0x4203
      checkAbandons (quarantineAll s c i) c

/-- A recomputation has consumed poison (R293, R406): the context is treated under the policy; a layer's check ends its layer's pass as an
update engine's does (R291). No disagreement is recorded. -/
def checkPoison (s : State) (c : Check) (p : Policy) : State :=
  let counted := s.modPart c.part (fun q => { q with poisonc := satInc q.poisonc })
  match c.ctx with
  | some k => if p = .nan then raiseCtx counted 0x2302 k 0 else poisonCtx s k p 0
  | none => causeAbandon (raise counted 0x2305 (some c.part) none 0) c.part 2

/-- CHECK_COMPARE (R405): a computation of a check ends. -/
def execCheckCompare (id : Nat) (r : CheckEnd) (s : State) : Host.Outcome State Fault Refusal :=
  .next (match s.rel.checks.find? (fun c => c.id == id && c.started) with
    | none => s
    | some c => match c.on with
      | none => s
      | some i =>
        let die := if i < 256 then i / 8 else if i < 300 then i - 256 else (i - 300) / 8
        if dieStopped s die then s
        else match r with
        | .result bs => compareCheck s c i bs
        | .mismatch =>
          let s := if c.layer.isSome then s else markCheckCore s i 0x4101
          putCheck s { c with started := false, on := none, avoid := i :: c.avoid }
        | .poison p => conclude (checkPoison s c p) c)

/-! ### Watchdogs (R408, R409) -/

/-- RINGMASTER_FAILOVER (R408): three marks without a heartbeat. With no standby, the always-on restart of R460 follows. -/
def execRingmasterFailover (s : State) : Host.Outcome State Fault Refusal :=
  .next (if !awake s || s.mgmt.bootrom then s
    else
      let s := s.modRel (fun r => { r with missed := satInc r.missed 3 })
      if !s.mgmt.standbyOk then s
      else
        let old := s.mgmt.rmcore
        let s := raiseDev s 0x4302 (data4 0 0 0 0)
        let s := (s.modRel (fun r => { r with failovers := satInc r.failovers })).modMgmt (fun m => { m with rmcore := !m.rmcore, standbyOk := false })
        raiseDev (addRepair s 5 0 (b2n old) (b2n old) 0x4302) 0x4303 (data4 0 0 0 0))

/-- WATCHDOG_EXPIRY (R409): a counter has stalled for PW_BEATS marks; firmware asks for the reset of R410. -/
def execWatchdogExpiry (w : Watch) (s : State) : Host.Outcome State Fault Refusal :=
  let limit := fld s.rel.ctl 3 0
  .next (match w with
    | .core n =>
      if (s.core n).stallb.toNat < limit || coreStopped s n then s else coreFault s 0x4301 n (namedOn s n none)
    | .engine k =>
      if (s.cluster k).stallb.toNat < limit || coreStopped s (8 * k) then s
      else
        let p := clusterPart s k
        let s := raise s 0x4301 (some p) none (data4 0xFF k 0 (curStep s p))
        let s := s.modRel (fun r => { r with suspects := tput r.suspects (256 + k) (partCtxs s p) })
        let (scope, target) := faultScope s (8 * k) true
        requestReset s scope target none)

end Sys2Proof.Machine
end

