-- ==== Sys2Proof/Machine/Oob.lean ====
section
/-! DEFINITION. Out-of-band management (R391, R392). An answer is the content that the manual names; its framing under the cited
specifications is left out (log 13). -/

namespace Sys2Proof.Machine

open Sys2Proof

/-- Whether an out-of-band request is served now (R392); the boot ROM serves none but vendor-defined ones (R390). -/
def oobServed (s : State) : Bool := awake s && s.mgmt.ready && !s.mgmt.bootrom

/-- Answer a request that is served. In CAROUSEL it waits for the wake, and in OFF the interfaces are silent (R392, log 3). -/
def oobAnswer (s : State) (f : State → State × List Byte) : State :=
  if oobServed s then
    let (s, bs) := f s
    reply s (.mgmt bs)
  else s

/-- SET_ENDPOINT_ID (R391). -/
def execSetEndpointId (eid : Byte) (s : State) : Host.Outcome State Fault Refusal :=
  .next (oobAnswer s (fun s => (s.modMgmt (fun m => { m with eid := eid }), [eid])))

/-- GET_ENDPOINT_ID (R391). -/
def execGetEndpointId (s : State) : Host.Outcome State Fault Refusal := .next (oobAnswer s (fun s => (s, [s.mgmt.eid])))

/-- GET_ENDPOINT_UUID (R391). -/
def execGetEndpointUuid (s : State) : Host.Outcome State Fault Refusal :=
  .next (oobAnswer s (fun s => (s, natToBytes 16 Config.endpointUuid.toNat)))

/-- GET_MCTP_VERSION_SUPPORT (R391): the versions are those of the cited specifications (log 13). -/
def execGetMctpVersionSupport (messageType : Byte) (s : State) : Host.Outcome State Fault Refusal :=
  .next (oobAnswer s (fun s => (s, Config.managementReply 1 messageType.toNat)))

/-- GET_MESSAGE_TYPE_SUPPORT (R391). -/
def execGetMessageTypeSupport (s : State) : Host.Outcome State Fault Refusal :=
  .next (oobAnswer s (fun s => (s, [0x00, 0x01, 0x7E])))

/-- GET_VENDOR_DEFINED_MESSAGE_SUPPORT (R391): Gwynvan's PCI vendor identifier is not printed there (log 13). -/
def execGetVendorDefinedMessageSupport (selector : Byte) (s : State) : Host.Outcome State Fault Refusal :=
  .next (oobAnswer s (fun s => (s, Config.managementReply 2 selector.toNat)))

/-- VENDOR_DEFINED_MESSAGE (R391): the entry waits for its command; an unknown opcode is answered at once with 0x01 (R354). -/
def execVendorDefinedMessage (e : Entry) (s : State) : Host.Outcome State Fault Refusal :=
  .next (if s.pwr.st = .off ∨ !s.mgmt.ready then s
    else if knownOps.contains (fld e 15 0) then queueRemote s 512 e
    else if awake s then reply s (.mgmt (natToBytes 16 (cplBits (BitVec.ofNat 16 (fld e 31 16)) 1 0).toNat))
    else s)

/-- GET_TID (R391). -/
def execGetTid (s : State) : Host.Outcome State Fault Refusal := .next (oobAnswer s (fun s => (s, [s.mgmt.tid])))

/-- SET_TID (R391). -/
def execSetTid (tid : Byte) (s : State) : Host.Outcome State Fault Refusal :=
  .next (oobAnswer s (fun s => (s.modMgmt (fun m => { m with tid := tid }), [])))

/-- GET_PLDM_VERSION (R391, log 13). -/
def execGetPldmVersion (pldmType : Byte) (s : State) : Host.Outcome State Fault Refusal :=
  .next (oobAnswer s (fun s => (s, Config.managementReply 3 pldmType.toNat)))

/-- GET_PLDM_TYPES (R391, log 13). -/
def execGetPldmTypes (s : State) : Host.Outcome State Fault Refusal :=
  .next (oobAnswer s (fun s => (s, Config.managementReply 4 0)))

/-- GET_PLDM_COMMANDS (R391, log 13). -/
def execGetPldmCommands (pldmType : Byte) (s : State) : Host.Outcome State Fault Refusal :=
  .next (oobAnswer s (fun s => (s, Config.managementReply 5 pldmType.toNat)))

/-- GET_PDR_REPOSITORY_INFO (R391, log 13). -/
def execGetPdrRepositoryInfo (s : State) : Host.Outcome State Fault Refusal :=
  .next (oobAnswer s (fun s => (s, Config.managementReply 6 0)))

/-- GET_PDR (R391, log 13). -/
def execGetPdr (handle : Nat) (s : State) : Host.Outcome State Fault Refusal :=
  .next (oobAnswer s (fun s => (s, Config.platformRecord handle)))

/-- GET_SENSOR_READING (R392): in CAROUSEL from the latest sample; bit 32 of the answer tells a reading. A sensor that does
not exist is answered by the cited specification (log 13). -/
def execGetSensorReading (sensor : Nat) (s : State) : Host.Outcome State Fault Refusal :=
  .next (if s.pwr.st = .carousel then reply s (.mgmt (if sensorOk sensor then natToBytes 5 (match tget s.pwr.sensors sensor with
      | some x => ofSigned 32 x + 2 ^ 32
      | none => 0) else Config.managementReply 7 sensor))
    else oobAnswer s (fun s =>
      if sensorOk sensor then
        let (s, x) := readSensor s sensor
        (s, natToBytes 5 x)
      else (s, Config.managementReply 7 sensor)))

/-- GET_STATE_SENSOR_READINGS (R391): no rule names a state sensor, so the answer is a free value (log 8). -/
def execGetStateSensorReadings (sensor : Nat) (s : State) : Host.Outcome State Fault Refusal :=
  .next (oobAnswer s (fun s =>
    let (f, s) := s.fresh
    (s, Config.managementReply 8 sensor ++ natToBytes 8 f.toNat)))

/-- SET_EVENT_RECEIVER (R391). -/
def execSetEventReceiver (eid : Byte) (s : State) : Host.Outcome State Fault Refusal :=
  .next (oobAnswer s (fun s => (s.modMgmt (fun m => { m with evtReceiver := eid }), [])))

/-- One step of a PLDM firmware update: the staging session of R389, opened out of band. The answer is a status. -/
def pldmStep (s : State) (c : PldmFw) : State × Nat :=
  let other : Bool := match s.mgmt.staging with | some (o, _) => o != .oob | none => false
  match c with
  | .requestUpdate =>
    if other then (s, 4) else ((setIdleSlot s .empty).modMgmt (fun m => { m with staging := some (.oob, []) }), 0)
  | .firmwareData off bs =>
    if s.mgmt.staging.isNone then (s, 7)
    else if imageSlotBytes < off + bs.length then (s, 2)
    else stageChunk s .oob off bs false
  | .transferComplete => if s.mgmt.staging.isNone then (s, 7) else stageChunk s .oob 0 [] true
  | .cancel => if other then (s, 4) else (s.modMgmt (fun m => { m with staging := none }), 0)

/-- PLDM_FIRMWARE_UPDATE (R391). -/
def execPldmFirmwareUpdate (c : PldmFw) (s : State) : Host.Outcome State Fault Refusal :=
  .next (oobAnswer s (fun s =>
    let (s, st) := pldmStep s c
    (s, [BitVec.ofNat 8 st])))

/-- ACTIVATE_FIRMWARE (R391): self-contained activation is the LIVE activation of R390; any other leaves the slot preferred
from the next reset (DEDUCED, log 12). -/
def execActivateFirmware (selfContained : Bool) (s : State) : Host.Outcome State Fault Refusal :=
  .next (oobAnswer s (fun s =>
    if selfContained then
      let (s, st) := activateLive s none
      (s, [BitVec.ofNat 8 st])
    else if slotGood s (!s.mgmt.slot) then (s.modMgmt (fun m => { m with preferB := !m.slot }), [0])
    else (s, [7])))

end Sys2Proof.Machine
end

