-- ==== Sys2Proof/Machine/Power.lean ====
section
/-! DEFINITION. Power: the input (R435), dips of VCORE (R438 to R440), the cap (R444), heat and coolant (R445, R446), the power
states (R448 to R453, R461) and the Carousel (R454, R455). -/

namespace Sys2Proof.Machine

open Sys2Proof

/-- Store a sensor's reading in milli-units. -/
def setSensor (s : State) (id : Nat) (milli : Int) : State := s.modPwr (fun p => { p with sensors := tput p.sensors id milli })

/-- Whether the compute rails are up (R448). -/
def computeOn (s : State) : Bool := s.pwr.st == .run || s.pwr.st == .idle

/-! ### The input (R435) -/

/-- The module loses power: nothing runs, and contexts, partitions and memory contents are lost (R435, R448). COLD_START gives
everything its value again. -/
def turnOff (s : State) : State :=
  { s with
    cores := [], clusters := [], parts := [], ctxs := [], gsrq := [], rhos := [], feeds := [], groups := [], rebakes := [],
    tsrq := [], verdicts := [], abandons := [], mem := {},
    host := { s.host with raised := [], fns := [], remote := [], remoteRunning := [], remoteBells := [], bellNo := 0, cfgReady := false, training := false },
    rel := { s.rel with rstQueue := [], rstBusy := false, checks := [], recover := [], suspects := [] },
    pwr := { s.pwr with st := .off, goal := none },
    mgmt := { s.mgmt with fwstate := 0, ready := false, obs := none, thermtrip := false } }

/-- The input as firmware sees it: event 0x5101 at most once a beat while it is out of range. -/
def inputReading (s : State) (mv : Int) : State :=
  let s := setSensor s 1 mv
  if 42000 ≤ mv ∧ mv ≤ 54000 then s.modPwr (fun p => { p with inputBad := false })
  else
    let s := s.modPwr (fun p => { p with inputBad := true })
    if s.pwr.inputRaised then s
    else (raiseDev s 0x5101 (data5 1 mv 0)).modPwr (fun p => { p with inputRaised := true })

/-- INPUT_OUT_OF_RANGE (R435): the input has stood at a voltage for the times that the rule gives. -/
def execInputOutOfRange (mv : Int) (s : State) : Host.Outcome State Fault Refusal :=
  .next (if s.pwr.st = .off then s
    else
      let s := inputReading s mv
      if mv < 40000 ∨ 56000 < mv then turnOff s else s)

/-! ### Dips (R438 to R440) -/

def rail (s : State) (die : Nat) : Vrail := tgetD s.pwr.rails die {}
def modRail (s : State) (die : Nat) (f : Vrail → Vrail) : State := s.modPwr (fun p => { p with rails := tmod p.rails die {} f })

/-- Operations in flight on a die whose units R439 names: arrays, conversion and vector. -/
def opsOnDie (s : State) (die : Nat) : List (VRef × Nat) :=
  s.ctxs.flatMap (fun c => c.2.vcs.flatMap (fun x =>
    if x.2.core / 64 = die then (x.2.ops.filter (fun o => o.phase != .queued && 0x20 ≤ opOf o.word)).map (fun o => (⟨c.1, x.1⟩, o.id)) else []))

/-- The passes of a die's update engines that are under way (R439): each layer is checked as if it had raised 0x4101. -/
def passesOnDie (s : State) (die : Nat) : State :=
  (List.range 8).foldl (fun t i =>
    let k := 8 * die + i
    let p := clusterPart t k
    match (t.cluster k).busy with
    | some layer => if (t.att p).passed.contains layer && !(t.att p).readySent then
        queueLayerCheck t p k layer (ludAt t p layer) (!(t.cmt p).sel.getLsbD layer) true else t
    | none => t) s

/-- Checks that run on a die start again (R430, R439). -/
def repeatChecks (s : State) (die : Nat) : State :=
  s.modRel (fun r => { r with checks := r.checks.map (fun c => match c.on with
    | some i => if (if i < 256 then i / 8 else if i < 300 then i - 256 else (i - 300) / 8) = die then { c with started := false, on := none } else c
    | none => c) })

/-- Mark what is in flight on a die (R439). A dip during a compute reset marks nothing (R463). -/
def markDie (s : State) (die : Nat) : State :=
  if s.rel.rstQueue.any (fun q => 3 ≤ q.1) then s
  else
    let s := (opsOnDie s die).foldl (fun t p => suspectOp t p.1 p.2 false) s
    repeatChecks (passesOnDie s die) die

/-- VCORE_WARNING (R438): the rail is below 0.66 V. -/
def execVcoreWarning (die mv : Nat) (s : State) : Host.Outcome State Fault Refusal :=
  .next (if !computeOn s || s.pwr.trip then s
    else
      let s := setSensor s (0x10 + die) mv
      if (rail s die).below then modRail s die (fun r => { r with minmv := BitVec.ofNat 16 (min r.minmv.toNat mv) })
      else markDie (modRail s die (fun r => { r with dips := satInc r.dips, minmv := BitVec.ofNat 16 mv, below := true, window := true })) die)

/-- VCORE_RECOVER (R438): the rail has risen to 0.665 V, and 2 µs have passed. -/
def execVcoreRecover (die : Nat) (s : State) : Host.Outcome State Fault Refusal :=
  let r := rail s die
  .next (if !r.below then s
    else
      let s := modRail s die (fun r => { r with below := false, window := false })
      if r.resetAt.isSome then s else raiseDev s 0x5102 (data5 (0x10 + die) r.minmv.toNat 0))

/-- The rail of a die is at its reset level: its units stop, and a compute reset follows (R438, R440). -/
def resetLevel (s : State) (die mv : Nat) : State :=
  let was := (rail s die).below
  let s := modRail s die (fun r => { r with
    dips := if was then r.dips else satInc r.dips, vresets := satInc r.vresets,
    minmv := BitVec.ofNat 16 (if was then min r.minmv.toNat mv else mv), below := true, window := false, resetAt := some s.now })
  requestReset (raiseDev s 0x5103 (data5 (0x10 + die) mv 0)) 3 0 none

/-- VCORE_DIP_TIMEOUT (R438): a dip of 100 µs counts as one to the reset level. -/
def execVcoreDipTimeout (die : Nat) (s : State) : Host.Outcome State Fault Refusal :=
  .next (if (rail s die).below && (rail s die).resetAt.isNone then resetLevel s die (rail s die).minmv.toNat else s)

/-- VCORE_RESET_LEVEL (R438). -/
def execVcoreResetLevel (die mv : Nat) (s : State) : Host.Outcome State Fault Refusal :=
  .next (if !computeOn s || s.pwr.trip || (rail s die).resetAt.isSome then s else resetLevel (setSensor s (0x10 + die) mv) die mv)

/-! ### The cap and heat (R444, R445) -/

/-- Change the ACLK of a die by one 25 MHz step within 200 MHz to 1.50 GHz (R443). -/
def stepAclk (s : State) (die : Nat) (up : Bool) : State :=
  let f := aclkOf s die
  s.modPwr (fun p => { p with aclk := tput p.aclk die (if up then min 1500 (f + 25) else max 200 (f - 25)) })

/-- One comparison of the input power with the cap (R444); a die above its warning threshold steps down too (R445). -/
def capStep (s : State) (watts : Nat) : State :=
  let cap := s.pwr.capW.toNat
  let above := decide (cap < watts)
  let below := decide (watts * 100 < cap * 95)
  let low := (List.range 4).all (fun d => aclkOf s d ≤ 200)
  let t := (List.range 4).foldl (fun t d =>
    if above || t.pwr.dieWarm.contains d then stepAclk t d false else if below then stepAclk t d true else t) s
  let t := t.modPwr (fun p => { p with slices := if above then p.slices || low else if below then false else p.slices })
  let free := (List.range 4).all (fun d => t.pwr.dieWarm.contains d || aclkOf t d == 1500)
  if above && !s.pwr.capOn then
    raiseDev (t.modPwr (fun p => { p with capOn := true })) 0x5401 (data5 3 (1000 * (watts : Int)) 0)
  else if !above && s.pwr.capOn && free then
    raiseDev (t.modPwr (fun p => { p with capOn := false })) 0x5401 (data5 3 (1000 * (watts : Int)) 0)
  else t

/-- POWER_CAP_TICK (R444): no step while a dip pauses a die (R463), and none while the compute clocks are off. -/
def execPowerCapTick (watts : Nat) (s : State) : Host.Outcome State Fault Refusal :=
  .next (if s.pwr.st = .off ∨ s.pwr.st = .carousel then s
    else
      let s := setSensor (s.modPwr (fun p => { p with pinW := BitVec.ofNat 16 watts })) 3 (1000 * (watts : Int))
      if !computeOn s || (List.range 4).any (dieWindow s) then s else capStep s watts)

/-- A die's hottest reading: it is no longer hot below 85 °C (R445). -/
def dieReading (s : State) (die : Nat) (temp : Int) : State :=
  (setSensor s (0x100 + die) (1000 * temp)).modPwr (fun p => { p with
    hot := if temp < 85 then p.hot.filter (· != die) else if p.trip && !p.hot.contains die then p.hot ++ [die] else p.hot })

/-- DIE_TEMP_WARNING (R445): a reading of a die against TDIE_WARN, with 2 °C of hysteresis. -/
def execDieTempWarning (die : Nat) (temp : Int) (s : State) : Host.Outcome State Fault Refusal :=
  .next (if s.pwr.st = .off ∨ s.pwr.st = .carousel then s
    else
      let s := dieReading s die temp
      let warn : Int := s.pwr.tdieWarn.toNat
      let was := s.pwr.dieWarm.contains die
      if warn ≤ temp ∧ !was then
        let s := s.modPwr (fun p => { p with dieWarm := p.dieWarm ++ [die], thLim := true })
        raiseDev (if computeOn s then stepAclk s die false else s) 0x5203 (data5 (0x100 + die) (1000 * temp) 0)
      else if temp < warn - 2 ∧ was then
        s.modPwr (fun p => { p with dieWarm := p.dieWarm.filter (· != die), thLim := (p.dieWarm.filter (· != die)) != [] })
      else s)

/-- A thermal trip (R445): compute rails off, event 0x5204, ABORT for every member that has no COMMIT, and the module fails.
The reason of the ABORT is not given: 5 (DEDUCED, log 27). -/
def tripDie (s : State) (die : Nat) : State :=
  let warm := fun (d : Nat) => d == die || (match tget s.pwr.sensors (0x100 + d) with | some x => decide (85000 ≤ x) | none => false)
  let s := s.modPwr (fun p => { p with trip := true, hot := (List.range 4).filter warm })
  let s := raiseDev (s.modMgmt (fun m => { m with thermtrip := true })) 0x5204 (data5 (0x100 + die) 110000 0)
  declareFailed (abortMembers s 5) 0 0

/-- THERMAL_TRIP (R445). -/
def execThermalTrip (die : Nat) (s : State) : Host.Outcome State Fault Refusal :=
  .next (if s.pwr.st = .off ∨ s.pwr.st = .carousel then s
    else if s.pwr.trip then s.modPwr (fun p => { p with hot := if p.hot.contains die then p.hot else p.hot ++ [die] })
    else tripDie s die)

/-- COOLANT_ALARM (R446): a reading of the inlet temperature or of the flow; an event at each crossing, either way. -/
def execCoolantAlarm (sensor : Nat) (milli : Int) (s : State) : Host.Outcome State Fault Refusal :=
  .next (if s.pwr.st = .off ∨ s.pwr.st = .carousel then s
    else
      let s := setSensor s sensor milli
      let bad : Bool := if sensor = 0x500 then decide ((1000 * s.pwr.tinWarn.toNat : Int) < milli) else decide (milli < (s.pwr.flowWarn.toNat : Int))
      if bad == s.pwr.coolOut.contains sensor then s
      else
        raiseDev (s.modPwr (fun p => { p with coolOut := if bad then p.coolOut ++ [sensor] else p.coolOut.filter (· != sensor) }))
          (if sensor = 0x500 then 0x5201 else 0x5202) (data5 sensor milli 0))

/-! ### Power states (R448 to R451, R461) -/

/-- Compute rails off: what the HOLD column loses. -/
def enterHold (s : State) : State :=
  let s := pantryFlush s
  { s with
    cores := tmap s.cores (fun _ r => resetCore r), clusters := tmap s.clusters (fun _ _ => {}),
    fab := { s.fab with links := tmap s.fab.links (fun _ l => if l.st = .up then { l with idle := true } else l) },
    pwr := { s.pwr with
      st := .hold, aclk := [], lock := s.pwr.lock &&& 0x0F, capOn := false, thLim := false, slices := false, dieWarm := [],
      rails := tmap s.pwr.rails (fun _ r => { r with below := false, window := false, resetAt := none }) } }

/-- Compute rails and clocks on again. -/
def leaveHold (s : State) : State :=
  { s with
    fab := { s.fab with links := tmap s.fab.links (fun _ l => { l with idle := false }) },
    pwr := { s.pwr with st := .idle, aclk := (List.range 4).map (fun d => (d, 1500)), lock := s.pwr.lock ||| 0xF0 } }

/-- Dark links: what the CAR. column loses of a link; whether its fibre is lit is seen again by the light detectors. -/
def darkLink (l : Link) : Link := { en := l.en, ptEn := l.ptEn, lit := l.lit }

/-- What the CAR. column loses: link training, routes, PT_VALID and PT_LOCK, and the pod as discovery left it (R455). -/
def enterCarousel (s : State) : State :=
  { s with
    fab := { s.fab with
      links := tmap s.fab.links (fun _ l => darkLink l), optics := tmap s.fab.optics (fun _ o => { laserOk := o.laserOk, temp := o.temp }),
      route := [], mcast := [], podup := false, members := 0, memberList := [], topo := [], summaries := [], upstream := none,
      sends := [], colls := [], early := [], earlySums := [], arrived := [], asm := [], inbox := [], kept := [], joining := [], missed := [],
      serials := [] },
    time := { s.time with valid := false, lock := false },
    mgmt := { s.mgmt with obs := none },
    pwr := { s.pwr with st := .carousel } }

/-- The Carousel's crossings as the Ringmaster reports them once it runs (R454): a fixed limit has the effect of its own
rule, anything else raises event 0x5303. -/
def reportCrossing (s : State) (c : Nat × Int) : State :=
  if c.1 = 1 ∧ (c.2 < 42000 ∨ 54000 < c.2) then inputReading s c.2
  else if 0x100 ≤ c.1 ∧ c.1 < 0x104 ∧ 110000 ≤ c.2 then (if s.pwr.trip then s else tripDie s (c.1 - 0x100))
  else if 0x200 ≤ c.1 ∧ c.1 < 0x250 ∧ 110000 ≤ c.2 then fencePart s (c.1 - 0x200)
  else raiseDev s 0x5303 (data5 c.1 c.2 0)

/-- The regions of PHINT SCRATCH are zero after CAROUSEL (R461): their bytes and their poison go. -/
def zeroScratch (s : State) : State :=
  let inScratch := fun (da : Nat) => rePhint (entry s (regionOf da)) == 2
  s.modMem (fun m => { m with
    bytes := m.bytes.filter (fun c => !inScratch c.1), poison := m.poison.filter (fun p => !inScratch (32 * p.1)),
    latent := m.latent.filter (fun p => !inScratch (32 * p.1)) })

/-- The module wakes from CAROUSEL to HOLD: lit links train, scratch banks are cleared, and the pins are driven again (R450, R461, R474). -/
def leaveCarousel (s : State) : State :=
  let s := zeroScratch s
  let s := { s with
    fab := { s.fab with links := tmap s.fab.links (fun _ l => if l.lit && l.en then { l with st := .train } else l) },
    pwr := { s.pwr with st := .hold, crossings := [] },
    rel := { s.rel with samples := [] } }
  if s.mgmt.obsEn then driveObs s else s

/-- What falls due once the Ringmaster runs again: crossings are reported, and a reset that waited takes place (R454, R463). -/
def afterWake (before s : State) : State :=
  let s := before.pwr.crossings.foldl reportCrossing s
  if s.host.resetDue then conventionalReset s else s

/-- The next state on the way (R449): OFF is entered from any. -/
def nextState (a t : PState) : PState :=
  if t = .off then .off else if stateCode a < stateCode t then stateOf (stateCode a + 1) else stateOf (stateCode a - 1)

/-- Whether the next change can complete: IDLE once every virtual core stands at a quiescent boundary, CAROUSEL and OFF once
the completions that the host waits for are posted (R384, R450). -/
def changeReady (s : State) (t : PState) : Bool :=
  match t with
  | .idle => s.pwr.st != .run || s.ctxs.all (fun c => c.2.st != .running || c.2.vcs.all (fun x => quiescent s c.2 ⟨c.1, x.1⟩ x.2))
  | .carousel | .off => !s.host.fns.any (fun f => canDma s f.1 && f.2.chans.any (fun c => c.2.rings.any (fun r => r.2.done.isSome)))
  | _ => true

/-- One change of state, without its event. -/
def changeTo (s : State) (t : PState) : State :=
  match s.pwr.st, t with
  | .idle, .hold => enterHold s
  | .hold, .idle => leaveHold s
  | .hold, .carousel => enterCarousel s
  | .carousel, .hold => afterWake s (leaveCarousel s)
  | _, .off => turnOff s
  | _, t => s.modPwr (fun p => { p with st := t })

/-! ### Waking (R452, R453) -/

/-- An enabled wake source acts (R452). While the module is entering a state the entry completes first (R453, R463); an edge within the
240 ns window has no WAKE row (log 35). -/
def wakeBy (s : State) (source : Nat) : State :=
  if !s.pwr.wakeEn.getLsbD source then s
  else match s.pwr.goal with
  | some (t, _) => if t = .run ∨ t = .off then s else s.modPwr (fun p => { p with wakePend := some source })
  | none =>
    let go := fun (t : PState) => s.modPwr (fun p => { p with goal := some (t, none), lastWake := BitVec.ofNat 3 (source + 1) })
    match s.pwr.st with
    | .carousel => go (if s.pwr.wakeTo then .run else .hold)
    | .hold | .idle => if s.pwr.wakeTo then go .run else s
    | _ => s

/-- The wake that came during an entry, once the entry is over (R453). -/
def lateWake (s : State) : State :=
  match s.pwr.wakePend with
  | some i => wakeBy (s.modPwr (fun p => { p with wakePend := none })) i
  | none => s

/-- STATE_CHANGE_COMPLETE (R450): the module takes one step toward its goal, with event 0x5301; at the goal the command that
asked completes. -/
def execStateChangeComplete (s : State) : Host.Outcome State Fault Refusal :=
  .next (match s.pwr.goal with
    | none => s
    | some (t, o) =>
      let n := nextState s.pwr.st t
      if t = s.pwr.st ∨ !changeReady s n then s
      else
        let prev := stateCode s.pwr.st
        let s := changeTo s n
        if n = .off then s
        else
          let s := raiseDev s 0x5301 (data5 0 0 prev)
          if n ≠ t then s
          else
            let s := s.modPwr (fun p => { p with goal := none })
            let s := match o with
              | some o => finish s o 0 0
              | none => s
            lateWake s)

/-- WAKE (R452): an alarm wakes by the edge of its firing (R333), once. -/
def execWake (source : Nat) (s : State) : Host.Outcome State Fault Refusal :=
  .next (if source ≠ 3 then wakeBy s source
    else if s.pwr.alarmEdge then wakeBy (s.modPwr (fun p => { p with alarmEdge := false })) source else s)

/-! ### The Carousel (R454) -/

/-- Whether a reading reaches a fixed limit of R454. -/
def fixedLimit (r : Nat × Int) : Bool :=
  (r.1 == 1 && (r.2 < 42000 || 54000 < r.2)) || (((0x100 ≤ r.1 && r.1 < 0x104) || (0x200 ≤ r.1 && r.1 < 0x250)) && 110000 ≤ r.2)

/-- Whether a reading crosses a threshold of CAR_THR (R464). -/
def crosses (s : State) (r : Nat × Int) : Bool :=
  s.pwr.carThr.any (fun e => r.1 != 0 && fld e.2 15 0 == r.1 && (r.2 < toSigned 24 (fld e.2 39 16) || toSigned 24 (fld e.2 63 40) < r.2))

/-- CAROUSEL_SAMPLE (R454): the sensor sequencer's readings. -/
def execCarouselSample (rs : List (Nat × Int)) (s : State) : Host.Outcome State Fault Refusal :=
  .next (if s.pwr.st ≠ .carousel then s
    else
      let s := rs.foldl (fun t r => setSensor t r.1 r.2) s
      let hits := rs.filter (fun r => fixedLimit r || crosses s r)
      let s := s.modPwr (fun p => { p with
        carSamples := satInc p.carSamples,
        crossings := p.crossings.filter (fun c => !hits.any (fun h => h.1 == c.1)) ++ hits })
      if hits.isEmpty then s else wakeBy s 1)

end Sys2Proof.Machine
end

