-- ==== Sys2Proof/Machine/Image.lean ====
section
/-! DEFINITION. Ululy images (R251 to R253, R488), their translation checks (R219, R225, R254), and the sizes of code in a bank (R249). -/

namespace Sys2Proof.Machine

open Sys2Proof

/-! ### The image (R251, R252, R488) -/

/-- Cut a byte list into `k` pieces of `n` bytes. -/
def pieces (n : Nat) : Nat → List Byte → List (List Byte)
  | 0, _ => []
  | k + 1, bs => bs.take n :: pieces n k (bs.drop n)

/-- The 64-bit words of a byte list. -/
def wordsOf (bs : List Byte) : List Word64 := (pieces 8 (bs.length / 8) bs).map (fun b => BitVec.ofNat 64 (bytesToNat b))

/-- A section: its type, the virtual core it names (0xFFFF for all) and its contents. -/
structure Sect where
  typ : Nat
  vc : Nat
  body : List Byte
  deriving DecidableEq, Repr

/-- Section table entry i (R252); none where a field is reserved or out of range. -/
def parseSect (img : List Byte) (nvc i : Nat) : Option Sect :=
  let h := bytesToNat ((img.drop (64 + 16 * i)).take 16)
  let typ := bits h 7 0
  let vc := bits h 31 16
  let off := bits h 63 32
  let len := bits h 95 64
  if bits h 15 8 ≠ 0 ∨ bits h 127 96 ≠ 0 ∨ typ = 0 ∨ 7 < typ ∨ off % 8 ≠ 0 ∨ img.length < off + len ∨
     (typ ≠ 2 ∧ typ ≠ 7 ∧ vc ≠ 0xFFFF ∧ nvc ≤ vc) then none
  else some ⟨typ, vc, (img.drop off).take len⟩

/-- A token preloaded by a QINIT entry, if its reserved fields are clear. -/
def qinitOk (b : List Byte) : Bool :=
  let n := bytesToNat b
  3 ≤ bits n 7 0 && bits n 7 0 ≤ 15 && bits n 63 8 == 0 && bits n 127 116 == 0 && bits n 114 112 ≤ 4

/-- The contents of a section by its type (R252, R488). -/
def sectOk (x : Sect) : Bool :=
  let n := x.body.length
  match x.typ with
  | 1 => n % 8 == 0
  | 2 => 8 ≤ n && n % 8 == 0 && bytesToNat ((x.body.drop 2).take 6) == 0
  | 3 => n % 16 == 0 && (pieces 16 (n / 16) x.body).all (fun b => bytesToNat (b.take 8) < 64)
  | 4 => 8 ≤ n && 8 + bytesToNat ((x.body.drop 4).take 4) ≤ n
  | 5 => n % 16 == 0 && (pieces 16 (n / 16) x.body).all qinitOk
  | 6 => n == 4 && 1 ≤ bytesToNat x.body && bytesToNat x.body ≤ 96
  | _ => true

/-- The sections of a type that apply to a virtual core: shared ones first, each group in image order (R488). -/
def sectsFor (ss : List Sect) (typ v : Nat) : List Sect :=
  ss.filter (fun x => x.typ == typ && x.vc == 0xFFFF) ++ ss.filter (fun x => x.typ == typ && x.vc == v)

/-- The one section of a type for a virtual core: its own, else the shared one (R252). -/
def sectFor (ss : List Sect) (typ v : Nat) : Option Sect := (sectsFor ss typ v).getLast?

/-- Window bytes of a virtual core. -/
def windowOf (ss : List Sect) (v : Nat) : Nat := match sectFor ss 6 v with | some x => bytesToNat x.body * 65536 | none => 0

/-- The bytes that a SCRATCH section loads. -/
def scratchOf (x : Sect) : Nat × List Byte := (bytesToNat (x.body.take 4), (x.body.drop 8).take (bytesToNat ((x.body.drop 4).take 4)))

/-- The tokens that a QINIT section loads. -/
def qinitOf (x : Sect) : List (Nat × Word64) :=
  (pieces 16 (x.body.length / 16) x.body).map (fun b => (bytesToNat (b.take 1), BitVec.ofNat 64 (bytesToNat (b.drop 8))))

/-- The pairs that a PINIT section loads. -/
def pinitOf (x : Sect) : List (Nat × Word64) :=
  (pieces 16 (x.body.length / 16) x.body).map (fun b => (bytesToNat (b.take 8), BitVec.ofNat 64 (bytesToNat (b.drop 8))))

/-- Whether a list has no repeats. -/
def noDups (l : List Nat) : Bool := l.eraseDups.length == l.length

/-- The rules of R488 for one virtual core, and that it has code and a window (R253). -/
def vcOk (ss : List Sect) (v : Nat) : Bool :=
  (sectFor ss 1 v).isSome && (sectFor ss 6 v).isSome &&
  (sectsFor ss 4 v).all (fun x => (scratchOf x).1 + (scratchOf x).2.length ≤ windowOf ss v) &&
  (let ts := (sectsFor ss 5 v).flatMap qinitOf
   (List.range 16).all (fun q => (ts.filter (fun t => t.1 == q)).length ≤ qCap q))

/-- A parsed image: its sections and what its header says. -/
structure Parsed where
  crc : Word32
  t3 : Bool
  nvc : Nat
  sects : List Sect
  deriving DecidableEq, Repr

/-- The checks of R253: none refuses with event 0x7001. -/
def parseImage (bs : List Byte) : Option Parsed :=
  let h := bytesToNat (bs.take 64)
  let size := bits h 159 128
  let n := bits h 95 80
  let nvc := if bits h 79 64 = 0 then 256 else bits h 79 64
  let img := bs.take size
  if bs.length < 64 ∨ bits h 31 0 ≠ 0x4D494C55 ∨ bits h 39 32 ≠ 0 ∨ bits h 47 40 ≠ 1 ∨ bits h 63 49 ≠ 0 ∨ bits h 511 192 ≠ 0 ∨
     256 < nvc ∨ bs.length < size ∨ size < 64 + 16 * n ∨ Config.romVersion < bits h 191 160 ∨
     (crc32 (img.take 12 ++ [0, 0, 0, 0] ++ img.drop 16)).toNat ≠ bits h 127 96 then none
  else
    let ps := (List.range n).map (parseSect img nvc)
    let ss := ps.filterMap id
    if ps.any Option.isNone ∨ !ss.all sectOk ∨ !noDups ((ss.filter (fun x => x.typ == 1)).map Sect.vc) ∨
       !noDups ((ss.filter (fun x => x.typ == 6)).map Sect.vc) ∨ !(List.range nvc).all (vcOk ss) then none
    else some ⟨BitVec.ofNat 32 (bits h 127 96), bit h 48, nvc, ss⟩

/-- The ROUTINE sections of an image: id and body. -/
def routinesOf (p : Parsed) : List (Nat × List Word64) :=
  (p.sects.filter (fun x => x.typ == 2)).map (fun x => (bytesToNat (x.body.take 2), wordsOf (x.body.drop 8)))

/-- Whether the routines of an image can join those resident (R246): none refuses with event 0x7007. -/
def routinesJoin (p : Parsed) (resident : Tab (List Word64)) : Bool :=
  let rs := routinesOf p
  noDups (rs.map Prod.fst) && rs.all (fun r => 0x180 ≤ r.1 && r.1 ≤ 0x1FF &&
    (match tget resident r.1 with | some b => b == r.2 | none => true))

/-- The image as its context holds it. -/
def loadImage (p : Parsed) : Image :=
  let vs := List.range p.nvc
  { crc := p.crc, t3 := p.t3, nvc := p.nvc,
    code := vs.map (fun v => (v, match sectFor p.sects 1 v with | some x => wordsOf x.body | none => [])),
    routines := (routinesOf p).foldl (fun t r => tput t r.1 r.2) [],
    pinit := vs.map (fun v => (v, (sectsFor p.sects 3 v).flatMap pinitOf)),
    scratch := vs.map (fun v => (v, (sectsFor p.sects 4 v).map scratchOf)),
    qinit := vs.map (fun v => (v, (sectsFor p.sects 5 v).flatMap qinitOf)),
    window := vs.map (fun v => (v, windowOf p.sects v)) }

/-! ### Translation (R219, R225, R254) -/

/-- The opcodes of R232. -/
def knownOpcode (op : Nat) : Bool := op ≤ 0x0C || (0x10 ≤ op && op ≤ 0x14) || (0x20 ≤ op && op ≤ 0x26) || op == 0x30 || op == 0x31 ||
  (0x40 ≤ op && op ≤ 0x46)

/-- CMP with KSEL (R225, R233). -/
def ksel (w : Word64) : Bool := opOf w == 0x05 && immBits w 5 5 == 1

/-- The sources that an instruction reads (R225, R232); the S3 of an array instruction only under BSRC (R234). -/
def readsOf (w : Word64) : List Bool :=
  let op := opOf w
  let b := immBits w 1 1 == 1
  if op = 0x02 ∨ op = 0x11 ∨ op = 0x22 ∨ op = 0x30 then [true, true, true]
  else if op = 0x05 then [!ksel w, true, false]
  else if op = 0x04 ∨ op = 0x08 ∨ op = 0x0C ∨ op = 0x14 ∨ 0x40 ≤ op then [true, false, false]
  else if (0x09 ≤ op ∧ op ≤ 0x0B) ∨ op = 0x10 ∨ op = 0x12 ∨ op = 0x13 ∨ op = 0x31 then [true, true, false]
  else if op = 0x20 then [false, false, b]
  else if op = 0x24 ∨ op = 0x25 then [true, false, b]
  else if 0x20 ≤ op then [true, true, b]
  else [false, false, false]

/-- The destinations that an instruction has (R232). -/
def hasD1 (op : Nat) : Bool := op == 0x0C || (0x10 ≤ op && op != 0x20)
def hasD2 (op : Nat) : Bool := op == 0x0C || op == 0x12 || op == 0x21 || op == 0x22 || op == 0x25 || op == 0x26

/-- The sources of an instruction. -/
def srcsOf (w : Word64) : List Nat := [s1Of w, s2Of w, s3Of w]

/-- The IMM layouts of R233, R234 and R238. DEDUCED (log 19): an immediate operand that a source replaces must be zero. -/
def immOk (w : Word64) : Bool :=
  let op := opOf w
  let i := immOf w
  let f := immBits w
  if op = 0x00 ∨ op = 0x01 ∨ op = 0x03 ∨ op = 0x07 ∨ op = 0x14 ∨ op = 0x31 then i == 0
  else if op = 0x02 ∨ op = 0x0A then f 23 9 == 0
  else if op = 0x04 then f 14 3 != 0 && (s1Of w == selNone || f 23 15 == 0)
  else if op = 0x05 then s2Of w == selNone || f 23 9 == 0
  else if op = 0x06 then f 23 15 == 0 && f 14 3 != 0
  else if op = 0x08 then s1Of w == selNone || f 23 6 == 0
  else if op = 0x09 then s2Of w == selNone || f 23 6 == 0
  else if op = 0x0B then f 23 18 == 0 && f 17 16 != 3
  else if op = 0x0C then f 23 19 == 0 && f 18 16 ≤ 1
  else if op = 0x11 then f 7 2 != 0
  else if op ≤ 0x13 then f 7 2 == 0
  else if op ≤ 0x26 then f 7 7 == 0 && (f 4 4 == 1 || f 6 6 == 0)
  else if op = 0x30 then f 7 0 == 0
  else f 23 8 == 0 && f 7 0 ≤ (match op with | 0x40 => 0x0D | 0x41 => 3 | 0x45 => 2 | _ => 0)

/-- Selectors and destinations (R217, R225, R227, R254). DEDUCED (log 19): popping Q1, and pushing Q0 or Q2, is refused. -/
def selectorsOk (w : Word64) : Bool :=
  let op := opOf w
  let issue := op < 0x10
  ((srcsOf w).zip (readsOf w)).all (fun p =>
    !(0x20 ≤ p.1 && p.1 ≤ 0x3E) && (p.1 < 0x10 || 0x20 ≤ p.1 || op == 0x05) && p.1 != 1 &&
    (p.2 || p.1 == selNone || (!issue && p.1 < 0x10))) &&
  [(d1Of w, hasD1 op), (d2Of w, hasD2 op)].all (fun d => match dstQ d.1 with
    | some q => d.2 && q != 0 && q != 2
    | none => true)

/-- The units that push and pop queues in program order (R219): TWIN counts as ARRA, and as ARRB for its D2. -/
def unitNo (w : Word64) : Nat :=
  let op := opOf w
  if op < 0x10 then 0 else if op ≤ 0x11 then 1 else if op ≤ 0x14 then 2
  else if op = 0x22 then 3 else if op ≤ 0x26 then (if immBits w 0 0 = 1 then 4 else 3) else if op ≤ 0x31 then 5 else 6

/-- Pushes and pops of an instruction: queue and unit. -/
def pushesOf (w : Word64) : List (Nat × Nat) :=
  ([(d1Of w, unitNo w), (d2Of w, if opOf w = 0x22 then 4 else unitNo w)]).filterMap (fun d => (dstQ d.1).map (fun q => (q, d.2)))
def popsOf (w : Word64) : List (Nat × Nat) := ((srcsOf w).filter (· < 0x10)).map (fun q => (q, unitNo w))

/-- At most one unit for each of Q3 to Q15 (R219). -/
def oneUnit (us : List (Nat × Nat)) : Bool :=
  us.all (fun a => us.all (fun b => a.1 != b.1 || a.1 < 3 || a.2 == b.2))

/-- The LOOPs of a section: position, counter and the end of the body. -/
def loopsOf (ws : List Word64) : List (Nat × Nat × Nat) :=
  (ws.mapIdx (fun i w => (i, w))).filterMap (fun p =>
    if opOf p.2 = 0x04 then some (p.1, immBits p.2 2 0, p.1 + 1 + immBits p.2 14 3) else none)

/-- The loops whose bodies hold instruction i. -/
def enclosing (ls : List (Nat × Nat × Nat)) (i : Nat) : List (Nat × Nat × Nat) := ls.filter (fun l => l.1 < i && i < l.2.2)

/-- The end of the innermost body around instruction i, else of the section. -/
def innerEnd (ls : List (Nat × Nat × Nat)) (n i : Nat) : Nat := (enclosing ls i).foldl (fun a l => min a l.2.2) n

/-- Loops, counters and skips (R254). -/
def flowOk (ws : List Word64) (ls : List (Nat × Nat × Nat)) (i : Nat) (w : Word64) : Bool :=
  let n := ws.length
  let active := fun (k : Nat) => (enclosing ls i).any (fun l => l.2.1 == k)
  let stop := innerEnd ls n i
  match opOf w with
  | 0x04 => !active (immBits w 2 0) && i + 1 + immBits w 14 3 ≤ stop
  | 0x05 => !ksel w || active (immBits w 8 6)
  | 0x0A => active (immBits w 8 6)
  | 0x06 =>
    let land := i + 1 + immBits w 14 3
    land ≤ stop && (!(enclosing ls i).isEmpty || land < n) && ls.all (fun l => !(i < l.1 && l.1 < land && land < l.2.2))
  | _ => true

/-- What a routine may write (R244), and that only a routine holds RET (R254). -/
def routineOk (routine : Bool) (w : Word64) : Bool :=
  let op := opOf w
  if !routine then op != 0x03
  else
    !(srcsOf w).contains 0 && (pushesOf w).all (fun p => 12 ≤ p.1) &&
    (match op with
     | 0x04 => 4 ≤ immBits w 2 0
     | 0x05 => 2 ≤ immBits w 1 0
     | 0x08 | 0x09 | 0x0A => 48 ≤ immBits w 5 0
     | _ => true)

/-- The checks of R254 on one section; `known` tells the routine ids that a CALL may name. -/
def sectionOk (routine : Bool) (known : Nat → Bool) (ws : List Word64) : Bool :=
  let ls := loopsOf ws
  (ws.mapIdx (fun i w => (i, w))).all (fun p =>
    let w := p.2
    knownOpcode (opOf w) && !w.getLsbD 39 && immOk w && selectorsOk w && flowOk ws ls p.1 w && routineOk routine w &&
    (opOf w != 0x02 || known (immBits w 8 0))) &&
  (match ws.getLast? with | some w => opOf w == (if routine then 0x03 else 0x01) | none => false) &&
  oneUnit (ws.flatMap pushesOf) && oneUnit (ws.flatMap popsOf)

/-! ### Sizes (R249) -/

/-- The loadable routines that code calls directly. -/
def callsOf (ws : List Word64) : List Nat :=
  ((ws.filter (fun w => opOf w == 0x02)).map (fun w => immBits w 8 0)).filter (0x180 ≤ ·)

/-- Add the routines that a set calls, `fuel` times. -/
def callClose (bodies : Tab (List Word64)) : Nat → List Nat → List Nat
  | 0, l => l
  | fuel + 1, l => callClose bodies fuel (l ++ l.flatMap (fun r => callsOf (tgetD bodies r []))).eraseDups

/-- The loadable routines that code can call: there are at most 128 of them. -/
def callable (bodies : Tab (List Word64)) (ws : List Word64) : List Nat := callClose bodies 128 (callsOf ws).eraseDups

/-- Bytes of code and routine bodies at 16 B an instruction (R249), each counted once (log 19: two sections with equal
words count as one). -/
def codeBytes (bodies : Tab (List Word64)) (cs : List (List Word64)) (rs : List Nat) : Nat :=
  16 * (((cs.eraseDups).map List.length).sum + ((rs.eraseDups).map (fun r => (tgetD bodies r []).length)).sum)

def bankBytes : Nat := 262144

/-- Translation of an image beside resident routines (R254): false refuses with event 0x7002. Every CODE section is checked, also one that
applies to no virtual core. -/
def translates (p : Parsed) (m : Image) (resident : Tab (List Word64)) : Bool :=
  let codes := (p.sects.filter (fun x => x.typ == 1)).map (fun x => wordsOf x.body)
  let bodies := m.routines.foldl (fun t r => tput t r.1 r.2) resident
  let known := fun (id : Nat) => id < 0x180 || (tget bodies id).isSome
  codes.all (fun c => sectionOk false known c && codeBytes bodies [c] (callable bodies c) ≤ bankBytes) &&
  m.routines.all (fun r => sectionOk true known r.2)

end Sys2Proof.Machine
end

