-- ==== Sys2Proof/Machine/Program.lean ====
section
/-! DEFINITION. Mapping virtual cores to logical cores and banks (R213, R214, R249, R250), and the program commands (R385, R239, R245,
R256, R258). -/

namespace Sys2Proof.Machine

open Sys2Proof

/-! ### Mapping (R213, R214, R249) -/

/-- A virtual core to place: its number, window bytes, code and the loadable routines that it can call. -/
structure Place where
  vc : Nat
  win : Nat
  code : List Word64
  calls : List Nat
  deriving DecidableEq, Repr

/-- The virtual cores mapped to a logical core. -/
def mappedOn (s : State) (n : Nat) : List (VRef × Vcore × List Word64) :=
  s.ctxs.flatMap (fun c => (c.2.vcs.filter (fun x => x.2.core == n)).map (fun x => (⟨c.1, x.1⟩, x.2, tgetD c.2.image.code x.1 [])))

/-- Those that fetch from a bank, or may until they have swapped. -/
def usersOf (s : State) (n : Nat) (b : Bool) : List (List Word64) :=
  ((mappedOn s n).filter (fun x => x.2.1.bank == b || x.2.1.swapDue.isSome)).map (fun x => x.2.2)

/-- What a placement rests on: the state, and the routine bodies once the image is loaded. -/
structure Site where
  s : State
  bodies : Tab (List Word64)
  /-- The cores that the context may use. -/
  cores : List Nat

/-- Whether a virtual core fits on core n and bank b beside what is there and what is already placed. Without `reload`, a
bank in use takes only code that it already holds (R249). -/
def fitsOn (t : Site) (reload : Bool) (done : List (Place × Nat × Bool)) (p : Place) (n : Nat) (b : Bool) : Bool :=
  let old := mappedOn t.s n
  let here := done.filter (fun d => d.2.1 == n)
  let users := usersOf t.s n b
  let held := users.flatMap (callable t.bodies)
  let cs := p.code :: (users ++ (here.filter (fun d => d.2.2 == b)).map (fun d => d.1.code))
  let rs := p.calls ++ held ++ (here.filter (fun d => d.2.2 == b)).flatMap (fun d => d.1.calls)
  decide (old.length + here.length < 8) &&
  decide ((old.map (fun x => x.2.1.winSize)).sum + (here.map (fun d => d.1.win)).sum + p.win ≤ 6291456) &&
  decide (codeBytes t.bodies cs rs ≤ bankBytes) &&
  (reload || users.isEmpty || (users.contains p.code && p.calls.all held.contains))

/-- Whether a core's scratchpad has room for the window of a virtual core. -/
def hasRoom (s : State) (p : Place) (n : Nat) : Bool := decide (((mappedOn s n).map (fun x => x.2.1.winSize)).sum + p.win ≤ 6291456)

/-- Place virtual cores one after another, trying the lowest core first (log 10), and go back where that fails. -/
def placeAll (t : Site) (reload : Bool) : List Place → List (Place × Nat × Bool) → Option (List (Place × Nat × Bool))
  | [], done => some done
  | p :: ps, done =>
    t.cores.findSome? (fun n => [false, true].findSome? (fun b =>
      if fitsOn t reload done p n b then placeAll t reload ps (done ++ [(p, n, b)]) else none))

/-- The lowest slot of a core that holds no virtual core. -/
def freeSlot (s : State) (n : Nat) : Nat := ((List.range 8).find? (fun i => (tget (s.core n).slots i).isNone)).getD 8

/-- Whether a window of `n` bytes at `b` keeps clear of those of a core's virtual cores and within its 6 MiB (R214). -/
def windowFree (xs : List Vcore) (n b : Nat) : Bool :=
  decide (b + n ≤ 6291456) && xs.all (fun x => decide (b + n ≤ x.winBase) || decide (x.winBase + x.winSize ≤ b))

/-- The lowest base for a window of `n` bytes beside those of a core. -/
def freeBase (xs : List Vcore) (n : Nat) : Option Nat :=
  (0 :: xs.map (fun x => x.winBase + x.winSize)).foldl (fun a b => if windowFree xs n b && (match a with | some c => decide (b < c) | none => true)
    then some b else a) none

/-- Windows of a core packed from base 0 in the order listed. -/
def packWindows (s : State) : List VRef → Nat → State × Nat
  | [], b => (s, b)
  | v :: vs, b =>
    let n := match s.vc? v with | some x => x.winSize | none => 0
    packWindows (s.modVc v (fun x => { x with winBase := b })) vs (b + n)

/-- The base of a new window on core n; where no gap holds it, the windows there are packed first. DESIGN CHOICE (log 10). -/
def placeWindow (s : State) (n size : Nat) : State × Nat :=
  let here := mappedOn s n
  match freeBase (here.map (fun x => x.2.1)) size with
  | some b => (s, b)
  | none => packWindows s (here.map Prod.fst) 0

/-- Put a virtual core of a context into its place. -/
def seat (k : Nat) (s : State) (d : Place × Nat × Bool) (x : Vcore) : State :=
  let i := freeSlot s d.2.1
  let (s, b) := placeWindow s d.2.1 x.winSize
  let s := s.modCore d.2.1 (fun r => { r with slots := tput r.slots i ⟨k, d.1.vc⟩ })
  s.modCtx k (fun c => { c with vcs := tput c.vcs d.1.vc { x with core := d.2.1, slot := i, bank := d.2.2, winBase := b } })

/-- After a reload the virtual cores of the other bank swap, where the written bank also holds their code (R250). -/
def reloadSwap (t : Site) (placed : List (Place × Nat × Bool)) (s : State) (d : Nat × Bool) : State :=
  let (n, b) := d
  let other := usersOf t.s n (!b)
  let new := placed.filter (fun q => q.2.1 == n && q.2.2 == b)
  if (usersOf t.s n b).isEmpty && !other.isEmpty &&
     codeBytes t.bodies (other ++ new.map (fun q => q.1.code)) (other.flatMap (callable t.bodies) ++ new.flatMap (fun q => q.1.calls)) ≤ bankBytes then
    (mappedOn t.s n).foldl (fun u x => u.modVc x.1 (fun y => { y with swapDue := some false })) s
  else s

/-! ### Creating a context (R385) -/

/-- The lowest context id that is free (R28): one whose CTX_DESTROY completion is still to be posted is not. -/
def freeCtx (s : State) : Option Nat :=
  let unposted := fun (k : Nat) => s.host.fns.any (fun f => f.2.chans.any (fun c => c.2.rings.any (fun r =>
    r.2.done.isSome && (match r.2.fetched with | e :: _ => fld e 15 0 == 0x7002 && fld e 69 64 == k | [] => false))))
  (List.range 64).find? (fun k => (s.ctx? k).isNone && !unposted k)

/-- The first `k` free deep-tier regions from r on. -/
def freeDeep (t : Tab Word64) : Nat → Nat → Nat → Option (List Nat)
  | _, 0, _ => some []
  | 0, _, _ => none
  | fuel + 1, k + 1, r =>
    if 524288 ≤ r then none
    else if reValid (tgetD t r 0) then freeDeep t fuel (k + 1) (r + 1)
    else (freeDeep t fuel k (r + 1)).map (r :: ·)

/-- The deep-tier regions that hold two saves of every virtual core (R418). -/
def savesNeed (wins : List Nat) : Nat := ceilDiv (2 * (wins.map (· + 65536)).sum) (2 ^ 25)

/-- The fields that CTX_CREATE and CTX_RESTORE share. -/
structure Create where
  part : Nat
  fromDa : Bool
  start : Bool
  addr : Nat
  size : Nat
  job : Nat
  clusters : Nat
  patchBase : Nat
  patchN : Nat
  mapAddr : Nat
  mapN : Nat

def createOf (e : Entry) (n : Nat) : Create :=
  { part := n, fromDa := bit e.toNat 64, start := bit e.toNat 65, addr := fld e 191 128, size := fld e 223 192, job := fld e 239 224,
    clusters := fld e 271 240, patchBase := fld e 319 272, patchN := fld e 327 320, mapAddr := fld e 455 392, mapN := fld e 471 456 }

/-- The regions of the map list, each once. -/
def mapList (s : State) (q : Create) : List Nat :=
  ((List.range q.mapN).flatMap (fun i =>
    let b := hostNat s (q.mapAddr + 8 * i) 8
    (List.range (bits b 38 19)).map (· + bits b 18 0))).eraseDups

/-- The initial state of a virtual core (R239, R240, R488). -/
def freshVc (m : Image) (v : Nat) (jseed : Word64) : Vcore :=
  { p := (tgetD m.pinit v []).foldl (fun t e => tput t e.1 e.2) [], winSize := tgetD m.window v 0,
    win := (tgetD m.scratch v []).foldl (fun w e => memPutAll w e.1 e.2) [], jseed := jseed }

/-- An image read from poison is consumed as under CONTEXT (R290): counted for the partition, with event 0x2301. No context exists yet
that the event could name or that could stop. -/
def imagePoison (s : State) (n da : Nat) : State :=
  raise (s.modPart n (fun q => { q with poisonc := satInc q.poisonc })) 0x2301 (some n) none (data2 da 0 (regionOf da))

/-- The image that a command names: its bytes, or the answer that turns it away (R267, R290). -/
def imageBytes (s : State) (q : Create) : Except Ans (State × List Byte) :=
  if q.fromDa then
    match accessRefusal s (.part q.part) q.addr q.size with
    | some code => .error (ruled (countRefused (raise s code (some q.part) none (data2 q.addr 0 (regionOf q.addr))) q.part) code)
    | none =>
      let s := demand s none q.addr q.size
      let bs := devRead s q.addr q.size
      if (strongest bs).isSome then .error (bad (imagePoison s q.part (poisonedAt q.addr bs)) 0x0F)
      else .ok (s, devBytes s q.addr q.size)
  else .ok (s, hostBytes s q.addr q.size)

/-- A refusal of a program command, with its event. -/
def progRefuse (s : State) (n code : Nat) : Ans := ruled (raise s code (some n) none 0) code

/-- Load, translate and map an image for a new context; `state` makes each virtual core's state from the image, or refuses. -/
def makeCtx (s : State) (q : Create) (restore : Bool) (rcvSave : Bool)
    (state : State → Image → Except Ans (State × Tab Vcore)) : Ans :=
  let n := q.part
  let mine := (clusterSet s n).toNat
  let ks := if q.clusters = 0 then mine else q.clusters
  if s.pwr.st != .run && s.pwr.st != .idle then bad s 7
  else if q.patchBase % 16384 ≠ 0 ∨ q.patchN = 0 ∨ 4096 < q.mapN ∨ !(setOf ks).all (bit mine) then bad s 2
  else match imageBytes s q with
  | .error a => a
  | .ok (s, bs) =>
    match parseImage bs with
    | none => progRefuse s n 0x7001
    | some p =>
      let resident := (s.part n).routines
      let m := loadImage p
      let maps := mapList s q
      if !routinesJoin p resident then progRefuse s n 0x7007
      else if !translates p m resident then progRefuse s n 0x7002
      else if !maps.all (fun r => r < 524288 && reValid (entry s r) && reOwner (entry s r) == n) then bad s 2
      else match state s m with
      | .error a => a
      | .ok (s, vcs) =>
        let bodies := m.routines.foldl (fun t r => tput t r.1 r.2) resident
        let t : Site := { s := s, bodies := bodies,
                          cores := (List.range 256).filter (fun c => bit ks (c / 8) && !(s.map c).quar) }
        let ps := vcs.map (fun x =>
          let code := tgetD m.code x.1 []
          (⟨x.1, x.2.winSize, code, callable bodies code⟩ : Place))
        match placeAll t false ps [] with
        | none => progRefuse s n (if restore && ps.any (fun p => !((List.range 256).filter (fun c => bit mine (c / 8))).any (hasRoom s p)) then 0x7008
            else if (placeAll t true ps []).isSome then 0x7003 else 0x7002)
        | some placed =>
          let need := if rcvSave then savesNeed (ps.map Place.win) else 0
          match freeCtx s, freeDeep s.mem.region (need + s.mem.region.length) need 131072 with
          | some k, some deep =>
            let c : Ctx := { part := n, st := if q.start then .running else .loaded, job := BitVec.ofNat 16 q.job, image := m,
                             patchBase := q.patchBase, patchN := q.patchN, clusters := BitVec.ofNat 32 ks,
                             regions := maps.map (fun r => (r, 1)), rcv := rcvSave, rcvRegions := deep }
            let s := addMaps (s.putCtx k c) c.regions true
            let s := deep.foldl (fun u r => putEntry u r (BitVec.ofNat 64 (1 + 0x3F * 2))) s
            let s := s.modPart n (fun x => { x with routines := bodies })
            let s := placed.foldl (fun u d => seat k u d (tgetD vcs d.1.vc {})) s
            let s := ((placed.map (fun d => d.2)).eraseDups).foldl (reloadSwap t placed) s
            ok s k
          | _, _ => bad s 5

/-- A device-memory image waits while its regions are being cleared (R271). -/
def createWaits (s : State) (e : Entry) (n : Nat) : Bool :=
  let q := createOf e n
  q.fromDa && accessWaits s q.addr q.size

/-- Whether a host buffer is needed: the image or the map list. -/
def createHost (e : Entry) : Bool := !bit e.toNat 64 || fld e 471 456 != 0

def cmdCtxCreate : Cmd where
  op := 0x7001
  fields := [(65, 64), (191, 128), (223, 192), (239, 224), (271, 240), (319, 272), (327, 320), (391, 328), (455, 392), (471, 456)]
  host := createHost
  wait := createWaits
  body := fun s _ e n =>
    let seed := BitVec.ofNat 64 (fld e 391 328)
    makeCtx s (createOf e n) false ((s.part n).sn.rcvCtl.getLsbD 0)
      (fun s m => .ok (s, (List.range m.nvc).map (fun v => (v, freshVc m v seed))))

/-- CTX_CREATE (R385). -/
def execCtxCreate (o : Origin) (e : Entry) (s : State) : Host.Outcome State Fault Refusal := .next (runCmd cmdCtxCreate o e s)

/-! ### Restoring (R258) -/

/-- The save records of every virtual core of an image, or the answer that refuses them. -/
def loadSaves (n base : Nat) (s : State) (m : Image) : Except Ans (State × Tab Vcore) :=
  let refuse := fun (s : State) (code da : Nat) =>
    ruled (countRefused (raise s code (some n) none (data2 da 0 (regionOf da))) n) code
  match accessRefusal s (.part n) base 4096 with
  | some code => .error (refuse s code base)
  | none =>
    let s := demand s none base 4096
    if (strongest (devRead s base 4096)).isSome then .error (bad s 0x0F)
    else
      (List.range m.nvc).foldl (fun a v => match a with
        | .error x => .error x
        | .ok (s, t) =>
          let off := base + devNat s (base + 8 * v) 8
          match accessRefusal s (.part n) off 5120 with
          | some code => .error (refuse s code off)
          | none =>
          let s := demand s none off 5120
          let rd := rdOf s {} true
          let h := devNat s off 256
          let front := alignUp (loadLaccs (fun a => rd (off + a)) h [0, 1, 2, 3] 5120 {}).2 65536
          let len := front + bits h 1103 1088 * 65536
          if (rdPoison rd off 5120).isSome then .error (bad s 0x0F)
          else if bits h 31 0 ≠ m.crc.toNat ∨ bits h 39 32 ≠ v % 256 ∨ bits h 47 40 ≠ 1 then .error (progRefuse s n 0x7008)
          else match accessRefusal s (.part n) off len with
          | some code => .error (refuse s code off)
          | none =>
            let s := demand s none off len
            if (rdPoison (rdOf s {} true) off front).isSome then .error (bad s 0x0F)
            else .ok (s, t ++ [(v, loadRecord (rdOf s {} true) off)])) (.ok (s, []))

def cmdCtxRestore : Cmd where
  op := 0x7004
  fields := [(65, 64), (191, 128), (223, 192), (239, 224), (271, 240), (319, 272), (327, 320), (375, 328), (455, 392), (471, 456)]
  host := createHost
  wait := fun s e n => createWaits s e n || accessWaits s (fld e 375 328) 4096
  body := fun s _ e n =>
    let base := fld e 375 328
    if base % 65536 ≠ 0 then bad s 2
    else makeCtx s (createOf e n) true ((s.part n).sn.rcvCtl.getLsbD 0) (loadSaves n base)

/-- CTX_RESTORE (R258). -/
def execCtxRestore (o : Origin) (e : Entry) (s : State) : Host.Outcome State Fault Refusal := .next (runCmd cmdCtxRestore o e s)

/-! ### The other program commands -/

/-- The context that a command names: the answer where it is absent, another partition's, or being destroyed. -/
def namedCtx (s : State) (e : Entry) (n : Nat) : Except Nat (Nat × Ctx) :=
  let k := fld e 69 64
  match s.ctx? k with
  | none => .error 6
  | some c => if c.part ≠ n then .error 6 else if c.destroying.isSome then .error 7 else .ok (k, c)

/-- A context that CTX_SAVE is working on: the next save or the destruction of it waits (R372). -/
def ctxWaits (s : State) (e : Entry) (_ : Nat) : Bool := match s.ctx? (fld e 69 64) with | some c => c.saving.isSome | none => false

def cmdCtxDestroy : Cmd where
  op := 0x7002
  fields := [(69, 64)]
  wait := ctxWaits
  body := fun s o e n =>
    match namedCtx s e n with
    | .error st => bad s st
    | .ok (k, c) =>
      let c := { c with st := .stopped, destroying := some o,
                        vcs := tmap c.vcs (fun _ x => { x with ops := x.ops.filter (fun p => p.phase != .queued) }) }
      later (destroyDone (s.putCtx k c) k)

/-- CTX_DESTROY (R385). -/
def execCtxDestroy (o : Origin) (e : Entry) (s : State) : Host.Outcome State Fault Refusal := .next (runCmd cmdCtxDestroy o e s)

def cmdCtxSave : Cmd where
  op := 0x7003
  fields := [(70, 64), (127, 80)]
  wait := fun s e n => ctxWaits s e n || accessWaits s (fld e 127 80) 65536
  body := fun s o e n =>
    let base := fld e 127 80
    match namedCtx s e n with
    | .error st => bad s st
    | .ok (k, c) =>
      if base % 65536 ≠ 0 then bad s 2
      else if c.st = .stopped then bad s 7
      else match accessRefusal s (.part n) base 65536 with
      | some code => ruled (countRefused (raiseCtx s code k (data2 base 0 (regionOf base))) n) code
      | none =>
        let s := s.putCtx k { c with saving := some (o, bit e.toNat 70, base, [], 65536) }
        later (c.vcs.foldl (fun t x => trySave t ⟨k, x.1⟩) s)

/-- CTX_SAVE (R256). -/
def execCtxSave (o : Origin) (e : Entry) (s : State) : Host.Outcome State Fault Refusal := .next (runCmd cmdCtxSave o e s)

/-- Whether a context counts as halted: by its state, or because every virtual core is (R220, R240). -/
def ctxHalted (c : Ctx) : Bool := c.st == .halted || (c.st == .running && c.vcs.all (fun x => x.2.haltPend))

def cmdCtxSetp : Cmd where
  op := 0x7005
  fields := [(69, 64), (86, 72), (191, 128)]
  body := fun s _ e n =>
    let all := bit e.toNat 80
    let i := fld e 86 81
    let v := BitVec.ofNat 64 (fld e 191 128)
    match namedCtx s e n with
    | .error st => bad s st
    | .ok (k, c) =>
      if c.st != .loaded && !ctxHalted c then bad s 7
      else if !all && (tget c.vcs (fld e 79 72)).isNone then bad s 6
      else ok (s.putCtx k { c with vcs := tmap c.vcs (fun j x => if all || j == fld e 79 72 then setP x i v else x) }) 0

/-- CTX_SETP (R239). -/
def execCtxSetp (o : Origin) (e : Entry) (s : State) : Host.Outcome State Fault Refusal := .next (runCmd cmdCtxSetp o e s)

def cmdRoutineQuery : Cmd where
  op := 0x7006
  fields := [(72, 64), (191, 128)]
  host := fun _ => true
  body := fun s _ e _ =>
    let id := fld e 72 64
    if 0x180 ≤ id then bad s 6 else ok (hostWrite s (fld e 191 128) (natToBytes 32 (romRecord id).toNat)) 0

/-- ROUTINE_QUERY (R245). -/
def execRoutineQuery (o : Origin) (e : Entry) (s : State) : Host.Outcome State Fault Refusal := .next (runCmd cmdRoutineQuery o e s)

/-- The state of a context as CTX_QUERY codes it (R385). -/
def ctxCode (c : Ctx) : Nat :=
  if ctxHalted c then 2 else match c.st with | .loaded => 0 | .running => 1 | .halted => 2 | .stopped => 3

def cmdCtxQuery : Cmd where
  op := 0x7007
  fields := [(69, 64)]
  body := fun s _ e n =>
    match namedCtx s e n with
    | .error st => bad s st
    | .ok (_, c) => ok s (ctxCode c + c.vcs.length * 2 ^ 4 + (tgetD c.vcs 0 {}).replay % 2 ^ 32 * 2 ^ 32)

/-- CTX_QUERY (R385). -/
def execCtxQuery (o : Origin) (e : Entry) (s : State) : Host.Outcome State Fault Refusal := .next (runCmd cmdCtxQuery o e s)

def cmdCtxRun : Cmd where
  op := 0x7008
  fields := [(69, 64)]
  body := fun s _ e n =>
    match namedCtx s e n with
    | .error st => bad s st
    | .ok (k, c) => if c.st = .loaded ∨ c.st = .halted then ok (s.putCtx k { c with st := .running }) 0 else bad s 7

/-- CTX_RUN (R385). -/
def execCtxRun (o : Origin) (e : Entry) (s : State) : Host.Outcome State Fault Refusal := .next (runCmd cmdCtxRun o e s)

end Sys2Proof.Machine
end

