-- ==== Sys2Proof/Machine/Tap.lean ====
section
/-! DEFINITION. The test access port (R476 to R480), and how the module's pins stand (R474). -/

namespace Sys2Proof.Machine

open Sys2Proof

/-! ### Pins (R474) -/

/-- The PCIe transmit pairs: in electrical idle, with or without receiver termination, running, or held in L1. -/
inductive PcieTx where
  | idle (terminated : Bool)
  | link
  | l1
  deriving DecidableEq, Repr

/-- How the module's pins and optical outputs stand. -/
structure Pins where
  /-- The links whose transmitters emit. -/
  lit : List Nat
  pcie : PcieTx
  /-- SMBus is served; else it is high impedance. -/
  smbus : Bool
  /-- PT_REF and PT_SYNC are inputs with their termination. -/
  ptInputs : Bool
  /-- THERMTRIP# asserted; in OFF it is high impedance. -/
  thermtrip : Bool
  obs : Option Word16
  deriving DecidableEq, Repr

/-- The table of R474: OFF, PERST# asserted, CAROUSEL, and otherwise running. The steps of a device reset are not seen apart (log 35). -/
def pinsOf (s : State) : Pins :=
  if s.pwr.st = .off then { lit := [], pcie := .idle false, smbus := false, ptInputs := false, thermtrip := false, obs := none }
  else
    { lit := if s.pwr.st = .carousel then [] else (s.fab.links.filter (fun l => l.2.st == .up || l.2.st == .train)).map Prod.fst,
      pcie := if s.host.perst then .idle true else if s.pwr.st = .carousel then .l1 else .link,
      smbus := true, ptInputs := true, thermtrip := s.mgmt.thermtrip, obs := s.mgmt.obs }

/-! ### Instructions (R476 to R478) -/

/-- The IDCODE (R476). -/
def idcodeWord : Nat := 1 + Config.jep106.toNat * 2 + 0x7A40 * 2 ^ 12 + 0x3 * 2 ^ 28

/-- The port is in the always-on domain: it works except in OFF. -/
def tapOn (s : State) (f : State → State) : State := if s.pwr.st = .off then s else f s

/-- Select an instruction, its data register and what the boundary-scan cells do: 0 nothing, 1 drive the pins (EXTEST), 2 hold
them (CLAMP), 3 float them (HIGHZ). -/
def tapLoad (s : State) (ir : Byte) (dr : Nat) (mode : BitVec 2) : State :=
  s.modMgmt (fun m => { m with tapIr := ir, tapDr := dr, scanMode := mode })

/-- Whether instructions that need permission are executed (R478). -/
def tapAllowed (s : State) : Bool := s.mgmt.fwstate == 0 || s.mgmt.fwstate == 3 || s.mgmt.jtagEn

/-- An instruction that needs permission: without it, it acts as BYPASS and no pin changes (R478). -/
def tapGuard (s : State) (f : State → State) : State :=
  if tapAllowed s then f s else tapLoad s 0xFF 0 s.mgmt.scanMode

/-- What the cells capture from the pins (log 13). -/
def capture (s : State) : Nat × State := (Config.pinSample s.free, { s with free := s.free + 1 })

/-- IDCODE (R477). -/
def execIdcode (s : State) : Host.Outcome State Fault Refusal := .next (tapOn s (fun s => tapLoad s 0x01 idcodeWord 0))

/-- SAMPLE/PRELOAD (R477): the cells capture the pins, and take the preloaded values. -/
def execSamplePreload (preload : Nat) (s : State) : Host.Outcome State Fault Refusal :=
  .next (tapOn s (fun s =>
    let (x, s) := capture s
    (tapLoad s 0x02 x 0).modMgmt (fun m => { m with scan := preload })))

/-- EXTEST (R478): the cells drive the pins. -/
def execExtest (s : State) : Host.Outcome State Fault Refusal :=
  .next (tapOn s (fun s => tapGuard s (fun s =>
    let (x, s) := capture s
    tapLoad s 0x03 x 1)))

/-- CLAMP (R478). -/
def execClamp (s : State) : Host.Outcome State Fault Refusal := .next (tapOn s (fun s => tapGuard s (fun s => tapLoad s 0x04 0 2)))

/-- HIGHZ (R478). -/
def execHighz (s : State) : Host.Outcome State Fault Refusal := .next (tapOn s (fun s => tapGuard s (fun s => tapLoad s 0x05 0 3)))

/-- DBG_CHAIN (R478): it selects the debug chain, whose registers are no part of a compatible implementation: what they hold
is a free value (log 8). -/
def execDbgChain (s : State) : Host.Outcome State Fault Refusal :=
  .next (tapOn s (fun s => tapGuard s (fun s =>
    let (x, s) := s.fresh
    tapLoad s 0x10 x.toNat 0)))

/-- OBS_SELECT (R479): an update of its data register writes SEL and sets OBS_EN. -/
def execObsSelect (sel : Word16) (s : State) : Host.Outcome State Fault Refusal :=
  .next (tapOn s (fun s => setSel (tapLoad s 0x11 sel.toNat 0) sel true))

/-- BYPASS (R477): every code that is no other instruction. -/
def execBypass (code : Byte) (s : State) : Host.Outcome State Fault Refusal := .next (tapOn s (fun s => tapLoad s code 0 0))

end Sys2Proof.Machine
end

