-- ==== Sys2Proof/Machine/Dispatch.lean ====
section
/-! DEFINITION. One arm per command. -/

namespace Sys2Proof.Machine

def exec (i : Instr) (s : State) : Host.Outcome State Fault Refusal :=
  match i with
  | .nop v => Sys2Proof.Machine.execNop v s
  | .end_ v => Sys2Proof.Machine.execEnd v s
  | .call v => Sys2Proof.Machine.execCall v s
  | .ret v => Sys2Proof.Machine.execRet v s
  | .loop v => Sys2Proof.Machine.execLoop v s
  | .cmp v => Sys2Proof.Machine.execCmp v s
  | .skip v => Sys2Proof.Machine.execSkip v s
  | .yield v => Sys2Proof.Machine.execYield v s
  | .pset v => Sys2Proof.Machine.execPset v s
  | .padd v => Sys2Proof.Machine.execPadd v s
  | .pmad v => Sys2Proof.Machine.execPmad v s
  | .wrs v => Sys2Proof.Machine.execWrs v s
  | .push v => Sys2Proof.Machine.execPush v s
  | .load v => Sys2Proof.Machine.execLoad v s
  | .gather v => Sys2Proof.Machine.execGather v s
  | .store v => Sys2Proof.Machine.execStore v s
  | .send v => Sys2Proof.Machine.execSend v s
  | .coll v => Sys2Proof.Machine.execColl v s
  | .zero v => Sys2Proof.Machine.execZero v s
  | .acc v => Sys2Proof.Machine.execAcc v s
  | .twin v => Sys2Proof.Machine.execTwin v s
  | .convert v => Sys2Proof.Machine.execConvert v s
  | .export_ v => Sys2Proof.Machine.execExport v s
  | .import_ v => Sys2Proof.Machine.execImport v s
  | .swap v => Sys2Proof.Machine.execSwap v s
  | .cvt v => Sys2Proof.Machine.execCvt v s
  | .vwait v => Sys2Proof.Machine.execVwait v s
  | .vop v => Sys2Proof.Machine.execVop v s
  | .vred v => Sys2Proof.Machine.execVred v s
  | .vmm v => Sys2Proof.Machine.execVmm v s
  | .vnorm v => Sys2Proof.Machine.execVnorm v s
  | .drop v => Sys2Proof.Machine.execDrop v s
  | .init v => Sys2Proof.Machine.execInit v s
  | .sample v => Sys2Proof.Machine.execSample v s
  | .instructionDispatch v => Sys2Proof.Machine.execInstructionDispatch v s
  | .operationStart v u => Sys2Proof.Machine.execOperationStart v u s
  | .operationComplete v u => Sys2Proof.Machine.execOperationComplete v u s
  | .replayStart v => Sys2Proof.Machine.execReplayStart v s
  | .controlTokenHeldDeliver v => Sys2Proof.Machine.execControlTokenHeldDeliver v s
  | .q1Notify v => Sys2Proof.Machine.execQ1Notify v s
  | .virtualCoreSwitch core => Sys2Proof.Machine.execVirtualCoreSwitch core s
  | .gsrTaggedUpdate => Sys2Proof.Machine.execGsrTaggedUpdate s
  | .tsrTaggedMax => Sys2Proof.Machine.execTsrTaggedMax s
  | .groupVerdict => Sys2Proof.Machine.execGroupVerdict s
  | .telemetryFlush part => Sys2Proof.Machine.execTelemetryFlush part s
  | .normGate part => Sys2Proof.Machine.execNormGate part s
  | .updatePass cluster => Sys2Proof.Machine.execUpdatePass cluster s
  | .layerArm part layer => Sys2Proof.Machine.execLayerArm part layer s
  | .pcSnapshot part layer => Sys2Proof.Machine.execPcSnapshot part layer s
  | .pcRefreshSlice part layer => Sys2Proof.Machine.execPcRefreshSlice part layer s
  | .memberReady part => Sys2Proof.Machine.execMemberReady part s
  | .readyReceive part m step attempt => Sys2Proof.Machine.execReadyReceive part m step attempt s
  | .abortReceive part m step attempt reason => Sys2Proof.Machine.execAbortReceive part m step attempt reason s
  | .commitReceive part step attempt tc => Sys2Proof.Machine.execCommitReceive part step attempt tc s
  | .commitFlip part => Sys2Proof.Machine.execCommitFlip part s
  | .commitTimeout part => Sys2Proof.Machine.execCommitTimeout part s
  | .attemptAbandon part reason => Sys2Proof.Machine.execAttemptAbandon part reason s
  | .resumeReceive part m step attempt => Sys2Proof.Machine.execResumeReceive part m step attempt s
  | .attemptOpen part => Sys2Proof.Machine.execAttemptOpen part s
  | .gradDeadline part => Sys2Proof.Machine.execGradDeadline part s
  | .regionClear region => Sys2Proof.Machine.execRegionClear region s
  | .patrolScrub granule fault => Sys2Proof.Machine.execPatrolScrub granule fault s
  | .partTempSample p temp => Sys2Proof.Machine.execPartTempSample p temp s
  | .pantryModeChange hinted => Sys2Proof.Machine.execPantryModeChange hinted s
  | .laneFail link lane => Sys2Proof.Machine.execLaneFail link lane s
  | .laserFail engine laser => Sys2Proof.Machine.execLaserFail engine laser s
  | .linkDown link => Sys2Proof.Machine.execLinkDown link s
  | .linkTrain link peer => Sys2Proof.Machine.execLinkTrain link peer s
  | .linkTrainTimeout link => Sys2Proof.Machine.execLinkTrainTimeout link s
  | .flitReceive link flit => Sys2Proof.Machine.execFlitReceive link flit s
  | .ackTimer link => Sys2Proof.Machine.execAckTimer link s
  | .linkListReceive dev links => Sys2Proof.Machine.execLinkListReceive dev links s
  | .leaderElect => Sys2Proof.Machine.execLeaderElect s
  | .routesInstall routes mcast upstream => Sys2Proof.Machine.execRoutesInstall routes mcast upstream s
  | .podUp members pt => Sys2Proof.Machine.execPodUp members pt s
  | .discoveryTimeout => Sys2Proof.Machine.execDiscoveryTimeout s
  | .memberLost dev => Sys2Proof.Machine.execMemberLost dev s
  | .starterRestoreLanded part rec => Sys2Proof.Machine.execStarterRestoreLanded part rec s
  | .timeExchange offset => Sys2Proof.Machine.execTimeExchange offset s
  | .holdoverTimeout => Sys2Proof.Machine.execHoldoverTimeout s
  | .ptSyncEdge => Sys2Proof.Machine.execPtSyncEdge s
  | .ptRefLoss => Sys2Proof.Machine.execPtRefLoss s
  | .beatMark => Sys2Proof.Machine.execBeatMark s
  | .beatChange period origin beat => Sys2Proof.Machine.execBeatChange period origin beat s
  | .ptAlarm k => Sys2Proof.Machine.execPtAlarm k s
  | .sendArrival m => Sys2Proof.Machine.execSendArrival m s
  | .sendAck msgid refused => Sys2Proof.Machine.execSendAck msgid refused s
  | .sendTimeout msgid => Sys2Proof.Machine.execSendTimeout msgid s
  | .collArrival v m => Sys2Proof.Machine.execCollArrival v m s
  | .normsumPartial v rank t nonfin ovr => Sys2Proof.Machine.execNormsumPartial v rank t nonfin ovr s
  | .starterReceive f => Sys2Proof.Machine.execStarterReceive f s
  | .starterConfirm step => Sys2Proof.Machine.execStarterConfirm step s
  | .mgmtMessage slot m => Sys2Proof.Machine.execMgmtMessage slot m s
  | .commandDoorbell fn ch r value => Sys2Proof.Machine.execCommandDoorbell fn ch r value s
  | .commandFetch fn ch r bad => Sys2Proof.Machine.execCommandFetch fn ch r bad s
  | .completionPost fn ch r => Sys2Proof.Machine.execCompletionPost fn ch r s
  | .completionDoorbell fn ch r value => Sys2Proof.Machine.execCompletionDoorbell fn ch r value s
  | .eventDoorbell fn ch value => Sys2Proof.Machine.execEventDoorbell fn ch value s
  | .eventPost => Sys2Proof.Machine.execEventPost s
  | .msixModerationExpiry fn vector => Sys2Proof.Machine.execMsixModerationExpiry fn vector s
  | .ringEnable fn ch r en => Sys2Proof.Machine.execRingEnable fn ch r en s
  | .channelReset fn ch => Sys2Proof.Machine.execChannelReset fn ch s
  | .bar2Access fn a => Sys2Proof.Machine.execBar2Access fn a s
  | .registerWrite fn offset size value => Sys2Proof.Machine.execRegisterWrite fn offset size value s
  | .rngToutRead fn core hi => Sys2Proof.Machine.execRngToutRead fn core hi s
  | .flr fn => Sys2Proof.Machine.execFlr fn s
  | .perstOrHotReset perst => Sys2Proof.Machine.execPerstOrHotReset perst s
  | .vfEnableClear => Sys2Proof.Machine.execVfEnableClear s
  | .busMasterEnable fn => Sys2Proof.Machine.execBusMasterEnable fn s
  | .d3hotEntry fn => Sys2Proof.Machine.execD3hotEntry fn s
  | .identify o e => Sys2Proof.Machine.execIdentify o e s
  | .eventMask o e => Sys2Proof.Machine.execEventMask o e s
  | .partCreate o e => Sys2Proof.Machine.execPartCreate o e s
  | .partResize o e => Sys2Proof.Machine.execPartResize o e s
  | .partRemove o e => Sys2Proof.Machine.execPartRemove o e s
  | .partQuery o e => Sys2Proof.Machine.execPartQuery o e s
  | .cfgSwap o e => Sys2Proof.Machine.execCfgSwap o e s
  | .cfgCopy o e => Sys2Proof.Machine.execCfgCopy o e s
  | .fwStage o e => Sys2Proof.Machine.execFwStage o e s
  | .fwActivate o e => Sys2Proof.Machine.execFwActivate o e s
  | .fwQuery o e => Sys2Proof.Machine.execFwQuery o e s
  | .regionSet o e => Sys2Proof.Machine.execRegionSet o e s
  | .regionQuery o e => Sys2Proof.Machine.execRegionQuery o e s
  | .pantryShare o e => Sys2Proof.Machine.execPantryShare o e s
  | .hostCopy o e => Sys2Proof.Machine.execHostCopy o e s
  | .linkCtlCommand o e => Sys2Proof.Machine.execLinkCtlCommand o e s
  | .retrain link => Sys2Proof.Machine.execRetrain link s
  | .fabricSet o e => Sys2Proof.Machine.execFabricSet o e s
  | .ptSet o e => Sys2Proof.Machine.execPtSet o e s
  | .cgroupSet o e => Sys2Proof.Machine.execCgroupSet o e s
  | .cgroupClear o e => Sys2Proof.Machine.execCgroupClear o e s
  | .starterRecv o e => Sys2Proof.Machine.execStarterRecv o e s
  | .starterSet o e => Sys2Proof.Machine.execStarterSet o e s
  | .reset o e => Sys2Proof.Machine.execReset o e s
  | .snetSet o e => Sys2Proof.Machine.execSnetSet o e s
  | .repairQuery o e => Sys2Proof.Machine.execRepairQuery o e s
  | .fieldTest o e => Sys2Proof.Machine.execFieldTest o e s
  | .diagRead o e => Sys2Proof.Machine.execDiagRead o e s
  | .powerState o e => Sys2Proof.Machine.execPowerState o e s
  | .partIdle o e => Sys2Proof.Machine.execPartIdle o e s
  | .sensorRead o e => Sys2Proof.Machine.execSensorRead o e s
  | .powerCap o e => Sys2Proof.Machine.execPowerCap o e s
  | .ctxCreate o e => Sys2Proof.Machine.execCtxCreate o e s
  | .ctxDestroy o e => Sys2Proof.Machine.execCtxDestroy o e s
  | .ctxSave o e => Sys2Proof.Machine.execCtxSave o e s
  | .ctxRestore o e => Sys2Proof.Machine.execCtxRestore o e s
  | .ctxSetp o e => Sys2Proof.Machine.execCtxSetp o e s
  | .routineQuery o e => Sys2Proof.Machine.execRoutineQuery o e s
  | .ctxQuery o e => Sys2Proof.Machine.execCtxQuery o e s
  | .ctxRun o e => Sys2Proof.Machine.execCtxRun o e s
  | .release fn part => Sys2Proof.Machine.execRelease fn part s
  | .abandon fn part => Sys2Proof.Machine.execAbandon fn part s
  | .setEndpointId eid => Sys2Proof.Machine.execSetEndpointId eid s
  | .getEndpointId => Sys2Proof.Machine.execGetEndpointId s
  | .getEndpointUuid => Sys2Proof.Machine.execGetEndpointUuid s
  | .getMctpVersionSupport messageType => Sys2Proof.Machine.execGetMctpVersionSupport messageType s
  | .getMessageTypeSupport => Sys2Proof.Machine.execGetMessageTypeSupport s
  | .getVendorDefinedMessageSupport selector => Sys2Proof.Machine.execGetVendorDefinedMessageSupport selector s
  | .vendorDefinedMessage e => Sys2Proof.Machine.execVendorDefinedMessage e s
  | .getTid => Sys2Proof.Machine.execGetTid s
  | .setTid tid => Sys2Proof.Machine.execSetTid tid s
  | .getPldmVersion pldmType => Sys2Proof.Machine.execGetPldmVersion pldmType s
  | .getPldmTypes => Sys2Proof.Machine.execGetPldmTypes s
  | .getPldmCommands pldmType => Sys2Proof.Machine.execGetPldmCommands pldmType s
  | .getPdrRepositoryInfo => Sys2Proof.Machine.execGetPdrRepositoryInfo s
  | .getPdr handle => Sys2Proof.Machine.execGetPdr handle s
  | .getSensorReading sensor => Sys2Proof.Machine.execGetSensorReading sensor s
  | .getStateSensorReadings sensor => Sys2Proof.Machine.execGetStateSensorReadings sensor s
  | .setEventReceiver eid => Sys2Proof.Machine.execSetEventReceiver eid s
  | .pldmFirmwareUpdate c => Sys2Proof.Machine.execPldmFirmwareUpdate c s
  | .activateFirmware selfContained => Sys2Proof.Machine.execActivateFirmware selfContained s
  | .residueCheckpoint core m => Sys2Proof.Machine.execResidueCheckpoint core m s
  | .parityError core source slot => Sys2Proof.Machine.execParityError core source slot s
  | .checkStart => Sys2Proof.Machine.execCheckStart s
  | .checkCompare id r => Sys2Proof.Machine.execCheckCompare id r s
  | .ringmasterFailover => Sys2Proof.Machine.execRingmasterFailover s
  | .watchdogExpiry w => Sys2Proof.Machine.execWatchdogExpiry w s
  | .scopeReset scope target failed => Sys2Proof.Machine.execScopeReset scope target failed s
  | .computeResetFail => Sys2Proof.Machine.execComputeResetFail s
  | .deviceReset => Sys2Proof.Machine.execDeviceReset s
  | .alwaysOnRestart bootCore => Sys2Proof.Machine.execAlwaysOnRestart bootCore s
  | .isolationReplay core ctx r => Sys2Proof.Machine.execIsolationReplay core ctx r s
  | .contextRecovery ctx => Sys2Proof.Machine.execContextRecovery ctx s
  | .inputOutOfRange mv => Sys2Proof.Machine.execInputOutOfRange mv s
  | .vcoreWarning die mv => Sys2Proof.Machine.execVcoreWarning die mv s
  | .vcoreRecover die => Sys2Proof.Machine.execVcoreRecover die s
  | .vcoreDipTimeout die => Sys2Proof.Machine.execVcoreDipTimeout die s
  | .vcoreResetLevel die mv => Sys2Proof.Machine.execVcoreResetLevel die mv s
  | .powerCapTick watts => Sys2Proof.Machine.execPowerCapTick watts s
  | .dieTempWarning die temp => Sys2Proof.Machine.execDieTempWarning die temp s
  | .thermalTrip die => Sys2Proof.Machine.execThermalTrip die s
  | .coolantAlarm sensor milli => Sys2Proof.Machine.execCoolantAlarm sensor milli s
  | .stateChangeComplete => Sys2Proof.Machine.execStateChangeComplete s
  | .wake source => Sys2Proof.Machine.execWake source s
  | .carouselSample readings => Sys2Proof.Machine.execCarouselSample readings s
  | .coldStart c => Sys2Proof.Machine.execColdStart c s
  | .idcode => Sys2Proof.Machine.execIdcode s
  | .samplePreload preload => Sys2Proof.Machine.execSamplePreload preload s
  | .extest => Sys2Proof.Machine.execExtest s
  | .clamp => Sys2Proof.Machine.execClamp s
  | .highz => Sys2Proof.Machine.execHighz s
  | .dbgChain => Sys2Proof.Machine.execDbgChain s
  | .obsSelect sel => Sys2Proof.Machine.execObsSelect sel s
  | .bypass code => Sys2Proof.Machine.execBypass code s
  | .obsSelWrite fn sel => Sys2Proof.Machine.execObsSelWrite fn sel s
  | .ptRefReturn => Sys2Proof.Machine.execPtRefReturn s
  | .openReceive part step attempt topen => Sys2Proof.Machine.execOpenReceive part step attempt topen s
  | .returnToD0 fn => Sys2Proof.Machine.execReturnToD0 fn s
  | .perstDeassert => Sys2Proof.Machine.execPerstDeassert s
  | .linkWakePulse link => Sys2Proof.Machine.execLinkWakePulse link s
  | .routeSummaryReceive pod trunk devices => Sys2Proof.Machine.execRouteSummaryReceive pod trunk devices s

end Sys2Proof.Machine
end

