-- ==== Sys2Proof/Safety.lean ====
section
/-! DEFINITION. What holds of every sound state of the block, and when a command of each kind completes, in the terms that
claims use. -/

namespace Sys2Proof.Machine

open Sys2Proof

/-- The byte memories of the module and of the host are in canonical form. -/
def MemOk (s : State) : Prop := Memory.wf s.mem.bytes = true ∧ Memory.wf s.host.bytes = true

/-- The keys of a table rise strictly, so that each stands once. -/
abbrev Rising {α : Type} (t : Tab α) : Prop := (t.map Prod.fst).Pairwise (· < ·)

/-- A sound state: both byte memories in canonical form, and the tables of contexts and of region entries in rising order of their keys. -/
structure StateOk (s : State) : Prop where
  mem : MemOk s
  ctxs : Rising s.ctxs
  region : Rising s.mem.region

/-- Virtual core `v` of context `c` issues the instruction word `w` now (R213, R223, R248): its context runs, its core issues from its
slot, nothing holds it, and neither a save nor a bank swap waits for it. -/
abbrev Issues (s : State) (v : VRef) (c : Ctx) (x : Vcore) (w : Word64) : Prop :=
  s.ctx? v.ctx = some c ∧ tget c.vcs v.vc = some x ∧ nextWord s c v x = some w ∧ c.st = .running ∧ x.waitPatch = false ∧
  (s.core x.core).issuing = some x.slot ∧ isolAllows s x.core c.part v.ctx = true ∧
  heldAt s c v x w = false ∧ coreStopped s x.core = false ∧ (s.pwr.st = .run ∨ s.pwr.st = .idle) ∧
  c.saving = none ∧ x.swapDue = none

/-- Operation `o` of virtual core `v` is the oldest of its opcode that its unit has started, and nothing pauses it
(R219, R224, R439). -/
abbrev OpStarted (s : State) (v : VRef) (x : Vcore) (op : Nat) (o : UOp) : Prop :=
  s.vc? v = some x ∧ startedOp x op = some o ∧ opPaused s x o = false

/-- Operands that a plain or transposing move accepts (R231, R76). -/
abbrev MoveOk (src dst : Opnd) : Prop :=
  src.fmt = dst.fmt ∧ src.sq = dst.sq ∧ src.uni = dst.uni ∧
  (src.trans = true → dst.rows = src.cols ∧ dst.cols = src.rows ∧ (src.narrow = true → src.sq = true ∧ src.uni = true)) ∧
  (src.trans = false → dst.rows = src.rows ∧ dst.cols = src.cols)

/-- Entry `e` heads its sender's ring, its channel is local and firmware or the boot ROM runs: command `c` is next (R371). -/
abbrev CmdHeads (s : State) (c : Cmd) (o : Origin) (e : Entry) : Prop := fld e 15 0 = c.op ∧ cmdReady s o e = true

/-- Command `c` runs now (R371, R379): it heads its ring, nothing turns it away before its own rules, its host buffer can be reached, and it
does not have to wait. -/
abbrev CmdRuns (s : State) (c : Cmd) (o : Origin) (e : Entry) : Prop :=
  CmdHeads s c o e ∧ gate s c o e = none ∧ (c.host e = true → hostOk s o = true) ∧ c.wait s e (targetPart o e) = false

end Sys2Proof.Machine
end

