-- ==== Sys2Proof/Certificates/Slice0/Obligations.lean ====
section
/-! DEFINITION. Statements about the block for the provers. Each names the rules of the specification, or the entry of the assumption
log, that it rests on. -/

open Sys2Proof Sys2Proof.Machine

/-! ### The queue -/

/-- Log 2 names the queue. A step with command `c` in front is the meaning of `c` on the rest of the queue. -/
def Obligations.StepRunsFrontCommand : Prop :=
  ∀ (s : State) (c : Instr) (rest : List Instr), s.pending = c :: rest → step s = exec c { s with pending := rest }

/-- With no command waiting a nanosecond passes (log 2): in OFF nothing changes; elsewhere the oscillator count advances by one and Pod
Time by one, by none or two where a correction is slewed in (R327). -/
def Obligations.EmptyQueuePassesOneNanosecond : Prop :=
  ∀ s : State, s.pending = [] →
    ∃ t, step s = .next t ∧
      (s.pwr.st = .off → t = s) ∧
      (s.pwr.st ≠ .off → t = { s with time := t.time } ∧ t.time.up = s.time.up + 1 ∧
        (s.time.slew = 0 → t.time.pt = s.time.pt + 1 ∧ t.time.slew = 0) ∧
        (s.time.slew ≠ 0 → s.time.up.toNat % 10000 ≠ 0 → t.time.pt = s.time.pt + 1 ∧ t.time.slew = s.time.slew) ∧
        (0 < s.time.slew → s.time.up.toNat % 10000 = 0 → t.time.pt = s.time.pt + 2 ∧ t.time.slew = s.time.slew - 1) ∧
        (s.time.slew < 0 → s.time.up.toNat % 10000 = 0 → t.time.pt = s.time.pt ∧ t.time.slew = s.time.slew + 1) ∧
        { t.time with up := s.time.up, pt := s.time.pt, slew := s.time.slew } = s.time)

/-! ### Issue and its instructions -/

/-- NOP, YIELD and SKIP issue and move the position (R233): to the next instruction, or past the N that SKIP names where its comparator bit
has the value it asks for.

PSET, PADD, PMAD and CMP issue once their sources are there, and write what R233 gives into the parameter register or comparator bit
that IMM names.

WRS writes 4, 6 or 8 bytes of its second source into the window, at an address taken modulo 2^64 (R233), PUSH one token into each
destination queue; PUSH waits where a queue has no free slot for it before its own pops (R233, R218). -/
def Obligations.IssueInstructionsComplete : Prop :=
  (∀ (s : State) (v : VRef) (c : Ctx) (x : Vcore) (w : Word64), Issues s v c x w →
    (opOf w = 0x00 → exec (.nop v) s = .next (putVc s v (advance x))) ∧
    (opOf w = 0x07 → exec (.yield v) s = .next (putVc s v { advance x with stand := .afterYield })) ∧
    (opOf w = 0x06 → x.cmp.getLsbD (immBits w 1 0) = (immBits w 2 2 == 1) →
      exec (.skip v) s = .next (putVc s v (goTo x (x.pos.idx + 1 + immBits w 14 3)))) ∧
    (opOf w = 0x06 → x.cmp.getLsbD (immBits w 1 0) ≠ (immBits w 2 2 == 1) →
      exec (.skip v) s = .next (putVc s v (advance x)))) ∧
  (∀ (s : State) (v : VRef) (c : Ctx) (x : Vcore) (w : Word64), Issues s v c x w →
    (∀ a t y, opOf w = 0x08 → takeSrc x (s1Of w) (selParam x (s1Of w)) = some (a, t, y) →
      exec (.pset v) s = .next (putVc s v (advance { y with
        p := tput y.p (immBits w 5 0) (if s1Of w = 0x3F then sext 18 (immBits w 23 6) else a) }))) ∧
    (∀ a b y, takeTwo x w = some (a, b, y) →
      (opOf w = 0x09 → exec (.padd v) s = .next (putVc s v (advance { y with
        p := tput y.p (immBits w 5 0) (a + if s2Of w = 0x3F then sext 18 (immBits w 23 6) else b) }))) ∧
      (opOf w = 0x0A → exec (.pmad v) s = .next (putVc s v (advance { y with
        p := tput y.p (immBits w 5 0) (a + b * BitVec.setWidth 64 (tgetD x.k (immBits w 8 6) {}).index) }))) ∧
      (opOf w = 0x05 → exec (.cmp v) s = .next (putVc s v (advance { y with
        cmp := setFld y.cmp (immBits w 1 0) (immBits w 1 0) (b2n (compare (immBits w 4 2)
          (if immBits w 5 5 = 1 then BitVec.setWidth 64 (tgetD x.k (immBits w 8 6) {}).index else a)
          (if s2Of w = 0x3F then BitVec.ofNat 64 (immBits w 23 9) else b))) }))))) ∧
  (∀ (s : State) (v : VRef) (c : Ctx) (x : Vcore) (w : Word64), Issues s v c x w →
    (∀ a b y n, opOf w = 0x0B → takeTwo x w = some (a, b, y) → n = (if immBits w 17 16 = 0 then 4 else if immBits w 17 16 = 1 then 6 else 8) →
      (padUse (s1Of w) a + immBits w 15 0) % 2 ^ 64 + n ≤ x.winSize →
      exec (.wrs v) s = .next (putVc s v (advance { y with
        win := memPutAll y.win ((padUse (s1Of w) a + immBits w 15 0) % 2 ^ 64) (natToBytes n b.toNat),
        winPoison := ((PMem.mk y.win y.winPoison).write ((padUse (s1Of w) a + immBits w 15 0) % 2 ^ 64) (clean (natToBytes n b.toNat))).poison }))) ∧
    (∀ a t y k z tok, opOf w = 0x0C → takeSrc x (s1Of w) (selParam x (s1Of w)) = some (a, t, y) →
      tok = ⟨BitVec.setWidth 32 a, BitVec.ofNat 16 (immBits w 15 0), BitVec.ofNat 3 (immBits w 18 16), false⟩ →
      pushDst (pushDst (some x) (d1Of w) tok) (d2Of w) tok = some k → pushDst (pushDst (some y) (d1Of w) tok) (d2Of w) tok = some z →
      exec (.push v) s = .next (putVc s v (advance z))) ∧
    (∀ a t y tok, opOf w = 0x0C → takeSrc x (s1Of w) (selParam x (s1Of w)) = some (a, t, y) →
      tok = ⟨BitVec.setWidth 32 a, BitVec.ofNat 16 (immBits w 15 0), BitVec.ofNat 3 (immBits w 18 16), false⟩ →
      pushDst (pushDst (some x) (d1Of w) tok) (d2Of w) tok = none → exec (.push v) s = .next s))

/-- LOOP sets a counter for its body, or passes over the body for a count of 0; at the end of the body the index advances and the body runs
again, and after the last run the counter is no longer active (R233).

CALL puts its three sources into P61 to P63 and enters the routine; RET returns to the instruction after the CALL and leaves the
routine's LOOP bodies; END waits for every
operation and then for the next patch slot, with queues 3 to 15 empty (R242, R244). -/
def Obligations.LoopCallReturnAndEnd : Prop :=
  ((∀ (s : State) (v : VRef) (c : Ctx) (x : Vcore) (w : Word64) (a : Word64) (t : Option Token) (y : Vcore) (count : Nat),
    Issues s v c x w → opOf w = 0x04 → takeSrc x (s1Of w) (selParam x (s1Of w)) = some (a, t, y) →
    count = (if s1Of w = 0x3F then immBits w 23 15 else a.toNat % 2 ^ 32) →
    (count = 0 → exec (.loop v) s = .next (putVc s v (goTo y (x.pos.idx + 1 + immBits w 14 3)))) ∧
    (count ≠ 0 → exec (.loop v) s = .next (putVc s v { y with
      k := tput y.k (immBits w 2 0) ⟨true, 0, BitVec.ofNat 32 count, x.pos.idx + 1, immBits w 14 3, x.rstack.length⟩,
      pos := { x.pos with idx := x.pos.idx + 1 }, stand := .inside }))) ∧
  (∀ (x : Vcore) (i : Nat) (k : Counter), x.k = [(i, k)] → k.active = true → k.depth = x.rstack.length →
    k.start + k.len = x.pos.idx + 1 →
    (k.index.toNat + 1 < k.limit.toNat →
      advance x = { x with k := [(i, { k with index := k.index + 1 })], pos := { x.pos with idx := k.start }, stand := .inside }) ∧
    (k.limit.toNat ≤ k.index.toNat + 1 →
      advance x = { x with k := [], pos := { x.pos with idx := x.pos.idx + 1 }, stand := .inside })) ∧
  (∀ x : Vcore, x.k = [] → advance x = { x with pos := { x.pos with idx := x.pos.idx + 1 }, stand := .inside })) ∧
  (∀ (s : State) (v : VRef) (c : Ctx) (x : Vcore) (w : Word64), Issues s v c x w →
    (∀ a b y d t z, opOf w = 0x02 → takeTwo x w = some (a, b, y) → takeSrc y (s3Of w) (selParam x (s3Of w)) = some (d, t, z) →
      x.rstack.length < 4 → (∀ i < 4, x.q (12 + i) = []) → (routineBody s c (immBits w 8 0)).isSome →
      exec (.call v) s = .next (putVc s v { z with
        p := tput (tput (tput z.p 61 a) 62 b) 63 d, rstack := ⟨x.pos.sec, x.pos.idx + 1⟩ :: x.rstack,
        pos := ⟨some (immBits w 8 0), 0⟩, stand := .inside })) ∧
    (∀ p r, opOf w = 0x03 → x.q 14 = [] → x.q 15 = [] → x.rstack = p :: r →
      exec (.ret v) s = .next (putVc s v { goTo { x with
        rstack := r, pos := p, k := x.k.filter (fun e => e.2.depth < x.rstack.length) } p.idx with
        stand := if r = [] then .afterRet else .inside })) ∧
    (opOf w = 0x01 → x.ops = [] →
      exec (.end_ v) s = .next (s.modCtx v.ctx (fun d => takeSave d v.vc { x with
        replay := x.replay + 1, waitPatch := true, applied := false, pos := {}, rstack := [], stand := .inside,
        queues := x.queues.filter (fun q => decide (q.1 < 3)) }))))

/-- A program fault records itself in ISS_FAULT unless one is recorded, raises 0x7004 with its code and Ululy index, and stops the
context (R259, R262): WRS outside its window, CALL at depth 4, with results left or to a routine that is not there, RET with queues 14 or
15 not empty. -/
def Obligations.ProgramFaultsStopTheContext : Prop :=
  ∀ (s : State) (v : VRef) (c : Ctx) (x : Vcore) (w : Word64), Issues s v c x w →
    (∀ a b y n, opOf w = 0x0B → takeTwo x w = some (a, b, y) → n = (if immBits w 17 16 = 0 then 4 else if immBits w 17 16 = 1 then 6 else 8) →
      x.winSize < (padUse (s1Of w) a + immBits w 15 0) % 2 ^ 64 + n → exec (.wrs v) s = .next (progFault s v x 0x3)) ∧
    (∀ a b y d t z, opOf w = 0x02 → takeTwo x w = some (a, b, y) → takeSrc y (s3Of w) (selParam x (s3Of w)) = some (d, t, z) →
      (4 ≤ x.rstack.length → exec (.call v) s = .next (progFault s v x 0x1)) ∧
      (x.rstack.length < 4 → (∃ i < 4, x.q (12 + i) ≠ []) → exec (.call v) s = .next (progFault s v x 0x2)) ∧
      (x.rstack.length < 4 → (∀ i < 4, x.q (12 + i) = []) → routineBody s c (immBits w 8 0) = none →
        exec (.call v) s = .next (progFault s v x 0x4))) ∧
    (opOf w = 0x03 → (x.q 14 ≠ [] ∨ x.q 15 ≠ []) → exec (.ret v) s = .next (progFault s v x 0x2)) ∧
    (∀ code, code < 16 →
      ((progFault s v x code).ctx? v.ctx).map Ctx.st = some CtxState.stopped ∧
      (progFault s v x code).host.raised = s.host.raised ++ [{
        code := 0x7004, part := some c.part, ctx := some v.ctx, data := BitVec.ofNat 128 (data7 v.vc x.core code x.pos.idx),
        ptv := s.time.valid, pt := if s.time.valid then s.time.pt else s.time.up }] ∧
      (progFault s v x code).mem = s.mem ∧ (progFault s v x code).fab = s.fab ∧
      ((s.core x.core).issFault.getLsbD 0 = true → ((progFault s v x code).core x.core).issFault = (s.core x.core).issFault) ∧
      ((s.core x.core).issFault.getLsbD 0 = false →
        ((progFault s v x code).core x.core).issFault.getLsbD 0 = true ∧
        fld ((progFault s v x code).core x.core).issFault 7 4 = code))

/-- The control instructions change nothing but their virtual core: memory, every register of the module and every other virtual core stay
as they were, and within it a PSET, PADD or PMAD changes no parameter register but its own, NOP, SKIP, YIELD, LOOP, CMP, WRS and PUSH none. -/
def Obligations.ControlInstructionFrame : Prop :=
  ∀ (s t : State) (v : VRef) (c : Ctx) (x : Vcore) (w : Word64) (i : Instr),
    i ∈ [Instr.nop v, .skip v, .yield v, .pset v, .padd v, .pmad v, .cmp v, .push v, .loop v] →
    s.ctx? v.ctx = some c → tget c.vcs v.vc = some x → c.saving = none → nextWord s c v x = some w →
    exec i s = .next t →
    t = { s with ctxs := t.ctxs } ∧ (∀ k, k ≠ v.ctx → t.ctx? k = s.ctx? k) ∧ (∀ u : VRef, u ≠ v → t.vc? u = s.vc? u) ∧
    ∃ y, t.vc? v = some y ∧ y.win = x.win ∧ y.winPoison = x.winPoison ∧ y.lacc = x.lacc ∧ y.ops = x.ops ∧ y.rstack = x.rstack ∧
      y.jseed = x.jseed ∧ y.step = x.step ∧
      (∀ r, ¬ (i ∈ [Instr.pset v, .padd v, .pmad v] ∧ r = immBits w 5 0) → tget y.p r = tget x.p r) ∧
      (i ≠ .cmp v → y.cmp = x.cmp)

/-- INSTRUCTION_DISPATCH puts the instruction at the end of its unit's queue with its captured parameter values, and its index value from the
counter that IX names, scaled; an IX whose step is zero has no effect (R223, R228).

A full unit queue makes dispatch wait (R223).

REPLAY_START applies the entries of the READY patch slot addressed to the virtual core and starts its replay at the first Ululy, with
comparators and counters cleared and its queues filled from the image (R240); without READY it waits, and has only read
the slot. -/
def Obligations.DispatchAndReplayStart : Prop :=
  (∀ (s : State) (v : VRef) (c : Ctx) (x : Vcore) (w : Word64), Issues s v c x w → 0x10 ≤ opOf w → unitRoom x w = true →
    (ixOf w / 16 = 0 →
      exec (.instructionDispatch v) s = .next (putVc s v (advance { x with nextOp := x.nextOp + 1, ops := x.ops ++ [{
        id := x.nextOp, word := w, p1 := selParam x (s1Of w), p2 := selParam x (s2Of w), p3 := selParam x (s3Of w) }] }))) ∧
    (∀ k, ixOf w / 16 ≠ 0 → tgetD x.k (ixOf w % 8) {} = k → k.active = true →
      exec (.instructionDispatch v) s = .next (putVc s v (advance { x with nextOp := x.nextOp + 1, ops := x.ops ++ [{
        id := x.nextOp, word := w, p1 := selParam x (s1Of w), p2 := selParam x (s2Of w), p3 := selParam x (s3Of w),
        ix := ixOf w / 16 * 4 * k.index.toNat, tag := BitVec.setWidth 16 k.index }] })))) ∧
  (∀ (s : State) (v : VRef) (c : Ctx) (x : Vcore) (w : Word64) (u : UnitId), Issues s v c x w → 0x10 ≤ opOf w → inUnit u w = true →
    16 ≤ (x.ops.filter (fun o => o.phase == .queued && inUnit u o.word)).length → exec (.instructionDispatch v) s = .next s) ∧
  (∀ (s : State) (v : VRef) (c : Ctx) (x : Vcore) (da n : Nat), s.ctx? v.ctx = some c → tget c.vcs v.vc = some x →
    c.st = .running → c.saving = none → x.waitPatch = true → x.haltPend = false →
    isolAllows s x.core c.part v.ctx = true → (s.map x.core).quar = false → coreStopped s x.core = false →
    s.pwr.st = .run → (s.part c.part).idle = false → tget c.patches x.replay = none →
    da = c.patchBase + 16384 * (x.replay % max c.patchN 1) → accessRefusal s (.part c.part) da 16384 = none →
    accessWaits s da 16384 = false → s.mem.latent = [] → n = bits (devNat s da 8) 41 32 → strongest (devRead s da (16 + 16 * n)) = none →
    (bit (devNat s da 8) 63 = false → ∃ t, exec (.replayStart v) s = .next t ∧ t = { s with mem := { s.mem with lines := t.mem.lines } }) ∧
    (bit (devNat s da 8) 63 = true → bits (devNat s da 8) 31 0 = x.replay % 2 ^ 32 → n ≤ 1023 →
      (∀ e < n, devNat s (da + (16 + 16 * e + 2)) 1 ≤ 65) →
      ∃ t y, exec (.replayStart v) s = .next t ∧ t.vc? v = some y ∧
        y = startReplay c v.vc (applyPatch (fun a k => devNat s (da + a) k) v.vc n 0 x) ∧
        y.waitPatch = false ∧ y.applied = true ∧ y.pos = {} ∧ y.k = [] ∧ y.cmp = 0 ∧ y.rstack = [] ∧
        t.fab = s.fab ∧ t.host = s.host ∧ t.parts = s.parts ∧
        ((s.core x.core).issuing = none → (t.core x.core).issuing = some x.slot)))

/-- A held control token enters Q0 once a slot is free, oldest first (R220); Q1_NOTIFY pops the head of Q1 and raises event 0x6201 with its
64-bit word and the virtual core (R221).

VIRTUAL_CORE_SWITCH gives issue to the next ready slot in ascending order, wrapping (R248): when none issues, or when the one that
issues stands at a quiescent boundary and its context has stopped, its slice is over, it waits or HALTED stops it; before that the core
keeps it. -/
def Obligations.TokensNotificationsAndSwitching : Prop :=
  (∀ (s : State) (v : VRef) (x : Vcore), s.vc? v = some x →
    (∀ h r, x.held = h :: r → qFree x 0 = true →
      exec (.controlTokenHeldDeliver v) s = .next (putVc s v { pushQ x 0 h with held := r })) ∧
    (∀ h, headTok x 1 = some h → ∃ t, exec (.q1Notify v) s = .next t ∧
      t.vc? v = some (popQ x 1) ∧ t.host.raised = s.host.raised ++ [{
        code := 0x6201, part := some (ctxPart s v.ctx), ctx := some v.ctx, data := BitVec.ofNat 128 ((tokWord h).toNat + v.vc % 256 * 2 ^ 64),
        ptv := s.time.valid, pt := if s.time.valid then s.time.pt else s.time.up }] ∧
      t.mem = s.mem ∧ t.cores = s.cores)) ∧
  (∀ (s : State) (n : Nat),
    (∀ p, (s.core n).issuing = none → (slotsAfter (s.core n).slots 8).find? (fun p => ready s p.2) = some p →
      exec (.virtualCoreSwitch n) s = .next (s.modCore n (fun r => { r with issuing := some p.1, took := s.now }))) ∧
    (∀ i v c x, (s.core n).issuing = some i → tget (s.core n).slots i = some v → s.ctx? v.ctx = some c → s.vc? v = some x →
      (∀ p, quiescent s c v x = true → (c.st ≠ .running ∨
        (s.core n).took + fld (s.core n).issCtl 23 0 * 1000 ≤ s.now ∨ waits s c v x = true ∨ haltStops s c v x = true) →
        (slotsAfter (s.core n).slots i).find? (fun p => ready s p.2 && some p.1 != some i) = some p →
        exec (.virtualCoreSwitch n) s = .next (s.modCore n (fun r => { r with issuing := some p.1, took := s.now }))) ∧
      (quiescent s c v x = false → exec (.virtualCoreSwitch n) s = .next s) ∧
      (c.st = .running → s.now < (s.core n).took + fld (s.core n).issCtl 23 0 * 1000 → waits s c v x = false → haltStops s c v x = false →
        exec (.virtualCoreSwitch n) s = .next s)))

/-! ### Operations of the units -/

/-- OPERATION_START starts the oldest queued operation of a unit once its sources are there and, before it pops them, its destination queues
have room: it pops
the sources, reserves the slots, and takes an ERROR token among them in place of its effect (R218, R222).

OPERATION_COMPLETE takes the oldest operation of a unit whose effect is made: its tokens enter their reserved slots, an ERROR token in
place of each where the operation failed, and it leaves the unit (R218, R222, R232). Under HOLD it waits for its verdicts (R111).

Queues keep program order (R218): a token that fills a later reservation is not visible while an earlier one is empty, and the head
becomes visible as soon as its own reservation is filled. -/
def Obligations.OperationsStartAndComplete : Prop :=
  (∀ (s : State) (v : VRef) (u : UnitId) (x y z : Vcore) (o : UOp) (a b d : Word64) (ts : List Token) (e : Option Token),
    s.vc? v = some x → x.ops.find? (fun o => o.phase == .queued && inUnit u o.word) = some o →
    (∀ w ∈ allUnits, inUnit w o.word = true → (x.ops.find? (fun p => p.phase == .queued && inUnit w p.word)).map UOp.id = some o.id) →
    coreStopped s x.core = false → opPaused s x o = false → takeOperands x o = some (a, b, d, ts, y) →
    ts.find? (fun t => t.kind == kError) = e → arrayReady x o = true →
    (reserveDst (reserveDst (some x) (d1Of o.word) o.id) (d2Of o.word) o.id).isSome →
    reserveDst (reserveDst (some y) (d1Of o.word) o.id) (d2Of o.word) o.id = some z →
    exec (.operationStart v u) s = .next ((putVc s v { z with ops := z.ops.map (fun p => if p.id = o.id then { o with
        s1 := a, s2 := b, s3 := d, err := e.map Token.val, susp := o.susp || (dieWindow s (x.core / 64) && 0x20 ≤ opOf o.word),
        ctl := x.win, ctlPoison := x.winPoison, phase := if e.isSome then .performed else .started } else p) }).modCore x.core
      (fun r => { r with progress := r.progress + 1 }))) ∧
  (∀ (s : State) (v : VRef) (u : UnitId) (c : Ctx) (x : Vcore) (o : UOp),
    s.ctx? v.ctx = some c → tget c.vcs v.vc = some x → c.saving = none → c.destroying = none →
    x.ops.find? (fun o => o.phase == .performed && !o.held && !o.hold.any (verdictDue s (ctxPart s v.ctx)) && inUnit u o.word &&
      !opPaused s x o) = some o →
    exec (.operationComplete v u) s = .next (putVc s v { fillDst (fillDst x o (d1Of o.word) false o.d1) o (d2Of o.word) true o.d2 with
      ops := (fillDst (fillDst x o (d1Of o.word) false o.d1) o (d2Of o.word) true o.d2).ops.filter (fun p => p.id != o.id) })) ∧
  (∀ (x : Vcore) (q a b : Nat) (t : Token) (l : List QSlot), x.q q = ⟨a, none⟩ :: l →
    (b ≠ a → headTok (fillQ x q b t) q = none) ∧ headTok (fillQ x q a t) q = some t ∧
    ((fillQ x q b t).q q).length = (x.q q).length)

/-- What becomes of a started operation (R222, R290): its effect lands, with the report of a
mismatch that residues show (R100), or it is refused with an event and its code for the tokens, or it
consumes poison, or it waits unchanged.

A refused operation has no effect but its event, the count of refused accesses and the code that its tokens will carry (R222). -/
def Obligations.UnitOperationOutcomes : Prop :=
  (∀ (v : VRef) (i : Instr) (op : Nat) (run : State → VRef → Vcore → Nat → UOp → Res Ran),
    (i, op, run) ∈ [(Instr.load v, 0x10, runLoad), (.gather v, 0x11, runGather), (.store v, 0x12, runStore), (.send v, 0x13, runSend),
      (.zero v, 0x20, runZero), (.acc v, 0x21, runAcc), (.twin v, 0x22, runTwin), (.convert v, 0x23, runConvert),
      (.export_ v, 0x24, runExport), (.import_ v, 0x25, runImport), (.swap v, 0x26, runSwap), (.cvt v, 0x30, runCvt),
      (.vwait v, 0x31, runVwait), (.vop v, 0x40, runVop), (.vred v, 0x41, runVred), (.vmm v, 0x42, runVmm), (.vnorm v, 0x43, runVnorm),
      (.drop v, 0x44, runDrop), (.init v, 0x45, runInit), (.sample v, 0x46, runSample)] →
    ∀ (s : State) (x : Vcore) (o : UOp), OpStarted s v x op o →
      (∀ r, run s v (unitView x o) (ctxPart s v.ctx) o = .ok r →
        (r.mism = none → exec i s = .next (landOp s v x (ctxPart s v.ctx) op o r)) ∧
        (∀ a b, r.mism = some (a, b) → exec i s = .next (mismatchArr (landOp s v x (ctxPart s v.ctx) op o r) v x o a b false))) ∧
      (∀ code da, run s v (unitView x o) (ctxPart s v.ctx) o = .error (.refuse code da) →
        exec i s = .next (refuseOp s v x (ctxPart s v.ctx) o code da)) ∧
      (∀ p da f, run s v (unitView x o) (ctxPart s v.ctx) o = .error (.poisoned p da f) → exec i s = .next (poisonOp s v o p da f)) ∧
      (run s v (unitView x o) (ctxPart s v.ctx) o = .error .wait → exec i s = .next s)) ∧
  (∀ (s : State) (v : VRef) (x : Vcore) (n code da : Nat) (o : UOp), s.vc? v = some x → code < 2 ^ 16 →
    ∃ e : Event, e.code = BitVec.ofNat 16 code ∧ e.ctx = some v.ctx ∧ e.part = some (ctxPart s v.ctx) ∧
      (refuseOp s v x n o code da).host = { s.host with raised := s.host.raised ++ [e] } ∧
      (refuseOp s v x n o code da).mem = s.mem ∧ (refuseOp s v x n o code da).fab = s.fab ∧
      (refuseOp s v x n o code da).cores = s.cores ∧
      (code ≠ 0x2001 → code ≠ 0x2002 → (refuseOp s v x n o code da).parts = s.parts) ∧
      (refuseOp s v x n o code da).vc? v = some { x with ops := x.ops.map (fun p =>
        if p.id = o.id then { p with phase := .performed, err := some (BitVec.ofNat 32 code) } else p) })

/-- What a unit operation leaves alone (R222, R231, R234 to R238): with its effect made, device memory and the window outside its outputs, every
other virtual core, and of its own every parameter register, counter, comparator, queue and position, as well as host memory and Pod Time, are
as before; a byte of a Pantry line that a hint discards reads as its part holds it (R284). SEND also takes what has come to this module (R334). -/
def Obligations.UnitOperationFrame : Prop :=
  ∀ (v : VRef) (i : Instr) (op : Nat) (run : State → VRef → Vcore → Nat → UOp → Res Ran),
    (i, op, run) ∈ [(Instr.load v, 0x10, runLoad), (.gather v, 0x11, runGather), (.store v, 0x12, runStore), (.send v, 0x13, runSend),
      (.zero v, 0x20, runZero), (.acc v, 0x21, runAcc), (.twin v, 0x22, runTwin), (.export_ v, 0x24, runExport), (.import_ v, 0x25, runImport),
      (.swap v, 0x26, runSwap), (.vwait v, 0x31, runVwait), (.vnorm v, 0x43, runVnorm)] →
    ∀ (s t : State) (x : Vcore) (o : UOp) (r : Ran), OpStarted s v x op o → run s v (unitView x o) (ctxPart s v.ctx) o = .ok r →
      exec i s = .next (if op = 0x13 then settle t else t) ∧ (op ≠ 0x13 ∨ t = perform s v 0x13 runSend) →
      (∀ a, (s.mem.hinted = false ∨ ∀ l ∈ s.mem.lines, l.line = a / 256 → l.tier = none) →
        (∀ u ∈ r.outs, u.dev = true → a < u.addr ∨ u.addr + u.len ≤ a) → memGet t.mem.bytes a = memGet s.mem.bytes a) ∧
      (∀ u : VRef, u ≠ v → t.vc? u = s.vc? u) ∧ t.host.bytes = s.host.bytes ∧ t.time = s.time ∧ t.pwr = s.pwr ∧ t.mgmt = s.mgmt ∧
      ∃ y, t.vc? v = some y ∧ y.p = x.p ∧ y.k = x.k ∧ y.cmp = x.cmp ∧ y.pos = x.pos ∧ y.queues = x.queues ∧ y.rstack = x.rstack ∧
        (op < 0x20 ∨ 0x30 ≤ op ∨ op = 0x24 → y.lacc = x.lacc) ∧
        (∀ a, (∀ u ∈ r.outs, u.dev = false → a < u.addr ∨ u.addr + u.len ≤ a) → memGet y.win a = memGet x.win a)

/-- LOAD and STORE move the planes of one operand into another of the same format word, as stored, with their poison; LOAD also transposed
(R76, R231). A group whose current data lie in a Rebake slot is read from there (R136), and the groups whose data move are fed on (R137).
Their tokens carry the offsets of their descriptors.

GATHER reads K 32-byte sectors at each index of its list, in order, into its destination, allocates no Pantry line for them, and counts
accesses to device memory on the narrow random path (R234, R275, R298).

SEND makes a message of its operand's bytes under the next message number, to the device, context, virtual core and address that its
second source names; its flits go to the links on the VC that it names, or it is delivered at once where it is for the own device; and it
holds its completion for SEND_ACK (R234, R334). -/
def Obligations.DmaOperationsComplete : Prop :=
  (∀ (s s1 : State) (v : VRef) (x : Vcore) (o : UOp) (n hint : Nat) (src dst : Opnd) (ps : List (Opnd × Opnd)) (rs : List Run)
    (fs : List Feed), n = ctxPart s v.ctx → hint = immBits o.word 1 0 → MoveOk src dst → ps = moveParts s src dst →
    rs = ps.flatMap (fun p => p.1.runs) → checkRuns s n (unitView x o) src.dev rs = .ok () →
    checkRuns s n (unitView x o) dst.dev dst.runs = .ok () → s1 = findRuns s (some v.ctx) src.dev (hintOf s hint % 2 == 0) rs →
    fs = ps.flatMap (fun p => feedsAt v dst.dev p.2.runs (feedsOn s v src.dev p.1.runs)) →
    (OpStarted s v x 0x10 o → mkOpnd s n (unitView x o) (arg1 o) true o.ix (ixAxis o) = .ok src →
      mkOpnd s n (unitView x o) (arg2 o) false 0 false = .ok dst →
      exec (.load v) s = .next (landOp s v x n 0x10 o {
        st := spWriteAll (pantryRead s1 hint src.dev false rs) v hint dst.dev (ps.flatMap (fun p =>
          if src.trans then transposeRuns (rdOf s1 (unitView x o) src.dev) p.1 p.2 else moveRuns (rdOf s1 (unitView x o) src.dev) p.1 p.2)),
        d1 := some (dataTok (arg2 o)), outs := dst.outs, feeds := fs })) ∧
    (OpStarted s v x 0x12 o → mkOpnd s n (unitView x o) (arg1 o) false 0 false = .ok src →
      mkOpnd s n (unitView x o) (arg2 o) false o.ix (ixAxis o) = .ok dst → src.trans = false →
      exec (.store v) s = .next (landOp s v x n 0x12 o {
        st := spWriteAll (pantryRead s1 hint src.dev false rs) v hint dst.dev
          (ps.flatMap (fun p => moveRuns (rdOf s1 (unitView x o) src.dev) p.1 p.2)),
        d1 := some (dataTok (arg2 o)), d2 := some (dataTok (arg1 o)), outs := dst.outs, feeds := fs })) ∧
    (ps = [(src, dst)] → rs = src.runs)) ∧
  (∀ (s s1 s2 s3 : State) (v : VRef) (x : Vcore) (o : UOp) (n k cnt hint : Nat) (list table dst : Opnd) (words rows : List Run)
    (idx : List Nat), OpStarted s v x 0x11 o → n = ctxPart s v.ctx → k = immBits o.word 7 2 → k ≠ 0 → hint = immBits o.word 1 0 →
    mkOpnd s n (unitView x o) (arg1 o) false 0 false = .ok list → mkOpnd s n (unitView x o) (arg2 o) false o.ix (ixAxis o) = .ok table →
    mkOpnd s n (unitView x o) (arg3 o) false 0 false = .ok dst → table.fmt = dst.fmt → table.sq = dst.sq → table.uni = dst.uni →
    cnt = list.rows * list.cols → words = (List.range cnt).map (fun i => (wordAddr list i, 4)) →
    checkRuns s n (unitView x o) list.dev words = .ok () → s1 = discoverRuns s (some v.ctx) list.dev words →
    runsPoison (rdOf s1 (unitView x o) list.dev) words = none → idx = words.map (fun r => rdNat (rdOf s1 (unitView x o) list.dev) r.1 4) →
    (∀ i ∈ idx, i < table.rows) → rows = idx.map (fun i => (table.data + i * k * 32, k * 32)) →
    checkRuns s n (unitView x o) table.dev rows = .ok () → checkRuns s n (unitView x o) dst.dev [(dst.data, cnt * k * 32)] = .ok () →
    s2 = findRuns s1 (some v.ctx) table.dev false rows → s3 = pantryRead s2 hint table.dev true rows →
    exec (.gather v) s = .next (landOp s v x n 0x11 o {
      st := spWrite (if table.dev then countNarrow s3 n (cnt * k) else s3) v hint dst.dev dst.data
        (rows.flatMap (fun r => rdRun (rdOf s2 (unitView x o) table.dev) r.1 r.2)),
      d1 := some (dataTok (arg3 o)), outs := [⟨dst.dev, dst.data, cnt * k * 32⟩],
      feeds := feedsAt v dst.dev [(dst.data, cnt * k * 32)] (feedsOn s v table.dev rows) })) ∧
  (∀ (s s1 : State) (v : VRef) (c : Ctx) (x : Vcore) (o : UOp) (n dst : Nat) (src : Opnd) (bs : List PByte) (m : SendMsg),
    s.ctx? v.ctx = some c → OpStarted s v x 0x13 o → n = ctxPart s v.ctx → mkOpnd s n (unitView x o) (arg1 o) false 0 false = .ok src →
    checkRuns s n (unitView x o) src.dev (sendRuns src) = .ok () → s1 = discoverRuns s (some v.ctx) src.dev (sendRuns src) →
    bs = (sendRuns src).flatMap (fun r => rdRun (rdOf s1 (unitView x o) src.dev) r.1 r.2) → dst = fld o.s2 11 0 →
    m = { src := s.devId, vch := immBits o.word 1 0, ctx := fld o.s2 17 12, vc := fld o.s2 25 18, job := c.job.toNat, addr := fld o.s2 57 26,
          tag := immBits o.word 23 8, msgid := s.fab.nextMsg.toNat, data := bs.map Prod.fst, poison := msgPoison bs } →
    exec (.send v) s = .next (settle (landOp s v x n 0x13 o {
      st := sendMessage (s1.modFab (fun f => { f with
        nextMsg := s.fab.nextMsg + 1, sends := f.sends ++ [⟨s.fab.nextMsg.toNat, v, o.id, s.now, dst⟩] })) dst m bs,
      d1 := some (dataTok (arg1 o)), held := true, msg := s.fab.nextMsg.toNat })))

/-! ### Arrays -/

/-- ZERO empties its buffer (R88). ACC adds the exact products of its operands into a buffer that accepts them, or in T3 mode their FP32
sums (R83, R88, R103); its D1 names the buffer and D2 the second descriptor.

TWIN feeds dY and W to array A and X and the transposed dY to array B, each into its own buffer, and each token carries the mark of its
own buffer (R96, R97, R235).

EXPORT writes the exact record of its buffer into the window once the verdicts of the groups that feed it are final, IMPORT adds a record
into its buffer, and SWAP does both, reading the new record before the old one is written (R92, R137). With Z the buffer is zeroed first
(R234). -/
def Obligations.ArrayOperationsComplete : Prop :=
  (∀ (s : State) (v : VRef) (x : Vcore) (o : UOp) (n : Nat), n = ctxPart s v.ctx →
    (OpStarted s v x 0x20 o → t3Barred s x o = false →
      exec (.zero v) s = .next (landOp s v x n 0x20 o { st := putLacc s v (zeroBuf x.lacc (arrOf o) (bufOf o)) })) ∧
    (∀ (oa ob : Opnd) (a b : ArrOp) (na nb : Bool) (l0 : LaccSet), OpStarted s v x 0x21 o →
      arrOperand s v n (unitView x o) (t3Of o) (arg1 o) = .ok (oa, a, na) →
      arrOperand s v n (unitView x o) (t3Of o) (arg2 o) = .ok (ob, b, nb) →
      a.k = b.k → a.rows ≤ 128 → b.rows ≤ 128 → l0 = enterLacc x o →
      (∀ frame paired l, t3Of o = false → pairOf a.fmt b.fmt = some (frame, paired) →
        accumulate s n l0 (arrOf o) (bufOf o) frame paired a b o.susp = .ok l → recheck s x l0 (arrOf o) (bufOf o) = none →
        exec (.acc v) s = .next (landOp s v x n 0x21 o {
          st := nanConsumed (arrFlags (putLacc s v l) x.core v.ctx (a.flags ||| b.flags)) v (na || nb),
          d1 := some (bufTok (bufOf o)), d2 := some (dataTok (arg2 o)), susp := (l.get (bufIdx l (arrOf o) (bufOf o))).susp })) ∧
      (∀ p sc k out fl l, t3Of o = true → a.fmt = b.fmt → (a.fmt = 9 ∨ a.fmt = 10) → (s.core x.core).arrCtl.getLsbD 1 = true →
        (t3LastOf o = true ∨ a.k % 32 = 0) → (l0.get (bufIdx l0 (arrOf o) (bufOf o))).closed = false →
        acceptBuf l0 (arrOf o) (bufOf o) 0 false true a.rows b.rows = .ok p → captureScales (l0.get p) a.rho b.rho = .ok sc →
        countProducts (l0.get p) a.k = .ok k → t3Accumulate (l0.get p) a b k (t3LastOf o) = (out, fl) →
        l = l0.set p (fedBy s n { out with scales := sc, susp := (l0.get p).susp || o.susp } (a.feeds ++ b.feeds)) →
        exec (.acc v) s = .next (landOp s v x n 0x21 o {
          st := nanConsumed (arrFlags (putLacc s v l) x.core v.ctx (a.flags ||| b.flags ||| fl)) v (na || nb),
          d1 := some (bufTok (bufOf o)), d2 := some (dataTok (arg2 o)), susp := (l.get p).susp })))) ∧
  (∀ (s : State) (v : VRef) (x : Vcore) (o : UOp) (n i j : Nat) (oy ow ox : Opnd) (dy w xt : ArrOp) (ny nw nx : Bool) (fa fb : Int)
    (l0 l1 l2 : LaccSet), OpStarted s v x 0x22 o → n = ctxPart s v.ctx → i = immBits o.word 2 2 → j = immBits o.word 5 5 →
    arrOperand s v n (unitView x o) false (arg1 o) = .ok (oy, dy, ny) → arrOperand s v n (unitView x o) false (arg2 o) = .ok (ow, w, nw) →
    arrOperand s v n (unitView x o) false (arg3 o) = .ok (ox, xt, nx) → (s.core x.core).arrCtl.getLsbD 2 = true → t3Of o = false →
    oy.sq = true → oy.uni = true → w.k = dy.k → xt.k = dy.rows → dy.rows ≤ 128 → dy.k ≤ 128 → w.rows ≤ 128 → xt.rows ≤ 128 →
    l0 = (if zOf o then zeroBuf (zeroBuf x.lacc 0 i) 1 j else x.lacc) →
    recheck s x l0 0 i = none → recheck s x l0 1 j = none →
    pairOf dy.fmt w.fmt = some (fa, false) → pairOf xt.fmt dy.fmt = some (fb, false) →
    accumulate s n l0 0 i fa false dy w o.susp = .ok l1 → accumulate s n l1 1 j fb false xt dy.swap o.susp = .ok l2 →
    exec (.twin v) s = .next (landOp s v x n 0x22 o {
      st := nanConsumed (arrFlags (putLacc s v l2) x.core v.ctx (dy.flags ||| w.flags ||| xt.flags)) v (ny || nw || nx),
      d1 := some { bufTok i with susp := (l2.get (bufIdx l2 0 i)).susp }, d2 := some { bufTok j with susp := (l2.get (bufIdx l2 1 j)).susp } })) ∧
  (∀ (s : State) (v : VRef) (x : Vcore) (o : UOp) (n : Nat) (l0 : LaccSet), n = ctxPart s v.ctx → t3Barred s x o = false →
    l0 = enterLacc x o → recheck s x l0 (arrOf o) (bufOf o) = none →
    (∀ b off, OpStarted s v x 0x24 o → leavingBuf s n l0 o = .ok b → off = arg1 o + o.ix * elemBytes b.paired →
      off + (recBytes b).length ≤ x.winSize →
      exec (.export_ v) s = .next (landOp s v x n 0x24 o {
        st := spWrite (putLacc s v l0) v 0 false off (clean (recBytes b)), d1 := some (dataTok off),
        outs := [⟨false, off, (recBytes b).length⟩], susp := b.susp, resid := b.resid,
        feeds := feedsAt v false [(off, (recBytes b).length)] b.feeds, aux := groupBytes s b.feeds, run := [v.vc, off] })) ∧
    (∀ r nan l, OpStarted s v x 0x25 o → readRecord s v n (unitView x o) (arg1 o) = .ok (r, nan) →
      importRec l0 (arrOf o) (bufOf o) { r with susp := r.susp || o.susp } = .ok l →
      exec (.import_ v) s = .next (landOp s v x n 0x25 o {
        st := nanConsumed (arrFlags (putLacc s v l) x.core v.ctx (if nan then fNV else 0#4)) v nan,
        d1 := some (bufTok (bufOf o)), d2 := some (dataTok (arg1 o)), susp := (l.get (bufIdx l (arrOf o) (bufOf o))).susp })) ∧
    (∀ b r nan l, OpStarted s v x 0x26 o →
      b = { l0.get (bufIdx l0 (arrOf o) (bufOf o)) with susp := (l0.get (bufIdx l0 (arrOf o) (bufOf o))).susp || o.susp } →
      arg1 o + (recBytes b).length ≤ x.winSize → readRecord s v n (unitView x o) (arg2 o) = .ok (r, nan) →
      importRec (zeroBuf x.lacc (arrOf o) (bufOf o)) (arrOf o) (bufOf o) { r with susp := r.susp || o.susp } = .ok l →
      exec (.swap v) s = .next (landOp s v x n 0x26 o {
        st := nanConsumed (arrFlags (putLacc (spWrite s v 0 false (arg1 o) (clean (recBytes b))) v l) x.core v.ctx
          (if nan then fNV else 0#4)) v nan,
        d1 := some (dataTok (arg1 o)), d2 := some (dataTok (arg2 o)), outs := [⟨false, arg1 o, (recBytes b).length⟩],
        susp := b.susp, resid := b.resid, feeds := feedsAt v false [(arg1 o, (recBytes b).length)] b.feeds,
        aux := groupBytes s b.feeds, run := [v.vc, arg1 o] })))

/-- Accumulation is exact whatever the order and the split into operations (R83, R89): while the sums of the magnitudes fit the element, an
element that took any number of entries holds the exact integer sum of them all.

A NaN term makes the element NaN for good, whatever enters before or after it (R87). -/
def Obligations.AccumulationIsExact : Prop :=
  (∀ (paired : Bool) (start : Int) (ts us : List Int), ts.Perm us → (start :: ts).foldl (fun a t => a + t.natAbs) 0 < 2 ^ (8 * elemBytes paired - 1) →
    ts.foldl (fun e t => addElem paired e (some t)) (some start) = some (start + us.sum)) ∧
  (∀ (paired : Bool) (e : Option Int) (ts : List (Option Int)), (e = none ∨ none ∈ ts) → ts.foldl (addElem paired) e = none)

/-- An EXPORT and an IMPORT into an empty buffer lose nothing (R92): the record of a buffer whose elements fit, with the residues of its
elements (R100), parses to the same data, frame, formats, shape, mode, count, elements and residues. -/
def Obligations.RecordRoundTrip : Prop :=
  ∀ b : Lacc, b.data = true → b.t3 = false → b.scales = none → b.resid = false → b.feeds = [] → setRes b = b → -(2 : Int) ^ 15 ≤ b.frame →
    b.frame < 2 ^ 15 → b.fmtA < 16 →
    b.fmtB < 16 → 1 ≤ b.m → b.m ≤ 128 → 1 ≤ b.n → b.n ≤ 128 → b.kcount ≤ 1048576 → b.elems.length = b.m * b.n →
    (∀ e ∈ b.elems, ∀ k, e = some k → -(2 : Int) ^ (8 * elemBytes b.paired - 1) < k ∧ k < 2 ^ (8 * elemBytes b.paired - 1)) →
    recParse (recHeader b) ((clean (recBytes b)).drop 16) = b ∧ recLen (recHeader b) = (recBytes b).length ∧
    bytesToNat ((recBytes b).take 16) = recHeader b

/-- A LACC buffer counts its products since its last ZERO, an imported partial adds its own count, and what would raise the count above
1,048,576 is refused with event 0x1004, the buffer keeping its contents and its count (R86). -/
def Obligations.ProductCountIsLimited : Prop :=
  (∀ (l : LaccSet) (arr i : Nat), arr < 2 → i < 2 → ((zeroBuf l arr i).get (bufIdx l arr i)).kcount = 0) ∧
  (∀ (s : State) (n : Nat) (l m : LaccSet) (arr i p : Nat) (frame : Int) (paired susp : Bool) (a b : ArrOp), arr < 2 → i < 2 →
    acceptBuf l arr i frame paired false a.rows b.rows = .ok p → accumulate s n l arr i frame paired a b susp = .ok m →
    (m.get p).kcount = (l.get p).kcount + a.k ∧ (m.get p).kcount ≤ 1048576 ∧ ∀ q < 4, q ≠ p → m.get q = l.get q) ∧
  (∀ (l m : LaccSet) (arr i p : Nat) (r : Lacc), arr < 2 → i < 2 → r.data = true →
    acceptBuf l arr i r.frame r.paired r.t3 r.m r.n = .ok p → importRec l arr i r = .ok m →
    (m.get p).kcount = (l.get p).kcount + r.kcount ∧ (m.get p).kcount ≤ 1048576 ∧ ∀ q < 4, q ≠ p → m.get q = l.get q) ∧
  (∀ (s : State) (v : VRef) (x : Vcore) (o : UOp) (oa ob : Opnd) (a b : ArrOp) (na nb : Bool) (frame : Int) (paired : Bool) (p : Nat)
    (sc : Option (List Word32 × List Word32)), OpStarted s v x 0x21 o → t3Of o = false → zOf o = false →
    arrOperand s v (ctxPart s v.ctx) (unitView x o) false (arg1 o) = .ok (oa, a, na) →
    arrOperand s v (ctxPart s v.ctx) (unitView x o) false (arg2 o) = .ok (ob, b, nb) → a.k = b.k → a.rows ≤ 128 → b.rows ≤ 128 →
    pairOf a.fmt b.fmt = some (frame, paired) → acceptBuf x.lacc (arrOf o) (bufOf o) frame paired false a.rows b.rows = .ok p →
    captureScales (x.lacc.get p) a.rho b.rho = .ok sc → 1048576 < (x.lacc.get p).kcount + a.k →
    ∃ (t : State) (y : Vcore) (e : Event), exec (.acc v) s = .next t ∧ t.vc? v = some y ∧ y.lacc = x.lacc ∧
      t.host.raised = s.host.raised ++ [e] ∧ e.code = 0x1004) ∧
  (∀ (s : State) (v : VRef) (x : Vcore) (o : UOp) (r : Lacc) (nan : Bool) (p : Nat), OpStarted s v x 0x25 o → t3Barred s x o = false → zOf o = false →
    readRecord s v (ctxPart s v.ctx) (unitView x o) (arg1 o) = .ok (r, nan) → r.data = true → (r.t3 = false ∨ (x.lacc.get p).data = false) →
    acceptBuf x.lacc (arrOf o) (bufOf o) r.frame r.paired r.t3 r.m r.n = .ok p → 1048576 < (x.lacc.get p).kcount + r.kcount →
    ∃ (t : State) (y : Vcore) (e : Event), exec (.import_ v) s = .next t ∧ t.vc? v = some y ∧ y.lacc = x.lacc ∧
      t.host.raised = s.host.raised ++ [e] ∧ e.code = 0x1004)

/-! ### Conversion, vector operations and random bits -/

/-- CONVERT passes the exact values of its buffer, zeros for an empty one, once the verdicts of the groups that feed it are final, and CVT
the values of its source, through steps 3 to 8 of a pass under their CVD (R93, R113, R137); a CVT of a format word with an MX type imports or
exports the MX tensor (R70, R71).

VWAIT answers the final verdict of a GSR under its CVD's STEP and ATTEMPT, answers 512 where the record has a later tag, and waits
before either (R236). -/
def Obligations.ConversionAndVerdictWait : Prop :=
  (∀ (s : State) (v : VRef) (x : Vcore) (o : UOp) (n : Nat) (c : BitVec 512) (dst : Opnd), n = ctxPart s v.ctx → dst.fmtw = cvFmtw c →
    (∀ l0 b vals s1 p, OpStarted s v x 0x23 o → t3Barred s x o = false → readCvd (unitView x o) (arg2 o) = .ok c → checkCvd c true = .ok () →
      mkOpnd s n (unitView x o) (arg1 o) false o.ix (ixAxis o) = .ok dst → fmtwMxt (cvFmtw c) = 0 → l0 = enterLacc x o →
      leavingBuf s n l0 o = .ok b → (b.data = true → b.m = dst.rows ∧ b.n = dst.cols) →
      vals = (if b.data then bufferValues b else List.replicate dst.rows (List.replicate dst.cols (FV.num false Q.zero))) →
      passInto (putLacc s v l0) v (unitView x o) n c dst vals b.susp false = .ok (s1, p) → recheck s x l0 (arrOf o) (bufOf o) = none →
      exec (.convert v) s = .next (landOp s v x n 0x23 o {
        st := cvtFlags s1 x.core v.ctx p.fl, d1 := some (bufTok (bufOf o)), outs := p.outs, feeds := p.feeds, groups := p.groups,
        hold := if c.getLsbD 46 then p.groups else [], susp := b.susp, resid := b.resid || o.resid,
        aux := recBytes b ++ groupBytes s b.feeds, run := [v.vc, cvLayer c, dst.row0 / 128, dst.col0 / 128] })) ∧
    (∀ src, OpStarted s v x 0x30 o → readCvd (unitView x o) (arg3 o) = .ok c → checkCvd c false = .ok () →
      mkOpnd s n (unitView x o) (arg1 o) false 0 false = .ok src → mkOpnd s n (unitView x o) (arg2 o) false o.ix (ixAxis o) = .ok dst →
      src.rows = dst.rows → src.cols = dst.cols →
      (∀ s1 fl, fmtwMxt (cvFmtw c) ≠ 0 → cvRot c = 0 →
        (if fmtwExport (cvFmtw c) then mxExportOp s v (unitView x o) n c src dst (rawSbase (unitView x o) (arg2 o))
          else mxImport s v (unitView x o) n c src dst (rawSbase (unitView x o) (arg1 o))) = .ok (s1, fl) →
        exec (.cvt v) s = .next (landOp s v x n 0x30 o {
          st := cvtFlags s1 x.core v.ctx fl, d1 := some (dataTok (arg2 o)), outs := dst.outs, susp := o.susp, resid := o.resid })) ∧
      (∀ nan m rot s1 p, fmtwMxt (cvFmtw c) = 0 → src.dev = false →
        (src.narrow = true → dst.narrow = false ∧ cvRot c = 0) → (src.narrow = false → src.fmt = cvSfmt c) →
        (cvRot c = 0 ∨ padCols dst % (8 * 2 ^ cvRot c) = 0 ∧ dst.col0 % (8 * 2 ^ cvRot c) = 0 ∧
          (dst.cols % (8 * 2 ^ cvRot c) = 0 ∨ dst.col0 + dst.cols = dst.tcols)) →
        checkRuns s n (unitView x o) false src.runs = .ok () → consume (rdOf s (unitView x o) false) false src.runs = .ok nan →
        m = readMat (rdOf s (unitView x o) false) src → rot = m.full.map (rotateRow c dst.col0) →
        passInto s v (unitView x o) n c dst (rot.map Prod.fst) o.susp nan = .ok (s1, p) →
        exec (.cvt v) s = .next (landOp s v x n 0x30 o {
          st := cvtFlags s1 x.core v.ctx (p.fl ||| orFlags (rot.map Prod.snd) ||| m.flags ||| (if nan then fNV else 0#4)),
          d1 := some (dataTok (arg2 o)), outs := p.outs, feeds := p.feeds, groups := p.groups, susp := o.susp, resid := o.resid })))) ∧
  (∀ (s s1 : State) (v : VRef) (x : Vcore) (o : UOp) (n ga g : Nat) (c : BitVec 512), OpStarted s v x 0x31 o → n = ctxPart s v.ctx →
    readCvd (unitView x o) (arg1 o) = .ok c → ga = cvGsr c + 64 * fld o.s2 31 0 → checkRuns s n (unitView x o) true [(ga, 64)] = .ok () →
    s1 = discoverRuns s (some v.ctx) true [(ga, 64)] → readDevCtl s1 n (unitView x o) ga 64 = .ok g →
    (cvStep c * 65536 + cvAttempt c < bits g 63 0 * 65536 + bits g 79 64 →
      exec (.vwait v) s = .next (landOp s v x n 0x31 o { st := s1, d1 := some { val := 512, kind := kVerdict } })) ∧
    (bits g 63 0 = cvStep c → bits g 79 64 = cvAttempt c → bit g 86 = true →
      exec (.vwait v) s = .next (landOp s v x n 0x31 o { st := s1, d1 := some { kind := kVerdict, val := BitVec.ofNat 32 (
        bits g 89 87 + b2n (bit g 90) * 8 + bits g 82 80 * 16 + bits g 84 83 * 128) } })) ∧
    (bits g 63 0 = cvStep c → bits g 79 64 = cvAttempt c → bit g 86 = false → exec (.vwait v) s = .next s) ∧
    (bits g 63 0 * 65536 + bits g 79 64 < cvStep c * 65536 + cvAttempt c → exec (.vwait v) s = .next s))

/-- VOP applies its function to every element of its one, two or three operands, and RAND writes random words (R238).

VRED reduces its operand along rows or columns; VMM multiplies two operands, one fp32_fma for each term in ascending order; VNORM adds the
squares of gm times each element to the partition's norm accumulator (R169, R238). -/
def Obligations.VectorOperationsComplete : Prop :=
  (∀ (s : State) (v : VRef) (x : Vcore) (o : UOp) (n f : Nat) (j : BitVec 512) (a b d : VecOp) (out : Opnd) (res : List (List R32)),
    OpStarted s v x 0x40 o → n = ctxPart s v.ctx → readVjd (unitView x o) (arg1 o) = .ok j → f = immBits o.word 7 0 →
    (vopArity f = some 0 → mkOpnd s n (unitView x o) (fld j 127 96) false 0 false = .ok out → out.fmt = 11 →
      checkRuns s n (unitView x o) out.dev out.runs = .ok () →
      exec (.vop v) s = .next (landOp s v x n 0x40 o (vecDone (countEvals (spWriteAll s v 0 out.dev
        ((List.range out.rows).map (fun r => (out.data + ((out.pr + r) * out.scols + out.pc) * 4, clean ((List.range out.cols).flatMap (fun c =>
          natToBytes 4 (mixWord (vecMix x j (out.index r c / 4)) (out.index r c % 4)).toNat)))))) x (evalsOf out 4)) v x j o out.outs 0#4 false))) ∧
    (∀ k, vopArity f = some k → k ≠ 0 → vecOperand s v n (unitView x o) (fld j 31 0) = .ok a →
      (2 ≤ k → vecOperand a.st v n (unitView x o) (fld j 63 32) = .ok b) → (k < 2 → b = { a with flags := 0#4, nan := false }) →
      (3 ≤ k → vecOperand b.st v n (unitView x o) (fld j 95 64) = .ok d) → (k < 3 → d = { b with flags := 0#4, nan := false }) →
      b.o.rows = a.o.rows → b.o.cols = a.o.cols → d.o.rows = a.o.rows → d.o.cols = a.o.cols →
      vecOut d.st n (unitView x o) j a.o.rows a.o.cols = .ok out →
      res = (List.range a.o.rows).map (fun r => (List.range a.o.cols).map (fun c =>
        vopFn f (BitVec.ofNat 32 (fld j 191 160)) (BitVec.ofNat 32 (fld j 223 192)) (a.at r c) (b.at r c) (d.at r c))) →
      exec (.vop v) s = .next (landOp s v x n 0x40 o (vecDone (vecWrite d.st v (unitView x o) j out (res.map (fun r => r.map Prod.fst))).1
        v x j o out.outs ((vecWrite d.st v (unitView x o) j out (res.map (fun r => r.map Prod.fst))).2 ||| a.flags ||| b.flags ||| d.flags |||
          orFlags (res.map (fun r => orFlags (r.map Prod.snd)))) (a.nan || b.nan || d.nan))))) ∧
  (∀ (s : State) (v : VRef) (x : Vcore) (o : UOp) (n f : Nat) (j : BitVec 512) (a : VecOp),
    n = ctxPart s v.ctx → readVjd (unitView x o) (arg1 o) = .ok j → f = immBits o.word 7 0 →
    vecOperand s v n (unitView x o) (fld j 31 0) = .ok a →
    (∀ out res, OpStarted s v x 0x41 o → f < 4 → j.getLsbD 233 = false → vecOut a.st n (unitView x o) j a.o.rows 1 = .ok out →
      res = a.els.map (fun r => [reduce f r]) →
      exec (.vred v) s = .next (landOp s v x n 0x41 o (vecDone (vecWrite a.st v (unitView x o) j out (res.map (fun r => r.map Prod.fst))).1
        v x j o out.outs ((vecWrite a.st v (unitView x o) j out (res.map (fun r => r.map Prod.fst))).2 ||| a.flags |||
          orFlags (res.map (fun r => orFlags (r.map Prod.snd)))) a.nan))) ∧
    (∀ out res, OpStarted s v x 0x41 o → f < 4 → j.getLsbD 233 = true → vecOut a.st n (unitView x o) j 1 a.o.cols = .ok out →
      res = [(List.range a.o.cols).map (fun c => reduce f ((List.range a.o.rows).map (fun r => a.at r c)))] →
      exec (.vred v) s = .next (landOp s v x n 0x41 o (vecDone (vecWrite a.st v (unitView x o) j out (res.map (fun r => r.map Prod.fst))).1
        v x j o out.outs ((vecWrite a.st v (unitView x o) j out (res.map (fun r => r.map Prod.fst))).2 ||| a.flags |||
          orFlags (res.map (fun r => orFlags (r.map Prod.snd)))) a.nan))) ∧
    (∀ b out res, OpStarted s v x 0x42 o → f = 0 → vecOperand a.st v n (unitView x o) (fld j 63 32) = .ok b → a.o.cols = b.o.rows →
      a.o.cols ≤ 256 → vecOut b.st n (unitView x o) j a.o.rows b.o.cols = .ok out →
      res = (List.range a.o.rows).map (fun r => (List.range b.o.cols).map (fun c => (List.range a.o.cols).foldl (fun (acc : R32) k =>
        ((fp32Fma (a.at r k) (b.at k c) acc.1).1, acc.2 ||| (fp32Fma (a.at r k) (b.at k c) acc.1).2)) (0#32, 0#4))) →
      exec (.vmm v) s = .next (landOp s v x n 0x42 o (vecDone (vecWrite b.st v (unitView x o) j out (res.map (fun r => r.map Prod.fst))).1
        v x j o out.outs ((vecWrite b.st v (unitView x o) j out (res.map (fun r => r.map Prod.fst))).2 ||| a.flags ||| b.flags |||
          orFlags (res.map (fun r => orFlags (r.map Prod.snd)))) (a.nan || b.nan)))) ∧
    (OpStarted s v x 0x43 o → f = 0 →
      exec (.vnorm v) s = .next (landOp s v x n 0x43 o (vecDone
        (a.st.modCmt n (fun c => (a.els.flatten.map (fun w => fp32Mul w (gmOf s n (fld j 249 234)).1)).foldl
          (fun c g => normTerm c (dec32 g.1)) c))
        v x j o [] (a.flags ||| (gmOf s n (fld j 249 234)).2 |||
          orFlags ((a.els.flatten.map (fun w => fp32Mul w (gmOf s n (fld j 249 234)).1)).map Prod.snd)) a.nan))))

/-- DROP zeroes the elements whose random byte falls below D and scales the others by 256 / (256 − D) (R201, R202); INIT fills its output by its
function (R205); SAMPLE writes one token for each row, 0xFFFFFFFF with event 0x1301 where a row has none (R207 to R209). -/
def Obligations.DropInitSampleComplete : Prop :=
  ∀ (s : State) (v : VRef) (x : Vcore) (o : UOp) (n f : Nat) (j : BitVec 512) (a : VecOp) (out : Opnd),
    n = ctxPart s v.ctx → readVjd (unitView x o) (arg1 o) = .ok j → f = immBits o.word 7 0 →
    (∀ d ks one res, OpStarted s v x 0x44 o → f = 0 → vecOperand s v n (unitView x o) (fld j 31 0) = .ok a → a.o.narrow = false →
      vecOut a.st n (unitView x o) j a.o.rows a.o.cols = .ok out → d = fld j 231 224 →
      ks = (fp32Div 0x43800000#32 (enc32 (FV.ofQ (Q.ofInt ((256 - d : Nat) : Int)))).1).1 →
      one = (fun (w : Word32) (i : Nat) =>
        if (dec32 w).isNan || d = 0 then (w, 0#4)
        else if mixByte (vecMix x j (i / 16)) (i % 16) < d then (0#32, 0#4)
        else ((enc32 (fpDecode (fpOf a.o.fmt) (fpEncode (fpOf a.o.fmt) .rne ((dec32 w).mul (dec32 ks)).1).1)).1,
          (fpEncode (fpOf a.o.fmt) .rne ((dec32 w).mul (dec32 ks)).1).2)) →
      res = (List.range a.o.rows).map (fun r => (List.range a.o.cols).map (fun c => one (a.at r c) (a.o.index r c))) →
      exec (.drop v) s = .next (landOp s v x n 0x44 o (vecDone
        (countEvals (vecWrite a.st v (unitView x o) j out (res.map (fun r => r.map Prod.fst))).1 x (if d = 0 then 0 else evalsOf a.o 16))
        v x j o out.outs ((vecWrite a.st v (unitView x o) j out (res.map (fun r => r.map Prod.fst))).2 ||| a.flags |||
          orFlags (res.map (fun r => orFlags (r.map Prod.snd)))) a.nan))) ∧
    (∀ res, OpStarted s v x 0x45 o → f < 3 → mkOpnd s n (unitView x o) (fld j 127 96) false 0 false = .ok out → out.narrow = false →
      checkRuns s n (unitView x o) out.dev out.runs = .ok () →
      res = (List.range out.rows).map (fun r => (List.range out.cols).map (fun c => initElem x j f (out.index r c))) →
      exec (.init v) s = .next (landOp s v x n 0x45 o (vecDone
        (countEvals (vecWrite s v (unitView x o) j out (res.map (fun r => r.map Prod.fst))).1 x (evalsOf out (if f = 2 then 128 else 4)))
        v x j o out.outs ((vecWrite s v (unitView x o) j out (res.map (fun r => r.map Prod.fst))).2 |||
          orFlags (res.map (fun r => orFlags (r.map Prod.snd)))) false))) ∧
    (∀ base mask toks, OpStarted s v x 0x46 o → f = 0 → fld j 191 160 = 0 → vecOperand s v n (unitView x o) (fld j 31 0) = .ok a →
      (a.o.fmt = 9 ∨ a.o.fmt = 11) → mkOpnd s n (unitView x o) (fld j 127 96) false 0 false (some 11) = .ok out →
      base = out.data + (out.pr * out.scols + out.pc) * 4 → checkRuns s n (unitView x o) out.dev [(base, 4 * a.o.rows)] = .ok () →
      readCtl (unitView x o) (fld j 287 256) ((a.o.cols + 7) / 8) = .ok mask →
      toks = (List.range a.o.rows).map (fun r => chooseToken (((List.range a.o.cols).filter (fun c => bit mask c)).map (fun c => (c, a.at r c)))) →
      exec (.sample v) s = .next (landOp s v x n 0x46 o (vecDone
        (countEvals (toks.foldl (fun t k => if k.isNone then raiseCtx t 0x1301 v.ctx (data1 0 0 0 x.core (curStep t n)) else t)
            (spWrite a.st v 0 out.dev base (clean (toks.flatMap (fun t => natToBytes 4 (t.getD 0xFFFFFFFF)))))) x 0)
        v x j o [⟨out.dev, base, 4 * a.o.rows⟩] a.flags a.nan))) ∧
    (∀ base mask sa rt cand toks, OpStarted s v x 0x46 o → f = 0 → sa = BitVec.ofNat 32 (fld j 191 160) → sa ≠ 0 →
      (∃ m, dec32 sa = .num false m ∧ (pow2 (-16)).le m = true) → vecOperand s v n (unitView x o) (fld j 31 0) = .ok a →
      (a.o.fmt = 9 ∨ a.o.fmt = 11) → mkOpnd s n (unitView x o) (fld j 127 96) false 0 false (some 11) = .ok out →
      base = out.data + (out.pr * out.scols + out.pc) * 4 → checkRuns s n (unitView x o) out.dev [(base, 4 * a.o.rows)] = .ok () →
      readCtl (unitView x o) (fld j 287 256) ((a.o.cols + 7) / 8) = .ok mask → rt = fp32Div 0x3F800000#32 sa →
      cand = (List.range a.o.rows).map (fun r => ((List.range a.o.cols).filter (fun c => bit mask c)).map (fun c =>
        (c, gumbel (unitView x o) j rt.1 (a.at r c) (a.o.index r c)))) →
      toks = cand.map (fun l => chooseToken (l.map (fun p => (p.1, p.2.1)))) →
      exec (.sample v) s = .next (landOp s v x n 0x46 o (vecDone
          (countEvals (toks.foldl (fun t k => if k.isNone then raiseCtx t 0x1301 v.ctx (data1 0 0 0 x.core (curStep t n)) else t)
            (spWrite a.st v 0 out.dev base (clean (toks.flatMap (fun t => natToBytes 4 (t.getD 0xFFFFFFFF)))))) x
            (cand.mapIdx (fun r l => l.map (fun p => a.o.index r p.1 / 4))).flatten.eraseDups.length)
          v x j o [⟨out.dev, base, 4 * a.o.rows⟩] (orFlags (cand.map (fun l => orFlags (l.map (fun p => p.2.2)))) ||| rt.2 ||| a.flags) a.nan)))

/-- The uniform variate of a 32-bit word is (⌊w/2⁹⌋ + 0.5) × 2⁻²³, exact in FP32, between 2⁻²⁴ and 1 − 2⁻²⁴ (R203).

The bits that stochastic rounding draws (R199): SR4 takes the element's nibble, SR3 its bits [3:1], and so the two agree in their three
high bits. -/
def Obligations.RandomPartsAndVariate : Prop :=
  (∀ w : Word32, ∃ m : Q, dec32 (variate w) = .num false m ∧
    m.eq (((Q.ofInt ((w.toNat / 512 : Nat) : Int)).add ⟨1, 2⟩).scale (-23)) = true ∧
    (pow2 (-24)).le m = true ∧ m.le (Q.one.sub (pow2 (-24))) = true) ∧
  (∀ (seed step : Word64) (stream : Word32) (i : Nat),
    rndOf 1 seed stream step i = .sr 4 (mixNibble (mix seed stream (BitVec.ofNat 64 (i / 32)) step) (i % 32)) ∧
    rndOf 2 seed stream step i = .sr 3 (bits (mixNibble (mix seed stream (BitVec.ofNat 64 (i / 32)) step) (i % 32)) 3 1) ∧
    mixNibble (mix seed stream (BitVec.ofNat 64 (i / 32)) step) (i % 32) < 16 ∧
    mixNibble (mix seed stream (BitVec.ofNat 64 (i / 32)) step) (i % 32) / 2 =
      bits (mixNibble (mix seed stream (BitVec.ofNat 64 (i / 32)) step) (i % 32)) 3 1)

/-- COLL enters its collective, held until that is over (R338 to R341): in a reduction each rank's segment of the source goes to its owner, in
a gather or broadcast the sender's elements go to every rank, and in a norm collective this rank's partial norm. A rank behind another member
of the same partition sends a zero norm, so that the partition counts once (R170). After the deadline the own contribution to a reduction is a
straggler (R182). Contributions that came before are taken, and the collective makes what progress it can. -/
def Obligations.CollEntersItsCollective : Prop :=
  ∀ (s : State) (v : VRef) (x : Vcore) (o : UOp) (n dn rank w : Nat) (d : BitVec 512) (g : CGroup) (c0 c1 : Coll),
    OpStarted s v x 0x14 o → n = ctxPart s v.ctx → readCtl (unitView x o) (arg1 o) 64 = .ok dn → d = BitVec.ofNat 512 dn →
    tget s.fab.groups (clGroup d) = some g → rankOf g s.devId v = some rank → collBad d g.members.length = false → g.clearing = none →
    (∀ c ∈ s.fab.colls, c.v ≠ v) →
    c0 = { v := v, op := o.id, group := clGroup d, desc := d, step := curStep s n, attempt := (s.cmt n).attempt, rank := rank,
           size := (match clDt d with | 0 => 4 | 1 => 2 | _ => 1) } →
    (∀ q, clOp d = 4 → 2 ≤ g.members.length → s.fab.earlySums = [] →
      q = (if ∀ m ∈ g.members.take rank, m.1 = s.devId → ctxPart s m.2.1 ≠ n then ((s.cmt n).accT, (s.cmt n).accNf || lossBad s n, (s.cmt n).accOv)
        else (0, false, false)) →
      exec (.coll v) s = .next (driveColl (landOp s v x n 0x14 o {
        st := takeEarly (s.emit (.normsum {
          group := clGroup d, rank := rank, step := curStep s n, attempt := (s.cmt n).attempt, t := q.1, nonfin := q.2.1, ovr := q.2.2 })) n
          { c0 with sums := [(rank, q)] },
        d1 := some (dataTok (clDst d)), held := true }) v o.id)) ∧
    (∀ src dst runs s1 s2 (seg : Nat → Nat × Nat) (bytes : Nat → Nat → List PByte), clOp d ≠ 4 →
      mkOpnd s n (unitView x o) (clDst d) false 0 false = .ok dst → mkOpnd s n (unitView x o) (clSrc d) false 0 false = .ok src →
      (clDt d = 2 → checkRuns s n (unitView x o) src.dev [(src.data, 16)] = .ok ()) →
      w = (if clDt d = 2 then recLen (rdNat (rdOf s (unitView x o) src.dev) src.data 16) else c0.size) → c1 = { c0 with size := w } →
      runs = collRuns src (clDt d) w 0 (clCount d) →
      (clOp d ≠ 3 ∨ rank = clRoot d → checkRuns s n (unitView x o) src.dev runs = .ok () ∧ s1 = discoverRuns s (some v.ctx) src.dev runs) →
      (clOp d = 3 → rank ≠ clRoot d → s1 = s) →
      (clDt d = 2 → recordsAgree (runs.map (fun r => rdNat (rdOf s1 (unitView x o) src.dev) r.1 16)) = true) →
      seg = segRange g.members.length (clCount d) →
      bytes = (fun lo k => ((runs.drop lo).take k).flatMap (fun r => rdRun (rdOf s1 (unitView x o) src.dev) r.1 r.2)) →
      checkRuns s1 n (unitView x o) dst.dev (collRuns dst (clDt d) w 0
        (if clOp d = 2 then g.members.length * clCount d else if clOp d = 1 then (seg rank).2 else clCount d)) = .ok () →
      (clOp d < 2 → s2 = sendRanks s1 g.members rank (fun r => (seg r).2 != 0) (fun r => collMsg c1 r false (packMsg (bytes (seg r).1 (seg r).2))) →
        (inTime s2 n c1 s.now = true → exec (.coll v) s = .next (driveColl (landOp s v x n 0x14 o {
          st := takeEarly s2 n { c1 with contrib := [(rank, packMsg (bytes (seg rank).1 (seg rank).2))] },
          d1 := some (dataTok (clDst d)), held := true }) v o.id)) ∧
        (inTime s2 n c1 s.now = false → exec (.coll v) s = .next (driveColl (landOp s v x n 0x14 o {
          st := takeEarly (lateMsg s2 v (collMsg c1 rank false (packMsg (bytes (seg rank).1 (seg rank).2)))) n c1,
          d1 := some (dataTok (clDst d)), held := true }) v o.id))) ∧
      (clOp d = 2 ∨ clOp d = 3 ∧ rank = clRoot d →
        exec (.coll v) s = .next (driveColl (landOp s v x n 0x14 o {
          st := takeEarly (sendRanks s1 g.members rank (fun _ => true) (fun _ => collMsg c1 rank true (packMsg (bytes 0 (clCount d))))) n
            { c1 with segs := [(rank, packMsg (bytes 0 (clCount d)))] },
          d1 := some (dataTok (clDst d)), held := true }) v o.id)) ∧
      (clOp d = 3 → rank ≠ clRoot d →
        exec (.coll v) s = .next (driveColl (landOp s v x n 0x14 o {
          st := takeEarly s n c1, d1 := some (dataTok (clDst d)), held := true }) v o.id)))

/-! ### Verdicts and telemetry -/

/-- GSR_TAGGED_UPDATE and TSR_TAGGED_MAX land the oldest contribution whose region is not being cleared (R122, R127). A contribution older
than its record's tag, or under an old level of its tensor (R139), is discarded; the one that brings COVER to the group's padded count closes
the group, which then awaits its verdict. -/
def Obligations.ContributionsLandUnderTheirTag : Prop :=
  (∀ (s s1 : State) (m : GsrMsg), s.gsrq.find? (fun m => !passOpen s m && !accessWaits s m.gsr 64) = some m →
    s1 = demand { s with gsrq := s.gsrq.erase m } (some m.v.ctx) m.gsr 64 →
    (cvKey m.cvd < gsrKey (devNat s1 m.gsr 64) → exec .gsrTaggedUpdate s = .next s1) ∧
    (oldLevel s1 m.cvd = true → exec .gsrTaggedUpdate s = .next s1) ∧
    (∀ g, oldLevel s1 m.cvd = false → gsrOpen (devNat s1 m.gsr 64) m.cvd m.thr = some g → bits (gsrAdd g m) 159 128 < m.total →
      exec .gsrTaggedUpdate s = .next (homeWrite s1 m.gsr (natToBytes 64 (gsrAdd g m)))) ∧
    (∀ g, oldLevel s1 m.cvd = false → gsrOpen (devNat s1 m.gsr 64) m.cvd m.thr = some g → m.total ≤ bits (gsrAdd g m) 159 128 →
      bit (gsrAdd g m) 85 = false →
      ∃ t, exec .gsrTaggedUpdate s = .next t ∧ t.gsrq = s.gsrq.erase m ∧
        t.verdicts = s.verdicts ++ [{ v := m.v, gsr := m.gsr, cvd := m.cvd, group := m.group, cap := m.cap }] ∧
        (cvHasTsr m.cvd = false → t.mem = (homeWrite s1 m.gsr (natToBytes 64 (setBits (gsrAdd g m) 85 85 1))).mem))) ∧
  (∀ (s s1 : State) (m : TsrMsg) (a x : Nat), s.tsrq.find? (fun m => !accessWaits s m.tsr 320) = some m →
    a = m.tsr + 64 + 16 * (m.step.toNat % 16) → s1 = demand { s with tsrq := s.tsrq.erase m } (some m.v.ctx) a 16 →
    (bits (devNat s1 a 16) 63 0 = m.step.toNat → bits (devNat s1 a 16) 111 96 = m.attempt.toNat →
      x = maxNan (bits (devNat s1 a 16) 95 64) m.gmax.toNat →
      exec .tsrTaggedMax s = .next (homeWrite s1 a (natToBytes 16 (setBits (setBits (setBits (devNat s1 a 16)
        63 0 m.step.toNat) 95 64 x) 111 96 m.attempt.toNat)))) ∧
    ((bits (devNat s1 a 16) 63 0 ≠ m.step.toNat ∨ bits (devNat s1 a 16) 111 96 ≠ m.attempt.toNat) →
      exec .tsrTaggedMax s = .next (homeWrite s1 a (natToBytes 16 (setBits (setBits (setBits (devNat s1 a 16)
        63 0 m.step.toNat) 95 64 m.gmax.toNat) 111 96 m.attempt.toNat))))) ∧
  (∀ (s : State), s.gsrq = [] → exec .gsrTaggedUpdate s = .next s) ∧ (∀ (s : State), s.tsrq = [] → exec .tsrTaggedMax s = .next s)

/-- GROUP_VERDICT judges the oldest closed group whose verdict can be formed (R133): a group of a superseded tag is dropped, and otherwise its
verdict becomes final: written into the record, counted for its core, and reported by its events. A verdict formed from poison is consumed by
its context (R289); one that waits for its tensor raises its events now.

The verdict of a group (R133): ACCEPT where it has no NaN block and neither limit is passed; CEILING with the limit's events where
rebaking is off; otherwise, with a limit passed, one of the rescaling and widening verdicts. -/
def Obligations.GroupVerdictsBecomeFinal : Prop :=
  (∀ (s s1 : State) (m : VerdictMsg) (r : List VerdictMsg) (x : Vcore) (n acc : Nat), s.verdicts = m :: r → s.vc? m.v = some x →
    n = ctxPart s m.v.ctx → acc = (s.part n).tel.accBase.toNat + 64 * (16 * cvLayer m.cvd + cvFmt m.cvd) → accessWaits s acc 64 = false →
    (∀ a ∈ verdictRuns m.cvd m.gsr, accessWaits s a.1 a.2 = false) → s1 = discoverRuns s (some m.v.ctx) true (verdictRuns m.cvd m.gsr) →
    (gsrKey (devNat s m.gsr 64) ≠ cvKey m.cvd → exec .groupVerdict s = .next { s with verdicts := r }) ∧
    (gsrKey (devNat s m.gsr 64) = cvKey m.cvd → bit (devNat s m.gsr 64) 86 = false →
      (∀ p, runsPoison (rdOf s1 x true) (verdictRuns m.cvd m.gsr) = some p →
        exec .groupVerdict s = .next { poisonCtx s1 m.v.ctx (if p = .nan then .context else p)
          (firstPoison (rdOf s1 x true) (verdictRuns m.cvd m.gsr)) with verdicts := r }) ∧
      (runsPoison (rdOf s1 x true) (verdictRuns m.cvd m.gsr) = none →
        (∀ v ev, verdictOf (devNat s m.gsr 64) (devNat s1 (cvTsr m.cvd) 320) m.cvd ((s1.part n).active.numThr.getLsbD 48) m.cap = some (v, ev) →
          (v ≠ 2 ∨ ∀ t ∈ s1.tsrq, t.tsr = cvTsr m.cvd → t.step.toNat ≠ cvStep m.cvd) →
          exec .groupVerdict s = .next { finalVerdict s1 m x v ev with verdicts := r } ∧
          ((finalVerdict s1 m x v ev).core x.core).lastv = some (BitVec.ofNat 3 v) ∧
          (v ≠ 5 → bit (devNat s m.gsr 64) 90 = false → (finalVerdict s1 m x v ev).ctxs = s.ctxs) ∧
          (finalVerdict s1 m x v ev).fab = s.fab) ∧
        (verdictOf (devNat s m.gsr 64) (devNat s1 (cvTsr m.cvd) 320) m.cvd ((s1.part n).active.numThr.getLsbD 48) m.cap = none →
          m.raised = false → exec .groupVerdict s = .next { raiseEarly s m with verdicts := { m with raised := true } :: r })))) ∧
  (∀ (g t : Nat) (c : BitVec 512) (rb : Bool) (cap : Nat) (clip van : Bool), bits g 415 384 ≤ cap → bits g 383 352 = 0 →
    clip = (decide (0 < bits g 351 320) || decide (bits g 463 448 * bits g 191 160 < bits g 223 192 * 65536)) →
    van = decide (bits g 479 464 * bits g 287 256 < bits g 319 288 * 65536) →
    (clip = false → van = false → verdictOf g t c rb cap = some (0, [])) ∧
    (clip || van → rb = false → verdictOf g t c rb cap =
      some (5, (if clip then [0x1101] else []) ++ (if van then [0x1102] else []))) ∧
    (clip = true → van = false → rb = true → c.getLsbD 47 = false → cvDelayed c = true → bits g 84 83 = 0 → cvFirst c = true →
      verdictOf g t c rb cap = some (1, [0x1101])) ∧
    (∀ v ev, verdictOf g t c rb cap = some (v, ev) → (clip || van) → v ∈ [1, 2, 3, 4, 5]))

/-- TELEMETRY_FLUSH writes the records of a step that is over, one for each accumulator entry added to, and clears the entries (R140): an entry
with counts goes to the ring at TEL_HEAD, and no record there is overwritten; where the ring is full it is not written but counted in
TEL_LOST, with event
0x1106 once for the step; with TEL_EN 0 the entries are cleared and nothing is written (R143). -/
def Obligations.TelemetryFlushWritesRecords : Prop :=
  (∀ (s t : State) (n : Nat) (step : Word64) (attempt : Word16) (dropped wrote lost : Bool), (s.part n).tel.due = some (step, attempt, dropped) →
    (∀ i ∈ (s.part n).tel.touched, accessWaits s ((s.part n).tel.accBase.toNat + 64 * i) 64 = false) →
    accessWaits s (s.part n).tel.base.toNat (64 * 2 ^ (s.part n).tel.log2.toNat) = false →
    (s.part n).tel.touched.foldl (flushEntry n step attempt dropped) (s, false, false) = (t, wrote, lost) →
    ((t.chan (partChan t n).1 (partChan t n).2).tien = false ∨ wrote = false) →
    ∃ u, exec (.telemetryFlush n) s = .next u ∧ (u.part n).tel.due = none ∧ (u.part n).tel.touched = [] ∧ u.mem = t.mem ∧
      (u.part n).tel.head = (t.part n).tel.head ∧ (u.part n).tel.lost = (t.part n).tel.lost ∧
      (lost = false → u.host = t.host) ∧
      (lost = true → u.host.raised = t.host.raised ++ [{
        code := 0x1106, part := some n, ctx := none, data := BitVec.ofNat 128 (data1 0 0 0 0 step), ptv := t.time.valid,
        pt := if t.time.valid then t.time.pt else t.time.up }])) ∧
  (∀ (s s1 s2 : State) (n i da ra : Nat) (step : Word64) (attempt : Word16) (dropped wrote lost : Bool) (q : Part), q = s.part n →
    da = q.tel.accBase.toNat + 64 * i → accessRefusal s .fw da 64 = none → s1 = demand s none da 64 → strongest (devRead s1 da 64) = none →
    s2 = devWrite s1 da (clean (List.replicate 64 0)) →
    (q.active.numThr.getLsbD 49 = true → (∃ f ∈ telFields, bits (devNat s1 da 64) f.1 f.2 ≠ 0) →
      (2 ^ q.tel.log2.toNat ≤ (q.tel.head - q.tel.tail).toNat →
        flushEntry n step attempt dropped (s, wrote, lost) i =
          (s2.modPart n (fun p => { p with tel := { p.tel with lost := satInc p.tel.lost } }), wrote, true)) ∧
      ((q.tel.head - q.tel.tail).toNat < 2 ^ q.tel.log2.toNat →
        ra = q.tel.base.toNat + 64 * (q.tel.head.toNat % 2 ^ q.tel.log2.toNat) → accessRefusal s2 .fw ra 64 = none →
        flushEntry n step attempt dropped (s, wrote, lost) i =
          ((devWrite s2 ra (clean (natToBytes 64 (telRecord (devNat s1 da 64) i step attempt dropped)))).modPart n
            (fun p => { p with tel := { p.tel with head := p.tel.head + 1 } }), true, lost) ∧
        (∀ j < (q.tel.head - q.tel.tail).toNat,
          (q.tel.tail + BitVec.ofNat 32 j).toNat % 2 ^ q.tel.log2.toNat ≠ q.tel.head.toNat % 2 ^ q.tel.log2.toNat))) ∧
    (q.active.numThr.getLsbD 49 = false → flushEntry n step attempt dropped (s, wrote, lost) i = (s2, wrote, lost)))

/-! ### Update and commit -/

/-- UPDATE_PASS makes the pass of its engine's next layer (R155) where the gate is open, the shadow set is not frozen, every run may be accessed
and carries no poison, and the refresh due is done; a frozen shadow set refuses the layer with 0x1207 (R174); a refresh not yet done holds it,
with event 0x1206 once (R167); poison in what it reads ends the pass (R291).

The arithmetic of a record (R156) for the momentum and AdamW rules: moments, direction, weight decay, residual and parameter, each operation
rounded once, in the order given. -/
def Obligations.UpdatePassAndItsArithmetic : Prop :=
  (∀ (s s1 : State) (k n layer : Nat) (l : BitVec 1024) (act : Bool) (due : Option Refresh) (ins : List Run),
    n = clusterPart s k → dieStopped s (k / 8) = false → ((s.cluster k).busy = none ∨ (s.cluster k).waitpc = true) →
    (s.att n).gate = some true → (s.att n).abortSent = false →
    nextLayer s n k = some layer → l = ludAt s n layer → act = (s.cmt n).sel.getLsbD layer → due = dueRefresh s n layer l →
    ins = layerInputs s n layer l act → s1 = discoverRuns (s.modCluster k (fun c => { c with waitpc := false })) none true ins →
    ((∃ r ∈ setRuns l (!act), ∃ g ∈ regionsOf r.1 r.2, reFrozen (entry s g) = true) →
      exec (.updatePass k) s = .next ((raise s 0x1207 (some n) none (data1 layer 0 0 0 (curStep s n))).modCmt n (fun c => { c with
        frozenRef := satInc c.frozenRef, att := { c.att with refused := c.att.refused ++ [layer] } }))) ∧
    ((∀ r ∈ setRuns l (!act), ∀ g ∈ regionsOf r.1 r.2, reFrozen (entry s g) = false) → updAccess s n (ins ++ setRuns l (!act)) = none →
      (∀ r ∈ ins ++ setRuns l (!act), accessWaits s r.1 r.2 = false) →
      ((∀ r, due = some r → r.done = true) →
        ((∀ r ∈ ins, strongest (devRead s1 r.1 r.2) = none) → exec (.updatePass k) s = .next (layerPass s1 n k layer l due)) ∧
        (∀ r, ins.find? (fun r => (strongest (devRead s1 r.1 r.2)).isSome) = some r →
          exec (.updatePass k) s = .next (poisonPass s1 n k r))) ∧
      (∀ r, due = some r → r.done = false →
        (r.late = true → exec (.updatePass k) s = .next (s.modCluster k (fun c => { c with waitpc := true, busy := some layer }))) ∧
        (r.late = false → exec (.updatePass k) s = .next ((layerEvent (s.modCluster k (fun c =>
          { c with waitpc := true, busy := some layer })) n 0x1206 layer).modPart n (fun p => { p with
            refreshes := p.refreshes.map (fun r => if r.layer = layer then { r with late := true } else r) })))))) ∧
  (∀ (u : UpdCtx) (x : RecIn) (e : Nat), e < 16 →
    (ludRule u.lud = 0 → (newM u x).1[e]? = some (fp32Fma (ludF32 u.lud 159) (wAt x.m1 e) (wAt x.g e)).1 ∧ ∀ m v, plainDir u m v = (m, 0#4)) ∧
    (ludRule u.lud = 1 →
      (newM u x).1[e]? = some (fp32Fma (ludF32 u.lud 159) (wAt x.m1 e) (fp32Mul u.ob1 (wAt x.g e)).1).1 ∧
      (newV u x).1[e]? = some (fp32Fma (ludF32 u.lud 191) (wAt x.m2 e) (fp32Mul u.ob2 (fp32Mul (wAt x.g e) (wAt x.g e)).1).1).1 ∧
      ∀ m v, (plainDir u m v).1[e]? = some (fp32Div (fp32Mul (wAt m e) u.bc1).1
        (fp32Add (fp32Sqrt (fp32Mul (wAt v e) u.bc2).1).1 (ludF32 u.lud 223)).1).1) ∧
    (∀ m v d, (finishRec u x m v d).d[e]? = some (fp32Fma (ludF32 u.lud 255) (wAt x.p e) (wAt d.1 e)).1 ∧
      (finishRec u x m v d).y[e]? = some (fp32Fma u.nlr (fp32Fma (ludF32 u.lud 255) (wAt x.p e) (wAt d.1 e)).1 (wAt x.r e)).1 ∧
      (finishRec u x m v d).x[e]? = some (fp32Add (wAt x.p e) (fp32Ldexp (fp32Fma u.nlr
        (fp32Fma (ludF32 u.lud 255) (wAt x.p e) (wAt d.1 e)).1 (wAt x.r e)).1 u.fr).1).1))

/-- NORM_GATE (R172, R173): GNORM is the FP32 value nearest the square root of the total, CLIPF follows GCLIP, and the gate closes on a total
that is not finite or overran: event 0x1201 and a cause of abandonment with reason 1. An open gate checks the descriptors.

LAYER_ARM arms a layer whose pass has landed (R159); PC_SNAPSHOT copies the committed statistics of a layer at its period, with their
poison (R167), and PC_REFRESH_SLICE refreshes its next block from them (R168). -/
def Obligations.NormGateArmAndRefresh : Prop :=
  (∀ (s s1 : State) (n : Nat) (g : Word32), (s.att n).isOpen = true → (s.att n).normIn = true → (s.att n).gate = none →
    g = gnormOf (s.cmt n).totT →
    s1 = (List.range 32).foldl (fun t k => if holdsCluster t n k then t.modCluster k (fun q => { q with armedCnt := 0 }) else t)
      (s.modCmt n (fun d => { d with
        gnorm := g, gnV := true, clipf := clipOf (s.part n).active.gclip g,
        att := { d.att with gate := some (!((s.cmt n).nonfin || (s.cmt n).ovr)) } })) →
    ((s.cmt n).nonfin = true ∨ (s.cmt n).ovr = true →
      exec (.normGate n) s = .next (causeAbandon (raise s1 0x1201 (some n) none (data1 0 0 0 0 (curStep s n))) n 1)) ∧
    ((s.cmt n).nonfin = false → (s.cmt n).ovr = false →
      exec (.normGate n) s = .next (checkLayers s1 n) ∧ (s1.att n).gate = some true ∧ (s1.cmt n).gnorm = g)) ∧
  (∀ (s : State) (n layer : Nat) (l : BitVec 1024), l = ludAt s n layer →
    (layer ∈ (s.att n).passed → (s.cmt n).armed.getLsbD layer = false → (s.att n).gate = some true →
      exec (.layerArm n layer) s = .next ((s.modCmt n (fun c => { c with armed := c.armed ||| (1#4096 <<< layer) })).modCluster (ludUe l)
        (fun c => { c with busy := none, armedCnt := c.armedCnt + 1 }))) ∧
    (∀ ms s1, layer < (s.part n).active.nlayers.toNat → ludEn l = true → ludPcb l ≠ 0 → fld l 703 688 ≠ 0 → (s.cmt n).stepC ≠ 0 →
      (s.cmt n).stepC.toNat % fld l 703 688 = 0 → (∀ r ∈ (s.part n).refreshes, r.layer = layer → r.step ≠ (s.cmt n).stepC ∧ r.done = true) →
      ms = snapMoves l ((s.cmt n).sel.getLsbD layer) → updAccess s n (ms.flatMap (fun m => [m.1, m.2])) = none →
      (∀ m ∈ ms, accessWaits s m.1.1 m.1.2 = false ∧ accessWaits s m.2.1 m.2.2 = false) → s1 = discoverRuns s none true (ms.map Prod.fst) →
      ∃ t, exec (.pcSnapshot n layer) s = .next t ∧
        (t.part n).refreshes = (s.part n).refreshes ++ [{ layer := layer, step := (s.cmt n).stepC, snapped := true }] ∧
        t.mem = (ms.foldl (fun w m => devWrite w m.2.1 (devRead w m.1.1 m.1.2)) s1).mem) ∧
    (∀ r a q s1, (s.part n).refreshes.find? (fun r => r.layer == layer && !r.done) = some r →
      a = pcSnap l + r.nextBlock * ludPcb l * ludPcb l * 4 → updAccess s n [(a, ludPcb l * ludPcb l * 4)] = none →
      accessWaits s a (ludPcb l * ludPcb l * 4) = false → s1 = discoverRuns s none true [(a, ludPcb l * ludPcb l * 4)] →
      strongest (devRead s1 a (ludPcb l * ludPcb l * 4)) = none →
      q = refreshQ (ludPcb l) (fld l 711 708 + 4) (l.getLsbD 48) (ludF32 l 223) (readMatrix s1 a (ludPcb l)) →
      exec (.pcRefreshSlice n layer) s = .next (landBlock (s1.modCore (refreshCore s1 n layer r.nextBlock) (fun c => { c with
        vecNf := setFlags c.vecNf q.2 none })) n layer l r q.1) ∧
      (∀ z, q.1 = some z → (landBlock s1 n layer l r q.1) = s1.modPart n (fun p => { p with refreshes := p.refreshes.map (fun x =>
        if x.layer = layer ∧ x.step = r.step then { x with
          nextBlock := x.nextBlock + 1, qs := x.qs ++ [z], done := decide (pcBlocks l ≤ x.nextBlock + 1) } else x) }))))

/-- GNORM is the FP32 value nearest to the root of T × 2⁻⁹⁶, ties to even; the clip factor is GCLIP / GNORM where GCLIP > 0 and GNORM > GCLIP, and
otherwise 1.0 (R172). -/
def Obligations.NormIsTheNearestRoot : Prop :=
  (∀ (t : BitVec 256) (m : Q), dec32 (gnormOf t) = .num false m →
    (∀ hi, dec32 (gnormOf t + 1) = .num false hi →
      (((Q.ofInt (t.toNat : Int)).scale (-94)).lt ((m.add hi).mul (m.add hi)) = true ∨
        ((Q.ofInt (t.toNat : Int)).scale (-94)).eq ((m.add hi).mul (m.add hi)) = true ∧ (gnormOf t).getLsbD 0 = false)) ∧
    (∀ lo, gnormOf t ≠ 0 → dec32 (gnormOf t - 1) = .num false lo →
      (((m.add lo).mul (m.add lo)).lt ((Q.ofInt (t.toNat : Int)).scale (-94)) = true ∨
        ((Q.ofInt (t.toNat : Int)).scale (-94)).eq ((m.add lo).mul (m.add lo)) = true ∧ (gnormOf t).getLsbD 0 = false))) ∧
  (∀ t : BitVec 256, ∃ m, dec32 (gnormOf t) = .num false m) ∧
  (∀ (s : State) (n : Nat), (s.att n).isOpen = true → (s.att n).normIn = true → (s.att n).gate = none →
    ∃ t, exec (.normGate n) s = .next t ∧ (t.cmt n).gnorm = gnormOf (s.cmt n).totT ∧
      (t.cmt n).clipf = clipOf (s.part n).active.gclip (gnormOf (s.cmt n).totT)) ∧
  (∀ gclip gnorm : Word32,
    (FV.lt (.num false Q.zero) (dec32 gclip) = true → FV.lt (dec32 gclip) (dec32 gnorm) = true →
      clipOf gclip gnorm = (fp32Div gclip gnorm).1) ∧
    (FV.lt (.num false Q.zero) (dec32 gclip) = false ∨ FV.lt (dec32 gclip) (dec32 gnorm) = false → dec32 (clipOf gclip gnorm) = .num false Q.one))

/-- READY leaves a member once every enabled layer is armed or refused and no check is pending (R175); the leader that holds the last
READY sends COMMIT for the first beat mark at least the lead time later (R176); a READY before that only counts.

The leader turns an ABORT before its decision into ABANDON and ignores one after it (R178); after its deadline it names the silent members
by event 0x3203 and abandons with reason 6 (R178). -/
def Obligations.ReadyCommitAndLeader : Prop :=
  ((∀ (s : State) (n : Nat), isMember s n = true → (s.att n).isOpen = true → (s.att n).gate = some true → (s.att n).readySent = false →
    (s.att n).abortSent = false → (s.att n).resetHit = false → allArmed s n = true → (s.part n).sn.pending = 0 → (s.part n).inReset = false →
    exec (.memberReady n) s = .next ((s.emit (.ready (s.self n) (curStep s n) (s.cmt n).attempt)).modAtt n
      (fun a => { a with readySent := true }))) ∧
  (∀ (r s : State) (n : Nat) (m : Member) (step : Word64) (attempt : Word16), s = hear r n m → isLeader s n = true → step = curStep s n →
    attempt = (s.cmt n).attempt → (s.att n).decided = false →
    ((∀ x ∈ membersFor s n, x = m ∨ x ∈ (s.att n).ready) →
      ∃ t, exec (.readyReceive n m step attempt) r = .next t ∧ (t.att n).decided = true ∧ m ∈ (t.att n).ready ∧ t.mem = s.mem ∧ t.ctxs = s.ctxs ∧
        t.fab.out = s.fab.out ++ [.commit (cgidOf s n) step attempt (BitVec.ofNat 64
          (markAt s.time (s.now + max (s.part n).active.cmtLead.toNat 20000)))]) ∧
    (∀ x ∈ membersFor s n, x ≠ m → x ∉ (s.att n).ready →
      exec (.readyReceive n m step attempt) r = .next (s.modAtt n (fun a => { a with ready := addMember a.ready m }))))) ∧
  (∀ (s : State) (n : Nat), isLeader s n = true →
    (∀ r m step attempt reason, s = hear r n m → step = curStep s n → attempt = (s.cmt n).attempt →
      ((s.att n).decided = false → exec (.abortReceive n m step attempt reason) r =
        .next ((s.emit (.abandon (cgidOf s n) step attempt reason)).modAtt n (fun a => { a with decided := true }))) ∧
      ((s.att n).decided = true → exec (.abortReceive n m step attempt reason) r = .next s)) ∧
    (isMember s n = true → (s.att n).isOpen = true → (s.att n).decided = false →
      (s.att n).openAt + (s.part n).active.gradDl.toNat + fld (s.part n).active.cmtCtl 47 32 * s.time.beatPeriod.toNat ≤ s.now →
      ∃ t, exec (.commitTimeout n) s = .next t ∧ (t.att n).decided = true ∧
        t.fab.out = s.fab.out ++ [.abandon (cgidOf s n) (curStep s n) (s.cmt n).attempt 6] ∧
        t.host.raised = s.host.raised ++ ((membersFor s n).filter (fun m => !(s.att n).ready.contains m)).map (fun m => {
          code := 0x3203, part := some n, ctx := none, data := BitVec.ofNat 128 (data3 0 m.dev (curStep s n).toNat), ptv := s.time.valid,
          pt := if s.time.valid then s.time.pt else s.time.up })))

/-- A member with a COMMIT flips at T_c, not before it (R176, R178): SEL changes exactly where ARMED is set, ARMED clears, STEP_COMMITTED
rises by one,
ATTEMPT returns to 0 and the next step's attempt is open; a COMMIT that arrives after T_c flips at once with event 0x3204. -/
def Obligations.CommitFlipsSelAtTheInstant : Prop :=
  ∀ (s : State) (n : Nat),
    (∀ step attempt tc, isMember s n = true → (s.att n).isOpen = true → step = curStep s n → attempt = (s.cmt n).attempt → (s.att n).commit = none →
      (s.now ≤ tc.toNat → exec (.commitReceive n step attempt tc) s = .next (s.modAtt n (fun a => { a with commit := some tc.toNat }))) ∧
      (tc.toNat < s.now → exec (.commitReceive n step attempt tc) s =
        .next (flip (raise s 0x3204 (some n) none (data3 0 0 step.toNat)) n tc.toNat))) ∧
    (∀ tc, (s.att n).commit = some tc → (tc ≤ s.now → exec (.commitFlip n) s = .next (flip s n tc)) ∧
      (s.now < tc → exec (.commitFlip n) s = .next s)) ∧
    (∀ tc, ((flip s n tc).cmt n).sel = (s.cmt n).sel ^^^ (s.cmt n).armed ∧ ((flip s n tc).cmt n).armed = 0 ∧
      ((flip s n tc).cmt n).stepC = (s.cmt n).stepC + 1 ∧ ((flip s n tc).cmt n).attempt = 0 ∧
      ((flip s n tc).cmt n).lastAtt = (s.cmt n).attempt ∧ ((flip s n tc).cmt n).tLast = BitVec.ofNat 64 tc ∧
      ((flip s n tc).att n).isOpen = true ∧ ((flip s n tc).att n).openAt = tc ∧ ((flip s n tc).att n).passed = [] ∧
      ((flip s n tc).att n).commit = none ∧ ((flip s n tc).part n).tel.due = some (curStep s n, (s.cmt n).attempt, false) ∧
      (flip s n tc).mem.bytes = s.mem.bytes ∧ (∀ p, p ≠ n → (flip s n tc).cmt p = s.cmt p))

/-- An abandoned attempt leaves SEL and STEP_COMMITTED alone (R180): ARMED clears, ATTEMPT and the count of abandonments rise and the reason is kept.
A member that has received COMMIT is not abandoned (R178).

After the last RESUME of an attempt the leader opens it at the first beat mark at least 1 ms later (R420); OPEN sets the instant, the
attempt opens when Pod Time reaches it and not before. -/
def Obligations.AbandonmentAndResumption : Prop :=
  (∀ (s : State) (n reason : Nat), isMember s n = true →
    ((s.att n).commit.isSome = true → exec (.attemptAbandon n reason) s = .next s) ∧
    ((s.att n).isOpen = true → (s.att n).commit = none → s.abandons.find? (fun a => a.part == n) = none → reason < 16 →
      ∃ t, exec (.attemptAbandon n reason) s = .next t ∧ (t.cmt n).sel = (s.cmt n).sel ∧ (t.cmt n).stepC = (s.cmt n).stepC ∧
        (t.cmt n).armed = 0 ∧ (t.cmt n).attempt = (s.cmt n).attempt + 1 ∧ (t.cmt n).abandons = satInc (s.cmt n).abandons ∧
        (t.cmt n).why.toNat = reason ∧ (t.att n).isOpen = false ∧ (t.att n).passed = [] ∧ t.mem = s.mem)) ∧
  (∀ (s : State) (n : Nat) (step : Word64) (attempt : Word16), step = curStep s n → attempt = (s.cmt n).attempt →
    (∀ r m, s = hear r n m → isLeader s n = true → (s.att n).isOpen = false → (∀ x ∈ membersFor s n, x = m ∨ x ∈ (s.att n).resume) →
      ∃ t, exec (.resumeReceive n m step attempt) r = .next t ∧ (t.att n).resume = [] ∧ t.mem = s.mem ∧ t.ctxs = s.ctxs ∧
        t.fab.out = s.fab.out ++ [.open_ (cgidOf s n) step attempt (BitVec.ofNat 64 (markAt s.time (s.now + 1000000)))]) ∧
    (∀ topen, isMember s n = true → (s.att n).isOpen = false →
      exec (.openReceive n step attempt topen) s = .next (s.modAtt n (fun a => { a with openMsg := some topen.toNat }))) ∧
    (∀ t, (s.att n).openMsg = some t → (s.cmt n).halted = false →
      (t ≤ s.now → exec (.attemptOpen n) s = .next (s.modAtt n (fun a => { a with isOpen := true, openAt := t, openMsg := none }))) ∧
      (s.now < t → exec (.attemptOpen n) s = .next s)))

/-! ### Memory -/

/-- A device write changes exactly its bytes (R267, R297): each byte of a range whose parts are not fenced reads as written, and every other
byte of device memory is as before. Outside the memory system only events can change, where the write finds failed symbols (R287). -/
def Obligations.DeviceWriteReadsBack : Prop :=
  ∀ (s : State) (da : Nat) (bs : List PByte), Memory.wf s.mem.bytes = true →
    (∀ i, i < bs.length → fencedAt s (da + i) = false) →
    (∀ i (h : i < bs.length), memGet (devWrite s da bs).mem.bytes (da + i) = (bs[i]).1) ∧
    (∀ x, x < da ∨ da + bs.length ≤ x → memGet (devWrite s da bs).mem.bytes x = memGet s.mem.bytes x) ∧
    (devWrite s da bs = { s with mem := (devWrite s da bs).mem, host := (devWrite s da bs).host }) ∧
    (s.mem.latent = [] → (devWrite s da bs).host = s.host)

/-- REGION_CLEAR writes zeros over its region, and nothing else changes in device memory (R271): ZEROING and POISONED clear in its entry, its
poison goes, and the region no longer waits. -/
def Obligations.RegionClearZeroesTheRegion : Prop :=
  ∀ (s : State) (r : Nat), r ∈ s.mem.clearing → reValid (entry s r) = true →
    ∃ t, exec (.regionClear r) s = .next t ∧
      (∀ a, memGet t.mem.bytes a = if r * 2 ^ 25 ≤ a ∧ a < r * 2 ^ 25 + 2 ^ 25 then 0 else memGet s.mem.bytes a) ∧
      reZeroing (entry t r) = false ∧ rePoisoned (entry t r) = false ∧ fld (entry t r) 17 0 = fld (entry s r) 17 0 ∧
      (∀ q, q ≠ r → entry t q = entry s q) ∧
      (∀ g, r * 2 ^ 25 ≤ 32 * g → 32 * g < r * 2 ^ 25 + 2 ^ 25 → tget t.mem.poison g = none) ∧
      t.mem.clearing = s.mem.clearing.erase r ∧ t.cores = s.cores ∧ t.parts = s.parts

/-- PATROL_SCRUB finds what the check symbols of a granule show (R286, R287): one failed symbol is corrected and counted; more poison the granule
under its region's policy, mark the region and raise 0x2102. Neither changes a byte. With SCRUB_EN clear, and in a fenced part, the failure stays
to be found; what fails in a RAW granule changes that granule only; the Pantry checks as CORRECT and counts for no part; a window granule of a
scratchpad is poisoned under CONTEXT (R285). A line in front of a failed part is written back first (the model's choice, log 6), and where the
Pantry holds nothing of a granule its copy cannot fail.

PART_TEMP_SAMPLE sets a part's refresh level and throttle from its temperature, and fences it at 110 °C with event 0x2403 first and the module
declared failed (R294 to R297); PANTRY_MODE_CHANGE writes every line back and invalidates it (R283). -/
def Obligations.ScrubTemperatureAndPantry : Prop :=
  (∀ (s w : State) (g p : Nat) (e : Word64) (pan : Bool) (place : FaultPlace), e = entry s (regionOf (32 * g)) → p = homePart s (32 * g) → p < 80 →
    (place = .part ∧ w = s.modMem (fun m => { m with lines := m.lines.filter (fun l => l.line != g / 8) }) ∧ pan = (rePhint e == 2)) ∨
      (place = .pantry ∧ w = s ∧ pan = true ∧ (rePhint e = 2 ∨ (lineAt s (g / 8)).isSome)) →
    (pan = false → reEcc e = 2 → ∀ f, ∃ t, exec (.patrolScrub g (some ⟨f, place⟩)) s = .next t ∧ t.host = s.host ∧ t.mem.poison = s.mem.poison ∧
      t.mem.lines = w.mem.lines ∧ ∀ a, a < 32 * g ∨ 32 * g + 32 ≤ a → memGet t.mem.bytes a = memGet s.mem.bytes a) ∧
    (pan = true ∨ reEcc e ≠ 2 → s.mem.ctl.getLsbD 0 = false ∨ fencedAt s (32 * g) = true → ∀ f,
      exec (.patrolScrub g (some ⟨f, place⟩)) s = .next (w.modMem (fun m => { m with latent := tput m.latent g f }))) ∧
    (s.mem.ctl.getLsbD 0 = true → fencedAt s (32 * g) = false →
      (pan = true ∨ reEcc e = 0 → ∃ t, exec (.patrolScrub g (some ⟨.one, place⟩)) s = .next t ∧ t.mem.bytes = s.mem.bytes ∧
        t.mem.poison = s.mem.poison ∧ t.mem.region = s.mem.region ∧ t.mem.lines = w.mem.lines ∧
        (t.memPart p).ce = (if pan then (s.memPart p).ce else satInc (s.memPart p).ce) ∧ (t.memPart p).ue = (s.memPart p).ue) ∧
      (pan = true ∨ reEcc e ≠ 2 → ∃ t, exec (.patrolScrub g (some ⟨.many, place⟩)) s = .next t ∧ t.mem.bytes = s.mem.bytes ∧
        tget t.mem.poison g = some (reKill e) ∧ rePoisoned (entry t (regionOf (32 * g))) = true ∧ t.mem.lines = w.mem.lines ∧
        (t.memPart p).ue = (if pan then (s.memPart p).ue else satInc (s.memPart p).ue) ∧
        t.host.raised = s.host.raised ++ [{
          code := 0x2102, part := none, ctx := none,
          data := BitVec.ofNat 128 (data2 (32 * g) (if pan then 0x7F else p) (regionOf (32 * g))), ptv := s.time.valid,
          pt := if s.time.valid then s.time.pt else s.time.up }])) ∧
    (rePhint e ≠ 2 → lineAt s (g / 8) = none → ∀ f, exec (.patrolScrub g (some ⟨f, .pantry⟩)) s = exec (.patrolScrub g none) s) ∧
    (∀ v x, s.vc? v = some x → (exec (.patrolScrub g (some ⟨.one, .pad v⟩)) s = .next s) ∧
      (32 * g < x.winSize → ∃ t y, exec (.patrolScrub g (some ⟨.many, .pad v⟩)) s = .next t ∧ t.vc? v = some y ∧
        y = { x with winPoison := tput x.winPoison g .context } ∧ t.mem = s.mem))) ∧
  (∀ (s : State),
    (∀ p temp, s.mem.ready = true → (s.pwr.st = .run ∨ s.pwr.st = .idle ∨ s.pwr.st = .hold) → (s.memPart p).fenced = false →
      (temp < 110 → ∃ t, exec (.partTempSample p temp) s = .next t ∧ (t.memPart p).temp = temp ∧ (t.memPart p).fenced = false ∧
        (t.memPart p).rmul = BitVec.ofNat 2 (refreshLevel (s.memPart p).rmul.toNat temp) ∧
        ((t.memPart p).t3on = true ↔
          if (s.memPart p).t3on then ((s.memPart p).t3lim.toNat : Int) - 2 < temp else ((s.memPart p).t3lim.toNat : Int) ≤ temp) ∧
        t.mem.bytes = s.mem.bytes) ∧
      (110 ≤ temp → ∃ t rest, exec (.partTempSample p temp) s = .next t ∧ (t.memPart p).fenced = true ∧ t.rel.failed = true ∧
        t.host.raised = s.host.raised ++ {
          code := 0x2403, part := none, ctx := none, data := BitVec.ofNat 128 (data2 0 p 0), ptv := s.time.valid,
          pt := if s.time.valid then s.time.pt else s.time.up } :: rest)) ∧
    (∀ hinted, s.mem.hinted ≠ hinted →
      exec (.pantryModeChange hinted) s = .next (s.modMem (fun m => { m with lines := [], hinted := hinted }))))

/-! ### Fabric and Pod Time -/

/-- The first lane that fails on a link is replaced by the spare, with event 0x3001 and an entry of the repair record, and the peer hears of it
(R305, R421); a second takes the link down. The first laser that fails on an engine is replaced by laser 5, with 0x3004; a second darkens its lane
on eight links; for 2 ms after a laser event its engine's links take no lane decision (R304).

LINK_TRAIN tells the peer who this end is and brings a training link up with the peer it hears (R307): events 0x3003 and, against the standard
wiring, 0x3006; flits not yet acknowledged are sent again, those that wait go out, and the link list is flooded. A peer that reports this module's
own id stays down (R323). RETRAIN starts training; a link in low-power idle wakes.

A link that goes down raises 0x3002, forgets its numbering and buffers, and hands flits of other modules back to them; a message of this module
that it had not delivered in full is sent again whole (R316). A link still in training when the time is up goes down the same way (R311). -/
def Obligations.LinksAreRepairedAndTrained : Prop :=
  (∀ (s : State),
    (∀ n lane dev, lanesHeld s n = false → (s.link n).st = .up → lane < 4 → (s.link n).spareDark = false →
      dev = (match (s.link n).peer with | some p => p.1 | none => 0) →
      ((s.link n).spareIn = false → exec (.laneFail n lane) s = .next (remapEvent (raiseDev ((s.emit (.laneFailed n lane)).modLink n (fun l => {
        l with spareIn := true, spared := BitVec.ofNat 2 lane })) 0x3001 (data3 n dev 0)) 2 n lane 0x3001 0 0)) ∧
      ((s.link n).spareIn = true → (s.link n).spared.toNat ≠ lane → routeAround s n = true →
        exec (.laneFail n lane) s = exec (.linkDown n) (s.emit (.laneFailed n lane)))) ∧
    (∀ n lane t, (s.optic (n / 8)).eventAt = some t → s.now < t + 2000000 → exec (.laneFail n lane) s = .next s) ∧
    (∀ e m, (s.optic e).laserOk.getLsbD m = false → exec (.laserFail e m) s = .next s) ∧
    (∀ e m s1, m < 5 → (s.optic e).laserOk.getLsbD m = true →
      s1 = s.modOptic e (fun o => { o with laserOk := setFld o.laserOk m m 0, eventAt := some s.now }) →
      ((s.optic e).spareUsed = false → (s.optic e).laserOk.getLsbD 5 = true →
        exec (.laserFail e m) s = .next (remapEvent (raiseDev (s1.modOptic e
          (fun o => { o with spareUsed := true, spared := BitVec.ofNat 3 m })) 0x3004 (data3 (8 * e) 0 0)) 6 e m 0x3004 0 0)) ∧
      ((s.optic e).spareUsed = true ∨ (s.optic e).laserOk.getLsbD 5 = false → exec (.laserFail e m) s = .next (darkLane s1 e m)))) ∧
  (∀ (s : State) (n : Nat),
    (∀ p wrong s0 s1 s2, (s.link n).st = .train → (s.link n).en = true → p.dev ≠ s.devId → s0 = hearSerial (sendTraining s n) p.dev p.serial →
      p.dev ∉ s0.fab.excluded → s.devId ∉ s0.fab.excluded → wrong = (s.fab.stdwire && !standardPeer s n p) →
      s1 = raiseDev (s0.modLink n (fun l => { l with
        st := .up, peer := some (p.dev, p.link), peerSerial := p.serial, peerPrio := p.prio, trunk := p.dev / 64 != s.fab.pod.toNat,
        wireErr := wrong, fails := 0, lit := true, idle := false })) 0x3003 (data3 n p.dev 0) →
      s2 = (s0.link n).replay.foldl (fun t f => t.emit (.flit n f)) (if wrong then raiseDev s1 0x3006 (data3 n p.dev 0) else s1) →
      exec (.linkTrain n p) s = .next (floodLinks (pump (s2.link n).txq.length n s2)) ∧ (s2.link n).st = .up ∧
        (s2.link n).peer = some (p.dev, p.link)) ∧
    (∀ p, (s.link n).st = .train → (s.link n).en = true → p.dev = s.devId →
      ∃ t, exec (.linkTrain n p) s = .next t ∧ (t.link n).st = .down ∧ s.devId ∈ t.fab.excluded) ∧
    (∀ p, (s.link n).st ≠ .train → exec (.linkTrain n p) s = .next s) ∧
    ((s.link n).en = true → exec (.retrain n) s = .next (s.modLink n (fun l => { l with st := .train }))) ∧
    (exec (.linkWakePulse n) s = .next (s.modLink n (fun l => { l with idle := false })))) ∧
  (∀ (s : State) (n : Nat),
    (∀ dev, ((s.link n).st = .up ∨ (s.link n).st = .train) → dev = (match (s.link n).peer with | some p => p.1 | none => 0) →
      (∃ t rest, exec (.linkDown n) s = .next t ∧ t = { s with fab := t.fab, host := t.host } ∧ (t.link n).st = .down ∧
        (t.link n).replay = [] ∧ (t.link n).txq = [] ∧ (t.link n).txSeq = 0 ∧ (t.link n).rxSeq = 0 ∧
        t.host.raised = s.host.raised ++ {
          code := 0x3002, part := none, ctx := none, data := BitVec.ofNat 128 (data3 n dev 0), ptv := s.time.valid,
          pt := if s.time.valid then s.time.pt else s.time.up } :: rest ∧
        ∀ f ∈ (s.link n).replay ++ (s.link n).txq.map Prod.snd, hdrSrc (flitHdr f) ≠ s.devId →
          .handBack (hdrSrc (flitHdr f)) f ∈ t.fab.out) ∧
      (∀ f fs, (s.link n).txq = [] → (s.link n).replay = [f] → hdrSrc (flitHdr f) = s.devId →
        s.fab.kept.find? (fun m => m.any (fun g => msgKey g == msgKey f)) = some fs →
        exec (.linkDown n) s = .next (pruneKept (routeMessage (raiseDev (s.modLink n (fun l => { l with
          st := .down, txSeq := 0, rxSeq := 0, ackSeq := 0, replay := [], txq := [], fails := 0, replayAt := [], unacked := 0, nak := false,
          credits := [], toReturn := [], served := [], since3 := 15 })) 0x3002 (data3 n dev 0)) fs)))) ∧
    ((s.link n).st = .down ∨ (s.link n).st = .off → exec (.linkDown n) s = .next s) ∧
    ((s.link n).st = .train → exec (.linkTrainTimeout n) s = exec (.linkDown n) s) ∧
    ((s.link n).st ≠ .train → exec (.linkTrainTimeout n) s = .next s))

/-- A flit is taken only in order and with a good CRC (R311): a bad one counts, against its lane too (R305), and is asked for again, one out of
sequence is asked for again, and the expected one advances the sequence, is routed, and what it brings here is taken, with an acknowledgement after
32. ACK_TIMER sends the one due.

A flit made from a header and a payload carries both and a good CRC (R309). -/
def Obligations.FlitsAreTakenInOrder : Prop :=
  (∀ (s : State) (n : Nat), (s.link n).st = .up →
    (∀ f lane s1, flitCrc f ≠ flitCrcField f → s1 = laneError (s.modLink n (fun l => { l with crcErr := satInc l.crcErr, nak := true })) n lane →
      exec (.flitReceive n ⟨f, lane⟩) s = .next (if isUp s1 n then sendIdle s1 n else s1)) ∧
    (∀ f h lane, flitCrc f = flitCrcField f → h = flitHdr f →
      (hdrType h = 0 → exec (.flitReceive n ⟨f, lane⟩) s = .next (takeAck s n h)) ∧
      (hdrType h ≠ 0 → hdrSeq h ≠ (s.link n).rxSeq.toNat →
        exec (.flitReceive n ⟨f, lane⟩) s = .next (sendIdle (s.modLink n (fun l => { l with nak := true })) n)) ∧
      (∀ s1, hdrType h ≠ 0 → hdrSeq h = (s.link n).rxSeq.toNat → s1 = settle (routeFlit ((takeAck s n h).modLink n (fun l => { l with
          rxSeq := l.rxSeq + 1, unacked := l.unacked + 1 })) (some n) f) →
        exec (.flitReceive n ⟨f, lane⟩) s = .next (if 32 ≤ (s1.link n).unacked then sendIdle s1 n else s1))) ∧
    ((0 < (s.link n).unacked ∨ (s.link n).nak = true) → exec (.ackTimer n) s = .next (sendIdle s n)) ∧
    ((s.link n).unacked = 0 → (s.link n).nak = false → exec (.ackTimer n) s = .next s)) ∧
  (∀ (hdr payload : Nat), hdr < 2 ^ 224 → payload < 2 ^ 1792 →
    flitHdr (mkFlit hdr payload) = hdr ∧ flitPayload (mkFlit hdr payload) = payload ∧
    flitCrc (mkFlit hdr payload) = flitCrcField (mkFlit hdr payload))

/-- Discovery (R322): a new link list of the pod is kept and flooded on, and the leader is the lowest id heard; in an UP pod the leader answers a
joiner with routes (R324). LEADER_ELECT makes the choice final, elects the time master and sends tables; ROUTES_INSTALL installs them and
acknowledges; POD_UP sets PODUP with 0x3401; without it the timeout raises 0x3403.

A lost member leaves the pod with event 0x3404 (R325); collectives, commit groups and recovery follow (R342, R179, R426). Devices behind a trunk
become reachable over it, by the leader's tables (R326). A restored shard takes the commit record's step and selection, with 0x4603, and
resumes (R427). -/
def Obligations.DiscoveryAndMembership : Prop :=
  (∀ (s : State),
    (∀ dev serial ls s0 s1 s2, dev ∉ s.fab.excluded → dev ≠ s.devId → dev / 64 = s.fab.pod.toNat →
      s0 = (ls.filter (fun e => e.peer != s.devId)).foldl (fun t e => hearSerial t e.peer e.peerSerial) (hearSerial s dev serial) →
      dev ∉ s0.fab.excluded → s1 = s0.modFab (fun b => { b with topo := tput b.topo dev ls }) → clashes s1.fab.topo = [] →
      s2 = (if tget s0.fab.topo dev = some ls then s1 else s1.emit (.linkList dev serial ls)) →
      (s.fab.podup = false →
        exec (.linkListReceive dev ⟨serial, ls⟩) s = .next (s2.modFab (fun b => { b with leader := BitVec.ofNat 12 (lowestHeard s1) }))) ∧
      (s.fab.podup = true → tget s0.fab.topo dev ≠ some ls → dev ∉ s0.fab.memberList → dev ∉ s0.fab.joining →
        exec (.linkListReceive dev ⟨serial, ls⟩) s = .next (sendRoutes (s2.modFab (fun b => { b with joining := b.joining ++ [dev] })) []))) ∧
    (∀ dev serial ls, dev / 64 ≠ s.fab.pod.toNat → exec (.linkListReceive dev ⟨serial, ls⟩) s = .next s) ∧
    (s.devId ∉ s.fab.excluded →
      exec .leaderElect s = .next (electMaster (s.modFab (fun b => { b with
        leader := BitVec.ofNat 12 (lowestHeard s), topo := tput b.topo s.devId (ownLinks s) })) false [])) ∧
    (∀ rs ms up tm, ∃ t, exec (.routesInstall rs ms ⟨up, tm⟩) s = .next t ∧ t.fab.upstream = up ∧ t.fab.tm = BitVec.ofNat 12 tm ∧
      (t.time.isTm = true ↔ tm = s.devId) ∧ t.fab.out = s.fab.out ++ [.routesAck s.fab.leader.toNat] ∧
      t.fab.route = rs.foldl (fun t r => if r.2 = 0 then tdel t r.1 else tput t r.1 r.2) s.fab.route ∧
      t.fab.mcast = ms.foldl (fun t m => tput t m.1 m.2) s.fab.mcast) ∧
    (∀ members pt, ∃ t, exec (.podUp members pt) s = .next t ∧ t.fab.podup = true ∧ t.fab.memberList = members ∧ t.fab.joining = [] ∧
      t.fab.members = BitVec.ofNat 7 members.length ∧ t.host.raised = s.host.raised ++ [{
        code := 0x3401, part := none, ctx := none, data := BitVec.ofNat 128 (data3 0 s.fab.leader.toNat members.length), ptv := s.time.valid,
        pt := if s.time.valid then s.time.pt else s.time.up }]) ∧
    (s.fab.podup = true → exec .discoveryTimeout s = .next s) ∧
    (s.fab.podup = false → exec .discoveryTimeout s = .next (raiseDev s 0x3403 (data3 0 s.fab.leader.toNat 0)))) ∧
  (∀ (s : State),
    (∀ dev held groups, dev ∈ s.fab.memberList → dev ≠ s.devId →
      groups = (List.range 33).filter (fun n => isMember s n && (farMembers s n).any (fun m => m.dev == dev)) →
      (isLost s dev = false → exec (.memberLost ⟨dev, held⟩) s = .next s) ∧
      (isLost s dev = true → exec (.memberLost ⟨dev, held⟩) s = .next (startRecovery (groups.foldl (fun t n => loseGroupMember (forget t n dev) n held)
        (loseColls (dropMember (raiseDev s 0x3404 (data3 0 dev 0)) dev) dev)) dev groups) ∧
      dev ∉ (dropMember (raiseDev s 0x3404 (data3 0 dev 0)) dev).fab.memberList)) ∧
    (∀ pod via trunk devices ds, ds = devices.filter (fun d => d / 64 == pod && pod != s.fab.pod.toNat) →
      (s.fab.leader.toNat ≠ s.devId → exec (.routeSummaryReceive pod ⟨via, trunk⟩ devices) s = .next s) ∧
      (s.fab.leader.toNat = s.devId → ∃ t, exec (.routeSummaryReceive pod ⟨via, trunk⟩ devices) s = .next t ∧ tget t.fab.summaries pod = some ds ∧
        ∀ d ∈ ds, tgetD t.fab.route d 0 =
          if s.devId = via then routeEntry [trunk] else routeOf s.fab.topo s.fab.joining s.fab.leader.toNat s.devId via)) ∧
    (∀ n rec_, ∃ t, exec (.starterRestoreLanded n rec_) s = .next t ∧ (t.cmt n).stepC = rec_.step ∧ (t.cmt n).sel = rec_.sel ∧
      (t.cmt n).armed = 0 ∧ (t.cmt n).halted = false ∧ (t.cmt n).attempt = (s.cmt n).attempt ∧
      t.fab.out = s.fab.out ++ [.resume (s.self n) (rec_.step + 1) (s.cmt n).attempt] ∧ t.rel.phase = 4 ∧ t.mem = s.mem ∧
      t.host.raised = s.host.raised ++ [{
        code := 0x4603, part := none, ctx := none, data := BitVec.ofNat 128 (data4 0 0 0 rec_.step), ptv := s.time.valid,
        pt := if s.time.valid then s.time.pt else s.time.up }] ∧
      (∀ k c, s.ctx? k = some c → t.ctx? k = some (if c.part = n ∧ c.st = .loaded then { c with st := .running } else c))))

/-- A time exchange sets Pod Time before it is valid and afterwards is slewed in, with 0x3105 beyond 1 µs (R330); 3 ms without one begin holdover with
0x3102 (R331). An edge of PT_SYNC sets or slews the master's time, and one too far off is ignored with 0x3104; losing PT_REF raises 0x3103 (R329).
The master elected has the highest TM_PRIO, then REF_OK, then the lowest device id (R328).

BEAT_MARK comes when Pod Time has reached the mark, and not before (R332): the beat takes its number, waiting configurations swap, first attempts
open and a beat change that names the mark applies. BEAT_CHANGE waits for its mark (R332); an alarm fires once, when its value has come (R333). -/
def Obligations.PodTimeAndBeats : Prop :=
  (∀ (s : State),
    (∀ l offset ns s1, s.time.isTm = false → s.fab.upstream = some l → (s.link l).st = .up → (s.link l).ptEn = true → ns = toNs offset →
      s1 = s.emit (.timeExchange l) →
      (s.time.valid = false → ∃ t, exec (.timeExchange offset) s = .next t ∧ t = { s1 with time := t.time } ∧
        t.time.pt = BitVec.ofNat 64 ((s.time.pt.toNat : Int) - ns).toNat ∧ t.time.valid = true ∧ t.time.lock = true ∧ t.time.slew = 0) ∧
      (s.time.valid = true →
        exec (.timeExchange offset) s = .next ((if 4000 < offset.natAbs then raiseDev s1 0x3105 (data3 0 s.fab.tm.toNat ns.natAbs) else s1).modTime
          (fun t => { t with
            offset := satSigned16 ns, slew := -ns, lastExchange := t.pt.toNat, holdover := false,
            lock := decide (offset.natAbs ≤ 4 * ptBound s) })))) ∧
    (s.time.isTm = false → s.time.valid = true → s.time.holdover = false →
      (s.time.lastExchange + 3000000 ≤ s.now → exec .holdoverTimeout s = .next ((raiseDev s 0x3102 (data3 0 s.fab.tm.toNat 0)).modTime
        (fun t => { t with lock := false, holdover := true }))) ∧
      (s.now < s.time.lastExchange + 3000000 → exec .holdoverTimeout s = .next s)) ∧
    (s.time.isTm = true → s.time.tmSrc = 2 →
      (s.time.valid = false → exec .ptSyncEdge s = .next (s.modTime (fun t => { setPt t s.time.syncNext.toNat with
        syncOk := true, syncNext := t.syncNext + t.syncPeriod }))) ∧
      (s.time.valid = true → ((s.time.syncNext.toNat : Int) - s.time.pt.toNat).natAbs ≤ 1000 →
        exec .ptSyncEdge s = .next (s.modTime (fun t => { t with
          slew := (s.time.syncNext.toNat : Int) - s.time.pt.toNat, syncOk := true, syncNext := t.syncNext + t.syncPeriod }))) ∧
      (s.time.valid = true → 1000 < ((s.time.syncNext.toNat : Int) - s.time.pt.toNat).natAbs →
        exec .ptSyncEdge s = .next ((raiseDev s 0x3104 (data3 0 s.devId 0)).modTime (fun t => { t with syncOk := false })))) ∧
    (∀ s1 s2, s1 = noteRef s s.devId false → s2 = (if s.time.isTm then
        (raiseDev s1 0x3103 (data3 0 s.devId 0)).modTime (fun t => { t with refOk := false, holdover := true })
        else s1.modTime (fun t => { t with refOk := false })) →
      exec .ptRefLoss s = .next (if s.fab.podup = true ∧ s.fab.tm.toNat = s.devId then electMaster s2 true [] else s2)) ∧
    (s.fab.podup = false → exec .ptRefReturn s = .next ((noteRef s s.devId true).modTime (fun t => { t with
      refOk := true, holdover := if s.time.isTm then false else s.time.holdover }))) ∧
    (∀ slot dev ok s1, dev ≠ s.devId → s1 = noteRef s dev ok →
      exec (.mgmtMessage slot (.refState dev ok)) s = .next (if s.fab.podup = true ∧ (ok = true ∨ s.fab.tm.toNat = dev) then electMaster s1 (!ok) []
        else s1)) ∧
    (∀ cs d, bestOf cs = some d → ∃ p r, (d, p, r) ∈ cs ∧ ∀ c ∈ cs, c.2.1 ≤ p ∧ (c.2.1 = p → (c.2.2 = true → r = true) ∧ (c.2.2 = r → d ≤ c.1)))) ∧
  (∀ (s : State),
    (s.now < nextMark s.time → exec .beatMark s = .next s) ∧
    (∀ mark beat car s1 s2 s3, mark = nextMark s.time → beat = beatAt s.time.beatPeriod s.time.beatOrigin mark → car = (s.pwr.st == .carousel) →
      s.time.beatPeriod ≠ 0 → mark ≤ s.now → s.pwr.st ≠ .off →
      s1 = s.modTime (fun t => { t with beatNum := beat, lastMark := mark }) →
      s2 = (if car then s1 else s1.modMgmt (fun m => { m with rmHb := m.rmHb + 1 })) →
      s3 = (if s.fab.podup then (if car then s2 else s2.emit (.heartbeat s.devId)).modFab (fun b => { b with
        missed := (b.memberList.filter (· != s.devId)).foldl (fun t m => tmod t m 0 (· + 1)) b.missed }) else s2) →
      exec .beatMark s = .next (applyBeatChange (openFirst (swapConfigs (((countStalls s3).modMem (fun m => { m with
        parts := tmap m.parts (fun _ p => { p with ceRaised := false }) })).modPwr (fun p => { p with inputRaised := false }))
          beat.toNat mark) mark) mark)) ∧
    (∀ period origin beat, beatOk period = true → s.time.beatNum.toNat < beat.toNat → s.time.beatPend = none →
      exec (.beatChange period origin beat) s = .next (s.modTime (fun t => { t with beatPend := some ⟨period, origin, beat.toNat, none⟩ }))) ∧
    (∀ k, k < 16 → s.time.arm.getLsbD k = true → s.pwr.st ≠ .off →
      ((tgetD s.time.alm k 0).toNat ≤ s.now → ∃ t, exec (.ptAlarm k) s = .next t ∧ t.time.fired.getLsbD k = true ∧ t.time.arm.getLsbD k = false ∧
        t.time.pt = s.time.pt ∧ exec (.ptAlarm k) t = .next t) ∧
      (s.now < (tgetD s.time.alm k 0).toNat → exec (.ptAlarm k) s = .next s)))

/-- A SEND that passes the checks of its target lands in the window, its token enters Q2 and it is answered (R334, R336); one for another
job or outside
the window is refused with 0x3305 (R335), and one without room for its token waits (R336). The answer lets the SEND complete, with 0x3305
where it was refused; without one in time it ends with 0x3306. -/
def Obligations.SendLandsAndIsAnswered : Prop :=
  (∀ (s s1 : State) (m : SendMsg) (c : Ctx) (x : Vcore), s.fab.inbox = [] → s.fab.arrived = [] → s1 = s.modFab (fun b => { b with
      inbox := [(m, none)] }) → s.ctx? m.ctx = some c → tget c.vcs m.vc = some x → coreInReset s x.core = false →
    (c.job.toNat = m.job → m.addr + m.data.length ≤ x.winSize → arrivalRoom x = true →
      exec (.sendArrival m) s = .next (takeArrived ((answerSend ((spWrite s1 ⟨m.ctx, m.vc⟩ 0 false m.addr (withPoison (m.data, m.poison))).modVc
        ⟨m.ctx, m.vc⟩ (fun y => pushArrival y { val := BitVec.ofNat 32 m.addr, tag := BitVec.ofNat 16 m.tag })) m false).modFab (fun b => { b with
          inbox := [] })))) ∧
    (c.job.toNat = m.job → m.addr + m.data.length ≤ x.winSize → arrivalRoom x = false → exec (.sendArrival m) s = .next s1) ∧
    (c.job.toNat ≠ m.job ∨ x.winSize < m.addr + m.data.length → exec (.sendArrival m) s = .next (takeArrived
      ((answerSend (raiseCtx s1 0x3305 m.ctx (data3 0 m.src (curStep s c.part).toNat)) m true).modFab (fun b => { b with inbox := [] }))))) ∧
  (∀ (s : State) (w : SendWait), sendOf s w.msgid = some w →
    (∀ refused, exec (.sendAck w.msgid refused) s = .next (releaseOp (s.modFab (fun b => { b with
      sends := b.sends.filter (fun y => y.msgid != w.msgid) })) w.v w.op (if refused then some 0x3305 else none))) ∧
    (w.at_ + s.fab.sendTmo.toNat * 1000 ≤ s.now → exec (.sendTimeout w.msgid) s = .next (endSend
      (raiseCtx s 0x3306 w.v.ctx (data3 0 w.dst (curStep s (ctxPart s w.v.ctx)).toNat)) w (some 0x3306))) ∧
    (s.now < w.at_ + s.fab.sendTmo.toNat * 1000 → exec (.sendTimeout w.msgid) s = .next s))

/-- A contribution enters the collective of its virtual core with its step and attempt, or waits where its COLL has not been issued (R339,
R340); a norm
partial adds to its collective, which completes with the last rank's: the total of the open attempt is the sum of all partials (R170, R341).

At its deadline the gradient stream of an open attempt closes, and every collective due closes with its missing ranks counted once as stragglers,
folded or dropped by the policy (R182, R340); before it nothing closes. -/
def Obligations.CollectiveContributionsAndDeadlines : Prop :=
  (∀ (s : State) (v : VRef) (n : Nat), absorbs s v = false → n = ctxPart s v.ctx →
    (∀ m c, s.fab.colls.find? (fun c => matchesColl v m c && !c.done && (m.gathered || !(tget c.contrib m.rank).isSome)) = some c →
      (m.gathered = true ∨ 2 ≤ clOp c.desc ∨ (c.closed = false ∧
        (clGradb c.desc = false ∨ (staleTag s n m.step m.attempt = false ∧ pastDue s n c = false)))) →
      exec (.collArrival v m) s = .next (driveColl (modColl s v c.op (fun d => takeMsg d m)) v c.op)) ∧
    (∀ m, s.fab.colls = [] → (s.vc? v).isSome = true →
      (staleTag s n m.step m.attempt = false →
        exec (.collArrival v m) s = .next (s.modFab (fun b => { b with early := b.early ++ [(v, m, s.now)] }))) ∧
      (staleTag s n m.step m.attempt = true → exec (.collArrival v m) s = .next s)) ∧
    (∀ m c sums, s.fab.colls = [c] → matchesNorm v m c = true → c.differ = false → sums = tput c.sums m.rank (m.t, m.nonfin, m.ovr) →
      (sums.length < (membersOf s c.group).length →
        exec (.normsumPartial v m.toNormTag m.t m.nonfin m.ovr) s = .next (modColl s v c.op (fun d => { d with sums := tput d.sums m.rank (m.t, m.nonfin, m.ovr) }))) ∧
      ((membersOf s c.group).length ≤ sums.length → openNow s n c = true →
        ∃ u, exec (.normsumPartial v m.toNormTag m.t m.nonfin m.ovr) s = .next u ∧ (u.cmt n).totT = sums.foldl (fun a p => a + p.2.1) 0 ∧
          ((u.cmt n).nonfin = true ↔ ∃ p ∈ sums, p.2.2.1 = true) ∧ ((u.cmt n).ovr = true ↔ ∃ p ∈ sums, p.2.2.2 = true) ∧
          (u.att n).normIn = true)) ∧
    (∀ m, s.fab.colls = [] → (s.vc? v).isSome = true →
      (staleTag s n m.step m.attempt = false →
        exec (.normsumPartial v m.toNormTag m.t m.nonfin m.ovr) s = .next (s.modFab (fun b => { b with earlySums := b.earlySums ++ [(v, m)] }))) ∧
      (staleTag s n m.step m.attempt = true → exec (.normsumPartial v m.toNormTag m.t m.nonfin m.ovr) s = .next s))) ∧
  (∀ (s : State) (n dl : Nat), dl = (s.part n).active.gradDl.toNat → dl ≠ 0 → (s.att n).isOpen = true →
    (s.fab.colls = [] → (s.att n).openAt + dl ≤ s.now →
      exec (.gradDeadline n) s = .next (s.modAtt n (fun a => { a with gradClosed := true }))) ∧
    (s.fab.colls = [] → s.now < (s.att n).openAt + dl → exec (.gradDeadline n) s = .next s) ∧
    (∀ c t, s.fab.colls = [c] → ctxPart s c.v.ctx = n → c.closed = false → c.done = false → deadlineOf s n c = some t →
      (s.att n).openAt + dl ≤ s.now →
      (t ≤ s.now → exec (.gradDeadline n) s = .next (closeColl (s.modAtt n (fun a => { a with gradClosed := true })) n c)) ∧
      (s.now < t → exec (.gradDeadline n) s = .next (s.modAtt n (fun a => { a with gradClosed := true })))) ∧
    (∀ k, 0 < k → (s.att n).folded = false →
      ∃ t, countLate s n k true = t ∧ (t.cmt n).folded = satInc (s.cmt n).folded k ∧ (t.cmt n).dropped = (s.cmt n).dropped ∧
        t.host.raised = s.host.raised ++ [{
          code := 0x3201, part := some n, ctx := none, data := BitVec.ofNat 128 (data3 0 0 (curStep s n).toNat), ptv := s.time.valid,
          pt := if s.time.valid then s.time.pt else s.time.up }]) ∧
    (∀ k, 0 < k → (s.att n).dropped = true →
      ∃ t, countLate s n k false = t ∧ (t.cmt n).dropped = satInc (s.cmt n).dropped k ∧ t.host = s.host))

/-- A Starter flit lands in the slot that it names, whose other data is then no longer complete; the last makes the slot current and is confirmed;
a flit from a source without slots, or outside them, is refused with 0x3502 (R344). STARTER_CONFIRM ends the mirror of its step. -/
def Obligations.StarterFlitsFillTheirSlot : Prop :=
  ∀ (s : State),
    (∀ f : StarterFlit, tget s.fab.starter.rx f.src = none → exec (.starterReceive f) s = .next (raiseDev s 0x3502 (data3 0 f.src f.step.toNat))) ∧
    (∀ (f : StarterFlit) (x : StarterRx), tget s.fab.starter.rx f.src = some x →
      (inSlot x.a f.da f.data.length = false → inSlot x.b f.da f.data.length = false →
        exec (.starterReceive f) s = .next (raiseDev s 0x3502 (data3 0 f.src f.step.toNat))) ∧
      (inSlot x.a f.da f.data.length = true → accessRefusal s .starter f.da f.data.length = none →
        accessWaits s f.da f.data.length = false →
        (f.last = true → exec (.starterReceive f) s = .next (((devWrite s f.da (withPoison (f.data, f.poison))).modFab (fun b => { b with
          starter := { b.starter with rx := tput b.starter.rx f.src { x with aStep := some f.step, current := some false } } })).emit
            (.starterConfirm f.src f.step))) ∧
        (f.last = false → x.current = some true → exec (.starterReceive f) s = .next ((devWrite s f.da (withPoison (f.data, f.poison))).modFab
          (fun b => { b with starter := { b.starter with rx := tput b.starter.rx f.src { x with aStep := none } } }))))) ∧
    (∀ step, exec (.starterConfirm step) s = .next (s.modFab (fun b => { b with
      starter := { b.starter with last := step, toB := !b.starter.toB, busy := b.starter.busy.filter (fun p => p.2 != step) } })))

/-! ### The host interface -/

/-- A command ring (R368, R370 to R373): a doorbell moves its producer index, or stops the ring with 0x6101 where it names more entries than the
ring holds; a fetch takes the 64-byte entry at SQHEAD, completing an unknown opcode with 0x01, or stops the ring with 0x6102; a completion goes to
its slot with its phase; EN from 0 to 1 clears the indices; RESET disables every ring of the channel and discards what they had fetched. -/
def Obligations.CommandRingsCarryCommands : Prop :=
  ∀ (s : State) (fn ch r : Nat) (x : Ring), x = s.ring fn ch r → (s.fn fn).d3 = false → awake s = true →
    (∀ value, x.en = true → x.stopped = false → chanReady s fn ch = true →
      ((value - x.sqHead).toNat ≤ 2 ^ x.log2.toNat →
        ∃ t, exec (.commandDoorbell fn ch r value) s = .next t ∧ t = { s with host := t.host } ∧ (t.ring fn ch r).prod = value ∧
          (value, s.host.bellNo) ∈ (t.ring fn ch r).bells ∧ t.host.bellNo = s.host.bellNo + 1 ∧ (t.ring fn ch r).sqHead = x.sqHead) ∧
      (2 ^ x.log2.toNat < (value - x.sqHead).toNat →
        exec (.commandDoorbell fn ch r value) s = .next (raise (s.modRing fn ch r (fun x => { x with stopped := true })) 0x6101 (some fn) none 0))) ∧
    (∀ e, x.en = true → x.stopped = false → x.sqHead ≠ x.prod → (s.fn fn).bme = true → chanReady s fn ch = true →
      (x.sqHead - x.cons).toNat < 2 ^ x.log2.toNat →
      e = BitVec.ofNat 512 (memNat s.host.bytes (x.base.toNat + 64 * (x.sqHead.toNat % 2 ^ x.log2.toNat)) 64) →
      exec (.commandFetch fn ch r true) s = .next (raise (s.modRing fn ch r (fun x => { x with stopped := true })) 0x6102 (some fn) none 0) ∧
      (x.fetched = [] → x.running = false → x.done = none →
        (chanRemote s fn ch = false → knownOps.contains (fld e 15 0) = true →
          exec (.commandFetch fn ch r false) s = .next (s.modRing fn ch r (fun x => { x with fetched := [e], sqHead := x.sqHead + 1 }))) ∧
        (chanRemote s fn ch = false → knownOps.contains (fld e 15 0) = false →
          ∃ t, exec (.commandFetch fn ch r false) s = .next t ∧ (t.ring fn ch r).sqHead = x.sqHead + 1 ∧
            (t.ring fn ch r).done = some ⟨BitVec.ofNat 16 (fld e 31 16), 1, 0⟩) ∧
        (chanRemote s fn ch = true → chanReach s fn ch = true →
          exec (.commandFetch fn ch r false) s = .next ((s.modRing fn ch r (fun x => { x with
            fetched := [e], sqHead := x.sqHead + 1, running := true })).emit (.mgmt ch (.command r e)))))) ∧
    (∀ d, x.done = some d → (s.fn fn).bme = true →
      (x.drop = 0 → x.fetched.tail = [] → x.ien = false →
        exec (.completionPost fn ch r) s = .next ((s.modHost (fun h => { h with
            bytes := memPutAll h.bytes (x.cplBase.toNat + 16 * (x.cqTail.toNat % 2 ^ x.log2.toNat))
              (natToBytes 16 ((cplBits d.cid d.status.toNat d.result.toNat).toNat + (1 - x.cqTail.toNat / 2 ^ x.log2.toNat % 2) * 2 ^ 24 +
                x.sqHead.toNat * 2 ^ 32)) })).modRing fn ch r (fun x => { x with
          cqTail := x.cqTail + 1, fetched := [], done := none, running := false }))) ∧
      (x.drop ≠ 0 → x.fetched.tail = [] →
        exec (.completionPost fn ch r) s = .next (s.modRing fn ch r (fun x => { x with
          fetched := [], done := none, running := false, drop := x.drop - 1 })))) ∧
    (∀ value, x.en = true → x.stopped = false →
      ((value - x.cons).toNat ≤ (x.cqTail - x.cons).toNat →
        exec (.completionDoorbell fn ch r value) s = .next (s.modRing fn ch r (fun x => { x with cons := value }))) ∧
      ((x.cqTail - x.cons).toNat < (value - x.cons).toNat →
        exec (.completionDoorbell fn ch r value) s = .next (raise (s.modRing fn ch r (fun x => { x with stopped := true })) 0x6101 (some fn) none 0))) ∧
    (x.en = false → exec (.ringEnable fn ch r true) s = .next (s.modRing fn ch r (fun x => { x with
      en := true, stopped := false, sqHead := 0, cqTail := 0, prod := 0, cons := 0, bells := [] }))) ∧
    (exec (.ringEnable fn ch r false) s = .next (s.modRing fn ch r (fun x => { x with en := false }))) ∧
    (∃ t, exec (.channelReset fn ch) s = .next t ∧ (t.chan fn ch).evrEn = false ∧
      (∀ q y, tget (s.chan fn ch).rings q = some y → t.ring fn ch q = { y with en := false, drop := y.fetched.length }) ∧
      t.mem = s.mem ∧ t.host.bytes = s.host.bytes ∧ (∀ g, g ≠ ch → t.chan fn g = s.chan fn g))

/-- An event without a partition goes to PF0's channel (R376): a disabled ring or EVENT_MASK discards it, a full ring counts it lost, and
else its record
lies at the head with its phase (R374); one whose ring cannot be written waits (R355). An MSI-X message held back by its interval goes when
that is over (R378). Management messages carry a command to
its member, its completion back, and events; a member that is lost fails what runs there, with 0x6503 (R320, R367, R393). -/
def Obligations.EventsAndMessagesReachTheHost : Prop :=
  ∀ (s : State),
    (∀ fn ch value, (s.fn fn).d3 = false → awake s = true →
      exec (.eventDoorbell fn ch value) s = .next (s.modChan fn ch (fun c => { c with evrTail := value }))) ∧
    (∀ e rest c u, awake s = true → s.host.raised = e :: rest → e.part = none → isPlatformEvent e = false → s.fab.podup = false →
      c = s.chan 0 s.fab.slot.toNat → u = s.modHost (fun h => { h with raised := rest }) →
      ((c.evrEn = false ∨ canDma s 0 = true ∧ c.maskClass.getLsbD (e.code.toNat / 4096 - 1) = true ∨
          canDma s 0 = true ∧ severity e.code.toNat < c.maskSev.toNat) → exec .eventPost s = .next u) ∧
      (canDma s 0 = true → c.evrEn = true → c.maskClass.getLsbD (e.code.toNat / 4096 - 1) = false → c.maskSev.toNat ≤ severity e.code.toNat →
        (2 ^ c.evrLog2.toNat ≤ (c.evrHead - c.evrTail).toNat →
          exec .eventPost s = .next (u.modChan 0 s.fab.slot.toNat (fun c => { c with evrLost := satInc c.evrLost, lostNew := c.lostNew + 1 }))) ∧
        ((c.evrHead - c.evrTail).toNat < 2 ^ c.evrLog2.toNat → c.lostNew = 0 → c.evrIen = false →
          exec .eventPost s = .next ((u.modHost (fun h => { h with
            bytes := memPutAll h.bytes (c.evrBase.toNat + 32 * (c.evrHead.toNat % 2 ^ c.evrLog2.toNat))
              (natToBytes 32 (setBits (eventRecord s e) 0 0 (1 - c.evrHead.toNat / 2 ^ c.evrLog2.toNat % 2))) })).modChan 0 s.fab.slot.toNat
            (fun c => { c with evrHead := c.evrHead + 1 }))))) ∧
    (∀ e, s.host.raised = [e] → eventReady s e = false → exec .eventPost s = .next s) ∧
    (∀ fn vec w t, w = tgetD (s.fn fn).vecs vec {} → w.lastAt = some t → w.moderated = true →
      (s.now < t + 1000 * vecImod s fn vec → exec (.msixModerationExpiry fn vec) s = .next s) ∧
      (t + 1000 * vecImod s fn vec ≤ s.now → w.masked = false → canSend (s.fn fn) = true →
        ∃ u, exec (.msixModerationExpiry fn vec) s = .next u ∧ u.host.msix = s.host.msix ++ [(fn, vec)] ∧
          tget (u.fn fn).vecs vec = some { w with pend := false, moderated := false, lastAt := some s.now }) ∧
      (t + 1000 * vecImod s fn vec ≤ s.now → (w.masked = true ∨ canSend (s.fn fn) = false) →
        ∃ u, exec (.msixModerationExpiry fn vec) s = .next u ∧ u.host.msix = s.host.msix ∧
          tget (u.fn fn).vecs vec = some { w with pend := true, moderated := false })) ∧
    (∀ slot r e, (knownOps.contains (fld e 15 0) = true → exec (.mgmtMessage slot (.command r e)) s = .next (s.modHost (fun h => { h with
        remote := tmod h.remote (slot * 8 + r) [] (· ++ [e]), remoteBells := tmod h.remoteBells (slot * 8 + r) [] (· ++ [h.bellNo]),
        bellNo := h.bellNo + 1 }))) ∧
      (knownOps.contains (fld e 15 0) = false → exec (.mgmtMessage slot (.command r e)) s =
        .next (s.emit (.mgmt slot (.completion r (cplBits (BitVec.ofNat 16 (fld e 31 16)) 1 0)))))) ∧
    (∀ slot r c e l, (s.ring 0 slot r).running = true → (s.ring 0 slot r).fetched = e :: l →
      exec (.mgmtMessage slot (.completion r c)) s = .next (s.modRing 0 slot r (fun x => { x with
        running := false, done := some ⟨BitVec.ofNat 16 (fld e 31 16), BitVec.ofNat 8 (fld c 23 16), BitVec.ofNat 64 (fld c 127 64)⟩ }))) ∧
    (∀ slot rec_, exec (.mgmtMessage slot (.event rec_)) s = .next (deliverEvent s rec_.toNat 0 slot)) ∧
    (∀ slot r x e l, (s.chan 0 slot).rings = [(r, x)] → x.running = true → x.fetched = e :: l →
      ∃ t, exec (.mgmtMessage slot .unreachable) s = .next t ∧ (t.ring 0 slot r).running = false ∧
        (t.ring 0 slot r).done = some ⟨BitVec.ofNat 16 (fld e 31 16), 0x0C, 0⟩ ∧ t.host.raised = s.host.raised ++ [{
          code := 0x6503, part := none, ctx := none, data := 0, ptv := s.time.valid, pt := if s.time.valid then s.time.pt else s.time.up }])

/-- BAR2 reads answer device memory, poisoned data with event 0x2304 (R292), or all-ones with the event of the refusal (R366, R268); writes
reach it byte for byte; an AtomicOp request is unsupported, and a function without a partition has every access refused (R355, R358). A register reads back what was
written to its RW fields (R8), reserved bits stay 0 (R9) and a write of 1 clears a W1C flag; RNG_TOUT answers a half of the mix of the test
inputs (R210);
SEL is written by PF0 alone (R479). -/
def Obligations.HostAccessesMeetMemoryAndRegisters : Prop :=
  ∀ (s : State) (fn : Nat), (s.fn fn).d3 = false →
    (∀ off n da, da = barDa s fn off →
      (s.pwr.st = .run ∨ s.pwr.st = .idle →
        (∀ code, barRefusal s fn da n = some code → exec (.bar2Access fn (.read off n)) s =
          .next ((raise s code (some 0) none (data2 da 0 (regionOf da))).modHost (fun h => { h with
            reply := some (.data (List.replicate n 0xFF) false) }))) ∧
        (barRefusal s fn da n = none → accessWaits s da n = false → s.mem.latent = [] →
          (strongest (devRead s da n) = none → exec (.bar2Access fn (.read off n)) s = .next ((demand s none da n).modHost (fun h => { h with
            reply := some (.data (devBytes s da n) false) }))) ∧
          (∀ g, strongest (devRead s da n) ≠ none → g = poisonedAt da (devRead s da n) → exec (.bar2Access fn (.read off n)) s =
            .next (raiseDev ((demand s none da n).modHost (fun h => { h with reply := some (.data (devBytes s da n) true) })) 0x2304
              (data2 g 0 (regionOf g)))))) ∧
      (s.pwr.st = .hold → exec (.bar2Access fn (.read off n)) s = .next (s.modHost (fun h => { h with
        reply := some (.data (List.replicate n 0xFF) false) })))) ∧
    (∀ off bs ep da, da = barDa s fn off → bs ≠ [] →
      (s.pwr.st = .run ∨ s.pwr.st = .idle →
        (∀ code, barRefusal s fn da bs.length = some code → exec (.bar2Access fn (.write off (bs.map some) ep)) s =
          .next (raise s code (some 0) none (data2 da 0 (regionOf da)))) ∧
        (barRefusal s fn da bs.length = none → accessWaits s da bs.length = false →
          exec (.bar2Access fn (.write off (bs.map some) ep)) s = .next (devWrite s da
            (bs.map (fun b => (b, if ep then some Policy.context else none)))))) ∧
      (s.pwr.st = .hold → exec (.bar2Access fn (.write off (bs.map some) ep)) s = .next s)) ∧
    (∀ off, s.pwr.st ≠ .off → exec (.bar2Access fn (.atomic off)) s = .next (s.modHost (fun h => { h with reply := some .unsupported }))) ∧
    (∀ da n, fn ≠ 0 → (s.part fn).exist = false → barRefusal s fn da n ≠ none) ∧
    (∀ value, fn = 0 → awake s = true → ∀ n < 256,
      ∃ t, exec (.registerWrite 0 (0x100000 + 4096 * n + 0x718) 8 value) s = .next t ∧
        readReg t 0 (0x100000 + 4096 * n + 0x718) = ((s.core n).issCtl &&& ~~~0xFFFFFF#64) ||| (value &&& 0xFFFFFF#64) ∧
        t.mem = s.mem ∧ t.parts = s.parts ∧ t.ctxs = s.ctxs ∧ (∀ m, m ≠ n → t.core m = s.core m)) ∧
    (∀ value off, fn = 0 → awake s = true → 0x210000 ≤ off → off < 0x220000 → off % 8 = 0 → exec (.registerWrite 0 off 8 value) s = .next s) ∧
    (∀ value, fn = 0 → awake s = true → value.getLsbD 63 = true →
      exec (.registerWrite 0 0x200020 8 value) s = .next (s.modMem (fun m => { m with ue := 0 }))) ∧
    (∀ n hi, fn = 0 → n < 256 → awake s = true → exec (.rngToutRead 0 n hi) s = .next (s.modHost (fun h => { h with
      reply := some (.data (natToBytes 8 (((mix (s.core n).tseed (s.core n).tstream (s.core n).tidx (s.core n).tstep).toNat /
        (if hi then 2 ^ 64 else 1)) % 2 ^ 64))
        false) }))) ∧
    (∀ sel, awake s = true → s.mgmt.obsEn = false →
      (fn = 0 → exec (.obsSelWrite 0 sel) s = .next (s.modMgmt (fun m => { m with sel := sel, selSrc := false, obs := none }))) ∧
      (fn ≠ 0 → exec (.obsSelWrite fn sel) s = .next s))

/-- The commit selector table at 0x2000 to 0x23FF of a partition's block: bit 2n is SEL of layer n and bit 2n + 1 its ARMED bit, read-only, 0 at
reset (R188). -/
def Obligations.SelectorTableReads : Prop :=
  (∀ (s : State) (fn off n layer : Nat), layer < 4096 → s.pwr.st ≠ .carousel → blockOf s fn off = some (.part n, 0x2000 + 8 * (layer / 32)) →
    (readReg s fn off).getLsbD (2 * (layer % 32)) = (s.cmt n).sel.getLsbD layer ∧
    (readReg s fn off).getLsbD (2 * (layer % 32) + 1) = (s.cmt n).armed.getLsbD layer) ∧
  (∀ (s : State) (fn off size n o : Nat) (value : Word64), blockOf s fn (off / 8 * 8) = some (.part n, o) → 0x2000 ≤ o → o < 0x2400 →
    ∃ t, exec (.registerWrite fn off size value) s = .next t ∧ (∀ p, t.cmt p = s.cmt p) ∧ t = { s with parts := t.parts }) ∧
  (∀ (fn off n o : Nat), blockOf State.reset fn off = some (.part n, o) → 0x2000 ≤ o → o < 0x2400 → readReg State.reset fn off = 0)

/-- A function-level reset returns a function to its reset values, all but the commands that are running, whose completions are not posted, and
leaves no context of its partition, with 0x6502 (R359); a conventional reset does so for every function and leaves none enabled,
and, where RST_ON_PERST asks, requests a device reset, and waits in CAROUSEL (R360, R463). VF Enable cleared disables
every VF (R360). Bus
mastering and the power state of a function decide what it may send (R355, R356). RELEASE resumes a halted member and ABANDON gives reason 7
(R187). -/
def Obligations.FunctionsResetMasterAndRelease : Prop :=
  ∀ (s : State),
    (∀ fn, (s.part fn).exist = false → fn ≠ 0 → ∃ t, exec (.flr fn) s = .next t ∧ t = raiseDev (s.modFn fn freshFn) 0x6502 0) ∧
    (∀ f : Fn, freshFn f = { enabled := f.enabled, chans := (freshFn f).chans } ∧
      (∀ ch c, tget (freshFn f).chans ch = some c → c = { rings := c.rings } ∧
        ∀ r x, tget c.rings r = some x → x = {} ∨ x = { fetched := x.fetched, running := true, drop := 1 })) ∧
    (∀ fn, fn ≤ 32 → (fn = 0 ∨ (s.part fn).exist = true) → partCtxs s fn = [] →
      exec (.flr fn) s = .next (raiseDev (doScopeReset (dropChecks (s.modFn fn freshFn) fn) 2 fn []) 0x6502 0)) ∧
    (∀ perst, s.pwr.st = .carousel → ∃ t, exec (.perstOrHotReset perst) s = .next t ∧ t.host.resetDue = true ∧ t.host.fns = s.host.fns ∧
      (perst = true → t.host.perst = true ∧ t.host.cfgReady = false) ∧ t.ctxs = s.ctxs ∧ t.parts = s.parts) ∧
    (∀ perst, awake s = true → ∃ t, exec (.perstOrHotReset perst) s = .next t ∧ t.host.resetDue = false ∧
      (∀ p ∈ t.host.fns, ∃ f, p.2 = { freshFn f with enabled := false }) ∧
      (s.mgmt.rstOnPerst = true → t.rel.rstBusy = true ∧ (4, 0, none) ∈ t.rel.rstQueue)) ∧
    (exec .perstDeassert s = .next (s.modHost (fun h => { h with perst := false, training := true, cfgReady := s.mgmt.fwstate != 0 }))) ∧
    (∃ t, exec .vfEnableClear s = .next t ∧ ∀ fn, fn ≠ 0 → (t.fn fn).enabled = false) ∧
    (∀ fn, (∀ v ∈ (s.fn fn).vecs, v.2.pend = false ∨ v.2.masked = true) →
      exec (.busMasterEnable fn) s = .next (s.modFn fn (fun f => { f with bme := true, enabled := true, msixEn := true })) ∧
      exec (.returnToD0 fn) s = .next (s.modFn fn (fun f => { f with d3 := false }))) ∧
    (∀ fn, exec (.d3hotEntry fn) s = .next (s.modFn fn (fun f => { f with d3 := true }))) ∧
    (∀ fn n, (fn = 0 ∨ fn = n) → (s.fn fn).d3 = false → awake s = true →
      ((s.cmt n).halted = true → ∃ t, exec (.release fn n) s = .next t ∧ (t.cmt n).halted = false ∧ (t.cmt n).stepC = (s.cmt n).stepC ∧
        t.fab.out = s.fab.out ++ [.resume (s.self n) (curStep s n) (s.cmt n).attempt]) ∧
      ((s.cmt n).halted = false → exec (.release fn n) s = .next s) ∧
      ((s.att n).isOpen = true → exec (.abandon fn n) s = .next (causeAbandon s n 7)) ∧
      ((s.att n).isOpen = false → exec (.abandon fn n) s = .next s)) ∧
    (∀ fn n, fn ≠ 0 → fn ≠ n → exec (.release fn n) s = .next s ∧ exec (.abandon fn n) s = .next s)

/-! ### Mailbox commands -/

/-- How a mailbox command runs (R371, R372, R379): nothing happens until it heads its ring; a status of the rules that every command has
turns it away;
then its own rules answer, with a completion now or later.

Who may issue what (R354, R379, R393): a VF's PF0-only command ends with 0x03, one with a reserved PARAM bit with 0x02, one of a VF
without a partition
with 0x06, and while firmware does not run every command but those of the boot ROM and of bring-up ends with 0x0E. -/
def Obligations.MailboxOrderAndGate : Prop :=
  (∀ (o : Origin) (e : Entry) (i : Instr) (c : Cmd),
    (i, c) ∈ [(Instr.identify o e, cmdIdentify), (.eventMask o e, cmdEventMask), (.partCreate o e, cmdPartCreate), (.partResize o e, cmdPartResize),
      (.partRemove o e, cmdPartRemove), (.partQuery o e, cmdPartQuery), (.cfgSwap o e, cmdCfgSwap), (.cfgCopy o e, cmdCfgCopy),
      (.fwStage o e, cmdFwStage), (.fwActivate o e, cmdFwActivate), (.fwQuery o e, cmdFwQuery), (.regionSet o e, cmdRegionSet),
      (.regionQuery o e, cmdRegionQuery), (.pantryShare o e, cmdPantryShare), (.hostCopy o e, cmdHostCopy), (.linkCtlCommand o e, cmdLinkCtl),
      (.fabricSet o e, cmdFabricSet), (.ptSet o e, cmdPtSet), (.cgroupSet o e, cmdCgroupSet), (.cgroupClear o e, cmdCgroupClear),
      (.starterRecv o e, cmdStarterRecv), (.starterSet o e, cmdStarterSet), (.reset o e, cmdReset), (.snetSet o e, cmdSnetSet),
      (.repairQuery o e, cmdRepairQuery), (.fieldTest o e, cmdFieldTest), (.diagRead o e, cmdDiagRead), (.powerState o e, cmdPowerState),
      (.partIdle o e, cmdPartIdle), (.sensorRead o e, cmdSensorRead), (.powerCap o e, cmdPowerCap), (.ctxCreate o e, cmdCtxCreate),
      (.ctxDestroy o e, cmdCtxDestroy), (.ctxSave o e, cmdCtxSave), (.ctxRestore o e, cmdCtxRestore), (.ctxSetp o e, cmdCtxSetp),
      (.routineQuery o e, cmdRoutineQuery), (.ctxQuery o e, cmdCtxQuery), (.ctxRun o e, cmdCtxRun)] →
    ∀ s : State,
      (¬ CmdHeads s c o e → exec i s = .next s) ∧
      (∀ st, CmdHeads s c o e → gate s c o e = some st → exec i s = .next (finish s o st 0)) ∧
      (CmdHeads s c o e → gate s c o e = none → c.wait s e (targetPart o e) = true → exec i s = .next s) ∧
      (∀ t st res, CmdRuns s c o e → c.body (setRunning s o) o e (targetPart o e) = (t, some (st, res)) → exec i s = .next (finish t o st res)) ∧
      (∀ t, CmdRuns s c o e → c.body (setRunning s o) o e (targetPart o e) = (t, none) → exec i s = .next t)) ∧
  (∀ (s : State) (c : Cmd) (o : Origin) (e : Entry),
    (s.mgmt.bootrom = true → c.rom e = false → gate s c o e = some 0x0E) ∧
    (s.mgmt.bootrom = false → s.mgmt.fwstate = 1 → c.bringUp = false → gate s c o e = some 0x0E) ∧
    (s.mgmt.bootrom = false → s.mgmt.fwstate = 2 →
      (∀ fn ch r, o = .ring fn ch r → fn ≠ 0 →
        ((s.part fn).exist = false → c.free = false → gate s c o e = some 0x06) ∧
        ((s.part fn).exist = true → c.pf0 = true → gate s c o e = some 0x03)) ∧
      (o = .oob → c.oob = false → gate s c o e = some 0x03) ∧
      (∀ ch r, o = .ring 0 ch r →
        (∀ i, 64 ≤ i → i < 512 → e.getLsbD i = true → (∀ f ∈ c.fields, ¬ (f.2 ≤ i ∧ i ≤ f.1)) → gate s c o e = some 0x02) ∧
        (32 < fld e 37 32 → gate s c o e = some 0x02))))

/-- IDENTIFY, EVENT_MASK and the partition and configuration commands (R380, R386). A partition takes its clusters from partition 0 and
gives them back; a
swap waits for its beat mark; CFG_COPY copies the active registers to the shadow set.

The firmware commands (R387 to R390, R391): a staging session belongs to its source; its first chunk marks the slot that does not run
empty, and the last
verifies the image, which then fills that slot, or ends with 0x0D, or with 0x0F below the least security version. FW_ACTIVATE prefers the
other slot from the
next reset, or starts it live on the standby core. -/
def Obligations.ManagementAndFirmwareCommands : Prop :=
  (∀ (s r : State) (o : Origin) (e : Entry) (n k m : Nat), r = setRunning s o → n = targetPart o e → k = fld e 69 64 → m = fld e 127 96 →
    (CmdRuns s cmdIdentify o e →
      exec (.identify o e) s = .next (finish (if fld e 127 64 = 0 then r else r.modHost (fun h => { h with
          bytes := memPutAll h.bytes (fld e 127 64) ((List.range 4096).map (Config.identifyPage (identifyFacts r (rightsOf o == 0)))) })) o 0
        (r.devId % 4096 + r.mgmt.fwstate.toNat * 2 ^ 12 + r.mgmt.fwver.toNat * 2 ^ 16 + 0xB1 * 2 ^ 48))) ∧
    (CmdRuns s cmdEventMask o e →
      exec (.eventMask o e) s = .next (finish (r.modChan (partChan r n).1 (partChan r n).2 (fun c => { c with
        maskClass := BitVec.ofNat 7 (fld e 71 65), maskSev := BitVec.ofNat 3 (fld e 74 72) })) o 0 0)) ∧
    (CmdRuns s cmdPartCreate o e → 1 ≤ k → k ≤ 32 → m ≠ 0 →
      ((r.part k).exist = false → (∀ j < 32, bit m j = true → holdsCluster r 0 j = true ∧ clusterUsed r j = false) →
        exec (.partCreate o e) s = .next (finish (raiseDev (r.modPart k (fun p => { p with exist := true, clusters := BitVec.ofNat 32 m })) 0x6501
          (data6 0x6010 (fld e 31 16) 0 0)) o 0 0)) ∧
      ((r.part k).exist = true → exec (.partCreate o e) s = .next (finish r o 7 0)) ∧
      ((r.part k).exist = false → (∃ j < 32, bit m j = true ∧ (holdsCluster r 0 j = false ∨ clusterUsed r j = true)) →
        exec (.partCreate o e) s = .next (finish r o 4 0))) ∧
    (CmdRuns s cmdPartResize o e → 1 ≤ k → k ≤ 32 → m ≠ 0 → (r.part k).exist = true →
      ((∀ j < 32, holdsCluster r k j = bit m j ∨ (holdsCluster r k j || holdsCluster r 0 j) = true ∧ clusterUsed r j = false) →
        exec (.partResize o e) s = .next (finish (raiseDev (r.modPart k (fun p => { p with clusters := BitVec.ofNat 32 m })) 0x6501
          (data6 0x6011 (fld e 31 16) 0 0)) o 0 0)) ∧
      ((∃ j < 32, holdsCluster r k j ≠ bit m j ∧ clusterUsed r j = true) → exec (.partResize o e) s = .next (finish r o 4 0))) ∧
    (CmdRuns s cmdPartRemove o e → 1 ≤ k → k ≤ 32 → (r.part k).exist = true →
      (ownsRegion r k = false → partCtxs r k = [] → (r.part k).swap = none →
        ∃ t, exec (.partRemove o e) s = .next (finish t o 0 0) ∧ (t.part k).exist = false ∧ (∀ q, q ≠ k → t.part q = r.part q) ∧
          t.fab.groups = r.fab.groups.filter (fun g => g.2.owner != k) ∧ t.mem.share = tdel r.mem.share k ∧
          t.mem.bytes = r.mem.bytes ∧ t.mem.region = r.mem.region) ∧
      (ownsRegion r k = true ∨ partCtxs r k ≠ [] → exec (.partRemove o e) s = .next (finish r o 4 0))) ∧
    (CmdRuns s cmdPartQuery o e →
      (partExists r n = true → exec (.partQuery o e) s = .next (finish r o 0 ((clusterSet r n).toNat + (partCtxs r n).length * 2 ^ 32 + 2 ^ 39))) ∧
      (partExists r n = false → exec (.partQuery o e) s = .next (finish r o 0 0))) ∧
    (CmdRuns s cmdCfgSwap o e →
      ((r.part n).swap = none → r.time.beatNum.toNat + 2 ≤ fld e 127 64 →
        exec (.cfgSwap o e) s = .next (r.modPart n (fun p => { p with swap := some ⟨fld e 127 64, o⟩ }))) ∧
      ((r.part n).swap = none → fld e 127 64 < r.time.beatNum.toNat + 2 → exec (.cfgSwap o e) s = .next (finish r o 7 0)) ∧
      (∀ w, (r.part n).swap = some w → exec (.cfgSwap o e) s = .next (finish r o 4 0))) ∧
    (CmdRuns s cmdCfgCopy o e → exec (.cfgCopy o e) s = .next (finish (r.modPart n (fun p => { p with shadow := p.active })) o 0 0))) ∧
  (∀ (s r : State) (o : Origin) (e : Entry) (n off : Nat) (bs img : List Byte), r = setRunning s o → n = fld e 159 128 → off = fld e 191 160 →
    bs = memBytes r.host.bytes (fld e 127 64) n →
    (CmdRuns s cmdFwStage o e → off + n ≤ 25165824 →
      (bit e.toNat 192 = false → n % 4096 = 0 → r.mgmt.staging = none →
        exec (.fwStage o e) s = .next (finish (r.modMgmt (fun q => { q with
          imgA := if q.slot then .empty else q.imgA, imgB := if q.slot then q.imgB else .empty,
          staging := some (sourceOf o, memPutAll [] off bs) })) o 0 0)) ∧
      (∀ cells, bit e.toNat 192 = false → n % 4096 = 0 → r.mgmt.staging = some (sourceOf o, cells) →
        exec (.fwStage o e) s = .next (finish (r.modMgmt (fun q => { q with staging := some (sourceOf o, memPutAll cells off bs) })) o 0 0)) ∧
      (∀ p, r.mgmt.staging = some p → p.1 ≠ sourceOf o → (bit e.toNat 192 = true ∨ n % 4096 = 0) → exec (.fwStage o e) s = .next (finish r o 4 0)) ∧
      (∀ cells, bit e.toNat 192 = true → r.mgmt.staging = some (sourceOf o, cells) → img = stagedBytes (memPutAll cells off bs) →
        (Config.imageVerifies img = false →
          exec (.fwStage o e) s = .next (finish (r.modMgmt (fun q => { q with staging := none })) o 0x0D 0)) ∧
        (Config.imageVerifies img = true → Config.imageSvn img < r.mgmt.minSvn →
          exec (.fwStage o e) s = .next (finish (r.modMgmt (fun q => { q with staging := none })) o 0x0F 0)) ∧
        (Config.imageVerifies img = true → r.mgmt.minSvn ≤ Config.imageSvn img →
          exec (.fwStage o e) s = .next (finish (raiseDev (r.modMgmt (fun q => { q with
            staging := none, imgA := if q.slot then .staged img else q.imgA, imgB := if q.slot then q.imgB else .staged img })) 0x6401 0) o 0 0)))) ∧
    (CmdRuns s cmdFwActivate o e →
      (bit e.toNat 64 = false → slotImage r (!r.mgmt.slot) ≠ none →
        exec (.fwActivate o e) s = .next (finish (r.modMgmt (fun q => { q with preferB := !q.slot })) o 0 0)) ∧
      (bit e.toNat 64 = false → slotImage r (!r.mgmt.slot) = none → exec (.fwActivate o e) s = .next (finish r o 7 0)) ∧
      (bit e.toNat 64 = true → slotImage r (!r.mgmt.slot) = some img → r.mgmt.standbyOk = true → Config.imageSelfCheck img = true →
        othersRun r (some o) = false →
        exec (.fwActivate o e) s = .next (finish (raiseDev (r.modMgmt (fun q => { q with
          slot := !q.slot, rmcore := !q.rmcore, fwver := Config.imageVersion img })) 0x6404 0) o 0 0)) ∧
      (bit e.toNat 64 = true → slotImage r (!r.mgmt.slot) = some img → r.mgmt.standbyOk = true → Config.imageSelfCheck img = false →
        exec (.fwActivate o e) s = .next (finish (raiseDev r 0x6402 0) o 0x0D 0))) ∧
    (CmdRuns s cmdFwQuery o e →
      exec (.fwQuery o e) s = .next (finish r o 0 (r.mgmt.fwver.toNat + slotVersion r (!r.mgmt.slot) * 2 ^ 32))))

/-- REGION_SET writes the masked bits of each entry of its range (R270). It completes with status 0 at once where no entry changes in a way that
clears; else the regions wait for REGION_CLEAR with ZEROING set, and it completes after it (R271). An entry in use, or one that the placement or the
scratch banks do not allow, ends it with 0x0B and 0x2003; reserved bits and codes with 0x02; a VF writes only what R270 lets it, and else gets 0x03.
REGION_QUERY completes with the entry of a region that its sender may see, and else with 0x03 (R381).

PANTRY_SHARE completes with status 0 and sets a share whose banks fit, and writes back the lines of banks that their holder has lost; one whose
banks do not fit ends with 0x0B and 0x2201 (R282). HOST_COPY moves bytes between host and device memory either way and completes with their number
(R381), 0x0F where it read poison (R292); a region that refuses it ends it with 0x0B and its event (R267). -/
def Obligations.RegionShareAndCopyCommands : Prop :=
  (∀ (s r : State) (o : Origin) (e : Entry) (n first count : Nat) (v m : Word64) (new : Nat → Word64) (inside mayWrite free : Prop) (tbl : Tab Word64),
    r = setRunning s o → n = targetPart o e → first = fld e 82 64 → count = fld e 102 83 → v = BitVec.ofNat 64 (fld e 191 128) →
    m = BitVec.ofNat 64 (fld e 255 192) → (∀ q, new q = maskWrite (entry r q) v (m &&& 0x3FFFF)) →
    (inside ↔ count ≠ 0 ∧ first + count ≤ 524288 ∧ v &&& 0xFFFFFF00FFE00000 = 0 ∧ m &&& 0xFFFFFF00FFE00000 = 0 ∧
      ∀ q, first ≤ q → q < first + count → entryOk (new q) = true) →
    (mayWrite ↔ rightsOf o = 0 ∨ m &&& 0x3FFFF &&& ~~~0x27C00#64 = 0 ∧ ∀ q, first ≤ q → q < first + count →
      reValid (entry r q) = true ∧ reOwner (entry r q) = n ∧ (rePhint (entry r q) = 2 ↔ rePhint (new q) = 2)) →
    tbl = writtenTable r.mem.region first count v (m &&& 0x3FFFF) →
    (free ↔ (∀ q, first ≤ q → q < first + count → reMaps (entry r q) = 0) ∧
      ((∀ q, first ≤ q → q < first + count → reIl (entry r q) = reIl (new q)) ∨ placed tbl first count = true) ∧
      ((∀ q, first ≤ q → q < first + count → clears (entry r q) (new q) = true → rePhint (entry r q) ≠ 2 ∧ rePhint (new q) ≠ 2) ∨
        banksFit r.mem.fwBanks r.mem.share tbl = true)) →
    (CmdRuns s cmdRegionSet o e →
      (¬ inside → exec (.regionSet o e) s = .next (finish r o 2 0)) ∧
      (inside → ¬ mayWrite → exec (.regionSet o e) s = .next (finish r o 3 0)) ∧
      (inside → mayWrite → (∀ q, first ≤ q → q < first + count → clears (entry r q) (new q) = false) →
        ∃ t, exec (.regionSet o e) s = .next (finish t o 0 0) ∧
          (∀ q, entry t q = if first ≤ q ∧ q < first + count then new q else entry r q) ∧
          t.mem.bytes = r.mem.bytes ∧ t.mem.clearing = r.mem.clearing ∧ t.host = r.host ∧ t.parts = r.parts) ∧
      (inside → mayWrite → (∃ q, first ≤ q ∧ q < first + count ∧ clears (entry r q) (new q) = true) →
        (¬ free → exec (.regionSet o e) s = .next (finish (raise r 0x2003 (some n) none (data2 0 0 first)) o 0x0B 0x2003)) ∧
        (free → ∃ t, exec (.regionSet o e) s = .next t ∧ (o, first, count) ∈ t.mem.clearFor ∧ t.mem.bytes = r.mem.bytes ∧ t.host = r.host ∧
          (∀ q, first ≤ q → q < first + count → (clears (entry r q) (new q) = true → q ∈ t.mem.clearing ∧ entry t q = setFld (new q) 18 18 1) ∧
            (clears (entry r q) (new q) = false → entry t q = new q)) ∧
          (∀ q, (q < first ∨ first + count ≤ q) → entry t q = entry r q)))) ∧
    (CmdRuns s cmdRegionQuery o e →
      (rightsOf o = 0 ∨ reValid (entry r first) = true ∧ reOwner (entry r first) = n →
        exec (.regionQuery o e) s = .next (finish r o 0 (entryRead r first).toNat)) ∧
      (rightsOf o ≠ 0 → (reValid (entry r first) = false ∨ reOwner (entry r first) ≠ n) → exec (.regionQuery o e) s = .next (finish r o 3 0)))) ∧
  (∀ (s r : State) (o : Origin) (e : Entry) (n : Nat), r = setRunning s o → n = targetPart o e →
    (∀ q v share, CmdRuns s cmdPantryShare o e → q = fld e 69 64 → v = BitVec.ofNat 64 (fld e 183 128) →
      share = (if v = 0 then tdel r.mem.share q else tput r.mem.share q v) →
      (q ≤ 32 → partExists r q = true → banksFit r.mem.fwBanks share r.mem.region = true →
        exec (.pantryShare o e) s = .next (finish (pantryTrim (r.modMem (fun m => { m with share := share }))) o 0 0)) ∧
      (q ≤ 32 → partExists r q = true → banksFit r.mem.fwBanks share r.mem.region = false →
        exec (.pantryShare o e) s = .next (finish (raiseDev r 0x2201 (data2 0 0 0)) o 0x0B 0x2201)) ∧
      (q ≤ 32 → partExists r q = false → exec (.pantryShare o e) s = .next (finish r o 6 0)) ∧
      (32 < q → exec (.pantryShare o e) s = .next (finish r o 2 0))) ∧
    (∀ a da len, CmdRuns s cmdHostCopy o e → a = fld e 127 64 → da = fld e 175 128 → len = fld e 207 176 →
      (len % 32 ≠ 0 → exec (.hostCopy o e) s = .next (finish r o 2 0)) ∧
      (∀ code, len % 32 = 0 → accessRefusal r (.part n) da len = some code →
        exec (.hostCopy o e) s = .next (finish (countRefused (raise r code (some n) none (data2 da 0 (regionOf da))) n) o 0x0B code)) ∧
      (len % 32 = 0 → accessRefusal r (.part n) da len = none → bit e.toNat 208 = true → ∀ d, d = demand r none da len →
        (strongest (devRead d da len) = none →
          exec (.hostCopy o e) s = .next (finish (d.modHost (fun h => { h with bytes := memPutAll h.bytes a (devBytes d da len) })) o 0 len)) ∧
        (strongest (devRead d da len) ≠ none → ∃ t, exec (.hostCopy o e) s = .next (finish t o 0x0F len) ∧
          t.host.bytes = memPutAll d.host.bytes a (devBytes d da len) ∧ t.mem = d.mem)) ∧
      (len % 32 = 0 → accessRefusal r (.part n) da len = none → bit e.toNat 208 = false →
        exec (.hostCopy o e) s = .next (finish (devWrite r da (clean (memBytes r.host.bytes a len))) o 0 len))))

/-- The fabric commands (R382): LINK_CTL enables or trains a link and answers its state; FABRIC_SET writes what its selection names; PT_SET
sets the time source at
once and sends a beat change from the leader for a mark at least two beats away; groups are set and cleared unless a collective uses them;
STARTER_RECV binds two
slots of Starter regions to a source, and STARTER_SET waits for the next commit. -/
def Obligations.FabricCommandsTakeEffect : Prop :=
  ∀ (s r : State) (o : Origin) (e : Entry) (n k : Nat) (sel : Nat → Bool), r = setRunning s o → n = targetPart o e →
    (CmdRuns s cmdLinkCtl o e → k = fld e 69 64 →
      (bit e.toNat 71 = false → (bit e.toNat 70 = false ∨ (r.link k).en = true ∨ (r.link k).st ≠ .off ∨ (r.link k).lit = false) →
        exec (.linkCtlCommand o e) s = .next (finish (r.modLink k (fun l => { l with en := bit e.toNat 70, ptEn := bit e.toNat 72 })) o 0
          (linkCode (r.link k).st))) ∧
      (bit e.toNat 70 = true → (bit e.toNat 71 = true ∨ (r.link k).en = false ∧ (r.link k).st = .off ∧ (r.link k).lit = true) →
        exec (.linkCtlCommand o e) s = .next (finish (r.modLink k (fun l => { l with en := true, ptEn := bit e.toNat 72, st := .train })) o 0 1))) ∧
    (CmdRuns s cmdFabricSet o e → (∀ i, sel i = bit e.toNat (256 + i)) → (sel 0 = true → fld e 79 76 = 0 ∧ bit e.toNat 87 = false ∧ fld e 127 120 = 0) →
      (sel 1 = true → fld e 191 164 = 0) → (sel 2 = true → fld e 255 216 = 0) → (o ≠ .oob ∨ sel 1 = false ∧ sel 2 = false) →
      exec (.fabricSet o e) s = .next (finish (r.modFab (fun f => { f with
        podNext := if sel 0 then BitVec.ofNat 6 (fld e 85 80) else f.podNext, stdwire := if sel 0 then bit e.toNat 86 else f.stdwire,
        arb := if sel 1 then BitVec.ofNat 64 (fld e 191 128) else f.arb, sendTmo := if sel 2 then BitVec.ofNat 24 (fld e 215 192) else f.sendTmo })) o 0 0)) ∧
    (CmdRuns s cmdPtSet o e → bit e.toNat 418 = false → (bit e.toNat 416 = true → fld e 65 64 ≠ 3) →
      ∃ t, exec (.ptSet o e) s = .next (finish t o 0 0) ∧ t = { r with time := t.time } ∧ t.time.pt = r.time.pt ∧ t.time.beatPend = r.time.beatPend ∧
        t.time.tmSrc = (if bit e.toNat 416 then BitVec.ofNat 2 (fld e 65 64) else r.time.tmSrc) ∧
        t.time.tmPrio = (if bit e.toNat 416 then BitVec.ofNat 8 (fld e 73 66) else r.time.tmPrio) ∧
        t.time.syncNext = (if bit e.toNat 417 then BitVec.ofNat 64 (fld e 191 128) else r.time.syncNext) ∧
        t.time.syncPeriod = (if bit e.toNat 417 then BitVec.ofNat 64 (fld e 255 192) else r.time.syncPeriod)) ∧
    (CmdRuns s cmdPtSet o e → bit e.toNat 418 = true → bit e.toNat 416 = false → bit e.toNat 417 = false → beatOk (BitVec.ofNat 32 (fld e 287 256)) = true →
      r.fab.podup = true → r.fab.leader.toNat = r.devId → r.time.beatNum.toNat + 2 ≤ fld e 415 352 → r.time.beatPend = none →
      exec (.ptSet o e) s = .next ((r.modTime (fun t => { t with
        beatPend := some ⟨BitVec.ofNat 32 (fld e 287 256), BitVec.ofNat 64 (fld e 351 288), fld e 415 352, some o⟩ })).emit
          (.beatChange (BitVec.ofNat 32 (fld e 287 256)) (BitVec.ofNat 64 (fld e 351 288)) (BitVec.ofNat 64 (fld e 415 352))))) ∧
    (CmdRuns s cmdCgroupSet o e → k = fld e 71 64 →
      (fld e 95 84 ≤ fld e 83 72 → (∀ x, tget r.fab.groups k = some x → x.owner = n) → (∀ c ∈ r.fab.colls, c.group = k → c.done = true) →
        exec (.cgroupSet o e) s = .next (finish (r.modFab (fun f => { f with groups := tput f.groups k {
          owner := n, rank := fld e 95 84,
          members := (List.range (fld e 83 72 + 1)).map (fun i => memberOf (memNat r.host.bytes (fld e 159 96 + 8 * i) 8)) } })) o 0 0)) ∧
      (fld e 95 84 ≤ fld e 83 72 → (∃ c ∈ r.fab.colls, c.group = k ∧ c.done = false) → exec (.cgroupSet o e) s = .next (finish r o 4 0))) ∧
    (∀ x, CmdRuns s cmdCgroupClear o e → k = fld e 71 64 → tget r.fab.groups k = some x →
      (x.owner ≠ n → exec (.cgroupClear o e) s = .next (finish r o 3 0)) ∧
      (x.owner = n → x.clearing = none →
        ((∀ c ∈ r.fab.colls, c.group = k → c.done = true) →
          exec (.cgroupClear o e) s = .next (finish (r.modFab (fun f => { f with groups := tdel f.groups k })) o 0 0)) ∧
        ((∃ c ∈ r.fab.colls, c.group = k ∧ c.done = false) →
          exec (.cgroupClear o e) s = .next (r.modFab (fun f => { f with groups := tput f.groups k { x with clearing := some o } }))))) ∧
    (CmdRuns s cmdStarterRecv o e →
      (starterRange r (fld e 146 128) (fld e 165 147) = true → starterRange r (fld e 210 192) (fld e 229 211) = true →
        exec (.starterRecv o e) s = .next (finish (r.modFab (fun f => { f with starter := { f.starter with rx := tput f.starter.rx (fld e 75 64) {
          a := (fld e 146 128, fld e 165 147), b := (fld e 210 192, fld e 229 211) } } })) o 0 0)) ∧
      (starterRange r (fld e 146 128) (fld e 165 147) = false → exec (.starterRecv o e) s = .next (finish r o 2 0))) ∧
    (CmdRuns s cmdStarterSet o e → fld e 79 77 = 0 → fld e 127 104 = 0 →
      (fld e 87 80 ≠ 0 → exec (.starterSet o e) s = .next (finish (r.modFab (fun f => { f with
        starter := { f.starter with next := some (BitVec.ofNat 64 (fld e 127 64)) } })) o 0 0)) ∧
      (fld e 87 80 = 0 → exec (.starterSet o e) s = .next (finish r o 2 0)))

/-- The reliability commands (R383, R415, R422, R424): RESET asks for its scope and completes with it, a device reset at once; the fraction
of the Safety Net
waits for the next step; REPAIR_QUERY and DIAG_READ copy the record and the sample out; a passed field test changes nothing but the Pantry's lines.

The power commands (R384, R444, R449): POWER_STATE sets the state moved toward, with no context left from HOLD on; PART_IDLE changes the
idle state of a
partition with 0x5302; SENSOR_READ answers the latest reading and bit 32; POWER_CAP takes 1500 W to 5500 W, and 0 for no cap. -/
def Obligations.ReliabilityAndPowerCommands : Prop :=
  (∀ (s r : State) (o : Origin) (e : Entry) (n sc tg : Nat), r = setRunning s o → n = targetPart o e → sc = fld e 66 64 → tg = fld e 79 72 →
    (CmdRuns s cmdReset o e →
      (4 < sc → exec (.reset o e) s = .next (finish r o 2 0)) ∧
      (sc = 4 → rightsOf o = 0 → exec (.reset o e) s = .next (finish (requestReset r 4 0 none) o 0 0)) ∧
      (sc = 3 → rightsOf o = 0 → exec (.reset o e) s = .next (requestReset r 3 0 (some o))) ∧
      (3 ≤ sc → sc ≤ 4 → rightsOf o ≠ 0 → exec (.reset o e) s = .next (finish r o 3 0)) ∧
      (sc < 3 → o ≠ .oob → partExists r n = true → (sc = 1 → tg < 32) → (sc = 2 → tg ≤ 32) →
        (targetIn r n sc tg = true → exec (.reset o e) s = .next (requestReset r sc tg (some o))) ∧
        (targetIn r n sc tg = false → exec (.reset o e) s = .next (finish r o 3 0)))) ∧
    (CmdRuns s cmdSnetSet o e →
      (16 < fld e 68 64 → exec (.snetSet o e) s = .next (finish r o 2 0)) ∧
      (fld e 68 64 ≤ 16 → isMember r n = true →
        exec (.snetSet o e) s = .next (finish (r.modPart n (fun p => { p with
          sn := { p.sn with next := some (bit e.toNat 69, BitVec.ofNat 5 (fld e 68 64)) } })) o 0 0)) ∧
      (fld e 68 64 ≤ 16 → isMember r n = false →
        exec (.snetSet o e) s = .next (finish (r.modPart n (fun p => { p with
          sn := { p.sn with en := bit e.toNat 69, log2frac := BitVec.ofNat 5 (fld e 68 64), next := none } })) o 0 0))) ∧
    (CmdRuns s cmdRepairQuery o e →
      exec (.repairQuery o e) s = .next (finish (r.modHost (fun h => { h with
        bytes := memPutAll h.bytes (fld e 127 64) (r.rel.repair.flatMap (fun x => natToBytes 16 (repairBits x))) })) o 0 r.rel.repair.length)) ∧
    (CmdRuns s cmdDiagRead o e →
      exec (.diagRead o e) s = .next (finish (r.modHost (fun h => { h with
        bytes := memPutAll h.bytes (fld e 191 128) (tgetD r.rel.samples (fld e 71 64) (List.replicate 4096 0)) })) o 0 0)) ∧
    (CmdRuns s cmdFieldTest o e → 1 ≤ fld e 71 64 → fld e 71 64 ≤ 3 →
      ((∃ j < 32, bit (fld e 127 96) j = true ∧ (holdsCluster r 0 j = false ∨ clusterUsed r j = true)) →
        exec (.fieldTest o e) s = .next (finish r o 4 0)) ∧
      (fld e 127 96 = 0 → exec (.fieldTest o e) s = .next (finish (r.modMem (fun m => { m with lines := [] })) o 0 0)) ∧
      (∀ j < 32, fld e 71 64 = 3 → fld e 127 96 = 2 ^ j → holdsCluster r 0 j = true → clusterUsed r j = false → r.rel.engQuar.getLsbD j = false →
        ∃ t k, exec (.fieldTest o e) s = .next (finish t o 0 k) ∧ k ≤ 1 ∧ (t.rel.engQuar.getLsbD j = true ↔ k = 1) ∧ t.mem.bytes = r.mem.bytes ∧
          t.parts = r.parts)) ∧
    ((fld e 71 64 = 0 ∨ 3 < fld e 71 64) → CmdRuns s cmdFieldTest o e → exec (.fieldTest o e) s = .next (finish r o 2 0))) ∧
  (∀ (s r : State) (o : Origin) (e : Entry) (n k : Nat), r = setRunning s o → n = targetPart o e →
    (CmdRuns s cmdPowerState o e → k = fld e 66 64 →
      (4 < k → exec (.powerState o e) s = .next (finish r o 2 0)) ∧
      (k ≤ 4 → stateOf k = r.pwr.st → exec (.powerState o e) s = .next (finish r o 0 0)) ∧
      (k ≤ 4 → stateOf k ≠ r.pwr.st → 2 ≤ k → r.ctxs ≠ [] → exec (.powerState o e) s = .next (finish r o 4 0)) ∧
      (k ≤ 2 → stateOf k ≠ r.pwr.st → (k < 2 ∨ r.ctxs = []) →
        exec (.powerState o e) s = .next (r.modPwr (fun p => { p with goal := some (stateOf k, some o) }))) ∧
      (3 ≤ k → k ≤ 4 → stateOf k ≠ r.pwr.st → r.ctxs = [] →
        exec (.powerState o e) s = .next (finish (r.modPwr (fun p => { p with goal := some (stateOf k, none) })) o 0 0))) ∧
    (CmdRuns s cmdPartIdle o e →
      ((r.part n).idle = bit e.toNat 64 → exec (.partIdle o e) s = .next (finish r o 0 0)) ∧
      ((r.part n).idle ≠ bit e.toNat 64 → exec (.partIdle o e) s = .next (finish (raise (r.modPart n (fun p => { p with idle := bit e.toNat 64 }))
        0x5302 (some n) none (data5 0 0 0)) o 0 0))) ∧
    (CmdRuns s cmdSensorRead o e → k = fld e 79 64 →
      (sensorOk k = false → exec (.sensorRead o e) s = .next (finish r o 2 0)) ∧
      (∀ x, sensorOk k = true → (k < 0x600 ∨ 0x603 < k) → tget r.pwr.sensors k = some x →
        exec (.sensorRead o e) s = .next (finish r o 0 (ofSigned 32 x + 2 ^ 32))) ∧
      (0x600 ≤ k → k ≤ 0x603 →
        exec (.sensorRead o e) s = .next (finish r o 0 (ofSigned 32 (1000 * ((tgetD r.pwr.aclk (k - 0x600) 0 : Nat) : Int)) + 2 ^ 32))) ∧
      (sensorOk k = true → (k < 0x600 ∨ 0x603 < k) → tget r.pwr.sensors k = none →
        exec (.sensorRead o e) s = .next (finish { r with free := r.free + 1 } o 0 ((Config.freeValue r.free).toNat % 2 ^ 33)))) ∧
    (CmdRuns s cmdPowerCap o e → k = fld e 79 64 →
      ((k = 0 ∨ 1500 ≤ k ∧ k ≤ 5500) → exec (.powerCap o e) s = .next (finish (r.modPwr (fun p => { p with
        capW := if k = 0 then 5500 else BitVec.ofNat 16 k })) o 0 0)) ∧
      (k ≠ 0 → (k < 1500 ∨ 5500 < k) → exec (.powerCap o e) s = .next (finish r o 2 0))))

/-- CTX_CREATE loads an image that passes the checks of R253 and R254 and finds a place: the context takes the lowest free id (R28), its
virtual cores stand
on the logical cores and banks that were chosen, with parameters and window from the image, waiting for their first patch slot (R239, R240).
An image that
fails is refused with its event, 0x7001, 0x7002 or 0x7007. CTX_RESTORE does the same with the state of a save (R258), 0x7008 for one that
does not fit. -/
def Obligations.ContextsAreCreatedAndRestored : Prop :=
  ∀ (s r : State) (o : Origin) (e : Entry) (n ks : Nat) (q : Create) (bs : List Byte), r = setRunning s o → n = targetPart o e → q = createOf e n →
    (r.pwr.st = .run ∨ r.pwr.st = .idle) → q.patchBase % 16384 = 0 → q.patchN ≠ 0 → q.mapN ≤ 4096 → q.fromDa = false →
    ks = (if q.clusters = 0 then (clusterSet r n).toNat else q.clusters) → (∀ j < 32, bit ks j = true → bit (clusterSet r n).toNat j = true) →
    bs = memBytes r.host.bytes q.addr q.size →
    (CmdRuns s cmdCtxCreate o e →
      (parseImage bs = none → exec (.ctxCreate o e) s = .next (finish (raise r 0x7001 (some n) none 0) o 0x0B 0x7001)) ∧
      (∀ p, parseImage bs = some p →
        (routinesJoin p (r.part n).routines = false → exec (.ctxCreate o e) s = .next (finish (raise r 0x7007 (some n) none 0) o 0x0B 0x7007)) ∧
        (routinesJoin p (r.part n).routines = true → translates p (loadImage p) (r.part n).routines = false →
          exec (.ctxCreate o e) s = .next (finish (raise r 0x7002 (some n) none 0) o 0x0B 0x7002)) ∧
        (∀ ps placed k, routinesJoin p (r.part n).routines = true → translates p (loadImage p) (r.part n).routines = true →
          (∀ g ∈ mapList r q, g < 524288 ∧ reValid (entry r g) = true ∧ reOwner (entry r g) = n) →
          ps = (List.range (loadImage p).nvc).map (fun v => (⟨v, tgetD (loadImage p).window v 0, tgetD (loadImage p).code v [],
            callable ((loadImage p).routines.foldl (fun t x => tput t x.1 x.2) (r.part n).routines) (tgetD (loadImage p).code v [])⟩ : Place)) →
          placeAll { s := r, bodies := (loadImage p).routines.foldl (fun t x => tput t x.1 x.2) (r.part n).routines,
                     cores := (List.range 256).filter (fun c => bit ks (c / 8) && !(r.map c).quar) } false ps [] = some placed →
          freeCtx r = some k → (r.part n).sn.rcvCtl.getLsbD 0 = false →
          ∃ t c, exec (.ctxCreate o e) s = .next (finish t o 0 k) ∧ t.ctx? k = some c ∧ r.ctx? k = none ∧ c.part = n ∧
            c.st = (if q.start then .running else .loaded) ∧ c.job = BitVec.ofNat 16 q.job ∧ c.image = loadImage p ∧
            c.patchBase = q.patchBase ∧ c.patchN = q.patchN ∧ c.saving = none ∧ t.host = r.host ∧ t.mem.bytes = r.mem.bytes ∧
            (∀ d ∈ placed, ∃ y, tget c.vcs d.1.vc = some y ∧ y.core = d.2.1 ∧ y.bank = d.2.2 ∧ y.waitPatch = true ∧
              y.p = (freshVc (loadImage p) d.1.vc (BitVec.ofNat 64 (fld e 391 328))).p ∧
              y.win = (freshVc (loadImage p) d.1.vc (BitVec.ofNat 64 (fld e 391 328))).win)))) ∧
    (CmdRuns s cmdCtxRestore o e → fld e 375 328 % 65536 = 0 →
      ∀ p r1 vcs ps placed k, parseImage bs = some p → routinesJoin p (r.part n).routines = true →
        translates p (loadImage p) (r.part n).routines = true →
        (∀ g ∈ mapList r q, g < 524288 ∧ reValid (entry r g) = true ∧ reOwner (entry r g) = n) →
        loadSaves n (fld e 375 328) r (loadImage p) = .ok (r1, vcs) →
        ps = vcs.map (fun x => (⟨x.1, x.2.winSize, tgetD (loadImage p).code x.1 [],
          callable ((loadImage p).routines.foldl (fun t x => tput t x.1 x.2) (r.part n).routines) (tgetD (loadImage p).code x.1 [])⟩ : Place)) →
        placeAll { s := r1, bodies := (loadImage p).routines.foldl (fun t x => tput t x.1 x.2) (r.part n).routines,
                   cores := (List.range 256).filter (fun c => bit ks (c / 8) && !(r1.map c).quar) } false ps [] = some placed →
        freeCtx r1 = some k → (r.part n).sn.rcvCtl.getLsbD 0 = false →
        ∃ t c, exec (.ctxRestore o e) s = .next (finish t o 0 k) ∧ t.ctx? k = some c ∧ c.part = n ∧ c.image = loadImage p ∧
          c.st = (if q.start then .running else .loaded) ∧
          ∀ d ∈ placed, ∃ y, tget c.vcs d.1.vc = some y ∧ y.core = d.2.1 ∧ y.bank = d.2.2 ∧
            y.p = (tgetD vcs d.1.vc {}).p ∧ y.win = (tgetD vcs d.1.vc {}).win ∧ y.lacc = (tgetD vcs d.1.vc {}).lacc ∧
            y.replay = (tgetD vcs d.1.vc {}).replay)

/-- What the other program commands do with the context that they name (R385): CTX_DESTROY stops it and removes it once its operations are
over; CTX_SAVE
saves each virtual core at its boundary; CTX_SETP writes one parameter of a context that is loaded or halted, CTX_RUN lets it run, CTX_QUERY
answers its state,
virtual cores and replay, and ROUTINE_QUERY writes the record of a ROM routine (R245). -/
def Obligations.ContextCommandsTakeEffect : Prop :=
  ∀ (s r : State) (o : Origin) (e : Entry) (n k : Nat) (c : Ctx), r = setRunning s o → n = targetPart o e → k = fld e 69 64 → r.ctx? k = some c →
    c.part = n → c.destroying = none →
    (CmdRuns s cmdCtxDestroy o e →
      (opsLeft c = false → ∃ t, exec (.ctxDestroy o e) s = .next (finish t o 0 0) ∧ t.ctx? k = none ∧ (∀ j, j ≠ k → t.ctx? j = r.ctx? j) ∧
        t.mem.bytes = r.mem.bytes ∧ t.fab.out = r.fab.out) ∧
      (opsLeft c = true → ∃ t d, exec (.ctxDestroy o e) s = .next t ∧ t.ctx? k = some d ∧ d.st = .stopped ∧ d.destroying = some o ∧
        (∀ x ∈ d.vcs, ∀ u ∈ x.2.ops, u.phase ≠ .queued) ∧ t.host = r.host ∧ t.mem = r.mem)) ∧
    (CmdRuns s cmdCtxSave o e →
      (fld e 127 80 % 65536 ≠ 0 → exec (.ctxSave o e) s = .next (finish r o 2 0)) ∧
      (fld e 127 80 % 65536 = 0 → c.st = .stopped → exec (.ctxSave o e) s = .next (finish r o 7 0)) ∧
      (fld e 127 80 % 65536 = 0 → c.st ≠ .stopped → accessRefusal r (.part n) (fld e 127 80) 65536 = none →
        (∀ x ∈ c.vcs, x.2.rstack ≠ []) →
        exec (.ctxSave o e) s = .next (r.putCtx k { c with saving := some (o, bit e.toNat 70, fld e 127 80, [], 65536) })) ∧
      (∀ v x rec_, fld e 127 80 % 65536 = 0 → c.st ≠ .stopped → accessRefusal r (.part n) (fld e 127 80) 65536 = none → c.vcs = [(v, x)] →
        x.rstack = [] → x.waitPatch = true → rec_ = saveRecord c.image.crc v x →
        accessRefusal r (.part n) (fld e 127 80 + 65536) rec_.length = none →
        ∃ t d, exec (.ctxSave o e) s = .next (finish t o 0 (alignUp (65536 + rec_.length) 65536)) ∧ t.ctx? k = some d ∧ d.saving = none ∧
          d.st = (if bit e.toNat 70 then .halted else c.st) ∧ d.vcs = c.vcs ∧
          t.mem = (devWrite (devWrite r (fld e 127 80 + 65536) rec_) (fld e 127 80 + 8 * v) (clean (natToBytes 8 65536))).mem)) ∧
    (CmdRuns s cmdCtxSetp o e →
      (c.st ≠ .loaded → ctxHalted c = false → exec (.ctxSetp o e) s = .next (finish r o 7 0)) ∧
      (c.st = .loaded ∨ ctxHalted c = true → bit e.toNat 80 = true →
        exec (.ctxSetp o e) s = .next (finish (r.putCtx k { c with
          vcs := c.vcs.map (fun x => (x.1, { x.2 with p := tput x.2.p (fld e 86 81) (BitVec.ofNat 64 (fld e 191 128)) })) }) o 0 0)) ∧
      (∀ x, c.st = .loaded ∨ ctxHalted c = true → bit e.toNat 80 = false → tget c.vcs (fld e 79 72) = some x →
        ∃ t, exec (.ctxSetp o e) s = .next (finish t o 0 0) ∧
          t.vc? ⟨k, fld e 79 72⟩ = some { x with p := tput x.p (fld e 86 81) (BitVec.ofNat 64 (fld e 191 128)) } ∧
          (∀ u : VRef, u ≠ ⟨k, fld e 79 72⟩ → t.vc? u = r.vc? u) ∧ t.mem = r.mem) ∧
      (c.st = .loaded ∨ ctxHalted c = true → bit e.toNat 80 = false → tget c.vcs (fld e 79 72) = none →
        exec (.ctxSetp o e) s = .next (finish r o 6 0))) ∧
    (CmdRuns s cmdRoutineQuery o e →
      (fld e 72 64 < 0x180 → exec (.routineQuery o e) s = .next (finish (r.modHost (fun h => { h with
        bytes := memPutAll h.bytes (fld e 191 128) (natToBytes 32 (romRecord (fld e 72 64)).toNat) })) o 0 0)) ∧
      (0x180 ≤ fld e 72 64 → exec (.routineQuery o e) s = .next (finish r o 6 0))) ∧
    (CmdRuns s cmdCtxQuery o e →
      exec (.ctxQuery o e) s = .next (finish r o 0 (ctxCode c + c.vcs.length * 2 ^ 4 + (tgetD c.vcs 0 {}).replay % 2 ^ 32 * 2 ^ 32))) ∧
    (CmdRuns s cmdCtxRun o e →
      (c.st = .loaded ∨ c.st = .halted → exec (.ctxRun o e) s = .next (finish (r.putCtx k { c with st := .running }) o 0 0)) ∧
      (c.st = .running ∨ c.st = .stopped → exec (.ctxRun o e) s = .next (finish r o 7 0)))

/-! ### Out-of-band management and test access -/

/-- The answers of the out-of-band interface while it is served (R391): an id is set and read back; a vendor-defined message carries a
command or is answered
with 0x01; a firmware update stages into the slot that does not run, and activation follows R390. In CAROUSEL a sensor is still read (R392).
What the cited
specifications alone fix is a constant of the configuration (log 13).

The test access port (R476 to R479): IDCODE and BYPASS always act; EXTEST, CLAMP, HIGHZ and DBG_CHAIN need the boot ROM's or a failed
state, or JTAG_EN, and
without it act as BYPASS and change no pin; OBS_SELECT writes SEL and sets OBS_EN. Nothing acts in OFF. -/
def Obligations.ManagementAndTestAccess : Prop :=
  (∀ (s : State) (ans : State → List Byte → Host.Outcome State Fault Refusal),
    ans = (fun t bs => .next (t.modHost (fun h => { h with reply := some (.mgmt bs) }))) →
    (oobServed s = true →
      (∀ b, exec (.setEndpointId b) s = ans (s.modMgmt (fun m => { m with eid := b })) [b]) ∧ exec .getEndpointId s = ans s [s.mgmt.eid] ∧
      exec .getEndpointUuid s = ans s (natToBytes 16 Config.endpointUuid.toNat) ∧
      (∀ b, exec (.getMctpVersionSupport b) s = ans s (Config.managementReply 1 b.toNat)) ∧
      exec .getMessageTypeSupport s = ans s [0x00, 0x01, 0x7E] ∧
      (∀ b, exec (.getVendorDefinedMessageSupport b) s = ans s (Config.managementReply 2 b.toNat)) ∧
      exec .getTid s = ans s [s.mgmt.tid] ∧ (∀ b, exec (.setTid b) s = ans (s.modMgmt (fun m => { m with tid := b })) []) ∧
      (∀ b, exec (.getPldmVersion b) s = ans s (Config.managementReply 3 b.toNat)) ∧ exec .getPldmTypes s = ans s (Config.managementReply 4 0) ∧
      (∀ b, exec (.getPldmCommands b) s = ans s (Config.managementReply 5 b.toNat)) ∧
      exec .getPdrRepositoryInfo s = ans s (Config.managementReply 6 0) ∧ (∀ h, exec (.getPdr h) s = ans s (Config.platformRecord h)) ∧
      (∀ k x, sensorOk k = true → (k < 0x600 ∨ 0x603 < k) → tget s.pwr.sensors k = some x →
        exec (.getSensorReading k) s = ans s (natToBytes 5 (ofSigned 32 x + 2 ^ 32))) ∧
      (∀ k, exec (.getStateSensorReadings k) s = ans { s with free := s.free + 1 }
        (Config.managementReply 8 k ++ natToBytes 8 (Config.freeValue s.free).toNat)) ∧
      (∀ b, exec (.setEventReceiver b) s = ans (s.modMgmt (fun m => { m with evtReceiver := b })) []) ∧
      (s.mgmt.staging = none → exec (.pldmFirmwareUpdate .requestUpdate) s = ans (s.modMgmt (fun m => { m with
        imgA := if m.slot then .empty else m.imgA, imgB := if m.slot then m.imgB else .empty, staging := some (.oob, []) })) [0]) ∧
      (∀ cells off bs, s.mgmt.staging = some (.oob, cells) → off + bs.length ≤ 25165824 →
        exec (.pldmFirmwareUpdate (.firmwareData off bs)) s = ans (s.modMgmt (fun m => { m with staging := some (.oob, memPutAll cells off bs) })) [0]) ∧
      (∀ cells, s.mgmt.staging = some (.oob, cells) → exec (.pldmFirmwareUpdate .cancel) s = ans (s.modMgmt (fun m => { m with staging := none })) [0]) ∧
      (s.mgmt.staging = none → exec (.pldmFirmwareUpdate .transferComplete) s = ans s [7]) ∧
      (slotImage s (!s.mgmt.slot) ≠ none → exec (.activateFirmware false) s = ans (s.modMgmt (fun m => { m with preferB := !m.slot })) [0]) ∧
      (slotImage s (!s.mgmt.slot) = none → ∀ b, exec (.activateFirmware b) s = ans s [7])) ∧
    (∀ e, s.pwr.st ≠ .off → s.mgmt.ready = true →
      (knownOps.contains (fld e 15 0) = true → exec (.vendorDefinedMessage e) s = .next (s.modHost (fun h => { h with
        remote := tmod h.remote 512 [] (· ++ [e]), remoteBells := tmod h.remoteBells 512 [] (· ++ [h.bellNo]), bellNo := h.bellNo + 1 }))) ∧
      (knownOps.contains (fld e 15 0) = false → s.pwr.st ≠ .carousel →
        exec (.vendorDefinedMessage e) s = ans s (natToBytes 16 (cplBits (BitVec.ofNat 16 (fld e 31 16)) 1 0).toNat))) ∧
    (∀ k x, s.pwr.st = .carousel → sensorOk k = true → tget s.pwr.sensors k = some x →
      exec (.getSensorReading k) s = ans s (natToBytes 5 (ofSigned 32 x + 2 ^ 32))) ∧
    (s.pwr.st = .carousel ∨ s.pwr.st = .off → ∀ b, exec (.setTid b) s = .next s ∧ exec .getTid s = .next s)) ∧
  (∀ (s : State),
    (s.pwr.st ≠ .off →
      exec
        .idcode s =
        .next (s.modMgmt (fun m => { m with tapIr := 0x01, tapDr := 1 + Config.jep106.toNat * 2 + 0x7A40 * 2 ^ 12 + 3 * 2 ^ 28, scanMode := 0 })) ∧
      (∀ code, exec (.bypass code) s = .next (s.modMgmt (fun m => { m with tapIr := code, tapDr := 0, scanMode := 0 }))) ∧
      (∀ x, exec (.samplePreload x) s = .next { s with
        mgmt := { s.mgmt with tapIr := 0x02, tapDr := Config.pinSample s.free, scanMode := 0, scan := x }, free := s.free + 1 }) ∧
      (s.mgmt.fwstate = 0 ∨ s.mgmt.fwstate = 3 ∨ s.mgmt.jtagEn = true →
        exec .extest s = .next { s with mgmt := { s.mgmt with tapIr := 0x03, tapDr := Config.pinSample s.free, scanMode := 1 }, free := s.free + 1 } ∧
        exec .clamp s = .next (s.modMgmt (fun m => { m with tapIr := 0x04, tapDr := 0, scanMode := 2 })) ∧
        exec .highz s = .next (s.modMgmt (fun m => { m with tapIr := 0x05, tapDr := 0, scanMode := 3 })) ∧
        exec .dbgChain s = .next { s with
          mgmt := { s.mgmt with tapIr := 0x10, tapDr := (Config.freeValue s.free).toNat, scanMode := 0 }, free := s.free + 1 }) ∧
      (s.mgmt.fwstate ≠ 0 → s.mgmt.fwstate ≠ 3 → s.mgmt.jtagEn = false →
        ∀ i ∈ [Instr.extest, .clamp, .highz, .dbgChain], exec i s = .next (s.modMgmt (fun m => { m with tapIr := 0xFF, tapDr := 0 }))) ∧
      (∀ sel, ∃ t, exec (.obsSelect sel) s = .next t ∧ t.mgmt.sel = sel ∧ t.mgmt.selSrc = true ∧ t.mgmt.obsEn = true ∧ t.mgmt.tapIr = 0x11 ∧
        t.mgmt.obs.isSome = true ∧ t.mem = s.mem ∧ t.host = s.host)) ∧
    (s.pwr.st = .off → ∀ sel x code, ∀ i ∈ [Instr.idcode, .bypass code, .samplePreload x, .extest, .clamp, .highz, .dbgChain, .obsSelect sel],
      exec i s = .next s))

/-! ### Faults, resets and power -/

/-- A mismatch in an operation in flight raises 0x4101, latches ARR_RESERR for an array and marks what the operation makes as suspect (R101,
R104, R107); one of
an update engine queues a check of its layer (R398). A parity error is recorded and the core is reset (R398, R410). With no such operation
nothing happens.

A check takes a place for its computation once the verdicts of its output groups are final (R32, R404), and is decided by it (R405): an
equal result concludes it; another one raises 0x4201 and asks for a third
computation elsewhere; the third agrees with the original (0x4202, a mark on the place of B) or with B (0x4202, a mark on the original), or
with neither: 0x4203
and the attempt is abandoned with reason 4. A residue mismatch of the place discards its computation (R430), and one that consumes poison
ends the check (R406).

Without heartbeats the standby Ringmaster core takes over, once, with 0x4302 and 0x4303 and an entry of the repair record (R408);
without one only the
missed marks count. A stalled core or engine is reported by 0x4301 and a reset of the smallest scope is asked for (R409, R410); below
PW_BEATS nothing is. -/
def Obligations.FaultsAreReportedAndChecked : Prop :=
  (∀ (s : State) (n : Nat),
    (∀ v x o arrB bufB lockstep twin, s.vc? v = some x → x.core = n → ((s.core n).arrCtl.getLsbD 0 = true ∨ lockstep = true) →
      x.ops.find? (fun o => o.phase != .queued && (inUnit (if arrB then .arrb else .arra) o.word && (opOf o.word == 0x22) == twin &&
        (!lockstep || t3Of o))) = some o →
      exec (.residueCheckpoint n (.array v arrB bufB lockstep twin)) s = .next (mismatchOp (s.modCore n (fun r => { r with
        resErr := latchResErr r.resErr arrB bufB lockstep v.ctx })) v x o)) ∧
    (∀ v x o, s.vc? v = some x → x.core = n → x.ops.find? (fun o => o.phase != .queued && inUnit .vec o.word) = some o →
      exec (.residueCheckpoint n (.vector v)) s = .next (mismatchOp s v x o)) ∧
    (∀ v x o, s.vc? v = some x → x.core = n → x.ops.find? (fun o => o.phase != .queued && inUnit .cvt o.word) = some o →
      exec (.residueCheckpoint n (.conversion v)) s = .next (mismatchOp s v x o)) ∧
    (∀ v x o, s.vc? v = some x → o ∈ x.ops → (∀ p ∈ x.ops, p.id = o.id → p = o) → o.phase = .started →
      ∃ t y, mismatchOp s v x o = t ∧ t.vc? v = some y ∧ (∀ p ∈ y.ops, p.id = o.id → p.susp = true ∧ p.resid = true) ∧ t.mem = s.mem ∧
        t.host.raised = s.host.raised ++ [{
          code := 0x4101, part := some (ctxPart s v.ctx), ctx := some v.ctx,
          data := BitVec.ofNat 128 (data4 x.core (x.core / 8) 0 (curStep s (ctxPart s v.ctx))), ptv := s.time.valid,
          pt := if s.time.valid then s.time.pt else s.time.up }]) ∧
    (∀ r arrB bufB lockstep k, r = latchResErr (s.core n).resErr arrB bufB lockstep k → k < 64 → r.getLsbD 0 = true ∧
      ((s.core n).resErr.getLsbD 0 = true → fld r 15 1 = fld (s.core n).resErr 15 1) ∧
      ((s.core n).resErr.getLsbD 0 = false → r.getLsbD 1 = arrB ∧ r.getLsbD 2 = bufB ∧ r.getLsbD 3 = lockstep ∧ fld r 13 8 = k) ∧
      fld r 31 16 = min (fld (s.core n).resErr 31 16 + 1) 65535) ∧
    (∀ k layer p, p = clusterPart s k →
      ((s.att p).passed.contains layer = true → (s.att p).readySent = false →
        exec (.residueCheckpoint n (.engine k layer)) s = .next (queueLayerCheck (raise s 0x4101 (some p) none (data4 0xFF k 0 (curStep s p)))
          p k layer (ludAt s p layer) (!(s.cmt p).sel.getLsbD layer) true)) ∧
      ((s.att p).passed.contains layer = false ∨ (s.att p).readySent = true → exec (.residueCheckpoint n (.engine k layer)) s = .next s)) ∧
    (∀ v x, s.vc? v = some x → x.ops = [] → exec (.residueCheckpoint n (.vector v)) s = .next s) ∧
    (∀ source slot v, (s.core n).parErr = false → source < 8 → tget (s.core n).slots slot = some v → s.rel.rstQueue = [] →
      ∃ t, exec (.parityError n source (some slot)) s = .next t ∧ (t.core n).parErr = true ∧ (t.core n).parSrc.toNat = source ∧
        (t.core n).parCtx = some v.ctx ∧ t.rel.rstQueue = [(0, n, none)] ∧ t.rel.rstBusy = true ∧ t.mem = s.mem ∧ t.ctxs = s.ctxs ∧
        t.host.raised = s.host.raised ++ [{
          code := 0x4102, part := some (ctxPart s v.ctx), ctx := some v.ctx,
          data := BitVec.ofNat 128 (data4 n (n / 8) 0 (curStep s (ctxPart s v.ctx))), ptv := s.time.valid,
          pt := if s.time.valid then s.time.pt else s.time.up }])) ∧
  (∀ (s : State),
    (s.mgmt.fwstate ≠ 2 → exec .checkStart s = .next s) ∧
    (∀ c i, s.mgmt.fwstate = 2 → s.rel.checks = [c] → c.started = false → c.closing = false → areaOk s c.part = true → pickFor s c = some i →
      (groupsPending s c.part (c.waits.map Prod.fst) = true → exec .checkStart s = .next s) ∧
      (groupsPending s c.part (c.waits.map Prod.fst) = false →
        exec .checkStart s = .next (s.modRel (fun r => { r with checks := [{ c with started := true, on := some i }] })))) ∧
    (∀ c i, s.rel.checks = [c] → c.started = true → c.on = some i → i < 256 → dieStopped s (i / 8) = false → c.layer = none →
      (c.b = none → c.resid = false → c.vref = none →
        ∃ t, exec (.checkCompare c.id (.result c.a)) s = .next t ∧ t.rel.checks = [] ∧ t.rel.checksN = satInc s.rel.checksN ∧
          t.rel.disagree = s.rel.disagree ∧ t.host = s.host ∧ t.mem = s.mem ∧
          (t.part c.part).sn.pending = (s.part c.part).sn.pending - 1 ∧ (t.part c.part).sn.checks = satInc (s.part c.part).sn.checks) ∧
      (∀ bs, bs ≠ c.a → c.b = none → thirdExists s { c with bOn := some i } = true →
        ∃ t, exec (.checkCompare c.id (.result bs)) s = .next t ∧
          t.rel.checks = [{ c with b := some bs, bOn := some i, started := false, on := none }] ∧ t.rel.disagree = satInc s.rel.disagree ∧
          t.mem = s.mem ∧ t.host.raised = s.host.raised ++ [{
            code := 0x4201, part := some c.part, ctx := c.ctx, data := BitVec.ofNat 128 (data4 c.core (c.core / 8) 0 (curStep s c.part)),
            ptv := s.time.valid, pt := if s.time.valid then s.time.pt else s.time.up }]) ∧
      (∀ b j, c.b = some b → c.bOn = some j →
        exec (.checkCompare c.id (.result c.a)) s = .next (conclude (markCheckCore (raise (s.modRel (fun r => { r with
          majority := satInc r.majority })) 0x4202 (some c.part) c.ctx (data4 c.core (c.core / 8) 0 (curStep s c.part))) j 0x4202) c)) ∧
      (∀ b, c.b = some b → b ≠ c.a → c.vref = none →
        exec (.checkCompare c.id (.result b)) s = .next (conclude (causeAbandon (markCore (raise (s.modRel (fun r => { r with
          majority := satInc r.majority })) 0x4202 (some c.part) c.ctx (data4 c.core (c.core / 8) 0 (curStep s c.part))) c.core 0x4202) c.part 4) c)) ∧
      (∀ b bs, c.b = some b → bs ≠ b → bs ≠ c.a →
        exec (.checkCompare c.id (.result bs)) s = .next (checkAbandons (quarantineAll (raise (s.modRel (fun r => { r with
          threeway := satInc r.threeway })) 0x4203 (some c.part) c.ctx (data4 c.core (c.core / 8) 0 (curStep s c.part))) c i) c)) ∧
      (∃ t, exec (.checkCompare c.id .mismatch) s = .next t ∧ t.rel.checks = [{ c with started := false, on := none, avoid := i :: c.avoid }] ∧
        t.mem = s.mem) ∧
      (∀ p, exec (.checkCompare c.id (.poison p)) s = .next (conclude (checkPoison s c p) c))) ∧
    (∀ id r, s.rel.checks = [] → exec (.checkCompare id r) s = .next s)) ∧
  (∀ (s : State), awake s = true → s.mgmt.bootrom = false →
    (s.mgmt.standbyOk = true → s.rel.repair.length < 4096 →
      ∃ t, exec .ringmasterFailover s = .next t ∧ t.mgmt = { s.mgmt with rmcore := !s.mgmt.rmcore, standbyOk := false } ∧
        t.rel.missed = satInc s.rel.missed 3 ∧ t.rel.failovers = satInc s.rel.failovers ∧
        t.rel.repair = s.rel.repair ++ [⟨5, 0, b2n s.mgmt.rmcore, b2n s.mgmt.rmcore, 0x4302, lifeSeconds s⟩] ∧
        (t.host.raised.map (fun e => e.code)) = (s.host.raised.map (fun e => e.code)) ++ [0x4302, 0x4303] ∧
        t.mem = s.mem ∧ t.ctxs = s.ctxs ∧ t.parts = s.parts ∧ t.fab = s.fab) ∧
    (s.mgmt.standbyOk = false → exec .ringmasterFailover s = .next (s.modRel (fun r => { r with missed := satInc r.missed 3 }))) ∧
    (∀ n v i, fld s.rel.ctl 3 0 ≤ (s.core n).stallb.toNat → dieStopped s (n / 64) = false → s.rel.rstQueue = [] →
      (s.core n).issuing = some i → tget (s.core n).slots i = some v →
      exec (.watchdogExpiry (.core n)) s = .next (requestReset (raise s 0x4301 (some (ctxPart s v.ctx)) (some v.ctx)
        (data4 n (n / 8) 0 (curStep s (ctxPart s v.ctx)))) 0 n none)) ∧
    (∀ n, (s.core n).stallb.toNat < fld s.rel.ctl 3 0 → exec (.watchdogExpiry (.core n)) s = .next s) ∧
    (∀ k, fld s.rel.ctl 3 0 ≤ (s.cluster k).stallb.toNat → dieStopped s (k / 8) = false → s.rel.rstQueue = [] →
      exec (.watchdogExpiry (.engine k)) s = .next (requestReset ((raise s 0x4301 (some (clusterPart s k)) none
        (data4 0xFF k 0 (curStep s (clusterPart s k)))).modRel (fun r => { r with
          suspects := tput r.suspects (256 + k) (partCtxs s (clusterPart s k)) })) 1 k none)) ∧
    (∀ k, (s.cluster k).stallb.toNat < fld s.rel.ctl 3 0 → exec (.watchdogExpiry (.engine k)) s = .next s))

/-- A requested reset of core, cluster or partition scope runs (R411, R412): virtual cores on its cores lose their state and their contexts
stop or await
recovery, cores outside it and memory are untouched, and event 0x4401 ends it. A compute reset waits for every rail (R440) and fails whole
where a core or an engine fails, or
after its time, with 0x4402 and a device reset (R413). -/
def Obligations.ScopeResetsStopTheirCores : Prop :=
  ∀ (s : State),
    (∀ scope target, scope < 3 → s.rel.rstQueue = [(scope, target, none)] → Rising s.ctxs →
      ∃ t, exec (.scopeReset scope target []) s = .next t ∧ t.mem.bytes = s.mem.bytes ∧ t.mem.region = s.mem.region ∧
        t.rel.rstQueue = [] ∧ t.rel.rstBusy = false ∧ t.rel.rstScope = BitVec.ofNat 3 scope ∧ t.rel.rstCount = satInc s.rel.rstCount ∧
        (∀ k c v x, s.ctx? k = some c → tget c.vcs v = some x →
          ∃ d y, t.ctx? k = some d ∧ tget d.vcs v = some y ∧
            (scopeCores s scope target x.core = true → d.st = .stopped ∧ y = lostVc x) ∧
            ((∀ z ∈ c.vcs, scopeCores s scope target z.2.core = false) → d.st = c.st ∧ y.p = x.p ∧ y.win = x.win ∧ y.pos = x.pos)) ∧
        (∀ n, scopeCores s scope target n = false → t.core n = s.core n) ∧
        (∃ l e, t.host.raised = l ++ [e] ∧ e.code = 0x4401)) ∧
    (∀ scope target f, (∀ q ∈ s.rel.rstQueue, q.1 ≠ scope) → exec (.scopeReset scope target f) s = .next s) ∧
    (∀ target, exec (.scopeReset 4 target []) s = exec .deviceReset s) ∧
    (∀ f, s.rel.rstQueue = [(3, 0, none)] → (∃ r ∈ s.pwr.rails, r.2.below = true) → exec (.scopeReset 3 0 f) s = .next s) ∧
    (∀ u f, u < 512 → s.rel.rstQueue = [(3, 0, none)] → (∀ r ∈ s.pwr.rails, r.2.below = false) →
      exec (.scopeReset 3 0 (u :: f)) s = .next (computeFailed (s.modRel (fun r => { r with rstQueue := [] })))) ∧
    (∀ f, (∀ u ∈ f, 512 ≤ u) → s.rel.rstQueue = [(3, 0, none)] → (∀ r ∈ s.pwr.rails, r.2.below = false) → Rising s.ctxs →
      ∃ t, exec (.scopeReset 3 0 f) s = .next t ∧ t.rel.rstFailed = false ∧ t.rel.rstQueue = [] ∧ t.mem.lines = [] ∧ t.mem.bytes = s.mem.bytes ∧
        ∀ k c, s.ctx? k = some c → c.vcs ≠ [] → ∃ d, t.ctx? k = some d ∧ d.st = .stopped) ∧
    ((∀ q ∈ s.rel.rstQueue, q.1 ≠ 3) → exec .computeResetFail s = .next s) ∧
    (s.rel.rstQueue = [(3, 0, none)] → ∃ t, exec .computeResetFail s = .next t ∧ t.rel.rstFailed = true ∧ t.rel.rstQueue = [(4, 0, none)] ∧
      t.mem = s.mem ∧ t.ctxs = s.ctxs ∧ t.host.raised = s.host.raised ++ [{
        code := 0x4402, part := none, ctx := none, data := BitVec.ofNat 128 (data4 0 0 3 0), ptv := s.time.valid,
        pt := if s.time.valid then s.time.pt else s.time.up }])

/-- A device reset leaves no context, partition or command running, every register of the Device column at its reset value, and keeps device
memory, the region
entries of Starters, the repair record and the POD of the settings (R459, R461); an always-on restart also boots again (R460), and with no
Ringmaster core that
starts the module has failed. COLD_START boots the preferred image and brings the module to run (R456), or leaves it failed (R424).

A recovery waits for the operations of its context, and restores it from its latest recovery saves, from the older ones where those
carry poison, which
0x2301 reports; without any it leaves it stopped (R418, R419, R430). The replay of a suspect, of a core or of an update engine, that shows
the fault again stops
that context, with 0x4102 or 0x4301; one that is clean passes the turn on, and the last clean one puts a mark on the core (R417). -/
def Obligations.DeviceResetColdStartAndRecovery : Prop :=
  (∀ (s : State),
    (s.rel.rstQueue = [(4, 0, none)] → Rising s.mem.region → s.pwr.trip = false → s.mgmt.bootrom = false → s.rel.engQuar = 0 →
      (∀ p ∈ s.maps, p.2.quar = false) →
      ∃ t, exec .deviceReset s = .next t ∧ t.ctxs = [] ∧ t.parts = [] ∧ t.cores = [] ∧ t.mem.bytes = s.mem.bytes ∧ t.mem.poison = s.mem.poison ∧
        (∀ r, reOwner (entry s r) = 0x3E → entry t r = setFld (entry s r) 39 32 0) ∧ (∀ r, reOwner (entry s r) ≤ 32 → entry t r = 0) ∧
        t.mem.lines = [] ∧ t.mem.share = [] ∧ t.fab.pod = s.fab.podNext ∧ t.fab.podup = false ∧ t.fab.route = [] ∧
        t.rel.repair = s.rel.repair ∧ t.rel.rstQueue = [] ∧ t.rel.rstBusy = false ∧ t.rel.checks = [] ∧ t.time.valid = false ∧
        t.time.pt = s.time.pt ∧ t.pwr.st = .run ∧ t.mgmt.fwstate = 2 ∧ (∃ l e, t.host.raised = l ++ [e] ∧ e.code = 0x4401)) ∧
    ((∀ q ∈ s.rel.rstQueue, q.1 ≠ 4) → exec .deviceReset s = .next s) ∧
    (s.pwr.trip = true → s.pwr.hot ≠ [] → exec .deviceReset s = .next s) ∧
    (∃ t, exec (.alwaysOnRestart none) s = .next t ∧ t.rel.failed = true ∧ t.mgmt.bootrom = true ∧ t.mgmt.fwstate = 0 ∧ t.ctxs = [] ∧
      t.mem.bytes = s.mem.bytes ∧ t.host.cfgReady = false) ∧
    (∀ b, slotImage s s.mgmt.preferB ≠ none → ∃ t, exec (.alwaysOnRestart (some (b, []))) s = .next t ∧ t.mgmt.fwstate = 2 ∧ t.mgmt.rmcore = b ∧
      t.mgmt.slot = s.mgmt.preferB ∧ t.mgmt.bootrom = false ∧ t.time = { up := s.time.up } ∧ t.ctxs = [] ∧ t.mem.bytes = s.mem.bytes ∧
      t.mgmt.imgA = s.mgmt.imgA ∧ t.mgmt.imgB = s.mgmt.imgB ∧ t.rel.repair.length ≥ s.rel.repair.length) ∧
    (∀ c : ColdStart, (s.pwr.st = .off ∨ s.mgmt.fwstate = 0) → slotImage s s.mgmt.preferB ≠ none → c.fails = [] →
      ∃ t, exec (.coldStart c) s = .next t ∧ t.mgmt.slot = s.mgmt.preferB ∧ t.fab.slot = BitVec.ofNat 6 c.slot ∧ t.fab.pod = s.fab.podNext ∧
        t.mem.bytes = [] ∧ t.mem.ready = true ∧ t.mem.hinted = (!c.rpllLocks) ∧ t.ctxs = [] ∧ t.pwr.st = .run ∧
        (c.rpllLocks = true → t.mgmt.fwstate = 2 ∧ t.rel.failed = false ∧ t.host.raised = []) ∧
        (c.rpllLocks = false → t.mgmt.fwstate = 3 ∧ t.rel.failed = true) ∧
        (∀ p < 80, 75 ≤ (t.memPart p).t3lim.toNat ∧ (t.memPart p).t3lim.toNat ≤ 105)) ∧
    (∀ c : ColdStart, s.pwr.st ≠ .off → s.mgmt.fwstate ≠ 0 → exec (.coldStart c) s = .next s)) ∧
  (∀ (s : State) (k : Nat) (c : Ctx), s.ctx? k = some c →
    (k ∉ s.rel.recover → exec (.contextRecovery k) s = .next s) ∧
    ((∃ p ∈ c.vcs, ∃ o ∈ p.2.ops, o.phase ≠ .queued) → exec (.contextRecovery k) s = .next s) ∧
    (∀ v x a b l, s.rel.recover = [k] → c.vcs = [(v, x)] → (∀ o ∈ x.ops, o.phase = .queued) → tgetD c.saves v [] = a :: b :: l →
      (a.winPoison = [] → ∃ t d, exec (.contextRecovery k) s = .next t ∧ t.ctx? k = some d ∧ d.st = .running ∧
        d.vcs = [(v, { a with core := x.core, slot := x.slot, bank := x.bank, winBase := x.winBase })] ∧ t.rel.recover = [] ∧ t.mem = s.mem ∧
        t.host = s.host) ∧
      (a.winPoison = [(0, .context)] → b.winPoison = [] → ∃ t d, exec (.contextRecovery k) s = .next t ∧ t.ctx? k = some d ∧ d.st = .running ∧
        d.vcs = [(v, { b with core := x.core, slot := x.slot, bank := x.bank, winBase := x.winBase })] ∧ t.rel.recover = [] ∧
        (t.part c.part).poisonc = satInc (s.part c.part).poisonc ∧ t.host.raised = s.host.raised ++ [{
          code := 0x2301, part := some c.part, ctx := some k, data := 0, ptv := s.time.valid,
          pt := if s.time.valid then s.time.pt else s.time.up }])) ∧
    (s.rel.recover = [k] → c.vcs ≠ [] → (∀ p ∈ c.vcs, p.2.ops = []) → c.saves = [] →
      ∃ t, exec (.contextRecovery k) s = .next t ∧ t.ctx? k = some c ∧ t.rel.recover = []) ∧
    (∀ n r, suspectTurn s n ≠ some k → exec (.isolationReplay n k r) s = .next s) ∧
    (∀ n parity, suspectTurn s n = some k → c.saving = none →
      ∃ t d, exec (.isolationReplay n k (.reproduced parity)) s = .next t ∧ t.ctx? k = some d ∧ d.st = .stopped ∧ suspectTurn t n = none ∧
        tget t.rel.suspects n = none ∧ t.host.raised = s.host.raised ++ [{
          code := if parity then 0x4102 else 0x4301, part := some c.part, ctx := some k,
          data := BitVec.ofNat 128 (data4 (if n < 256 then n else 0xFF) (suspectCore n / 8) 0 (curStep s c.part)), ptv := s.time.valid,
          pt := if s.time.valid then s.time.pt else s.time.up }]) ∧
    (∀ n j, suspectTurn s n = some k → tgetD s.rel.suspects n [] = [k, j] → k < j →
      exec (.isolationReplay n k (.clean false)) s = .next (giveTurn s n (some j)) ∧ suspectTurn (giveTurn s n (some j)) n = some j ∧
      exec (.isolationReplay n k .unfinished) s = .next (giveTurn s n (some j))) ∧
    (∀ n, suspectTurn s n = some k → ∃ t, exec (.isolationReplay n k (.clean true)) s = .next t ∧ suspectTurn t n = none ∧
      tget t.rel.suspects n = none ∧ (n < 256 → ∃ l, (t.map n).marks = l ++ [s.now]) ∧ (256 ≤ n → t.maps = s.maps) ∧ t.ctxs = s.ctxs))

/-- The input outside its range is reported once a beat by 0x5101, and outside 40 V to 56 V the module switches off (R435). A dip opens the
warning window, and
ends with 0x5102; at the reset level or after its time it asks for a compute reset, with 0x5103 (R438, R440). Each millisecond the cap moves
every clock by one
25 MHz step (R443, R444).

A die at its warning threshold steps its clock down with 0x5203, and the limit ends 2 °C below it; a thermal trip raises 0x5204, drives
THERMTRIP and fails the
module (R445). A coolant sensor raises its event at each crossing (R446). -/
def Obligations.InputHeatAndPowerCap : Prop :=
  (∀ (s : State),
    (s.pwr.st = .off → ∀ mv, exec (.inputOutOfRange mv) s = .next s) ∧
    (∀ mv, s.pwr.st ≠ .off →
      (42000 ≤ mv → mv ≤ 54000 → exec (.inputOutOfRange mv) s = .next (s.modPwr (fun p => { p with
        sensors := tput p.sensors 1 mv, inputBad := false }))) ∧
      (mv < 42000 ∨ 54000 < mv → 40000 ≤ mv → mv ≤ 56000 → s.pwr.inputRaised = false →
        ∃ t, exec (.inputOutOfRange mv) s = .next t ∧ t.pwr.inputBad = true ∧ t.pwr.inputRaised = true ∧ t.pwr.st = s.pwr.st ∧ t.mem = s.mem ∧
          t.host.raised = s.host.raised ++ [{
            code := 0x5101, part := none, ctx := none, data := BitVec.ofNat 128 (data5 1 mv 0), ptv := s.time.valid,
            pt := if s.time.valid then s.time.pt else s.time.up }]) ∧
      (mv < 40000 ∨ 56000 < mv → ∃ t, exec (.inputOutOfRange mv) s = .next t ∧ t.pwr.st = .off ∧ t.mem = {} ∧ t.ctxs = [] ∧
        t.parts = [] ∧ t.mgmt.ready = false)) ∧
    (∀ d r, r = tgetD s.pwr.rails d {} → computeOn s = true → s.pwr.trip = false →
      (∀ mv, r.below = true → exec (.vcoreWarning d mv) s = .next (s.modPwr (fun p => { p with
        sensors := tput p.sensors (0x10 + d) mv, rails := tput p.rails d { r with minmv := BitVec.ofNat 16 (min r.minmv.toNat mv) } }))) ∧
      (∀ mv, r.below = false → s.ctxs = [] → s.clusters = [] → s.rel.checks = [] → ∃ t, exec (.vcoreWarning d mv) s = .next t ∧
        tgetD t.pwr.rails d {} = { r with dips := satInc r.dips, minmv := BitVec.ofNat 16 mv, below := true, window := true } ∧
        t.mem = s.mem ∧ t.host = s.host ∧ t.parts = s.parts) ∧
      (∀ mv, r.resetAt = none → ∃ t, exec (.vcoreResetLevel d mv) s = .next t ∧ (tgetD t.pwr.rails d {}).below = true ∧
        (tgetD t.pwr.rails d {}).resetAt = some s.now ∧ (tgetD t.pwr.rails d {}).vresets = satInc r.vresets ∧
        t.rel.rstQueue = s.rel.rstQueue ++ [(3, 0, none)] ∧ t.rel.rstBusy = true ∧ t.mem = s.mem ∧ t.ctxs = s.ctxs ∧
        t.host.raised = s.host.raised ++ [{
          code := 0x5103, part := none, ctx := none, data := BitVec.ofNat 128 (data5 (0x10 + d) mv 0), ptv := s.time.valid,
          pt := if s.time.valid then s.time.pt else s.time.up }])) ∧
    (∀ d r, r = tgetD s.pwr.rails d {} →
      (r.below = false → exec (.vcoreRecover d) s = .next s ∧ exec (.vcoreDipTimeout d) s = .next s) ∧
      (r.below = true → r.resetAt = none →
        exec (.vcoreRecover d) s = .next (raiseDev (s.modPwr (fun p => { p with rails := tput p.rails d { r with below := false, window := false } }))
          0x5102 (data5 (0x10 + d) r.minmv.toNat 0)) ∧
        ∃ t, exec (.vcoreDipTimeout d) s = .next t ∧ (tgetD t.pwr.rails d {}).resetAt = some s.now ∧ (tgetD t.pwr.rails d {}).dips = r.dips ∧
          t.rel.rstQueue = s.rel.rstQueue ++ [(3, 0, none)])) ∧
    (∀ w, computeOn s = true → (∀ d < 4, dieWindow s d = false) → s.pwr.dieWarm = [] →
      (s.pwr.capW.toNat < w → s.pwr.capOn = false → ∃ t, exec (.powerCapTick w) s = .next t ∧ t.pwr.capOn = true ∧
        (∀ d < 4, aclkOf t d = max 200 (aclkOf s d - 25)) ∧ t.pwr.pinW = BitVec.ofNat 16 w ∧
        t.host.raised = s.host.raised ++ [{
          code := 0x5401, part := none, ctx := none, data := BitVec.ofNat 128 (data5 3 (1000 * (w : Int)) 0), ptv := s.time.valid,
          pt := if s.time.valid then s.time.pt else s.time.up }]) ∧
      (w * 100 < s.pwr.capW.toNat * 95 → s.pwr.capOn = true → (∃ d < 4, aclkOf s d < 1475) →
        ∃ t, exec (.powerCapTick w) s = .next t ∧ t.pwr.capOn = true ∧ t.host = s.host ∧ (∀ d < 4, aclkOf t d = min 1500 (aclkOf s d + 25))) ∧
      (w ≤ s.pwr.capW.toNat → s.pwr.capW.toNat * 95 ≤ w * 100 → s.pwr.capOn = false → ∃ t, exec (.powerCapTick w) s = .next t ∧
        (∀ d < 4, aclkOf t d = aclkOf s d) ∧ t.host = s.host))) ∧
  (∀ (s : State), s.pwr.st ≠ .off → s.pwr.st ≠ .carousel →
    (∀ d temp, s.pwr.trip = false →
      ((s.pwr.tdieWarn.toNat : Int) ≤ temp → d ∉ s.pwr.dieWarm → computeOn s = true →
        ∃ t, exec (.dieTempWarning d temp) s = .next t ∧ t.pwr.thLim = true ∧ t.pwr.dieWarm = s.pwr.dieWarm ++ [d] ∧
          aclkOf t d = max 200 (aclkOf s d - 25) ∧ t.host.raised = s.host.raised ++ [{
            code := 0x5203, part := none, ctx := none, data := BitVec.ofNat 128 (data5 (0x100 + d) (1000 * temp) 0), ptv := s.time.valid,
            pt := if s.time.valid then s.time.pt else s.time.up }]) ∧
      (temp < (s.pwr.tdieWarn.toNat : Int) - 2 → s.pwr.dieWarm = [d] → ∃ t, exec (.dieTempWarning d temp) s = .next t ∧ t.pwr.dieWarm = [] ∧
        t.pwr.thLim = false ∧ t.host = s.host ∧ t.pwr.aclk = s.pwr.aclk) ∧
      ((s.pwr.tdieWarn.toNat : Int) - 2 ≤ temp → d ∈ s.pwr.dieWarm → ∃ t, exec (.dieTempWarning d temp) s = .next t ∧ t.pwr.dieWarm = s.pwr.dieWarm ∧
        t.host = s.host)) ∧
    (∀ d, (d < 4 → s.pwr.trip = false → ∃ t rest, exec (.thermalTrip d) s = .next t ∧ t.pwr.trip = true ∧ d ∈ t.pwr.hot ∧ t.mgmt.thermtrip = true ∧
        t.rel.failed = true ∧ t.mem = s.mem ∧ t.host.raised = s.host.raised ++ {
          code := 0x5204, part := none, ctx := none, data := BitVec.ofNat 128 (data5 (0x100 + d) 110000 0), ptv := s.time.valid,
          pt := if s.time.valid then s.time.pt else s.time.up } :: rest) ∧
      (s.pwr.trip = true → ∃ t, exec (.thermalTrip d) s = .next t ∧ d ∈ t.pwr.hot ∧ t.host = s.host ∧ t.rel = s.rel)) ∧
    (∀ milli, ((1000 * s.pwr.tinWarn.toNat : Int) < milli → 0x500 ∉ s.pwr.coolOut →
        exec (.coolantAlarm 0x500 milli) s = .next (raiseDev (s.modPwr (fun p => { p with
          sensors := tput p.sensors 0x500 milli, coolOut := p.coolOut ++ [0x500] })) 0x5201 (data5 0x500 milli 0))) ∧
      (milli ≤ (1000 * s.pwr.tinWarn.toNat : Int) → s.pwr.coolOut = [0x500] →
        exec (.coolantAlarm 0x500 milli) s = .next (raiseDev (s.modPwr (fun p => { p with
          sensors := tput p.sensors 0x500 milli, coolOut := [] })) 0x5201 (data5 0x500 milli 0))) ∧
      (milli < (s.pwr.flowWarn.toNat : Int) → 0x502 ∉ s.pwr.coolOut →
        exec (.coolantAlarm 0x502 milli) s = .next (raiseDev (s.modPwr (fun p => { p with
          sensors := tput p.sensors 0x502 milli, coolOut := p.coolOut ++ [0x502] })) 0x5202 (data5 0x502 milli 0))) ∧
      (milli ≤ (1000 * s.pwr.tinWarn.toNat : Int) → 0x500 ∉ s.pwr.coolOut →
        exec (.coolantAlarm 0x500 milli) s = .next (s.modPwr (fun p => { p with sensors := tput p.sensors 0x500 milli })))))

/-- The module moves toward its goal one power state at a time, with 0x5301 (R449, R450): HOLD loses what the cores hold and keeps memory;
CAROUSEL loses link
training, routes and Pod Time's validity; OFF loses all. The command that asked completes at the goal. An enabled wake source leads out of
CAROUSEL (R452), an alarm by its edge alone (R333), and one that acts during an entry waits for its end (R453); a sample
there that crosses a threshold wakes and is kept for its event (R454). -/
def Obligations.PowerStatesChangeStepByStep : Prop :=
  ∀ (s : State),
    (s.pwr.goal = none → exec .stateChangeComplete s = .next s) ∧
    (∀ g o, s.pwr.goal = some (g, o) → s.pwr.st = .idle → g = .hold ∨ g = .carousel →
      ∃ t, exec .stateChangeComplete s = .next t ∧ t.pwr.st = .hold ∧ t.mem.bytes = s.mem.bytes ∧ t.mem.lines = [] ∧ t.pwr.aclk = [] ∧
        t.ctxs = s.ctxs ∧ (∀ n, (t.core n).resErr = 0) ∧ (∀ n r, tget s.cores n = some r → (t.core n).arrCtl = r.arrCtl ∧ (t.core n).slots = r.slots)) ∧
    (∀ g, s.pwr.goal = some (g, none) → s.pwr.st = .hold → g = .carousel → s.pwr.wakePend = none → (∀ f ∈ s.host.fns, f.2.bme = false) →
      ∃ t, exec .stateChangeComplete s = .next t ∧ t.pwr.st = .carousel ∧ t.pwr.goal = none ∧ t.fab.route = [] ∧ t.fab.podup = false ∧
        t.time.valid = false ∧ t.mem.bytes = s.mem.bytes ∧ (∀ n, (t.link n).peer = none) ∧ t.host.raised = s.host.raised ++ [{
          code := 0x5301, part := none, ctx := none, data := BitVec.ofNat 128 (data5 0 0 2), ptv := false, pt := s.time.up }]) ∧
    (∀ o, s.pwr.goal = some (.idle, o) → s.pwr.st = .hold → s.pwr.wakePend = none →
      ∃ t, exec .stateChangeComplete s = .next (match o with | some q => finish t q 0 0 | none => t) ∧ t.pwr.st = .idle ∧ t.pwr.goal = none ∧
        t.mem = s.mem ∧ (∀ d < 4, aclkOf t d = 1500)) ∧
    (∀ o, s.pwr.goal = some (.idle, o) → s.pwr.st = .run → s.ctxs = [] → s.pwr.wakePend = none →
      exec .stateChangeComplete s = .next (match o with
        | some q => finish (raiseDev (s.modPwr (fun p => { p with st := .idle, goal := none })) 0x5301 (data5 0 0 0)) q 0 0
        | none => raiseDev (s.modPwr (fun p => { p with st := .idle, goal := none })) 0x5301 (data5 0 0 0))) ∧
    (∀ o, s.pwr.goal = some (.off, o) → s.pwr.st ≠ .off → (∀ f ∈ s.host.fns, f.2.bme = false) →
      ∃ t, exec .stateChangeComplete s = .next t ∧ t.pwr.st = .off ∧ t.mem = {} ∧ t.ctxs = [] ∧ t.parts = [] ∧ t.mgmt.fwstate = 0) ∧
    (s.pwr.alarmEdge = false → exec (.wake 3) s = .next s) ∧
    (∀ k s1, (k ≠ 3 ∨ s.pwr.alarmEdge = true) → s1 = (if k = 3 then s.modPwr (fun p => { p with alarmEdge := false }) else s) →
      (s.pwr.wakeEn.getLsbD k = false → exec (.wake k) s = .next s1) ∧
      (s.pwr.wakeEn.getLsbD k = true →
        (s.pwr.goal = none → s.pwr.st = .carousel → exec (.wake k) s = .next (s1.modPwr (fun p => { p with
          goal := some (if s.pwr.wakeTo then .run else .hold, none), lastWake := BitVec.ofNat 3 (k + 1) }))) ∧
        (s.pwr.goal = none → s.pwr.st = .hold ∨ s.pwr.st = .idle → exec (.wake k) s = .next (if s.pwr.wakeTo then s1.modPwr (fun p => { p with
          goal := some (.run, none), lastWake := BitVec.ofNat 3 (k + 1) }) else s1)) ∧
        (∀ o, s.pwr.goal = some (.carousel, o) → exec (.wake k) s = .next (s1.modPwr (fun p => { p with wakePend := some k }))))) ∧
    (s.pwr.st ≠ .carousel → ∀ rs, exec (.carouselSample rs) s = .next s) ∧
    (∀ id x, s.pwr.st = .carousel → s.pwr.goal = none →
      (fixedLimit (id, x) = false → crosses s (id, x) = false →
        exec (.carouselSample [(id, x)]) s = .next (s.modPwr (fun p => { p with
          sensors := tput p.sensors id x, carSamples := satInc p.carSamples }))) ∧
      (fixedLimit (id, x) = true → s.pwr.wakeEn.getLsbD 1 = true → ∃ t, exec (.carouselSample [(id, x)]) s = .next t ∧
        (id, x) ∈ t.pwr.crossings ∧ t.pwr.goal = some (if s.pwr.wakeTo then .run else .hold, none) ∧ t.pwr.lastWake = 2))

/-! ### Reset and the invariant -/

/-- What reset leaves (R10): no command, context or event, registers at the values of their Reset columns, among them the test evaluation of R210,
a step and an attempt of 0, the share of no partition, the fixed values of configuration space (R353), and memory and tables that the
invariant admits. -/
def Obligations.ResetLeavesTheStatedValues : Prop :=
  State.reset.pending = [] ∧ State.reset.ctxs = [] ∧ State.reset.mem.bytes = [] ∧ State.reset.mem.region = [] ∧ State.reset.host.raised = [] ∧
  StateOk State.reset ∧ (∀ n, State.reset.cmt n = {}) ∧ curStep State.reset 0 = 1 ∧
  readReg State.reset 0 0x100640 = 0x492EA8E1A841830D ∧ readReg State.reset 0 0x100648 = 0x246AD0F63E4DAE1A ∧
  readReg State.reset 0 0x200000 = 0x11801 ∧ (∀ n < 256, readReg State.reset 0 (0x100000 + 4096 * n + 0x480) = 0) ∧
  readReg State.reset 0 0x220000 = 0x200180042 ∧ readReg State.reset 0 0x230020 = 0x1388286E5F ∧ State.reset.mgmt.fwstate = 0 ∧ State.reset.time.valid = false ∧
  State.reset.host.ids.classCode = 0x120000 ∧ State.reset.host.ids.revision = 0xB1 ∧ State.reset.host.ids.device = 0x7A40 ∧
  State.reset.host.ids.vfDevice = 0x7A41 ∧ State.reset.host.ids.subsystemVendor = State.reset.host.ids.vendor

/-- Every step keeps the invariant: the byte memories of the module and of the host stay in canonical form, and the tables of contexts and of
region entries keep their keys in rising order. -/
def Obligations.EveryStepKeepsTheInvariant : Prop :=
  ∀ s t : State, StateOk s → step s = .next t → StateOk t
end

