-- ==== Sys2Proof/Laws/Memory.lean ====
section
/-! SUPPORT. Laws of the sparse tables and of the byte memories: what is read after a write, and that every operation keeps
the canonical form. -/

namespace Sys2Proof.Machine

open Sys2Proof

/-! ### Sparse tables -/

@[simp] theorem tget_nil {α : Type} (a : Nat) : tget ([] : Tab α) a = none := rfl

@[simp] theorem tget_tput_same {α : Type} (t : Tab α) (a : Nat) (v : α) : tget (tput t a v) a = some v := by
  induction t with
  | nil => simp [tput, tget]
  | cons p r ih =>
    obtain ⟨k, w⟩ := p
    simp only [tput]
    split
    · simp [tget]
    · split
      · simp [tget]
      · rename_i h; rw [tget, if_neg (Ne.symm h), ih]

theorem tget_tput_ne {α : Type} (t : Tab α) {a b : Nat} (v : α) (h : b ≠ a) : tget (tput t a v) b = tget t b := by
  induction t with
  | nil => simp [tput, tget, Ne.symm h]
  | cons p r ih =>
    obtain ⟨k, w⟩ := p
    simp only [tput]
    split
    · simp [tget, Ne.symm h]
    · split
      · subst_vars; simp [tget, Ne.symm h]
      · simp [tget, ih]

theorem tget_tdel_ne {α : Type} (t : Tab α) {a b : Nat} (h : b ≠ a) : tget (tdel t a) b = tget t b := by
  induction t with
  | nil => rfl
  | cons p r ih =>
    obtain ⟨k, w⟩ := p
    unfold tdel at *
    by_cases hk : k = a
    · subst hk; simp [tget, Ne.symm h, ih]
    · simp [tget, hk, ih]

@[simp] theorem tget_tdel_same {α : Type} (t : Tab α) (a : Nat) : tget (tdel t a) a = none := by
  induction t with
  | nil => rfl
  | cons p r ih =>
    obtain ⟨k, w⟩ := p
    unfold tdel at *
    by_cases hk : k = a
    · subst hk; simp [ih]
    · simp [tget, hk, ih]

@[simp] theorem tgetD_tput_same {α : Type} (t : Tab α) (a : Nat) (v d : α) : tgetD (tput t a v) a d = v := by
  simp [tgetD]

theorem tgetD_tput_ne {α : Type} (t : Tab α) {a b : Nat} (v d : α) (h : b ≠ a) : tgetD (tput t a v) b d = tgetD t b d := by
  simp [tgetD, tget_tput_ne t v h]

@[simp] theorem tgetD_tmod_same {α : Type} (t : Tab α) (a : Nat) (d : α) (f : α → α) :
    tgetD (tmod t a d f) a d = f (tgetD t a d) := by simp [tmod]

theorem tgetD_tmod_ne {α : Type} (t : Tab α) {a b : Nat} (d : α) (f : α → α) (h : b ≠ a) :
    tgetD (tmod t a d f) b d = tgetD t b d := by simp [tmod, tgetD_tput_ne t _ d h]

/-! ### Canonical form of a byte memory -/

/-- An entry before the entries of a memory. -/
def Memory.before (k : Nat) : List Host.Cell → Prop
  | [] => True
  | (k', _) :: _ => k < k'

theorem Memory.wf_cons (k : Nat) (b : Byte) (r : List Host.Cell) :
    Memory.wf ((k, b) :: r) = true ↔ b ≠ 0 ∧ Memory.before k r ∧ Memory.wf r = true := by
  cases r with
  | nil => simp [Memory.wf, Memory.before]
  | cons p r => obtain ⟨k', b'⟩ := p; simp [Memory.wf, Memory.before, and_assoc]

@[simp] theorem Memory.wf_nil : Memory.wf [] = true := rfl

theorem Memory.before_mono {k j : Nat} (h : j ≤ k) : ∀ {m : List Host.Cell}, Memory.before k m → Memory.before j m
  | [], _ => trivial
  | (_, _) :: _, hk => Nat.lt_of_le_of_lt h hk

theorem Memory.before_memPut {k a : Nat} (b : Byte) (h : k < a) : ∀ {m : List Host.Cell}, Memory.wf m = true →
    Memory.before k m → Memory.before k (memPut m a b)
  | [], _, _ => by simp only [memPut]; split <;> simp [Memory.before, h]
  | (k', c) :: r, hw, hk => by
    have hw' := (Memory.wf_cons k' c r).1 hw
    have hk' : k < k' := hk
    simp only [memPut]
    split
    · split <;> simp [Memory.before, h, hk']
    · split
      · split
        · exact Memory.before_mono (Nat.le_of_lt hk') hw'.2.1
        · exact h
      · exact hk'

/-- Writing a byte keeps the canonical form. -/
theorem memPut_wf (a : Nat) (b : Byte) : ∀ {m : List Host.Cell}, Memory.wf m = true → Memory.wf (memPut m a b) = true
  | [], _ => by simp only [memPut]; split <;> simp_all [Memory.wf]
  | (k, c) :: r, hw => by
    have hw' := (Memory.wf_cons k c r).1 hw
    simp only [memPut]
    split
    · split
      · exact hw
      · rename_i h1 h2; exact (Memory.wf_cons _ _ _).2 ⟨h2, h1, hw⟩
    · split
      · split
        · exact hw'.2.2
        · rename_i h2 h3; subst h2; exact (Memory.wf_cons _ _ _).2 ⟨h3, hw'.2⟩
      · rename_i h1 h2
        refine (Memory.wf_cons _ _ _).2 ⟨hw'.1, ?_, memPut_wf a b hw'.2.2⟩
        exact Memory.before_memPut b (by omega) hw'.2.2 hw'.2.1

/-- Writing bytes keeps the canonical form. -/
theorem memPutAll_wf {m : List Host.Cell} (a : Nat) (bs : List Byte) (h : Memory.wf m = true) :
    Memory.wf (memPutAll m a bs) = true := by
  induction bs generalizing m a with
  | nil => exact h
  | cons b bs ih => exact ih (a + 1) (memPut_wf a b h)

theorem Memory.before_filter {k : Nat} (p : Host.Cell → Bool) : ∀ {m : List Host.Cell}, Memory.wf m = true → Memory.before k m →
    Memory.before k (m.filter p)
  | [], _, _ => trivial
  | (k', c) :: r, hw, hk => by
    have hw' := (Memory.wf_cons k' c r).1 hw
    simp only [List.filter]
    split
    · exact hk
    · exact Memory.before_filter p hw'.2.2 (Memory.before_mono (Nat.le_of_lt hk) hw'.2.1)

/-- Taking entries away keeps the canonical form. -/
theorem Memory.wf_filter (p : Host.Cell → Bool) : ∀ {m : List Host.Cell}, Memory.wf m = true → Memory.wf (m.filter p) = true
  | [], _ => rfl
  | (k, c) :: r, hw => by
    have hw' := (Memory.wf_cons k c r).1 hw
    simp only [List.filter]
    split
    · exact (Memory.wf_cons _ _ _).2 ⟨hw'.1, Memory.before_filter p hw'.2.2 hw'.2.1, Memory.wf_filter p hw'.2.2⟩
    · exact Memory.wf_filter p hw'.2.2

/-- Clearing a range keeps the canonical form. -/
theorem memClear_wf {m : List Host.Cell} (a n : Nat) (h : Memory.wf m = true) : Memory.wf (memClear m a n) = true :=
  Memory.wf_filter _ h

/-! ### What a read gives -/

theorem memGet_of_before {a : Nat} : ∀ {m : List Host.Cell}, Memory.wf m = true → Memory.before a m → memGet m a = 0
  | [], _, _ => rfl
  | (k, b) :: r, hw, hk => by
    have hw' := (Memory.wf_cons k b r).1 hw
    have hlt : a < k := hk
    rw [memGet, if_neg (by omega)]
    exact memGet_of_before hw'.2.2 (Memory.before_mono (Nat.le_of_lt hlt) hw'.2.1)

/-- A byte reads as it was written. -/
theorem memGet_memPut_same (a : Nat) (b : Byte) : ∀ {m : List Host.Cell}, Memory.wf m = true → memGet (memPut m a b) a = b
  | [], _ => by simp only [memPut]; split <;> simp_all [memGet]
  | (k, c) :: r, hw => by
    have hw' := (Memory.wf_cons k c r).1 hw
    simp only [memPut]
    split
    · rename_i h
      split
      · rename_i hb; subst hb; exact memGet_of_before hw h
      · simp [memGet]
    · split
      · rename_i h; subst h
        split
        · rename_i hb; subst hb; exact memGet_of_before hw'.2.2 hw'.2.1
        · simp [memGet]
      · rename_i h1 h2
        rw [memGet, if_neg (fun e => h2 e.symm)]
        exact memGet_memPut_same a b hw'.2.2

/-- Every other byte reads as before. -/
theorem memGet_memPut_ne {a x : Nat} (b : Byte) (h : x ≠ a) : ∀ (m : List Host.Cell), memGet (memPut m a b) x = memGet m x
  | [] => by simp only [memPut]; split <;> simp [memGet, Ne.symm h]
  | (k, c) :: r => by
    simp only [memPut]
    split
    · split <;> simp [memGet, Ne.symm h]
    · split
      · rename_i h2; subst h2; split <;> simp [memGet, Ne.symm h]
      · simp [memGet, memGet_memPut_ne b h r]

/-- A byte outside a written range reads as before. -/
theorem memGet_memPutAll_out (m : List Host.Cell) (a x : Nat) (bs : List Byte) (h : x < a ∨ a + bs.length ≤ x) :
    memGet (memPutAll m a bs) x = memGet m x := by
  induction bs generalizing m a with
  | nil => rfl
  | cons b bs ih =>
    simp only [List.length_cons] at h
    rw [memPutAll, ih _ _ (by omega), memGet_memPut_ne b (by omega)]

/-- A byte of a written range reads as written. -/
theorem memGet_memPutAll_in {m : List Host.Cell} (hw : Memory.wf m = true) (a : Nat) (bs : List Byte) (i : Nat) (hi : i < bs.length) :
    memGet (memPutAll m a bs) (a + i) = bs[i] := by
  induction bs generalizing m a i with
  | nil => exact absurd hi (Nat.not_lt_zero _)
  | cons b bs ih =>
    rw [memPutAll]
    cases i with
    | zero => rw [memGet_memPutAll_out _ _ _ _ (by omega)]; simpa using memGet_memPut_same a b hw
    | succ i =>
      have := ih (memPut_wf a b hw) (a + 1) i (by simpa using hi)
      rw [show a + (i + 1) = a + 1 + i by omega, this]; rfl

/-- A cleared byte reads 0; another reads as before. -/
theorem memGet_memClear (a n x : Nat) : ∀ (m : List Host.Cell),
    memGet (memClear m a n) x = if a ≤ x ∧ x < a + n then 0 else memGet m x
  | [] => by simp [memClear, memGet]
  | (k, b) :: r => by
    have ih := memGet_memClear a n x r
    simp only [memClear, List.filter] at ih ⊢
    by_cases hk : a ≤ k ∧ k < a + n
    · simp only [hk, decide_true, Bool.and_self, Bool.not_true, ih, memGet]
      by_cases hx : k = x
      · subst hx; simp [hk]
      · simp [hx]
    · have : (!(decide (a ≤ k) && decide (k < a + n))) = true := by simp; omega
      simp only [this, memGet, ih]
      by_cases hx : k = x
      · subst hx; simp [hk]
      · simp [hx]

end Sys2Proof.Machine
end

