-- ==== Sys2Proof/Laws/State.lean ====
section
/-! SUPPORT. What each update of the state leaves alone, field by field, and what it writes. -/

namespace Sys2Proof.Machine

open Sys2Proof

variable (s : State)


/-! ### modCore -/

@[simp] theorem State.modCore_pending (n : Nat) (f : Core → Core) : (s.modCore n f).pending = s.pending := rfl
@[simp] theorem State.modCore_maps (n : Nat) (f : Core → Core) : (s.modCore n f).maps = s.maps := rfl
@[simp] theorem State.modCore_clusters (n : Nat) (f : Core → Core) : (s.modCore n f).clusters = s.clusters := rfl
@[simp] theorem State.modCore_parts (n : Nat) (f : Core → Core) : (s.modCore n f).parts = s.parts := rfl
@[simp] theorem State.modCore_ctxs (n : Nat) (f : Core → Core) : (s.modCore n f).ctxs = s.ctxs := rfl
@[simp] theorem State.modCore_mem (n : Nat) (f : Core → Core) : (s.modCore n f).mem = s.mem := rfl
@[simp] theorem State.modCore_fab (n : Nat) (f : Core → Core) : (s.modCore n f).fab = s.fab := rfl
@[simp] theorem State.modCore_time (n : Nat) (f : Core → Core) : (s.modCore n f).time = s.time := rfl
@[simp] theorem State.modCore_host (n : Nat) (f : Core → Core) : (s.modCore n f).host = s.host := rfl
@[simp] theorem State.modCore_mgmt (n : Nat) (f : Core → Core) : (s.modCore n f).mgmt = s.mgmt := rfl
@[simp] theorem State.modCore_rel (n : Nat) (f : Core → Core) : (s.modCore n f).rel = s.rel := rfl
@[simp] theorem State.modCore_pwr (n : Nat) (f : Core → Core) : (s.modCore n f).pwr = s.pwr := rfl
@[simp] theorem State.modCore_gsrq (n : Nat) (f : Core → Core) : (s.modCore n f).gsrq = s.gsrq := rfl
@[simp] theorem State.modCore_rhos (n : Nat) (f : Core → Core) : (s.modCore n f).rhos = s.rhos := rfl
@[simp] theorem State.modCore_feeds (n : Nat) (f : Core → Core) : (s.modCore n f).feeds = s.feeds := rfl
@[simp] theorem State.modCore_groups (n : Nat) (f : Core → Core) : (s.modCore n f).groups = s.groups := rfl
@[simp] theorem State.modCore_rebakes (n : Nat) (f : Core → Core) : (s.modCore n f).rebakes = s.rebakes := rfl
@[simp] theorem State.modCore_tsrq (n : Nat) (f : Core → Core) : (s.modCore n f).tsrq = s.tsrq := rfl
@[simp] theorem State.modCore_verdicts (n : Nat) (f : Core → Core) : (s.modCore n f).verdicts = s.verdicts := rfl
@[simp] theorem State.modCore_abandons (n : Nat) (f : Core → Core) : (s.modCore n f).abandons = s.abandons := rfl
@[simp] theorem State.modCore_free (n : Nat) (f : Core → Core) : (s.modCore n f).free = s.free := rfl

/-! ### modMap -/

@[simp] theorem State.modMap_pending (n : Nat) (f : CoreMap → CoreMap) : (s.modMap n f).pending = s.pending := rfl
@[simp] theorem State.modMap_cores (n : Nat) (f : CoreMap → CoreMap) : (s.modMap n f).cores = s.cores := rfl
@[simp] theorem State.modMap_clusters (n : Nat) (f : CoreMap → CoreMap) : (s.modMap n f).clusters = s.clusters := rfl
@[simp] theorem State.modMap_parts (n : Nat) (f : CoreMap → CoreMap) : (s.modMap n f).parts = s.parts := rfl
@[simp] theorem State.modMap_ctxs (n : Nat) (f : CoreMap → CoreMap) : (s.modMap n f).ctxs = s.ctxs := rfl
@[simp] theorem State.modMap_mem (n : Nat) (f : CoreMap → CoreMap) : (s.modMap n f).mem = s.mem := rfl
@[simp] theorem State.modMap_fab (n : Nat) (f : CoreMap → CoreMap) : (s.modMap n f).fab = s.fab := rfl
@[simp] theorem State.modMap_time (n : Nat) (f : CoreMap → CoreMap) : (s.modMap n f).time = s.time := rfl
@[simp] theorem State.modMap_host (n : Nat) (f : CoreMap → CoreMap) : (s.modMap n f).host = s.host := rfl
@[simp] theorem State.modMap_mgmt (n : Nat) (f : CoreMap → CoreMap) : (s.modMap n f).mgmt = s.mgmt := rfl
@[simp] theorem State.modMap_rel (n : Nat) (f : CoreMap → CoreMap) : (s.modMap n f).rel = s.rel := rfl
@[simp] theorem State.modMap_pwr (n : Nat) (f : CoreMap → CoreMap) : (s.modMap n f).pwr = s.pwr := rfl
@[simp] theorem State.modMap_gsrq (n : Nat) (f : CoreMap → CoreMap) : (s.modMap n f).gsrq = s.gsrq := rfl
@[simp] theorem State.modMap_rhos (n : Nat) (f : CoreMap → CoreMap) : (s.modMap n f).rhos = s.rhos := rfl
@[simp] theorem State.modMap_feeds (n : Nat) (f : CoreMap → CoreMap) : (s.modMap n f).feeds = s.feeds := rfl
@[simp] theorem State.modMap_groups (n : Nat) (f : CoreMap → CoreMap) : (s.modMap n f).groups = s.groups := rfl
@[simp] theorem State.modMap_rebakes (n : Nat) (f : CoreMap → CoreMap) : (s.modMap n f).rebakes = s.rebakes := rfl
@[simp] theorem State.modMap_tsrq (n : Nat) (f : CoreMap → CoreMap) : (s.modMap n f).tsrq = s.tsrq := rfl
@[simp] theorem State.modMap_verdicts (n : Nat) (f : CoreMap → CoreMap) : (s.modMap n f).verdicts = s.verdicts := rfl
@[simp] theorem State.modMap_abandons (n : Nat) (f : CoreMap → CoreMap) : (s.modMap n f).abandons = s.abandons := rfl
@[simp] theorem State.modMap_free (n : Nat) (f : CoreMap → CoreMap) : (s.modMap n f).free = s.free := rfl

/-! ### modCluster -/

@[simp] theorem State.modCluster_pending (n : Nat) (f : Cluster → Cluster) : (s.modCluster n f).pending = s.pending := rfl
@[simp] theorem State.modCluster_cores (n : Nat) (f : Cluster → Cluster) : (s.modCluster n f).cores = s.cores := rfl
@[simp] theorem State.modCluster_maps (n : Nat) (f : Cluster → Cluster) : (s.modCluster n f).maps = s.maps := rfl
@[simp] theorem State.modCluster_parts (n : Nat) (f : Cluster → Cluster) : (s.modCluster n f).parts = s.parts := rfl
@[simp] theorem State.modCluster_ctxs (n : Nat) (f : Cluster → Cluster) : (s.modCluster n f).ctxs = s.ctxs := rfl
@[simp] theorem State.modCluster_mem (n : Nat) (f : Cluster → Cluster) : (s.modCluster n f).mem = s.mem := rfl
@[simp] theorem State.modCluster_fab (n : Nat) (f : Cluster → Cluster) : (s.modCluster n f).fab = s.fab := rfl
@[simp] theorem State.modCluster_time (n : Nat) (f : Cluster → Cluster) : (s.modCluster n f).time = s.time := rfl
@[simp] theorem State.modCluster_host (n : Nat) (f : Cluster → Cluster) : (s.modCluster n f).host = s.host := rfl
@[simp] theorem State.modCluster_mgmt (n : Nat) (f : Cluster → Cluster) : (s.modCluster n f).mgmt = s.mgmt := rfl
@[simp] theorem State.modCluster_rel (n : Nat) (f : Cluster → Cluster) : (s.modCluster n f).rel = s.rel := rfl
@[simp] theorem State.modCluster_pwr (n : Nat) (f : Cluster → Cluster) : (s.modCluster n f).pwr = s.pwr := rfl
@[simp] theorem State.modCluster_gsrq (n : Nat) (f : Cluster → Cluster) : (s.modCluster n f).gsrq = s.gsrq := rfl
@[simp] theorem State.modCluster_rhos (n : Nat) (f : Cluster → Cluster) : (s.modCluster n f).rhos = s.rhos := rfl
@[simp] theorem State.modCluster_feeds (n : Nat) (f : Cluster → Cluster) : (s.modCluster n f).feeds = s.feeds := rfl
@[simp] theorem State.modCluster_groups (n : Nat) (f : Cluster → Cluster) : (s.modCluster n f).groups = s.groups := rfl
@[simp] theorem State.modCluster_rebakes (n : Nat) (f : Cluster → Cluster) : (s.modCluster n f).rebakes = s.rebakes := rfl
@[simp] theorem State.modCluster_tsrq (n : Nat) (f : Cluster → Cluster) : (s.modCluster n f).tsrq = s.tsrq := rfl
@[simp] theorem State.modCluster_verdicts (n : Nat) (f : Cluster → Cluster) : (s.modCluster n f).verdicts = s.verdicts := rfl
@[simp] theorem State.modCluster_abandons (n : Nat) (f : Cluster → Cluster) : (s.modCluster n f).abandons = s.abandons := rfl
@[simp] theorem State.modCluster_free (n : Nat) (f : Cluster → Cluster) : (s.modCluster n f).free = s.free := rfl

/-! ### modPart -/

@[simp] theorem State.modPart_pending (n : Nat) (f : Part → Part) : (s.modPart n f).pending = s.pending := rfl
@[simp] theorem State.modPart_cores (n : Nat) (f : Part → Part) : (s.modPart n f).cores = s.cores := rfl
@[simp] theorem State.modPart_maps (n : Nat) (f : Part → Part) : (s.modPart n f).maps = s.maps := rfl
@[simp] theorem State.modPart_clusters (n : Nat) (f : Part → Part) : (s.modPart n f).clusters = s.clusters := rfl
@[simp] theorem State.modPart_ctxs (n : Nat) (f : Part → Part) : (s.modPart n f).ctxs = s.ctxs := rfl
@[simp] theorem State.modPart_mem (n : Nat) (f : Part → Part) : (s.modPart n f).mem = s.mem := rfl
@[simp] theorem State.modPart_fab (n : Nat) (f : Part → Part) : (s.modPart n f).fab = s.fab := rfl
@[simp] theorem State.modPart_time (n : Nat) (f : Part → Part) : (s.modPart n f).time = s.time := rfl
@[simp] theorem State.modPart_host (n : Nat) (f : Part → Part) : (s.modPart n f).host = s.host := rfl
@[simp] theorem State.modPart_mgmt (n : Nat) (f : Part → Part) : (s.modPart n f).mgmt = s.mgmt := rfl
@[simp] theorem State.modPart_rel (n : Nat) (f : Part → Part) : (s.modPart n f).rel = s.rel := rfl
@[simp] theorem State.modPart_pwr (n : Nat) (f : Part → Part) : (s.modPart n f).pwr = s.pwr := rfl
@[simp] theorem State.modPart_gsrq (n : Nat) (f : Part → Part) : (s.modPart n f).gsrq = s.gsrq := rfl
@[simp] theorem State.modPart_rhos (n : Nat) (f : Part → Part) : (s.modPart n f).rhos = s.rhos := rfl
@[simp] theorem State.modPart_feeds (n : Nat) (f : Part → Part) : (s.modPart n f).feeds = s.feeds := rfl
@[simp] theorem State.modPart_groups (n : Nat) (f : Part → Part) : (s.modPart n f).groups = s.groups := rfl
@[simp] theorem State.modPart_rebakes (n : Nat) (f : Part → Part) : (s.modPart n f).rebakes = s.rebakes := rfl
@[simp] theorem State.modPart_tsrq (n : Nat) (f : Part → Part) : (s.modPart n f).tsrq = s.tsrq := rfl
@[simp] theorem State.modPart_verdicts (n : Nat) (f : Part → Part) : (s.modPart n f).verdicts = s.verdicts := rfl
@[simp] theorem State.modPart_abandons (n : Nat) (f : Part → Part) : (s.modPart n f).abandons = s.abandons := rfl
@[simp] theorem State.modPart_free (n : Nat) (f : Part → Part) : (s.modPart n f).free = s.free := rfl

/-! ### modCmt -/

@[simp] theorem State.modCmt_pending (n : Nat) (f : Commit → Commit) : (s.modCmt n f).pending = s.pending := rfl
@[simp] theorem State.modCmt_cores (n : Nat) (f : Commit → Commit) : (s.modCmt n f).cores = s.cores := rfl
@[simp] theorem State.modCmt_maps (n : Nat) (f : Commit → Commit) : (s.modCmt n f).maps = s.maps := rfl
@[simp] theorem State.modCmt_clusters (n : Nat) (f : Commit → Commit) : (s.modCmt n f).clusters = s.clusters := rfl
@[simp] theorem State.modCmt_ctxs (n : Nat) (f : Commit → Commit) : (s.modCmt n f).ctxs = s.ctxs := rfl
@[simp] theorem State.modCmt_mem (n : Nat) (f : Commit → Commit) : (s.modCmt n f).mem = s.mem := rfl
@[simp] theorem State.modCmt_fab (n : Nat) (f : Commit → Commit) : (s.modCmt n f).fab = s.fab := rfl
@[simp] theorem State.modCmt_time (n : Nat) (f : Commit → Commit) : (s.modCmt n f).time = s.time := rfl
@[simp] theorem State.modCmt_host (n : Nat) (f : Commit → Commit) : (s.modCmt n f).host = s.host := rfl
@[simp] theorem State.modCmt_mgmt (n : Nat) (f : Commit → Commit) : (s.modCmt n f).mgmt = s.mgmt := rfl
@[simp] theorem State.modCmt_rel (n : Nat) (f : Commit → Commit) : (s.modCmt n f).rel = s.rel := rfl
@[simp] theorem State.modCmt_pwr (n : Nat) (f : Commit → Commit) : (s.modCmt n f).pwr = s.pwr := rfl
@[simp] theorem State.modCmt_gsrq (n : Nat) (f : Commit → Commit) : (s.modCmt n f).gsrq = s.gsrq := rfl
@[simp] theorem State.modCmt_rhos (n : Nat) (f : Commit → Commit) : (s.modCmt n f).rhos = s.rhos := rfl
@[simp] theorem State.modCmt_feeds (n : Nat) (f : Commit → Commit) : (s.modCmt n f).feeds = s.feeds := rfl
@[simp] theorem State.modCmt_groups (n : Nat) (f : Commit → Commit) : (s.modCmt n f).groups = s.groups := rfl
@[simp] theorem State.modCmt_rebakes (n : Nat) (f : Commit → Commit) : (s.modCmt n f).rebakes = s.rebakes := rfl
@[simp] theorem State.modCmt_tsrq (n : Nat) (f : Commit → Commit) : (s.modCmt n f).tsrq = s.tsrq := rfl
@[simp] theorem State.modCmt_verdicts (n : Nat) (f : Commit → Commit) : (s.modCmt n f).verdicts = s.verdicts := rfl
@[simp] theorem State.modCmt_abandons (n : Nat) (f : Commit → Commit) : (s.modCmt n f).abandons = s.abandons := rfl
@[simp] theorem State.modCmt_free (n : Nat) (f : Commit → Commit) : (s.modCmt n f).free = s.free := rfl

/-! ### modAtt -/

@[simp] theorem State.modAtt_pending (n : Nat) (f : Attempt → Attempt) : (s.modAtt n f).pending = s.pending := rfl
@[simp] theorem State.modAtt_cores (n : Nat) (f : Attempt → Attempt) : (s.modAtt n f).cores = s.cores := rfl
@[simp] theorem State.modAtt_maps (n : Nat) (f : Attempt → Attempt) : (s.modAtt n f).maps = s.maps := rfl
@[simp] theorem State.modAtt_clusters (n : Nat) (f : Attempt → Attempt) : (s.modAtt n f).clusters = s.clusters := rfl
@[simp] theorem State.modAtt_ctxs (n : Nat) (f : Attempt → Attempt) : (s.modAtt n f).ctxs = s.ctxs := rfl
@[simp] theorem State.modAtt_mem (n : Nat) (f : Attempt → Attempt) : (s.modAtt n f).mem = s.mem := rfl
@[simp] theorem State.modAtt_fab (n : Nat) (f : Attempt → Attempt) : (s.modAtt n f).fab = s.fab := rfl
@[simp] theorem State.modAtt_time (n : Nat) (f : Attempt → Attempt) : (s.modAtt n f).time = s.time := rfl
@[simp] theorem State.modAtt_host (n : Nat) (f : Attempt → Attempt) : (s.modAtt n f).host = s.host := rfl
@[simp] theorem State.modAtt_mgmt (n : Nat) (f : Attempt → Attempt) : (s.modAtt n f).mgmt = s.mgmt := rfl
@[simp] theorem State.modAtt_rel (n : Nat) (f : Attempt → Attempt) : (s.modAtt n f).rel = s.rel := rfl
@[simp] theorem State.modAtt_pwr (n : Nat) (f : Attempt → Attempt) : (s.modAtt n f).pwr = s.pwr := rfl
@[simp] theorem State.modAtt_gsrq (n : Nat) (f : Attempt → Attempt) : (s.modAtt n f).gsrq = s.gsrq := rfl
@[simp] theorem State.modAtt_rhos (n : Nat) (f : Attempt → Attempt) : (s.modAtt n f).rhos = s.rhos := rfl
@[simp] theorem State.modAtt_feeds (n : Nat) (f : Attempt → Attempt) : (s.modAtt n f).feeds = s.feeds := rfl
@[simp] theorem State.modAtt_groups (n : Nat) (f : Attempt → Attempt) : (s.modAtt n f).groups = s.groups := rfl
@[simp] theorem State.modAtt_rebakes (n : Nat) (f : Attempt → Attempt) : (s.modAtt n f).rebakes = s.rebakes := rfl
@[simp] theorem State.modAtt_tsrq (n : Nat) (f : Attempt → Attempt) : (s.modAtt n f).tsrq = s.tsrq := rfl
@[simp] theorem State.modAtt_verdicts (n : Nat) (f : Attempt → Attempt) : (s.modAtt n f).verdicts = s.verdicts := rfl
@[simp] theorem State.modAtt_abandons (n : Nat) (f : Attempt → Attempt) : (s.modAtt n f).abandons = s.abandons := rfl
@[simp] theorem State.modAtt_free (n : Nat) (f : Attempt → Attempt) : (s.modAtt n f).free = s.free := rfl

/-! ### putCtx -/

@[simp] theorem State.putCtx_pending (n : Nat) (c : Ctx) : (s.putCtx n c).pending = s.pending := rfl
@[simp] theorem State.putCtx_cores (n : Nat) (c : Ctx) : (s.putCtx n c).cores = s.cores := rfl
@[simp] theorem State.putCtx_maps (n : Nat) (c : Ctx) : (s.putCtx n c).maps = s.maps := rfl
@[simp] theorem State.putCtx_clusters (n : Nat) (c : Ctx) : (s.putCtx n c).clusters = s.clusters := rfl
@[simp] theorem State.putCtx_parts (n : Nat) (c : Ctx) : (s.putCtx n c).parts = s.parts := rfl
@[simp] theorem State.putCtx_mem (n : Nat) (c : Ctx) : (s.putCtx n c).mem = s.mem := rfl
@[simp] theorem State.putCtx_fab (n : Nat) (c : Ctx) : (s.putCtx n c).fab = s.fab := rfl
@[simp] theorem State.putCtx_time (n : Nat) (c : Ctx) : (s.putCtx n c).time = s.time := rfl
@[simp] theorem State.putCtx_host (n : Nat) (c : Ctx) : (s.putCtx n c).host = s.host := rfl
@[simp] theorem State.putCtx_mgmt (n : Nat) (c : Ctx) : (s.putCtx n c).mgmt = s.mgmt := rfl
@[simp] theorem State.putCtx_rel (n : Nat) (c : Ctx) : (s.putCtx n c).rel = s.rel := rfl
@[simp] theorem State.putCtx_pwr (n : Nat) (c : Ctx) : (s.putCtx n c).pwr = s.pwr := rfl
@[simp] theorem State.putCtx_gsrq (n : Nat) (c : Ctx) : (s.putCtx n c).gsrq = s.gsrq := rfl
@[simp] theorem State.putCtx_rhos (n : Nat) (c : Ctx) : (s.putCtx n c).rhos = s.rhos := rfl
@[simp] theorem State.putCtx_feeds (n : Nat) (c : Ctx) : (s.putCtx n c).feeds = s.feeds := rfl
@[simp] theorem State.putCtx_groups (n : Nat) (c : Ctx) : (s.putCtx n c).groups = s.groups := rfl
@[simp] theorem State.putCtx_rebakes (n : Nat) (c : Ctx) : (s.putCtx n c).rebakes = s.rebakes := rfl
@[simp] theorem State.putCtx_tsrq (n : Nat) (c : Ctx) : (s.putCtx n c).tsrq = s.tsrq := rfl
@[simp] theorem State.putCtx_verdicts (n : Nat) (c : Ctx) : (s.putCtx n c).verdicts = s.verdicts := rfl
@[simp] theorem State.putCtx_abandons (n : Nat) (c : Ctx) : (s.putCtx n c).abandons = s.abandons := rfl
@[simp] theorem State.putCtx_free (n : Nat) (c : Ctx) : (s.putCtx n c).free = s.free := rfl

/-! ### modFab -/

@[simp] theorem State.modFab_pending (f : Fabric → Fabric) : (s.modFab f).pending = s.pending := rfl
@[simp] theorem State.modFab_cores (f : Fabric → Fabric) : (s.modFab f).cores = s.cores := rfl
@[simp] theorem State.modFab_maps (f : Fabric → Fabric) : (s.modFab f).maps = s.maps := rfl
@[simp] theorem State.modFab_clusters (f : Fabric → Fabric) : (s.modFab f).clusters = s.clusters := rfl
@[simp] theorem State.modFab_parts (f : Fabric → Fabric) : (s.modFab f).parts = s.parts := rfl
@[simp] theorem State.modFab_ctxs (f : Fabric → Fabric) : (s.modFab f).ctxs = s.ctxs := rfl
@[simp] theorem State.modFab_mem (f : Fabric → Fabric) : (s.modFab f).mem = s.mem := rfl
@[simp] theorem State.modFab_time (f : Fabric → Fabric) : (s.modFab f).time = s.time := rfl
@[simp] theorem State.modFab_host (f : Fabric → Fabric) : (s.modFab f).host = s.host := rfl
@[simp] theorem State.modFab_mgmt (f : Fabric → Fabric) : (s.modFab f).mgmt = s.mgmt := rfl
@[simp] theorem State.modFab_rel (f : Fabric → Fabric) : (s.modFab f).rel = s.rel := rfl
@[simp] theorem State.modFab_pwr (f : Fabric → Fabric) : (s.modFab f).pwr = s.pwr := rfl
@[simp] theorem State.modFab_gsrq (f : Fabric → Fabric) : (s.modFab f).gsrq = s.gsrq := rfl
@[simp] theorem State.modFab_rhos (f : Fabric → Fabric) : (s.modFab f).rhos = s.rhos := rfl
@[simp] theorem State.modFab_feeds (f : Fabric → Fabric) : (s.modFab f).feeds = s.feeds := rfl
@[simp] theorem State.modFab_groups (f : Fabric → Fabric) : (s.modFab f).groups = s.groups := rfl
@[simp] theorem State.modFab_rebakes (f : Fabric → Fabric) : (s.modFab f).rebakes = s.rebakes := rfl
@[simp] theorem State.modFab_tsrq (f : Fabric → Fabric) : (s.modFab f).tsrq = s.tsrq := rfl
@[simp] theorem State.modFab_verdicts (f : Fabric → Fabric) : (s.modFab f).verdicts = s.verdicts := rfl
@[simp] theorem State.modFab_abandons (f : Fabric → Fabric) : (s.modFab f).abandons = s.abandons := rfl
@[simp] theorem State.modFab_free (f : Fabric → Fabric) : (s.modFab f).free = s.free := rfl

/-! ### modLink -/

@[simp] theorem State.modLink_pending (n : Nat) (f : Link → Link) : (s.modLink n f).pending = s.pending := rfl
@[simp] theorem State.modLink_cores (n : Nat) (f : Link → Link) : (s.modLink n f).cores = s.cores := rfl
@[simp] theorem State.modLink_maps (n : Nat) (f : Link → Link) : (s.modLink n f).maps = s.maps := rfl
@[simp] theorem State.modLink_clusters (n : Nat) (f : Link → Link) : (s.modLink n f).clusters = s.clusters := rfl
@[simp] theorem State.modLink_parts (n : Nat) (f : Link → Link) : (s.modLink n f).parts = s.parts := rfl
@[simp] theorem State.modLink_ctxs (n : Nat) (f : Link → Link) : (s.modLink n f).ctxs = s.ctxs := rfl
@[simp] theorem State.modLink_mem (n : Nat) (f : Link → Link) : (s.modLink n f).mem = s.mem := rfl
@[simp] theorem State.modLink_time (n : Nat) (f : Link → Link) : (s.modLink n f).time = s.time := rfl
@[simp] theorem State.modLink_host (n : Nat) (f : Link → Link) : (s.modLink n f).host = s.host := rfl
@[simp] theorem State.modLink_mgmt (n : Nat) (f : Link → Link) : (s.modLink n f).mgmt = s.mgmt := rfl
@[simp] theorem State.modLink_rel (n : Nat) (f : Link → Link) : (s.modLink n f).rel = s.rel := rfl
@[simp] theorem State.modLink_pwr (n : Nat) (f : Link → Link) : (s.modLink n f).pwr = s.pwr := rfl
@[simp] theorem State.modLink_gsrq (n : Nat) (f : Link → Link) : (s.modLink n f).gsrq = s.gsrq := rfl
@[simp] theorem State.modLink_rhos (n : Nat) (f : Link → Link) : (s.modLink n f).rhos = s.rhos := rfl
@[simp] theorem State.modLink_feeds (n : Nat) (f : Link → Link) : (s.modLink n f).feeds = s.feeds := rfl
@[simp] theorem State.modLink_groups (n : Nat) (f : Link → Link) : (s.modLink n f).groups = s.groups := rfl
@[simp] theorem State.modLink_rebakes (n : Nat) (f : Link → Link) : (s.modLink n f).rebakes = s.rebakes := rfl
@[simp] theorem State.modLink_tsrq (n : Nat) (f : Link → Link) : (s.modLink n f).tsrq = s.tsrq := rfl
@[simp] theorem State.modLink_verdicts (n : Nat) (f : Link → Link) : (s.modLink n f).verdicts = s.verdicts := rfl
@[simp] theorem State.modLink_abandons (n : Nat) (f : Link → Link) : (s.modLink n f).abandons = s.abandons := rfl
@[simp] theorem State.modLink_free (n : Nat) (f : Link → Link) : (s.modLink n f).free = s.free := rfl

/-! ### modOptic -/

@[simp] theorem State.modOptic_pending (n : Nat) (f : Optic → Optic) : (s.modOptic n f).pending = s.pending := rfl
@[simp] theorem State.modOptic_cores (n : Nat) (f : Optic → Optic) : (s.modOptic n f).cores = s.cores := rfl
@[simp] theorem State.modOptic_maps (n : Nat) (f : Optic → Optic) : (s.modOptic n f).maps = s.maps := rfl
@[simp] theorem State.modOptic_clusters (n : Nat) (f : Optic → Optic) : (s.modOptic n f).clusters = s.clusters := rfl
@[simp] theorem State.modOptic_parts (n : Nat) (f : Optic → Optic) : (s.modOptic n f).parts = s.parts := rfl
@[simp] theorem State.modOptic_ctxs (n : Nat) (f : Optic → Optic) : (s.modOptic n f).ctxs = s.ctxs := rfl
@[simp] theorem State.modOptic_mem (n : Nat) (f : Optic → Optic) : (s.modOptic n f).mem = s.mem := rfl
@[simp] theorem State.modOptic_time (n : Nat) (f : Optic → Optic) : (s.modOptic n f).time = s.time := rfl
@[simp] theorem State.modOptic_host (n : Nat) (f : Optic → Optic) : (s.modOptic n f).host = s.host := rfl
@[simp] theorem State.modOptic_mgmt (n : Nat) (f : Optic → Optic) : (s.modOptic n f).mgmt = s.mgmt := rfl
@[simp] theorem State.modOptic_rel (n : Nat) (f : Optic → Optic) : (s.modOptic n f).rel = s.rel := rfl
@[simp] theorem State.modOptic_pwr (n : Nat) (f : Optic → Optic) : (s.modOptic n f).pwr = s.pwr := rfl
@[simp] theorem State.modOptic_gsrq (n : Nat) (f : Optic → Optic) : (s.modOptic n f).gsrq = s.gsrq := rfl
@[simp] theorem State.modOptic_rhos (n : Nat) (f : Optic → Optic) : (s.modOptic n f).rhos = s.rhos := rfl
@[simp] theorem State.modOptic_feeds (n : Nat) (f : Optic → Optic) : (s.modOptic n f).feeds = s.feeds := rfl
@[simp] theorem State.modOptic_groups (n : Nat) (f : Optic → Optic) : (s.modOptic n f).groups = s.groups := rfl
@[simp] theorem State.modOptic_rebakes (n : Nat) (f : Optic → Optic) : (s.modOptic n f).rebakes = s.rebakes := rfl
@[simp] theorem State.modOptic_tsrq (n : Nat) (f : Optic → Optic) : (s.modOptic n f).tsrq = s.tsrq := rfl
@[simp] theorem State.modOptic_verdicts (n : Nat) (f : Optic → Optic) : (s.modOptic n f).verdicts = s.verdicts := rfl
@[simp] theorem State.modOptic_abandons (n : Nat) (f : Optic → Optic) : (s.modOptic n f).abandons = s.abandons := rfl
@[simp] theorem State.modOptic_free (n : Nat) (f : Optic → Optic) : (s.modOptic n f).free = s.free := rfl

/-! ### emit -/

@[simp] theorem State.emit_pending (m : OutMsg) : (s.emit m).pending = s.pending := rfl
@[simp] theorem State.emit_cores (m : OutMsg) : (s.emit m).cores = s.cores := rfl
@[simp] theorem State.emit_maps (m : OutMsg) : (s.emit m).maps = s.maps := rfl
@[simp] theorem State.emit_clusters (m : OutMsg) : (s.emit m).clusters = s.clusters := rfl
@[simp] theorem State.emit_parts (m : OutMsg) : (s.emit m).parts = s.parts := rfl
@[simp] theorem State.emit_ctxs (m : OutMsg) : (s.emit m).ctxs = s.ctxs := rfl
@[simp] theorem State.emit_mem (m : OutMsg) : (s.emit m).mem = s.mem := rfl
@[simp] theorem State.emit_time (m : OutMsg) : (s.emit m).time = s.time := rfl
@[simp] theorem State.emit_host (m : OutMsg) : (s.emit m).host = s.host := rfl
@[simp] theorem State.emit_mgmt (m : OutMsg) : (s.emit m).mgmt = s.mgmt := rfl
@[simp] theorem State.emit_rel (m : OutMsg) : (s.emit m).rel = s.rel := rfl
@[simp] theorem State.emit_pwr (m : OutMsg) : (s.emit m).pwr = s.pwr := rfl
@[simp] theorem State.emit_gsrq (m : OutMsg) : (s.emit m).gsrq = s.gsrq := rfl
@[simp] theorem State.emit_rhos (m : OutMsg) : (s.emit m).rhos = s.rhos := rfl
@[simp] theorem State.emit_feeds (m : OutMsg) : (s.emit m).feeds = s.feeds := rfl
@[simp] theorem State.emit_groups (m : OutMsg) : (s.emit m).groups = s.groups := rfl
@[simp] theorem State.emit_rebakes (m : OutMsg) : (s.emit m).rebakes = s.rebakes := rfl
@[simp] theorem State.emit_tsrq (m : OutMsg) : (s.emit m).tsrq = s.tsrq := rfl
@[simp] theorem State.emit_verdicts (m : OutMsg) : (s.emit m).verdicts = s.verdicts := rfl
@[simp] theorem State.emit_abandons (m : OutMsg) : (s.emit m).abandons = s.abandons := rfl
@[simp] theorem State.emit_free (m : OutMsg) : (s.emit m).free = s.free := rfl

/-! ### modTime -/

@[simp] theorem State.modTime_pending (f : Time → Time) : (s.modTime f).pending = s.pending := rfl
@[simp] theorem State.modTime_cores (f : Time → Time) : (s.modTime f).cores = s.cores := rfl
@[simp] theorem State.modTime_maps (f : Time → Time) : (s.modTime f).maps = s.maps := rfl
@[simp] theorem State.modTime_clusters (f : Time → Time) : (s.modTime f).clusters = s.clusters := rfl
@[simp] theorem State.modTime_parts (f : Time → Time) : (s.modTime f).parts = s.parts := rfl
@[simp] theorem State.modTime_ctxs (f : Time → Time) : (s.modTime f).ctxs = s.ctxs := rfl
@[simp] theorem State.modTime_mem (f : Time → Time) : (s.modTime f).mem = s.mem := rfl
@[simp] theorem State.modTime_fab (f : Time → Time) : (s.modTime f).fab = s.fab := rfl
@[simp] theorem State.modTime_host (f : Time → Time) : (s.modTime f).host = s.host := rfl
@[simp] theorem State.modTime_mgmt (f : Time → Time) : (s.modTime f).mgmt = s.mgmt := rfl
@[simp] theorem State.modTime_rel (f : Time → Time) : (s.modTime f).rel = s.rel := rfl
@[simp] theorem State.modTime_pwr (f : Time → Time) : (s.modTime f).pwr = s.pwr := rfl
@[simp] theorem State.modTime_gsrq (f : Time → Time) : (s.modTime f).gsrq = s.gsrq := rfl
@[simp] theorem State.modTime_rhos (f : Time → Time) : (s.modTime f).rhos = s.rhos := rfl
@[simp] theorem State.modTime_feeds (f : Time → Time) : (s.modTime f).feeds = s.feeds := rfl
@[simp] theorem State.modTime_groups (f : Time → Time) : (s.modTime f).groups = s.groups := rfl
@[simp] theorem State.modTime_rebakes (f : Time → Time) : (s.modTime f).rebakes = s.rebakes := rfl
@[simp] theorem State.modTime_tsrq (f : Time → Time) : (s.modTime f).tsrq = s.tsrq := rfl
@[simp] theorem State.modTime_verdicts (f : Time → Time) : (s.modTime f).verdicts = s.verdicts := rfl
@[simp] theorem State.modTime_abandons (f : Time → Time) : (s.modTime f).abandons = s.abandons := rfl
@[simp] theorem State.modTime_free (f : Time → Time) : (s.modTime f).free = s.free := rfl

/-! ### modMem -/

@[simp] theorem State.modMem_pending (f : MemSys → MemSys) : (s.modMem f).pending = s.pending := rfl
@[simp] theorem State.modMem_cores (f : MemSys → MemSys) : (s.modMem f).cores = s.cores := rfl
@[simp] theorem State.modMem_maps (f : MemSys → MemSys) : (s.modMem f).maps = s.maps := rfl
@[simp] theorem State.modMem_clusters (f : MemSys → MemSys) : (s.modMem f).clusters = s.clusters := rfl
@[simp] theorem State.modMem_parts (f : MemSys → MemSys) : (s.modMem f).parts = s.parts := rfl
@[simp] theorem State.modMem_ctxs (f : MemSys → MemSys) : (s.modMem f).ctxs = s.ctxs := rfl
@[simp] theorem State.modMem_fab (f : MemSys → MemSys) : (s.modMem f).fab = s.fab := rfl
@[simp] theorem State.modMem_time (f : MemSys → MemSys) : (s.modMem f).time = s.time := rfl
@[simp] theorem State.modMem_host (f : MemSys → MemSys) : (s.modMem f).host = s.host := rfl
@[simp] theorem State.modMem_mgmt (f : MemSys → MemSys) : (s.modMem f).mgmt = s.mgmt := rfl
@[simp] theorem State.modMem_rel (f : MemSys → MemSys) : (s.modMem f).rel = s.rel := rfl
@[simp] theorem State.modMem_pwr (f : MemSys → MemSys) : (s.modMem f).pwr = s.pwr := rfl
@[simp] theorem State.modMem_gsrq (f : MemSys → MemSys) : (s.modMem f).gsrq = s.gsrq := rfl
@[simp] theorem State.modMem_rhos (f : MemSys → MemSys) : (s.modMem f).rhos = s.rhos := rfl
@[simp] theorem State.modMem_feeds (f : MemSys → MemSys) : (s.modMem f).feeds = s.feeds := rfl
@[simp] theorem State.modMem_groups (f : MemSys → MemSys) : (s.modMem f).groups = s.groups := rfl
@[simp] theorem State.modMem_rebakes (f : MemSys → MemSys) : (s.modMem f).rebakes = s.rebakes := rfl
@[simp] theorem State.modMem_tsrq (f : MemSys → MemSys) : (s.modMem f).tsrq = s.tsrq := rfl
@[simp] theorem State.modMem_verdicts (f : MemSys → MemSys) : (s.modMem f).verdicts = s.verdicts := rfl
@[simp] theorem State.modMem_abandons (f : MemSys → MemSys) : (s.modMem f).abandons = s.abandons := rfl
@[simp] theorem State.modMem_free (f : MemSys → MemSys) : (s.modMem f).free = s.free := rfl

/-! ### modMemPart -/

@[simp] theorem State.modMemPart_pending (p : Nat) (f : MemPart → MemPart) : (s.modMemPart p f).pending = s.pending := rfl
@[simp] theorem State.modMemPart_cores (p : Nat) (f : MemPart → MemPart) : (s.modMemPart p f).cores = s.cores := rfl
@[simp] theorem State.modMemPart_maps (p : Nat) (f : MemPart → MemPart) : (s.modMemPart p f).maps = s.maps := rfl
@[simp] theorem State.modMemPart_clusters (p : Nat) (f : MemPart → MemPart) : (s.modMemPart p f).clusters = s.clusters := rfl
@[simp] theorem State.modMemPart_parts (p : Nat) (f : MemPart → MemPart) : (s.modMemPart p f).parts = s.parts := rfl
@[simp] theorem State.modMemPart_ctxs (p : Nat) (f : MemPart → MemPart) : (s.modMemPart p f).ctxs = s.ctxs := rfl
@[simp] theorem State.modMemPart_fab (p : Nat) (f : MemPart → MemPart) : (s.modMemPart p f).fab = s.fab := rfl
@[simp] theorem State.modMemPart_time (p : Nat) (f : MemPart → MemPart) : (s.modMemPart p f).time = s.time := rfl
@[simp] theorem State.modMemPart_host (p : Nat) (f : MemPart → MemPart) : (s.modMemPart p f).host = s.host := rfl
@[simp] theorem State.modMemPart_mgmt (p : Nat) (f : MemPart → MemPart) : (s.modMemPart p f).mgmt = s.mgmt := rfl
@[simp] theorem State.modMemPart_rel (p : Nat) (f : MemPart → MemPart) : (s.modMemPart p f).rel = s.rel := rfl
@[simp] theorem State.modMemPart_pwr (p : Nat) (f : MemPart → MemPart) : (s.modMemPart p f).pwr = s.pwr := rfl
@[simp] theorem State.modMemPart_gsrq (p : Nat) (f : MemPart → MemPart) : (s.modMemPart p f).gsrq = s.gsrq := rfl
@[simp] theorem State.modMemPart_rhos (p : Nat) (f : MemPart → MemPart) : (s.modMemPart p f).rhos = s.rhos := rfl
@[simp] theorem State.modMemPart_feeds (p : Nat) (f : MemPart → MemPart) : (s.modMemPart p f).feeds = s.feeds := rfl
@[simp] theorem State.modMemPart_groups (p : Nat) (f : MemPart → MemPart) : (s.modMemPart p f).groups = s.groups := rfl
@[simp] theorem State.modMemPart_rebakes (p : Nat) (f : MemPart → MemPart) : (s.modMemPart p f).rebakes = s.rebakes := rfl
@[simp] theorem State.modMemPart_tsrq (p : Nat) (f : MemPart → MemPart) : (s.modMemPart p f).tsrq = s.tsrq := rfl
@[simp] theorem State.modMemPart_verdicts (p : Nat) (f : MemPart → MemPart) : (s.modMemPart p f).verdicts = s.verdicts := rfl
@[simp] theorem State.modMemPart_abandons (p : Nat) (f : MemPart → MemPart) : (s.modMemPart p f).abandons = s.abandons := rfl
@[simp] theorem State.modMemPart_free (p : Nat) (f : MemPart → MemPart) : (s.modMemPart p f).free = s.free := rfl

/-! ### putPmem -/

@[simp] theorem State.putPmem_pending (m : PMem) : (s.putPmem m).pending = s.pending := rfl
@[simp] theorem State.putPmem_cores (m : PMem) : (s.putPmem m).cores = s.cores := rfl
@[simp] theorem State.putPmem_maps (m : PMem) : (s.putPmem m).maps = s.maps := rfl
@[simp] theorem State.putPmem_clusters (m : PMem) : (s.putPmem m).clusters = s.clusters := rfl
@[simp] theorem State.putPmem_parts (m : PMem) : (s.putPmem m).parts = s.parts := rfl
@[simp] theorem State.putPmem_ctxs (m : PMem) : (s.putPmem m).ctxs = s.ctxs := rfl
@[simp] theorem State.putPmem_fab (m : PMem) : (s.putPmem m).fab = s.fab := rfl
@[simp] theorem State.putPmem_time (m : PMem) : (s.putPmem m).time = s.time := rfl
@[simp] theorem State.putPmem_host (m : PMem) : (s.putPmem m).host = s.host := rfl
@[simp] theorem State.putPmem_mgmt (m : PMem) : (s.putPmem m).mgmt = s.mgmt := rfl
@[simp] theorem State.putPmem_rel (m : PMem) : (s.putPmem m).rel = s.rel := rfl
@[simp] theorem State.putPmem_pwr (m : PMem) : (s.putPmem m).pwr = s.pwr := rfl
@[simp] theorem State.putPmem_gsrq (m : PMem) : (s.putPmem m).gsrq = s.gsrq := rfl
@[simp] theorem State.putPmem_rhos (m : PMem) : (s.putPmem m).rhos = s.rhos := rfl
@[simp] theorem State.putPmem_feeds (m : PMem) : (s.putPmem m).feeds = s.feeds := rfl
@[simp] theorem State.putPmem_groups (m : PMem) : (s.putPmem m).groups = s.groups := rfl
@[simp] theorem State.putPmem_rebakes (m : PMem) : (s.putPmem m).rebakes = s.rebakes := rfl
@[simp] theorem State.putPmem_tsrq (m : PMem) : (s.putPmem m).tsrq = s.tsrq := rfl
@[simp] theorem State.putPmem_verdicts (m : PMem) : (s.putPmem m).verdicts = s.verdicts := rfl
@[simp] theorem State.putPmem_abandons (m : PMem) : (s.putPmem m).abandons = s.abandons := rfl
@[simp] theorem State.putPmem_free (m : PMem) : (s.putPmem m).free = s.free := rfl

/-! ### modHost -/

@[simp] theorem State.modHost_pending (f : HostIf → HostIf) : (s.modHost f).pending = s.pending := rfl
@[simp] theorem State.modHost_cores (f : HostIf → HostIf) : (s.modHost f).cores = s.cores := rfl
@[simp] theorem State.modHost_maps (f : HostIf → HostIf) : (s.modHost f).maps = s.maps := rfl
@[simp] theorem State.modHost_clusters (f : HostIf → HostIf) : (s.modHost f).clusters = s.clusters := rfl
@[simp] theorem State.modHost_parts (f : HostIf → HostIf) : (s.modHost f).parts = s.parts := rfl
@[simp] theorem State.modHost_ctxs (f : HostIf → HostIf) : (s.modHost f).ctxs = s.ctxs := rfl
@[simp] theorem State.modHost_mem (f : HostIf → HostIf) : (s.modHost f).mem = s.mem := rfl
@[simp] theorem State.modHost_fab (f : HostIf → HostIf) : (s.modHost f).fab = s.fab := rfl
@[simp] theorem State.modHost_time (f : HostIf → HostIf) : (s.modHost f).time = s.time := rfl
@[simp] theorem State.modHost_mgmt (f : HostIf → HostIf) : (s.modHost f).mgmt = s.mgmt := rfl
@[simp] theorem State.modHost_rel (f : HostIf → HostIf) : (s.modHost f).rel = s.rel := rfl
@[simp] theorem State.modHost_pwr (f : HostIf → HostIf) : (s.modHost f).pwr = s.pwr := rfl
@[simp] theorem State.modHost_gsrq (f : HostIf → HostIf) : (s.modHost f).gsrq = s.gsrq := rfl
@[simp] theorem State.modHost_rhos (f : HostIf → HostIf) : (s.modHost f).rhos = s.rhos := rfl
@[simp] theorem State.modHost_feeds (f : HostIf → HostIf) : (s.modHost f).feeds = s.feeds := rfl
@[simp] theorem State.modHost_groups (f : HostIf → HostIf) : (s.modHost f).groups = s.groups := rfl
@[simp] theorem State.modHost_rebakes (f : HostIf → HostIf) : (s.modHost f).rebakes = s.rebakes := rfl
@[simp] theorem State.modHost_tsrq (f : HostIf → HostIf) : (s.modHost f).tsrq = s.tsrq := rfl
@[simp] theorem State.modHost_verdicts (f : HostIf → HostIf) : (s.modHost f).verdicts = s.verdicts := rfl
@[simp] theorem State.modHost_abandons (f : HostIf → HostIf) : (s.modHost f).abandons = s.abandons := rfl
@[simp] theorem State.modHost_free (f : HostIf → HostIf) : (s.modHost f).free = s.free := rfl

/-! ### modFn -/

@[simp] theorem State.modFn_pending (n : Nat) (f : Fn → Fn) : (s.modFn n f).pending = s.pending := rfl
@[simp] theorem State.modFn_cores (n : Nat) (f : Fn → Fn) : (s.modFn n f).cores = s.cores := rfl
@[simp] theorem State.modFn_maps (n : Nat) (f : Fn → Fn) : (s.modFn n f).maps = s.maps := rfl
@[simp] theorem State.modFn_clusters (n : Nat) (f : Fn → Fn) : (s.modFn n f).clusters = s.clusters := rfl
@[simp] theorem State.modFn_parts (n : Nat) (f : Fn → Fn) : (s.modFn n f).parts = s.parts := rfl
@[simp] theorem State.modFn_ctxs (n : Nat) (f : Fn → Fn) : (s.modFn n f).ctxs = s.ctxs := rfl
@[simp] theorem State.modFn_mem (n : Nat) (f : Fn → Fn) : (s.modFn n f).mem = s.mem := rfl
@[simp] theorem State.modFn_fab (n : Nat) (f : Fn → Fn) : (s.modFn n f).fab = s.fab := rfl
@[simp] theorem State.modFn_time (n : Nat) (f : Fn → Fn) : (s.modFn n f).time = s.time := rfl
@[simp] theorem State.modFn_mgmt (n : Nat) (f : Fn → Fn) : (s.modFn n f).mgmt = s.mgmt := rfl
@[simp] theorem State.modFn_rel (n : Nat) (f : Fn → Fn) : (s.modFn n f).rel = s.rel := rfl
@[simp] theorem State.modFn_pwr (n : Nat) (f : Fn → Fn) : (s.modFn n f).pwr = s.pwr := rfl
@[simp] theorem State.modFn_gsrq (n : Nat) (f : Fn → Fn) : (s.modFn n f).gsrq = s.gsrq := rfl
@[simp] theorem State.modFn_rhos (n : Nat) (f : Fn → Fn) : (s.modFn n f).rhos = s.rhos := rfl
@[simp] theorem State.modFn_feeds (n : Nat) (f : Fn → Fn) : (s.modFn n f).feeds = s.feeds := rfl
@[simp] theorem State.modFn_groups (n : Nat) (f : Fn → Fn) : (s.modFn n f).groups = s.groups := rfl
@[simp] theorem State.modFn_rebakes (n : Nat) (f : Fn → Fn) : (s.modFn n f).rebakes = s.rebakes := rfl
@[simp] theorem State.modFn_tsrq (n : Nat) (f : Fn → Fn) : (s.modFn n f).tsrq = s.tsrq := rfl
@[simp] theorem State.modFn_verdicts (n : Nat) (f : Fn → Fn) : (s.modFn n f).verdicts = s.verdicts := rfl
@[simp] theorem State.modFn_abandons (n : Nat) (f : Fn → Fn) : (s.modFn n f).abandons = s.abandons := rfl
@[simp] theorem State.modFn_free (n : Nat) (f : Fn → Fn) : (s.modFn n f).free = s.free := rfl

/-! ### modChan -/

@[simp] theorem State.modChan_pending (n c : Nat) (f : Chan → Chan) : (s.modChan n c f).pending = s.pending := rfl
@[simp] theorem State.modChan_cores (n c : Nat) (f : Chan → Chan) : (s.modChan n c f).cores = s.cores := rfl
@[simp] theorem State.modChan_maps (n c : Nat) (f : Chan → Chan) : (s.modChan n c f).maps = s.maps := rfl
@[simp] theorem State.modChan_clusters (n c : Nat) (f : Chan → Chan) : (s.modChan n c f).clusters = s.clusters := rfl
@[simp] theorem State.modChan_parts (n c : Nat) (f : Chan → Chan) : (s.modChan n c f).parts = s.parts := rfl
@[simp] theorem State.modChan_ctxs (n c : Nat) (f : Chan → Chan) : (s.modChan n c f).ctxs = s.ctxs := rfl
@[simp] theorem State.modChan_mem (n c : Nat) (f : Chan → Chan) : (s.modChan n c f).mem = s.mem := rfl
@[simp] theorem State.modChan_fab (n c : Nat) (f : Chan → Chan) : (s.modChan n c f).fab = s.fab := rfl
@[simp] theorem State.modChan_time (n c : Nat) (f : Chan → Chan) : (s.modChan n c f).time = s.time := rfl
@[simp] theorem State.modChan_mgmt (n c : Nat) (f : Chan → Chan) : (s.modChan n c f).mgmt = s.mgmt := rfl
@[simp] theorem State.modChan_rel (n c : Nat) (f : Chan → Chan) : (s.modChan n c f).rel = s.rel := rfl
@[simp] theorem State.modChan_pwr (n c : Nat) (f : Chan → Chan) : (s.modChan n c f).pwr = s.pwr := rfl
@[simp] theorem State.modChan_gsrq (n c : Nat) (f : Chan → Chan) : (s.modChan n c f).gsrq = s.gsrq := rfl
@[simp] theorem State.modChan_rhos (n c : Nat) (f : Chan → Chan) : (s.modChan n c f).rhos = s.rhos := rfl
@[simp] theorem State.modChan_feeds (n c : Nat) (f : Chan → Chan) : (s.modChan n c f).feeds = s.feeds := rfl
@[simp] theorem State.modChan_groups (n c : Nat) (f : Chan → Chan) : (s.modChan n c f).groups = s.groups := rfl
@[simp] theorem State.modChan_rebakes (n c : Nat) (f : Chan → Chan) : (s.modChan n c f).rebakes = s.rebakes := rfl
@[simp] theorem State.modChan_tsrq (n c : Nat) (f : Chan → Chan) : (s.modChan n c f).tsrq = s.tsrq := rfl
@[simp] theorem State.modChan_verdicts (n c : Nat) (f : Chan → Chan) : (s.modChan n c f).verdicts = s.verdicts := rfl
@[simp] theorem State.modChan_abandons (n c : Nat) (f : Chan → Chan) : (s.modChan n c f).abandons = s.abandons := rfl
@[simp] theorem State.modChan_free (n c : Nat) (f : Chan → Chan) : (s.modChan n c f).free = s.free := rfl

/-! ### modRing -/

@[simp] theorem State.modRing_pending (n c r : Nat) (f : Ring → Ring) : (s.modRing n c r f).pending = s.pending := rfl
@[simp] theorem State.modRing_cores (n c r : Nat) (f : Ring → Ring) : (s.modRing n c r f).cores = s.cores := rfl
@[simp] theorem State.modRing_maps (n c r : Nat) (f : Ring → Ring) : (s.modRing n c r f).maps = s.maps := rfl
@[simp] theorem State.modRing_clusters (n c r : Nat) (f : Ring → Ring) : (s.modRing n c r f).clusters = s.clusters := rfl
@[simp] theorem State.modRing_parts (n c r : Nat) (f : Ring → Ring) : (s.modRing n c r f).parts = s.parts := rfl
@[simp] theorem State.modRing_ctxs (n c r : Nat) (f : Ring → Ring) : (s.modRing n c r f).ctxs = s.ctxs := rfl
@[simp] theorem State.modRing_mem (n c r : Nat) (f : Ring → Ring) : (s.modRing n c r f).mem = s.mem := rfl
@[simp] theorem State.modRing_fab (n c r : Nat) (f : Ring → Ring) : (s.modRing n c r f).fab = s.fab := rfl
@[simp] theorem State.modRing_time (n c r : Nat) (f : Ring → Ring) : (s.modRing n c r f).time = s.time := rfl
@[simp] theorem State.modRing_mgmt (n c r : Nat) (f : Ring → Ring) : (s.modRing n c r f).mgmt = s.mgmt := rfl
@[simp] theorem State.modRing_rel (n c r : Nat) (f : Ring → Ring) : (s.modRing n c r f).rel = s.rel := rfl
@[simp] theorem State.modRing_pwr (n c r : Nat) (f : Ring → Ring) : (s.modRing n c r f).pwr = s.pwr := rfl
@[simp] theorem State.modRing_gsrq (n c r : Nat) (f : Ring → Ring) : (s.modRing n c r f).gsrq = s.gsrq := rfl
@[simp] theorem State.modRing_rhos (n c r : Nat) (f : Ring → Ring) : (s.modRing n c r f).rhos = s.rhos := rfl
@[simp] theorem State.modRing_feeds (n c r : Nat) (f : Ring → Ring) : (s.modRing n c r f).feeds = s.feeds := rfl
@[simp] theorem State.modRing_groups (n c r : Nat) (f : Ring → Ring) : (s.modRing n c r f).groups = s.groups := rfl
@[simp] theorem State.modRing_rebakes (n c r : Nat) (f : Ring → Ring) : (s.modRing n c r f).rebakes = s.rebakes := rfl
@[simp] theorem State.modRing_tsrq (n c r : Nat) (f : Ring → Ring) : (s.modRing n c r f).tsrq = s.tsrq := rfl
@[simp] theorem State.modRing_verdicts (n c r : Nat) (f : Ring → Ring) : (s.modRing n c r f).verdicts = s.verdicts := rfl
@[simp] theorem State.modRing_abandons (n c r : Nat) (f : Ring → Ring) : (s.modRing n c r f).abandons = s.abandons := rfl
@[simp] theorem State.modRing_free (n c r : Nat) (f : Ring → Ring) : (s.modRing n c r f).free = s.free := rfl

/-! ### modMgmt -/

@[simp] theorem State.modMgmt_pending (f : Mgmt → Mgmt) : (s.modMgmt f).pending = s.pending := rfl
@[simp] theorem State.modMgmt_cores (f : Mgmt → Mgmt) : (s.modMgmt f).cores = s.cores := rfl
@[simp] theorem State.modMgmt_maps (f : Mgmt → Mgmt) : (s.modMgmt f).maps = s.maps := rfl
@[simp] theorem State.modMgmt_clusters (f : Mgmt → Mgmt) : (s.modMgmt f).clusters = s.clusters := rfl
@[simp] theorem State.modMgmt_parts (f : Mgmt → Mgmt) : (s.modMgmt f).parts = s.parts := rfl
@[simp] theorem State.modMgmt_ctxs (f : Mgmt → Mgmt) : (s.modMgmt f).ctxs = s.ctxs := rfl
@[simp] theorem State.modMgmt_mem (f : Mgmt → Mgmt) : (s.modMgmt f).mem = s.mem := rfl
@[simp] theorem State.modMgmt_fab (f : Mgmt → Mgmt) : (s.modMgmt f).fab = s.fab := rfl
@[simp] theorem State.modMgmt_time (f : Mgmt → Mgmt) : (s.modMgmt f).time = s.time := rfl
@[simp] theorem State.modMgmt_host (f : Mgmt → Mgmt) : (s.modMgmt f).host = s.host := rfl
@[simp] theorem State.modMgmt_rel (f : Mgmt → Mgmt) : (s.modMgmt f).rel = s.rel := rfl
@[simp] theorem State.modMgmt_pwr (f : Mgmt → Mgmt) : (s.modMgmt f).pwr = s.pwr := rfl
@[simp] theorem State.modMgmt_gsrq (f : Mgmt → Mgmt) : (s.modMgmt f).gsrq = s.gsrq := rfl
@[simp] theorem State.modMgmt_rhos (f : Mgmt → Mgmt) : (s.modMgmt f).rhos = s.rhos := rfl
@[simp] theorem State.modMgmt_feeds (f : Mgmt → Mgmt) : (s.modMgmt f).feeds = s.feeds := rfl
@[simp] theorem State.modMgmt_groups (f : Mgmt → Mgmt) : (s.modMgmt f).groups = s.groups := rfl
@[simp] theorem State.modMgmt_rebakes (f : Mgmt → Mgmt) : (s.modMgmt f).rebakes = s.rebakes := rfl
@[simp] theorem State.modMgmt_tsrq (f : Mgmt → Mgmt) : (s.modMgmt f).tsrq = s.tsrq := rfl
@[simp] theorem State.modMgmt_verdicts (f : Mgmt → Mgmt) : (s.modMgmt f).verdicts = s.verdicts := rfl
@[simp] theorem State.modMgmt_abandons (f : Mgmt → Mgmt) : (s.modMgmt f).abandons = s.abandons := rfl
@[simp] theorem State.modMgmt_free (f : Mgmt → Mgmt) : (s.modMgmt f).free = s.free := rfl

/-! ### modRel -/

@[simp] theorem State.modRel_pending (f : Rel → Rel) : (s.modRel f).pending = s.pending := rfl
@[simp] theorem State.modRel_cores (f : Rel → Rel) : (s.modRel f).cores = s.cores := rfl
@[simp] theorem State.modRel_maps (f : Rel → Rel) : (s.modRel f).maps = s.maps := rfl
@[simp] theorem State.modRel_clusters (f : Rel → Rel) : (s.modRel f).clusters = s.clusters := rfl
@[simp] theorem State.modRel_parts (f : Rel → Rel) : (s.modRel f).parts = s.parts := rfl
@[simp] theorem State.modRel_ctxs (f : Rel → Rel) : (s.modRel f).ctxs = s.ctxs := rfl
@[simp] theorem State.modRel_mem (f : Rel → Rel) : (s.modRel f).mem = s.mem := rfl
@[simp] theorem State.modRel_fab (f : Rel → Rel) : (s.modRel f).fab = s.fab := rfl
@[simp] theorem State.modRel_time (f : Rel → Rel) : (s.modRel f).time = s.time := rfl
@[simp] theorem State.modRel_host (f : Rel → Rel) : (s.modRel f).host = s.host := rfl
@[simp] theorem State.modRel_mgmt (f : Rel → Rel) : (s.modRel f).mgmt = s.mgmt := rfl
@[simp] theorem State.modRel_pwr (f : Rel → Rel) : (s.modRel f).pwr = s.pwr := rfl
@[simp] theorem State.modRel_gsrq (f : Rel → Rel) : (s.modRel f).gsrq = s.gsrq := rfl
@[simp] theorem State.modRel_rhos (f : Rel → Rel) : (s.modRel f).rhos = s.rhos := rfl
@[simp] theorem State.modRel_feeds (f : Rel → Rel) : (s.modRel f).feeds = s.feeds := rfl
@[simp] theorem State.modRel_groups (f : Rel → Rel) : (s.modRel f).groups = s.groups := rfl
@[simp] theorem State.modRel_rebakes (f : Rel → Rel) : (s.modRel f).rebakes = s.rebakes := rfl
@[simp] theorem State.modRel_tsrq (f : Rel → Rel) : (s.modRel f).tsrq = s.tsrq := rfl
@[simp] theorem State.modRel_verdicts (f : Rel → Rel) : (s.modRel f).verdicts = s.verdicts := rfl
@[simp] theorem State.modRel_abandons (f : Rel → Rel) : (s.modRel f).abandons = s.abandons := rfl
@[simp] theorem State.modRel_free (f : Rel → Rel) : (s.modRel f).free = s.free := rfl

/-! ### modPwr -/

@[simp] theorem State.modPwr_pending (f : Power → Power) : (s.modPwr f).pending = s.pending := rfl
@[simp] theorem State.modPwr_cores (f : Power → Power) : (s.modPwr f).cores = s.cores := rfl
@[simp] theorem State.modPwr_maps (f : Power → Power) : (s.modPwr f).maps = s.maps := rfl
@[simp] theorem State.modPwr_clusters (f : Power → Power) : (s.modPwr f).clusters = s.clusters := rfl
@[simp] theorem State.modPwr_parts (f : Power → Power) : (s.modPwr f).parts = s.parts := rfl
@[simp] theorem State.modPwr_ctxs (f : Power → Power) : (s.modPwr f).ctxs = s.ctxs := rfl
@[simp] theorem State.modPwr_mem (f : Power → Power) : (s.modPwr f).mem = s.mem := rfl
@[simp] theorem State.modPwr_fab (f : Power → Power) : (s.modPwr f).fab = s.fab := rfl
@[simp] theorem State.modPwr_time (f : Power → Power) : (s.modPwr f).time = s.time := rfl
@[simp] theorem State.modPwr_host (f : Power → Power) : (s.modPwr f).host = s.host := rfl
@[simp] theorem State.modPwr_mgmt (f : Power → Power) : (s.modPwr f).mgmt = s.mgmt := rfl
@[simp] theorem State.modPwr_rel (f : Power → Power) : (s.modPwr f).rel = s.rel := rfl
@[simp] theorem State.modPwr_gsrq (f : Power → Power) : (s.modPwr f).gsrq = s.gsrq := rfl
@[simp] theorem State.modPwr_rhos (f : Power → Power) : (s.modPwr f).rhos = s.rhos := rfl
@[simp] theorem State.modPwr_feeds (f : Power → Power) : (s.modPwr f).feeds = s.feeds := rfl
@[simp] theorem State.modPwr_groups (f : Power → Power) : (s.modPwr f).groups = s.groups := rfl
@[simp] theorem State.modPwr_rebakes (f : Power → Power) : (s.modPwr f).rebakes = s.rebakes := rfl
@[simp] theorem State.modPwr_tsrq (f : Power → Power) : (s.modPwr f).tsrq = s.tsrq := rfl
@[simp] theorem State.modPwr_verdicts (f : Power → Power) : (s.modPwr f).verdicts = s.verdicts := rfl
@[simp] theorem State.modPwr_abandons (f : Power → Power) : (s.modPwr f).abandons = s.abandons := rfl
@[simp] theorem State.modPwr_free (f : Power → Power) : (s.modPwr f).free = s.free := rfl

/-! ### raise -/

@[simp] theorem raise_pending (code : Nat) (p k : Option Nat) (d : Nat) : (raise s code p k d).pending = s.pending := rfl
@[simp] theorem raise_cores (code : Nat) (p k : Option Nat) (d : Nat) : (raise s code p k d).cores = s.cores := rfl
@[simp] theorem raise_maps (code : Nat) (p k : Option Nat) (d : Nat) : (raise s code p k d).maps = s.maps := rfl
@[simp] theorem raise_clusters (code : Nat) (p k : Option Nat) (d : Nat) : (raise s code p k d).clusters = s.clusters := rfl
@[simp] theorem raise_parts (code : Nat) (p k : Option Nat) (d : Nat) : (raise s code p k d).parts = s.parts := rfl
@[simp] theorem raise_ctxs (code : Nat) (p k : Option Nat) (d : Nat) : (raise s code p k d).ctxs = s.ctxs := rfl
@[simp] theorem raise_mem (code : Nat) (p k : Option Nat) (d : Nat) : (raise s code p k d).mem = s.mem := rfl
@[simp] theorem raise_fab (code : Nat) (p k : Option Nat) (d : Nat) : (raise s code p k d).fab = s.fab := rfl
@[simp] theorem raise_time (code : Nat) (p k : Option Nat) (d : Nat) : (raise s code p k d).time = s.time := rfl
@[simp] theorem raise_mgmt (code : Nat) (p k : Option Nat) (d : Nat) : (raise s code p k d).mgmt = s.mgmt := rfl
@[simp] theorem raise_rel (code : Nat) (p k : Option Nat) (d : Nat) : (raise s code p k d).rel = s.rel := rfl
@[simp] theorem raise_pwr (code : Nat) (p k : Option Nat) (d : Nat) : (raise s code p k d).pwr = s.pwr := rfl
@[simp] theorem raise_gsrq (code : Nat) (p k : Option Nat) (d : Nat) : (raise s code p k d).gsrq = s.gsrq := rfl
@[simp] theorem raise_rhos (code : Nat) (p k : Option Nat) (d : Nat) : (raise s code p k d).rhos = s.rhos := rfl
@[simp] theorem raise_feeds (code : Nat) (p k : Option Nat) (d : Nat) : (raise s code p k d).feeds = s.feeds := rfl
@[simp] theorem raise_groups (code : Nat) (p k : Option Nat) (d : Nat) : (raise s code p k d).groups = s.groups := rfl
@[simp] theorem raise_rebakes (code : Nat) (p k : Option Nat) (d : Nat) : (raise s code p k d).rebakes = s.rebakes := rfl
@[simp] theorem raise_tsrq (code : Nat) (p k : Option Nat) (d : Nat) : (raise s code p k d).tsrq = s.tsrq := rfl
@[simp] theorem raise_verdicts (code : Nat) (p k : Option Nat) (d : Nat) : (raise s code p k d).verdicts = s.verdicts := rfl
@[simp] theorem raise_abandons (code : Nat) (p k : Option Nat) (d : Nat) : (raise s code p k d).abandons = s.abandons := rfl
@[simp] theorem raise_free (code : Nat) (p k : Option Nat) (d : Nat) : (raise s code p k d).free = s.free := rfl

/-! ### raiseCtx -/

@[simp] theorem raiseCtx_pending (code k d : Nat) : (raiseCtx s code k d).pending = s.pending := rfl
@[simp] theorem raiseCtx_cores (code k d : Nat) : (raiseCtx s code k d).cores = s.cores := rfl
@[simp] theorem raiseCtx_maps (code k d : Nat) : (raiseCtx s code k d).maps = s.maps := rfl
@[simp] theorem raiseCtx_clusters (code k d : Nat) : (raiseCtx s code k d).clusters = s.clusters := rfl
@[simp] theorem raiseCtx_parts (code k d : Nat) : (raiseCtx s code k d).parts = s.parts := rfl
@[simp] theorem raiseCtx_ctxs (code k d : Nat) : (raiseCtx s code k d).ctxs = s.ctxs := rfl
@[simp] theorem raiseCtx_mem (code k d : Nat) : (raiseCtx s code k d).mem = s.mem := rfl
@[simp] theorem raiseCtx_fab (code k d : Nat) : (raiseCtx s code k d).fab = s.fab := rfl
@[simp] theorem raiseCtx_time (code k d : Nat) : (raiseCtx s code k d).time = s.time := rfl
@[simp] theorem raiseCtx_mgmt (code k d : Nat) : (raiseCtx s code k d).mgmt = s.mgmt := rfl
@[simp] theorem raiseCtx_rel (code k d : Nat) : (raiseCtx s code k d).rel = s.rel := rfl
@[simp] theorem raiseCtx_pwr (code k d : Nat) : (raiseCtx s code k d).pwr = s.pwr := rfl
@[simp] theorem raiseCtx_gsrq (code k d : Nat) : (raiseCtx s code k d).gsrq = s.gsrq := rfl
@[simp] theorem raiseCtx_rhos (code k d : Nat) : (raiseCtx s code k d).rhos = s.rhos := rfl
@[simp] theorem raiseCtx_feeds (code k d : Nat) : (raiseCtx s code k d).feeds = s.feeds := rfl
@[simp] theorem raiseCtx_groups (code k d : Nat) : (raiseCtx s code k d).groups = s.groups := rfl
@[simp] theorem raiseCtx_rebakes (code k d : Nat) : (raiseCtx s code k d).rebakes = s.rebakes := rfl
@[simp] theorem raiseCtx_tsrq (code k d : Nat) : (raiseCtx s code k d).tsrq = s.tsrq := rfl
@[simp] theorem raiseCtx_verdicts (code k d : Nat) : (raiseCtx s code k d).verdicts = s.verdicts := rfl
@[simp] theorem raiseCtx_abandons (code k d : Nat) : (raiseCtx s code k d).abandons = s.abandons := rfl
@[simp] theorem raiseCtx_free (code k d : Nat) : (raiseCtx s code k d).free = s.free := rfl

/-! ### raiseDev -/

@[simp] theorem raiseDev_pending (code d : Nat) : (raiseDev s code d).pending = s.pending := rfl
@[simp] theorem raiseDev_cores (code d : Nat) : (raiseDev s code d).cores = s.cores := rfl
@[simp] theorem raiseDev_maps (code d : Nat) : (raiseDev s code d).maps = s.maps := rfl
@[simp] theorem raiseDev_clusters (code d : Nat) : (raiseDev s code d).clusters = s.clusters := rfl
@[simp] theorem raiseDev_parts (code d : Nat) : (raiseDev s code d).parts = s.parts := rfl
@[simp] theorem raiseDev_ctxs (code d : Nat) : (raiseDev s code d).ctxs = s.ctxs := rfl
@[simp] theorem raiseDev_mem (code d : Nat) : (raiseDev s code d).mem = s.mem := rfl
@[simp] theorem raiseDev_fab (code d : Nat) : (raiseDev s code d).fab = s.fab := rfl
@[simp] theorem raiseDev_time (code d : Nat) : (raiseDev s code d).time = s.time := rfl
@[simp] theorem raiseDev_mgmt (code d : Nat) : (raiseDev s code d).mgmt = s.mgmt := rfl
@[simp] theorem raiseDev_rel (code d : Nat) : (raiseDev s code d).rel = s.rel := rfl
@[simp] theorem raiseDev_pwr (code d : Nat) : (raiseDev s code d).pwr = s.pwr := rfl
@[simp] theorem raiseDev_gsrq (code d : Nat) : (raiseDev s code d).gsrq = s.gsrq := rfl
@[simp] theorem raiseDev_rhos (code d : Nat) : (raiseDev s code d).rhos = s.rhos := rfl
@[simp] theorem raiseDev_feeds (code d : Nat) : (raiseDev s code d).feeds = s.feeds := rfl
@[simp] theorem raiseDev_groups (code d : Nat) : (raiseDev s code d).groups = s.groups := rfl
@[simp] theorem raiseDev_rebakes (code d : Nat) : (raiseDev s code d).rebakes = s.rebakes := rfl
@[simp] theorem raiseDev_tsrq (code d : Nat) : (raiseDev s code d).tsrq = s.tsrq := rfl
@[simp] theorem raiseDev_verdicts (code d : Nat) : (raiseDev s code d).verdicts = s.verdicts := rfl
@[simp] theorem raiseDev_abandons (code d : Nat) : (raiseDev s code d).abandons = s.abandons := rfl
@[simp] theorem raiseDev_free (code d : Nat) : (raiseDev s code d).free = s.free := rfl

/-! ### putEntry -/

@[simp] theorem putEntry_pending (r : Nat) (e : Word64) : (putEntry s r e).pending = s.pending := rfl
@[simp] theorem putEntry_cores (r : Nat) (e : Word64) : (putEntry s r e).cores = s.cores := rfl
@[simp] theorem putEntry_maps (r : Nat) (e : Word64) : (putEntry s r e).maps = s.maps := rfl
@[simp] theorem putEntry_clusters (r : Nat) (e : Word64) : (putEntry s r e).clusters = s.clusters := rfl
@[simp] theorem putEntry_parts (r : Nat) (e : Word64) : (putEntry s r e).parts = s.parts := rfl
@[simp] theorem putEntry_ctxs (r : Nat) (e : Word64) : (putEntry s r e).ctxs = s.ctxs := rfl
@[simp] theorem putEntry_fab (r : Nat) (e : Word64) : (putEntry s r e).fab = s.fab := rfl
@[simp] theorem putEntry_time (r : Nat) (e : Word64) : (putEntry s r e).time = s.time := rfl
@[simp] theorem putEntry_host (r : Nat) (e : Word64) : (putEntry s r e).host = s.host := rfl
@[simp] theorem putEntry_mgmt (r : Nat) (e : Word64) : (putEntry s r e).mgmt = s.mgmt := rfl
@[simp] theorem putEntry_rel (r : Nat) (e : Word64) : (putEntry s r e).rel = s.rel := rfl
@[simp] theorem putEntry_pwr (r : Nat) (e : Word64) : (putEntry s r e).pwr = s.pwr := rfl
@[simp] theorem putEntry_gsrq (r : Nat) (e : Word64) : (putEntry s r e).gsrq = s.gsrq := rfl
@[simp] theorem putEntry_rhos (r : Nat) (e : Word64) : (putEntry s r e).rhos = s.rhos := rfl
@[simp] theorem putEntry_feeds (r : Nat) (e : Word64) : (putEntry s r e).feeds = s.feeds := rfl
@[simp] theorem putEntry_groups (r : Nat) (e : Word64) : (putEntry s r e).groups = s.groups := rfl
@[simp] theorem putEntry_rebakes (r : Nat) (e : Word64) : (putEntry s r e).rebakes = s.rebakes := rfl
@[simp] theorem putEntry_tsrq (r : Nat) (e : Word64) : (putEntry s r e).tsrq = s.tsrq := rfl
@[simp] theorem putEntry_verdicts (r : Nat) (e : Word64) : (putEntry s r e).verdicts = s.verdicts := rfl
@[simp] theorem putEntry_abandons (r : Nat) (e : Word64) : (putEntry s r e).abandons = s.abandons := rfl
@[simp] theorem putEntry_free (r : Nat) (e : Word64) : (putEntry s r e).free = s.free := rfl

/-! ### countRefused -/

@[simp] theorem countRefused_pending (n : Nat) : (countRefused s n).pending = s.pending := rfl
@[simp] theorem countRefused_cores (n : Nat) : (countRefused s n).cores = s.cores := rfl
@[simp] theorem countRefused_maps (n : Nat) : (countRefused s n).maps = s.maps := rfl
@[simp] theorem countRefused_clusters (n : Nat) : (countRefused s n).clusters = s.clusters := rfl
@[simp] theorem countRefused_ctxs (n : Nat) : (countRefused s n).ctxs = s.ctxs := rfl
@[simp] theorem countRefused_mem (n : Nat) : (countRefused s n).mem = s.mem := rfl
@[simp] theorem countRefused_fab (n : Nat) : (countRefused s n).fab = s.fab := rfl
@[simp] theorem countRefused_time (n : Nat) : (countRefused s n).time = s.time := rfl
@[simp] theorem countRefused_host (n : Nat) : (countRefused s n).host = s.host := rfl
@[simp] theorem countRefused_mgmt (n : Nat) : (countRefused s n).mgmt = s.mgmt := rfl
@[simp] theorem countRefused_rel (n : Nat) : (countRefused s n).rel = s.rel := rfl
@[simp] theorem countRefused_pwr (n : Nat) : (countRefused s n).pwr = s.pwr := rfl
@[simp] theorem countRefused_gsrq (n : Nat) : (countRefused s n).gsrq = s.gsrq := rfl
@[simp] theorem countRefused_rhos (n : Nat) : (countRefused s n).rhos = s.rhos := rfl
@[simp] theorem countRefused_feeds (n : Nat) : (countRefused s n).feeds = s.feeds := rfl
@[simp] theorem countRefused_groups (n : Nat) : (countRefused s n).groups = s.groups := rfl
@[simp] theorem countRefused_rebakes (n : Nat) : (countRefused s n).rebakes = s.rebakes := rfl
@[simp] theorem countRefused_tsrq (n : Nat) : (countRefused s n).tsrq = s.tsrq := rfl
@[simp] theorem countRefused_verdicts (n : Nat) : (countRefused s n).verdicts = s.verdicts := rfl
@[simp] theorem countRefused_abandons (n : Nat) : (countRefused s n).abandons = s.abandons := rfl
@[simp] theorem countRefused_free (n : Nat) : (countRefused s n).free = s.free := rfl

/-! ### modCtx -/

@[simp] theorem State.modCtx_pending (n : Nat) (f : Ctx → Ctx) : (s.modCtx n f).pending = s.pending := by unfold State.modCtx; split <;> rfl
@[simp] theorem State.modCtx_cores (n : Nat) (f : Ctx → Ctx) : (s.modCtx n f).cores = s.cores := by unfold State.modCtx; split <;> rfl
@[simp] theorem State.modCtx_maps (n : Nat) (f : Ctx → Ctx) : (s.modCtx n f).maps = s.maps := by unfold State.modCtx; split <;> rfl
@[simp] theorem State.modCtx_clusters (n : Nat) (f : Ctx → Ctx) : (s.modCtx n f).clusters = s.clusters := by unfold State.modCtx; split <;> rfl
@[simp] theorem State.modCtx_parts (n : Nat) (f : Ctx → Ctx) : (s.modCtx n f).parts = s.parts := by unfold State.modCtx; split <;> rfl
@[simp] theorem State.modCtx_mem (n : Nat) (f : Ctx → Ctx) : (s.modCtx n f).mem = s.mem := by unfold State.modCtx; split <;> rfl
@[simp] theorem State.modCtx_fab (n : Nat) (f : Ctx → Ctx) : (s.modCtx n f).fab = s.fab := by unfold State.modCtx; split <;> rfl
@[simp] theorem State.modCtx_time (n : Nat) (f : Ctx → Ctx) : (s.modCtx n f).time = s.time := by unfold State.modCtx; split <;> rfl
@[simp] theorem State.modCtx_host (n : Nat) (f : Ctx → Ctx) : (s.modCtx n f).host = s.host := by unfold State.modCtx; split <;> rfl
@[simp] theorem State.modCtx_mgmt (n : Nat) (f : Ctx → Ctx) : (s.modCtx n f).mgmt = s.mgmt := by unfold State.modCtx; split <;> rfl
@[simp] theorem State.modCtx_rel (n : Nat) (f : Ctx → Ctx) : (s.modCtx n f).rel = s.rel := by unfold State.modCtx; split <;> rfl
@[simp] theorem State.modCtx_pwr (n : Nat) (f : Ctx → Ctx) : (s.modCtx n f).pwr = s.pwr := by unfold State.modCtx; split <;> rfl
@[simp] theorem State.modCtx_gsrq (n : Nat) (f : Ctx → Ctx) : (s.modCtx n f).gsrq = s.gsrq := by unfold State.modCtx; split <;> rfl
@[simp] theorem State.modCtx_rhos (n : Nat) (f : Ctx → Ctx) : (s.modCtx n f).rhos = s.rhos := by unfold State.modCtx; split <;> rfl
@[simp] theorem State.modCtx_feeds (n : Nat) (f : Ctx → Ctx) : (s.modCtx n f).feeds = s.feeds := by unfold State.modCtx; split <;> rfl
@[simp] theorem State.modCtx_groups (n : Nat) (f : Ctx → Ctx) : (s.modCtx n f).groups = s.groups := by unfold State.modCtx; split <;> rfl
@[simp] theorem State.modCtx_rebakes (n : Nat) (f : Ctx → Ctx) : (s.modCtx n f).rebakes = s.rebakes := by unfold State.modCtx; split <;> rfl
@[simp] theorem State.modCtx_tsrq (n : Nat) (f : Ctx → Ctx) : (s.modCtx n f).tsrq = s.tsrq := by unfold State.modCtx; split <;> rfl
@[simp] theorem State.modCtx_verdicts (n : Nat) (f : Ctx → Ctx) : (s.modCtx n f).verdicts = s.verdicts := by unfold State.modCtx; split <;> rfl
@[simp] theorem State.modCtx_abandons (n : Nat) (f : Ctx → Ctx) : (s.modCtx n f).abandons = s.abandons := by unfold State.modCtx; split <;> rfl
@[simp] theorem State.modCtx_free (n : Nat) (f : Ctx → Ctx) : (s.modCtx n f).free = s.free := by unfold State.modCtx; split <;> rfl

/-! ### modVc -/

@[simp] theorem State.modVc_pending (v : VRef) (f : Vcore → Vcore) : (s.modVc v f).pending = s.pending := State.modCtx_pending s _ _
@[simp] theorem State.modVc_cores (v : VRef) (f : Vcore → Vcore) : (s.modVc v f).cores = s.cores := State.modCtx_cores s _ _
@[simp] theorem State.modVc_maps (v : VRef) (f : Vcore → Vcore) : (s.modVc v f).maps = s.maps := State.modCtx_maps s _ _
@[simp] theorem State.modVc_clusters (v : VRef) (f : Vcore → Vcore) : (s.modVc v f).clusters = s.clusters := State.modCtx_clusters s _ _
@[simp] theorem State.modVc_parts (v : VRef) (f : Vcore → Vcore) : (s.modVc v f).parts = s.parts := State.modCtx_parts s _ _
@[simp] theorem State.modVc_mem (v : VRef) (f : Vcore → Vcore) : (s.modVc v f).mem = s.mem := State.modCtx_mem s _ _
@[simp] theorem State.modVc_fab (v : VRef) (f : Vcore → Vcore) : (s.modVc v f).fab = s.fab := State.modCtx_fab s _ _
@[simp] theorem State.modVc_time (v : VRef) (f : Vcore → Vcore) : (s.modVc v f).time = s.time := State.modCtx_time s _ _
@[simp] theorem State.modVc_host (v : VRef) (f : Vcore → Vcore) : (s.modVc v f).host = s.host := State.modCtx_host s _ _
@[simp] theorem State.modVc_mgmt (v : VRef) (f : Vcore → Vcore) : (s.modVc v f).mgmt = s.mgmt := State.modCtx_mgmt s _ _
@[simp] theorem State.modVc_rel (v : VRef) (f : Vcore → Vcore) : (s.modVc v f).rel = s.rel := State.modCtx_rel s _ _
@[simp] theorem State.modVc_pwr (v : VRef) (f : Vcore → Vcore) : (s.modVc v f).pwr = s.pwr := State.modCtx_pwr s _ _
@[simp] theorem State.modVc_gsrq (v : VRef) (f : Vcore → Vcore) : (s.modVc v f).gsrq = s.gsrq := State.modCtx_gsrq s _ _
@[simp] theorem State.modVc_rhos (v : VRef) (f : Vcore → Vcore) : (s.modVc v f).rhos = s.rhos := State.modCtx_rhos s _ _
@[simp] theorem State.modVc_feeds (v : VRef) (f : Vcore → Vcore) : (s.modVc v f).feeds = s.feeds := State.modCtx_feeds s _ _
@[simp] theorem State.modVc_groups (v : VRef) (f : Vcore → Vcore) : (s.modVc v f).groups = s.groups := State.modCtx_groups s _ _
@[simp] theorem State.modVc_rebakes (v : VRef) (f : Vcore → Vcore) : (s.modVc v f).rebakes = s.rebakes := State.modCtx_rebakes s _ _
@[simp] theorem State.modVc_tsrq (v : VRef) (f : Vcore → Vcore) : (s.modVc v f).tsrq = s.tsrq := State.modCtx_tsrq s _ _
@[simp] theorem State.modVc_verdicts (v : VRef) (f : Vcore → Vcore) : (s.modVc v f).verdicts = s.verdicts := State.modCtx_verdicts s _ _
@[simp] theorem State.modVc_abandons (v : VRef) (f : Vcore → Vcore) : (s.modVc v f).abandons = s.abandons := State.modCtx_abandons s _ _
@[simp] theorem State.modVc_free (v : VRef) (f : Vcore → Vcore) : (s.modVc v f).free = s.free := State.modCtx_free s _ _

/-! ### What an update writes -/

@[simp] theorem State.modFab_fab (f : Fabric → Fabric) : (s.modFab f).fab = f s.fab := rfl
@[simp] theorem State.modTime_time (f : Time → Time) : (s.modTime f).time = f s.time := rfl
@[simp] theorem State.modMem_mem (f : MemSys → MemSys) : (s.modMem f).mem = f s.mem := rfl
@[simp] theorem State.modHost_host (f : HostIf → HostIf) : (s.modHost f).host = f s.host := rfl
@[simp] theorem State.modMgmt_mgmt (f : Mgmt → Mgmt) : (s.modMgmt f).mgmt = f s.mgmt := rfl
@[simp] theorem State.modRel_rel (f : Rel → Rel) : (s.modRel f).rel = f s.rel := rfl
@[simp] theorem State.modPwr_pwr (f : Power → Power) : (s.modPwr f).pwr = f s.pwr := rfl
@[simp] theorem State.putCtx_ctxs (n : Nat) (c : Ctx) : (s.putCtx n c).ctxs = tput s.ctxs n c := rfl
@[simp] theorem State.emit_out (m : OutMsg) : (s.emit m).fab.out = s.fab.out ++ [m] := rfl
@[simp] theorem State.putPmem_bytes (m : PMem) : (s.putPmem m).mem.bytes = m.bytes := rfl
@[simp] theorem State.putPmem_poison (m : PMem) : (s.putPmem m).mem.poison = m.poison := rfl

@[simp] theorem State.core_modCore (n : Nat) (f : Core → Core) : (s.modCore n f).core n = f (s.core n) := by
  simp [State.core, State.modCore]
theorem State.core_modCore_ne {n m : Nat} (f : Core → Core) (h : m ≠ n) : (s.modCore n f).core m = s.core m := by
  simp [State.core, State.modCore, tgetD_tmod_ne _ _ _ h]
@[simp] theorem State.map_modMap (n : Nat) (f : CoreMap → CoreMap) : (s.modMap n f).map n = f (s.map n) := by
  simp [State.map, State.modMap]
@[simp] theorem State.cluster_modCluster (n : Nat) (f : Cluster → Cluster) : (s.modCluster n f).cluster n = f (s.cluster n) := by
  simp [State.cluster, State.modCluster]
@[simp] theorem State.part_modPart (n : Nat) (f : Part → Part) : (s.modPart n f).part n = f (s.part n) := by
  simp [State.part, State.modPart]
theorem State.part_modPart_ne {n m : Nat} (f : Part → Part) (h : m ≠ n) : (s.modPart n f).part m = s.part m := by
  simp [State.part, State.modPart, tgetD_tmod_ne _ _ _ h]
@[simp] theorem State.cmt_modCmt (n : Nat) (f : Commit → Commit) : (s.modCmt n f).cmt n = f (s.cmt n) := by
  simp [State.cmt, State.modCmt]
theorem State.cmt_modCmt_ne {n m : Nat} (f : Commit → Commit) (h : m ≠ n) : (s.modCmt n f).cmt m = s.cmt m := by
  simp [State.cmt, State.modCmt, State.part_modPart_ne s _ h]
@[simp] theorem State.att_modAtt (n : Nat) (f : Attempt → Attempt) : (s.modAtt n f).att n = f (s.att n) := by
  simp [State.att, State.modAtt]
@[simp] theorem State.link_modLink (n : Nat) (f : Link → Link) : (s.modLink n f).link n = f (s.link n) := by
  simp [State.link, State.modLink]
theorem State.link_modLink_ne {n m : Nat} (f : Link → Link) (h : m ≠ n) : (s.modLink n f).link m = s.link m := by
  simp [State.link, State.modLink, tgetD_tmod_ne _ _ _ h]
@[simp] theorem State.memPart_modMemPart (p : Nat) (f : MemPart → MemPart) : (s.modMemPart p f).memPart p = f (s.memPart p) := by
  simp [State.memPart, State.modMemPart]
@[simp] theorem State.fn_modFn (n : Nat) (f : Fn → Fn) : (s.modFn n f).fn n = f (s.fn n) := by
  simp [State.fn, State.modFn]
@[simp] theorem State.chan_modChan (n c : Nat) (f : Chan → Chan) : (s.modChan n c f).chan n c = f (s.chan n c) := by
  simp [State.chan, State.modChan]
@[simp] theorem State.ring_modRing (n c r : Nat) (f : Ring → Ring) : (s.modRing n c r f).ring n c r = f (s.ring n c r) := by
  simp [State.ring, State.modRing]

@[simp] theorem State.ctx?_putCtx (n : Nat) (c : Ctx) : (s.putCtx n c).ctx? n = some c := by
  simp [State.ctx?, State.putCtx]
theorem State.ctx?_putCtx_ne {n m : Nat} (c : Ctx) (h : m ≠ n) : (s.putCtx n c).ctx? m = s.ctx? m := by
  simp [State.ctx?, State.putCtx, tget_tput_ne _ _ h]

/-- A change of a context that exists. -/
theorem State.modCtx_of {n : Nat} {c : Ctx} (h : s.ctx? n = some c) (f : Ctx → Ctx) : s.modCtx n f = s.putCtx n (f c) := by
  rw [State.ctx?] at h
  rw [State.modCtx, h]

theorem State.ctx?_modCtx_ne {n m : Nat} (f : Ctx → Ctx) (h : m ≠ n) : (s.modCtx n f).ctx? m = s.ctx? m := by
  unfold State.modCtx
  split
  · exact s.ctx?_putCtx_ne _ h
  · rfl

/-- A change of a virtual core that exists. -/
theorem State.modVc_of {v : VRef} {c : Ctx} {x : Vcore} (hc : s.ctx? v.ctx = some c) (hx : tget c.vcs v.vc = some x)
    (f : Vcore → Vcore) : s.modVc v f = s.putCtx v.ctx { c with vcs := tput c.vcs v.vc (f x) } := by
  rw [State.modVc, s.modCtx_of hc, hx]

theorem State.vc?_of {v : VRef} {c : Ctx} {x : Vcore} (hc : s.ctx? v.ctx = some c) (hx : tget c.vcs v.vc = some x) :
    s.vc? v = some x := by
  simp [State.vc?, hc, hx]

/-- The virtual core after a change of it. -/
theorem State.vc?_modVc {v : VRef} {x : Vcore} (h : s.vc? v = some x) (f : Vcore → Vcore) : (s.modVc v f).vc? v = some (f x) := by
  unfold State.vc? at h
  cases hc : s.ctx? v.ctx with
  | none => simp [hc] at h
  | some c =>
    have hx : tget c.vcs v.vc = some x := by simpa [hc] using h
    rw [s.modVc_of hc hx]
    exact State.vc?_of _ (s.ctx?_putCtx _ _) (tget_tput_same _ _ _)

/-- Every other virtual core stays as it was. -/
theorem State.vc?_modVc_ne {v w : VRef} (h : w ≠ v) (f : Vcore → Vcore) : (s.modVc v f).vc? w = s.vc? w := by
  unfold State.vc? State.modVc
  by_cases hk : w.ctx = v.ctx
  · have hv : w.vc ≠ v.vc := fun e => h (by cases w; cases v; simp_all)
    rw [hk]
    unfold State.modCtx State.ctx?
    cases hc : tget s.ctxs v.ctx with
    | none => simp [hc]
    | some c =>
      cases hx : tget c.vcs v.vc <;> simp [hx, tget_tput_ne _ _ hv]
  · rw [s.ctx?_modCtx_ne _ hk]

/-- A raised event waits at the end of the list. -/
@[simp] theorem raise_raised (code : Nat) (p k : Option Nat) (d : Nat) :
    (raise s code p k d).host.raised = s.host.raised ++ [{
      code := BitVec.ofNat 16 code, part := p, ctx := k, data := BitVec.ofNat 128 d, ptv := s.time.valid,
      pt := if s.time.valid then s.time.pt else s.time.up }] := rfl

end Sys2Proof.Machine
end

