-- ==== Sys2Proof/Laws/Ops.lean ====
section
/-! SUPPORT. What each shared operation over memory can do: the parts of the state that it may change, that it keeps the byte
memories in canonical form, and what a read of device memory gives after a write. -/

namespace Sys2Proof.Machine

open Sys2Proof

/-! ### A state that differs in memory alone, or in memory and events -/

/-- `t` differs from `s` in the memory system alone. -/
def OnlyMem (s t : State) : Prop := t = { s with mem := t.mem }

/-- `t` differs from `s` in the memory system and the host interface alone. -/
def OnlyMemHost (s t : State) : Prop := t = { s with mem := t.mem, host := t.host }

theorem OnlyMem.refl (s : State) : OnlyMem s s := rfl
theorem OnlyMem.trans {s t u : State} (h : OnlyMem s t) (g : OnlyMem t u) : OnlyMem s u := by
  unfold OnlyMem at *; rw [g, h]
theorem OnlyMem.modMem (s : State) (f : MemSys → MemSys) : OnlyMem s (s.modMem f) := rfl
theorem OnlyMem.host {s t : State} (h : OnlyMem s t) : OnlyMemHost s t := by
  unfold OnlyMem OnlyMemHost at *; rw [h]
theorem OnlyMemHost.refl (s : State) : OnlyMemHost s s := rfl
theorem OnlyMemHost.trans {s t u : State} (h : OnlyMemHost s t) (g : OnlyMemHost t u) : OnlyMemHost s u := by
  unfold OnlyMemHost at *; rw [g, h]

/-- Folding an operation that changes nothing else changes nothing else. -/
theorem OnlyMem.foldl {α : Type} (f : State → α → State) (h : ∀ s a, OnlyMem s (f s a)) (l : List α) (s : State) :
    OnlyMem s (l.foldl f s) := by
  induction l generalizing s with
  | nil => exact OnlyMem.refl s
  | cons a l ih => exact (h s a).trans (ih _)
theorem OnlyMemHost.foldl {α : Type} (f : State → α → State) (h : ∀ s a, OnlyMemHost s (f s a)) (l : List α) (s : State) :
    OnlyMemHost s (l.foldl f s) := by
  induction l generalizing s with
  | nil => exact OnlyMemHost.refl s
  | cons a l ih => exact (h s a).trans (ih _)

theorem putEntry_onlyMem (s : State) (r : Nat) (e : Word64) : OnlyMem s (putEntry s r e) := rfl

theorem raise_onlyMemHost (s : State) (code : Nat) (p k : Option Nat) (d : Nat) : OnlyMemHost s (raise s code p k d) := rfl
theorem countCorrected_onlyMemHost (s : State) (part da r : Nat) : OnlyMemHost s (countCorrected s part da r) := by
  unfold countCorrected; dsimp only; repeat' split
  all_goals rfl
theorem recordUe_onlyMem (s : State) (k : Option Nat) (da part : Nat) : OnlyMem s (recordUe s k da part) := by
  unfold recordUe; split
  · exact OnlyMem.refl s
  · exact OnlyMem.modMem s _
theorem takeUncorrectable_onlyMemHost (s : State) (k : Option Nat) (g part : Nat) : OnlyMemHost s (takeUncorrectable s k g part) := by
  unfold takeUncorrectable
  refine OnlyMemHost.trans (OnlyMem.host ?_) (raise_onlyMemHost ..)
  refine OnlyMem.trans ?_ (recordUe_onlyMem ..)
  split <;> rfl
theorem discover1_onlyMemHost (s : State) (k : Option Nat) (g : Nat) : OnlyMemHost s (discover1 s k g) := by
  unfold discover1
  split
  · exact OnlyMemHost.refl s
  · dsimp only
    repeat' split
    all_goals first
      | exact OnlyMemHost.refl s
      | exact (OnlyMem.modMem s _).host.trans (countCorrected_onlyMemHost ..)
      | exact (OnlyMem.modMem s _).host.trans (takeUncorrectable_onlyMemHost ..)
theorem discover_onlyMemHost (s : State) (k : Option Nat) (da n : Nat) : OnlyMemHost s (discover s k da n) :=
  OnlyMemHost.foldl _ (fun t g => discover1_onlyMemHost t k g) _ s
theorem discoverFill_onlyMemHost (s : State) (k : Option Nat) (da n : Nat) : OnlyMemHost s (discoverFill s k da n) := by
  unfold discoverFill; split
  · exact OnlyMemHost.refl s
  · exact OnlyMemHost.foldl _ (fun t l => by split <;> exact discover_onlyMemHost ..) _ s

theorem dropLine_onlyMem (s : State) (p : PLine) : OnlyMem s (dropLine s p) := by
  unfold dropLine
  dsimp only
  split
  · exact OnlyMem.modMem s _
  · exact ((OnlyMem.modMem s _).trans (OnlyMem.modMem _ _)).trans (OnlyMem.modMem _ _)
theorem pantryRead1_onlyMem (s : State) (hint : Nat) (narrow : Bool) (ln : Nat) : OnlyMem s (pantryRead1 s hint narrow ln) := by
  unfold pantryRead1
  dsimp only
  repeat' split
  all_goals first
    | exact OnlyMem.refl s
    | exact dropLine_onlyMem ..
    | exact OnlyMem.modMem s _
theorem demand_onlyMemHost (s : State) (k : Option Nat) (da n : Nat) : OnlyMemHost s (demand s k da n) :=
  (discoverFill_onlyMemHost s k da n).trans (OnlyMem.foldl _ (fun t l => pantryRead1_onlyMem t 0 false l) _ _).host
theorem pantryWrite1_onlyMemHost (s : State) (hint ln da : Nat) (bs : List PByte) : OnlyMemHost s (pantryWrite1 s hint ln da bs) := by
  unfold pantryWrite1
  dsimp only
  split
  · exact (OnlyMem.modMem s _).host
  · split
    · exact (OnlyMem.modMem s _).host
    · exact (discover_onlyMemHost ..).trans (OnlyMem.modMem _ _).host
theorem homeWrite_onlyMemHost (s : State) (da : Nat) (bs : List Byte) : OnlyMemHost s (homeWrite s da bs) := by
  unfold homeWrite; split
  · exact OnlyMemHost.refl s
  · exact (OnlyMemHost.foldl _ (fun t l => pantryWrite1_onlyMemHost ..) _ s).trans (OnlyMem.modMem _ _).host
theorem devWriteRun_onlyMemHost (s : State) (hint da : Nat) (bs : List PByte) : OnlyMemHost s (devWriteRun s hint da bs) := by
  unfold devWriteRun; split
  · exact OnlyMemHost.refl s
  · exact (pantryWrite1_onlyMemHost ..).trans (OnlyMem.modMem _ _).host
theorem devWriteGo_onlyMemHost (s : State) (hint k da : Nat) (bs : List PByte) : OnlyMemHost s (devWriteGo s hint k da bs) := by
  induction k generalizing s da bs with
  | zero => exact OnlyMemHost.refl s
  | succ k ih => exact (devWriteRun_onlyMemHost ..).trans (ih ..)
theorem devWriteAs_onlyMemHost (s : State) (hint da : Nat) (bs : List PByte) : OnlyMemHost s (devWriteAs s hint da bs) := by
  unfold devWriteAs; split
  · exact OnlyMemHost.refl s
  · exact devWriteGo_onlyMemHost ..
theorem devWrite_onlyMemHost (s : State) (da : Nat) (bs : List PByte) : OnlyMemHost s (devWrite s da bs) := devWriteAs_onlyMemHost ..

/-- A read that finds no failed symbol changes nothing (R287). -/
theorem discover_of_no_latent {s : State} (h : s.mem.latent = []) (k : Option Nat) (da n : Nat) : discover s k da n = s := by
  simp [discover, h]
theorem discoverFill_of_no_latent {s : State} (h : s.mem.latent = []) (k : Option Nat) (da n : Nat) : discoverFill s k da n = s := by
  simp [discoverFill, h]

/-- A read of one line without a hint changes the Pantry's lines alone (R284). -/
theorem pantryRead1_lines (s : State) (ln : Nat) : ∃ ls, pantryRead1 s 0 false ln = s.modMem (fun m => { m with lines := ls }) :=
  ⟨usedLines s ln (fun p => { p with keep := p.keep, discard := false }), by simp [pantryRead1, hintOf]⟩

/-- A read of device memory that finds no failed symbol changes the Pantry's lines alone (R280, R287). -/
theorem demand_lines {s : State} (h : s.mem.latent = []) (k : Option Nat) (da n : Nat) :
    ∃ ls, demand s k da n = s.modMem (fun m => { m with lines := ls }) := by
  have fold : ∀ (l : List Nat) (t : State), ∃ ls, l.foldl (fun t x => pantryRead1 t 0 false x) t = t.modMem (fun m => { m with lines := ls }) := by
    intro l
    induction l with
    | nil => exact fun t => ⟨t.mem.lines, rfl⟩
    | cons x l ih =>
      intro t
      obtain ⟨a, ha⟩ := pantryRead1_lines t x
      obtain ⟨b, hb⟩ := ih (t.modMem (fun m => { m with lines := a }))
      exact ⟨b, by rw [List.foldl_cons, ha, hb]; rfl⟩
  obtain ⟨ls, e⟩ := fold (linesOf da n) s
  exact ⟨ls, by rw [demand, discoverFill_of_no_latent h, e]⟩

/-- Where no symbol has failed, a write changes the memory system alone, and no symbol fails by it (R285). -/
theorem pantryWrite1_quiet {s : State} (h : s.mem.latent = []) (hint ln da : Nat) (bs : List PByte) :
    OnlyMem s (pantryWrite1 s hint ln da bs) ∧ (pantryWrite1 s hint ln da bs).mem.latent = [] := by
  unfold pantryWrite1
  simp only [h, List.isEmpty_nil, Bool.or_true, Bool.true_or, if_true]
  split <;> exact ⟨OnlyMem.modMem s _, h⟩
theorem devWriteRun_quiet {s : State} (h : s.mem.latent = []) (hint da : Nat) (bs : List PByte) :
    OnlyMem s (devWriteRun s hint da bs) ∧ (devWriteRun s hint da bs).mem.latent = [] := by
  unfold devWriteRun
  split
  · exact ⟨OnlyMem.refl s, h⟩
  · have hq := pantryWrite1_quiet h hint (da / 256) da bs
    exact ⟨hq.1.trans (OnlyMem.modMem _ _), by simp [State.putPmem, hq.2]⟩
theorem devWriteGo_quiet {s : State} (h : s.mem.latent = []) (hint k da : Nat) (bs : List PByte) :
    OnlyMem s (devWriteGo s hint k da bs) := by
  induction k generalizing s da bs with
  | zero => exact OnlyMem.refl s
  | succ k ih =>
    have hq := devWriteRun_quiet h hint da (bs.take (256 - da % 256))
    exact hq.1.trans (ih hq.2 ..)
theorem devWrite_quiet {s : State} (h : s.mem.latent = []) (da : Nat) (bs : List PByte) : OnlyMem s (devWrite s da bs) := by
  unfold devWrite devWriteAs; split
  · exact OnlyMem.refl s
  · exact devWriteGo_quiet h ..

/-! ### Canonical form -/

theorem MemOk.of_mem {s t : State} (h : MemOk s) (hm : Memory.wf t.mem.bytes = true) (hh : t.host.bytes = s.host.bytes) : MemOk t :=
  ⟨hm, hh ▸ h.2⟩

/-- An operation that leaves both byte memories alone keeps their form. -/
theorem MemOk.of_eq {s t : State} (h : MemOk s) (hm : t.mem.bytes = s.mem.bytes) (hh : t.host.bytes = s.host.bytes) : MemOk t :=
  ⟨hm ▸ h.1, hh ▸ h.2⟩

theorem MemOk.foldl {α : Type} {f : State → α → State} (h : ∀ s a, MemOk s → MemOk (f s a)) (l : List α) {s : State} (hs : MemOk s) :
    MemOk (l.foldl f s) := by
  induction l generalizing s with
  | nil => exact hs
  | cons a l ih => exact ih (h s a hs)

theorem PMem.write_bytes (m : PMem) (a : Nat) (bs : List PByte) : (m.write a bs).bytes = memPutAll m.bytes a (bs.map Prod.fst) := rfl

/-- Failed symbols that a read finds change no byte of either memory. -/
theorem takeUncorrectable_keep (s : State) (k : Option Nat) (g part : Nat) :
    (takeUncorrectable s k g part).mem.bytes = s.mem.bytes ∧ (takeUncorrectable s k g part).host.bytes = s.host.bytes := by
  unfold takeUncorrectable recordUe putEntry
  dsimp only
  repeat' split
  all_goals exact ⟨rfl, rfl⟩
theorem countCorrected_keep (s : State) (part da r : Nat) :
    (countCorrected s part da r).mem.bytes = s.mem.bytes ∧ (countCorrected s part da r).host.bytes = s.host.bytes := by
  unfold countCorrected
  dsimp only
  repeat' split
  all_goals exact ⟨rfl, rfl⟩
theorem discover1_keep (s : State) (k : Option Nat) (g : Nat) :
    (discover1 s k g).mem.bytes = s.mem.bytes ∧ (discover1 s k g).host.bytes = s.host.bytes := by
  unfold discover1
  split
  · exact ⟨rfl, rfl⟩
  · dsimp only
    repeat' split
    all_goals first
      | exact ⟨rfl, rfl⟩
      | exact countCorrected_keep ..
      | exact takeUncorrectable_keep ..
theorem discover_keep (s : State) (k : Option Nat) (da n : Nat) :
    (discover s k da n).mem.bytes = s.mem.bytes ∧ (discover s k da n).host.bytes = s.host.bytes := by
  unfold discover
  generalize List.filter _ _ = l
  induction l generalizing s with
  | nil => exact ⟨rfl, rfl⟩
  | cons g l ih =>
    have h := discover1_keep s k g
    have h' := ih (discover1 s k g)
    exact ⟨h'.1.trans h.1, h'.2.trans h.2⟩
/-- Before its bytes arrive, a write changes no byte of either memory. -/
theorem pantryWrite1_keep (s : State) (hint ln da : Nat) (bs : List PByte) :
    (pantryWrite1 s hint ln da bs).mem.bytes = s.mem.bytes ∧ (pantryWrite1 s hint ln da bs).host.bytes = s.host.bytes := by
  unfold pantryWrite1
  dsimp only
  split
  · exact ⟨rfl, rfl⟩
  · split
    · exact ⟨rfl, rfl⟩
    · exact discover_keep ..

/-- What the Pantry does for a read keeps the form: only a line invalidated without write-back changes bytes, as a write does. -/
theorem dropLine_memOk {s : State} (h : MemOk s) (p : PLine) : MemOk (dropLine s p) := by
  unfold dropLine
  dsimp only
  split
  · exact h
  · refine MemOk.of_mem (s := s) h ?_ rfl
    simp only [State.modMem, State.putPmem_bytes, PMem.write_bytes]
    exact memPutAll_wf _ _ h.1
theorem pantryRead1_memOk {s : State} (h : MemOk s) (hint : Nat) (narrow : Bool) (ln : Nat) : MemOk (pantryRead1 s hint narrow ln) := by
  unfold pantryRead1
  dsimp only
  repeat' split
  all_goals first
    | exact h
    | exact dropLine_memOk h _
theorem discover_memOk {s : State} (h : MemOk s) (k : Option Nat) (da n : Nat) : MemOk (discover s k da n) :=
  h.of_eq (discover_keep s k da n).1 (discover_keep s k da n).2
theorem discoverFill_memOk {s : State} (h : MemOk s) (k : Option Nat) (da n : Nat) : MemOk (discoverFill s k da n) := by
  unfold discoverFill; split
  · exact h
  · exact MemOk.foldl (fun _ l ht => by split <;> exact discover_memOk ht ..) _ h
theorem demand_memOk {s : State} (h : MemOk s) (k : Option Nat) (da n : Nat) : MemOk (demand s k da n) :=
  MemOk.foldl (fun _ l ht => pantryRead1_memOk ht 0 false l) _ (discoverFill_memOk h ..)
theorem pantryWrite1_memOk {s : State} (h : MemOk s) (hint ln da : Nat) (bs : List PByte) : MemOk (pantryWrite1 s hint ln da bs) :=
  h.of_eq (pantryWrite1_keep ..).1 (pantryWrite1_keep ..).2
theorem devWriteRun_memOk {s : State} (h : MemOk s) (hint da : Nat) (bs : List PByte) : MemOk (devWriteRun s hint da bs) := by
  unfold devWriteRun; split
  · exact h
  · have hq := pantryWrite1_memOk h hint (da / 256) da bs
    exact ⟨memPutAll_wf _ _ hq.1, hq.2⟩
theorem devWriteGo_memOk {s : State} (h : MemOk s) (hint k da : Nat) (bs : List PByte) : MemOk (devWriteGo s hint k da bs) := by
  induction k generalizing s da bs with
  | zero => exact h
  | succ k ih => exact ih (devWriteRun_memOk h ..) ..
theorem devWriteAs_memOk {s : State} (h : MemOk s) (hint da : Nat) (bs : List PByte) : MemOk (devWriteAs s hint da bs) := by
  unfold devWriteAs; split
  · exact h
  · exact devWriteGo_memOk h ..
theorem devWrite_memOk {s : State} (h : MemOk s) (da : Nat) (bs : List PByte) : MemOk (devWrite s da bs) := devWriteAs_memOk h ..
theorem homeWrite_memOk {s : State} (h : MemOk s) (da : Nat) (bs : List Byte) : MemOk (homeWrite s da bs) := by
  unfold homeWrite; split
  · exact h
  · have hq : MemOk ((linesOf da bs.length).foldl (fun t l => pantryWrite1 t 0 l da (clean bs)) s) :=
      MemOk.foldl (fun _ _ ht => pantryWrite1_memOk ht ..) _ h
    exact ⟨memPutAll_wf _ _ hq.1, hq.2⟩

/-! ### Reading device memory after a write -/

theorem putPmem_fencedAt (s : State) (m : PMem) (da : Nat) : fencedAt (s.putPmem m) da = fencedAt s da := rfl

/-- A run writes its bytes where the part is not fenced, and no other byte (R297). -/
theorem devWriteRun_out (s : State) (hint da x : Nat) (bs : List PByte) (h : x < da ∨ da + bs.length ≤ x) :
    memGet (devWriteRun s hint da bs).mem.bytes x = memGet s.mem.bytes x := by
  unfold devWriteRun; split
  · rfl
  · exact (memGet_memPutAll_out _ _ _ _ (by simpa using h)).trans (congrArg (memGet · x) (pantryWrite1_keep ..).1)

end Sys2Proof.Machine
end

