-- ==== Sys2Proof/Laws/Invariant.lean ====
section
/-! SUPPORT. The invariant and the operations that every command is made of: a table keeps its keys in rising order, an update of one
part of the state keeps StateOk, and so do folds. -/

namespace Sys2Proof.Machine

open Sys2Proof

variable {α β : Type} {s : State}

/-! ### Rising tables -/

theorem tput_keys_lt {a k : Nat} (v : α) (h : k < a) : ∀ {t : Tab α}, (∀ p ∈ t, k < p.1) → ∀ p ∈ tput t a v, k < p.1
  | [], _, p, hp => by simp [tput] at hp; subst hp; exact h
  | (j, w) :: r, ht, p, hp => by
    have hj : k < j := ht (j, w) (by simp)
    unfold tput at hp
    split at hp
    · rcases List.mem_cons.mp hp with rfl | hp
      · exact h
      · exact ht p hp
    · split at hp
      · rcases List.mem_cons.mp hp with rfl | hp
        · exact h
        · exact ht p (List.mem_cons_of_mem _ hp)
      · rcases List.mem_cons.mp hp with rfl | hp
        · exact hj
        · exact tput_keys_lt v h (fun q hq => ht q (List.mem_cons_of_mem _ hq)) p hp

theorem Rising.head {j : Nat} {w : α} {r : Tab α} (h : Rising ((j, w) :: r)) : ∀ p ∈ r, j < p.1 := by
  intro p hp
  exact (List.pairwise_cons.mp h).1 p.1 (List.mem_map_of_mem hp)

theorem Rising.tail {e : Nat × α} {r : Tab α} (h : Rising (e :: r)) : Rising r := (List.pairwise_cons.mp h).2

theorem Rising.cons {j : Nat} {w : α} {r : Tab α} (h : ∀ p ∈ r, j < p.1) (hr : Rising r) : Rising ((j, w) :: r) :=
  List.pairwise_cons.mpr ⟨fun k hk => by obtain ⟨p, hp, rfl⟩ := List.mem_map.mp hk; exact h p hp, hr⟩

theorem Rising.nil : Rising ([] : Tab α) := List.Pairwise.nil

theorem Rising.tput (a : Nat) (v : α) : ∀ {t : Tab α}, Rising t → Rising (tput t a v)
  | [], _ => Rising.cons (by simp) Rising.nil
  | (j, w) :: r, h => by
    unfold Sys2Proof.Machine.tput
    split
    · rename_i hlt
      exact Rising.cons (fun p hp => by
        rcases List.mem_cons.mp hp with rfl | hp
        · exact hlt
        · exact Nat.lt_trans hlt (h.head p hp)) h
    · split
      · rename_i hlt heq
        subst heq
        exact Rising.cons h.head h.tail
      · rename_i hlt hne
        exact Rising.cons (tput_keys_lt v (by omega) h.head) (Rising.tput a v h.tail)

theorem Rising.filter {t : Tab α} (p : Nat × α → Bool) (h : Rising t) : Rising (t.filter p) :=
  List.Pairwise.sublist (List.Sublist.map _ List.filter_sublist) h

theorem Rising.tdel {t : Tab α} (a : Nat) (h : Rising t) : Rising (tdel t a) := h.filter _

theorem Rising.mapv {t : Tab α} (f : Nat × α → Nat × β) (hf : ∀ e, (f e).1 = e.1) (h : Rising t) : Rising (t.map f) := by
  have e : (t.map f).map Prod.fst = t.map Prod.fst := by simp [List.map_map, Function.comp_def, hf]
  unfold Rising
  rw [e]
  exact h

theorem Rising.tmap {t : Tab α} (f : Nat → α → α) (h : Rising t) : Rising (tmap t f) := h.mapv _ (fun _ => rfl)

/-! ### Parts of the state -/

theorem modMem_ok (h : StateOk s) {f : MemSys → MemSys} (hb : ∀ m, Memory.wf m.bytes = true → Memory.wf (f m).bytes = true)
    (hr : ∀ m, Rising m.region → Rising (f m).region) : StateOk (s.modMem f) :=
  ⟨⟨hb _ h.mem.1, h.mem.2⟩, h.ctxs, hr _ h.region⟩
theorem modHost_ok (h : StateOk s) {f : HostIf → HostIf} (hb : ∀ m, Memory.wf m.bytes = true → Memory.wf (f m).bytes = true) : StateOk (s.modHost f) :=
  ⟨⟨h.mem.1, hb _ h.mem.2⟩, h.ctxs, h.region⟩
theorem modCore_ok (h : StateOk s) (n : Nat) (f : Core → Core) : StateOk (s.modCore n f) := ⟨h.mem, h.ctxs, h.region⟩
theorem modMap_ok (h : StateOk s) (n : Nat) (f : CoreMap → CoreMap) : StateOk (s.modMap n f) := ⟨h.mem, h.ctxs, h.region⟩
theorem modCluster_ok (h : StateOk s) (n : Nat) (f : Cluster → Cluster) : StateOk (s.modCluster n f) := ⟨h.mem, h.ctxs, h.region⟩
theorem modPart_ok (h : StateOk s) (n : Nat) (f : Part → Part) : StateOk (s.modPart n f) := ⟨h.mem, h.ctxs, h.region⟩
theorem modCmt_ok (h : StateOk s) (n : Nat) (f : Commit → Commit) : StateOk (s.modCmt n f) := ⟨h.mem, h.ctxs, h.region⟩
theorem modAtt_ok (h : StateOk s) (n : Nat) (f : Attempt → Attempt) : StateOk (s.modAtt n f) := ⟨h.mem, h.ctxs, h.region⟩
theorem modFab_ok (h : StateOk s) (f : Fabric → Fabric) : StateOk (s.modFab f) := ⟨h.mem, h.ctxs, h.region⟩
theorem modLink_ok (h : StateOk s) (n : Nat) (f : Link → Link) : StateOk (s.modLink n f) := ⟨h.mem, h.ctxs, h.region⟩
theorem modOptic_ok (h : StateOk s) (n : Nat) (f : Optic → Optic) : StateOk (s.modOptic n f) := ⟨h.mem, h.ctxs, h.region⟩
theorem modTime_ok (h : StateOk s) (f : Time → Time) : StateOk (s.modTime f) := ⟨h.mem, h.ctxs, h.region⟩
theorem modMgmt_ok (h : StateOk s) (f : Mgmt → Mgmt) : StateOk (s.modMgmt f) := ⟨h.mem, h.ctxs, h.region⟩
theorem modRel_ok (h : StateOk s) (f : Rel → Rel) : StateOk (s.modRel f) := ⟨h.mem, h.ctxs, h.region⟩
theorem modPwr_ok (h : StateOk s) (f : Power → Power) : StateOk (s.modPwr f) := ⟨h.mem, h.ctxs, h.region⟩
theorem modFn_ok (h : StateOk s) (n : Nat) (f : Fn → Fn) : StateOk (s.modFn n f) := ⟨h.mem, h.ctxs, h.region⟩
theorem modChan_ok (h : StateOk s) (n c : Nat) (f : Chan → Chan) : StateOk (s.modChan n c f) := ⟨h.mem, h.ctxs, h.region⟩
theorem modRing_ok (h : StateOk s) (n c r : Nat) (f : Ring → Ring) : StateOk (s.modRing n c r f) := ⟨h.mem, h.ctxs, h.region⟩
theorem modMemPart_ok (h : StateOk s) (p : Nat) (f : MemPart → MemPart) : StateOk (s.modMemPart p f) := ⟨h.mem, h.ctxs, h.region⟩
theorem emit_ok (h : StateOk s) (m : OutMsg) : StateOk (s.emit m) := ⟨h.mem, h.ctxs, h.region⟩
theorem fresh_ok (h : StateOk s) : StateOk s.fresh.2 := ⟨h.mem, h.ctxs, h.region⟩
theorem putCtx_ok (h : StateOk s) (n : Nat) (c : Ctx) : StateOk (s.putCtx n c) := ⟨h.mem, h.ctxs.tput n c, h.region⟩
theorem modCtx_ok (h : StateOk s) (n : Nat) (f : Ctx → Ctx) : StateOk (s.modCtx n f) := by
  unfold State.modCtx; split
  · exact putCtx_ok h n _
  · exact h
theorem modVc_ok (h : StateOk s) (v : VRef) (f : Vcore → Vcore) : StateOk (s.modVc v f) := modCtx_ok h _ _

/-! ### Branches and folds -/

theorem ite_ok {c : Prop} [Decidable c] {a b : State} (ha : StateOk a) (hb : StateOk b) : StateOk (if c then a else b) := by
  split <;> assumption
theorem foldl_ok {f : State → α → State} {l : List α} (h : StateOk s) (hf : ∀ t a, StateOk t → StateOk (f t a)) : StateOk (l.foldl f s) := by
  induction l generalizing s with
  | nil => exact h
  | cons a l ih => exact ih (hf s a h)
theorem wf_nil : Memory.wf [] = true := rfl
theorem freshHost_bytes (h : HostIf) : (freshHost h).bytes = h.bytes := rfl
theorem StateOk.memWf (h : StateOk s) : Memory.wf s.mem.bytes = true := h.mem.1
theorem StateOk.hostWf (h : StateOk s) : Memory.wf s.host.bytes = true := h.mem.2
theorem pair_ok {x : State × α} {t : State} {a : α} (e : x = (t, a)) (h : StateOk x.1) : StateOk t := by subst e; exact h
theorem pair_snd_ok {x : α × State} {t : State} {a : α} (e : x = (a, t)) (h : StateOk x.2) : StateOk t := by subst e; exact h
/-- A record update that leaves the memories and the tables alone, and one that does not. -/
theorem mk_same_ok (h : StateOk s) {pending cores maps clusters parts fab time mgmt rel pwr gsrq rhos feeds groups rebakes tsrq verdicts abandons free} :
    StateOk ⟨pending, cores, maps, clusters, parts, s.ctxs, s.mem, fab, time, s.host, mgmt, rel, pwr, gsrq, rhos, feeds, groups, rebakes, tsrq, verdicts, abandons, free⟩ :=
  ⟨h.mem, h.ctxs, h.region⟩
theorem mk_ok {pending cores maps clusters parts ctxs mem fab time host mgmt rel pwr gsrq rhos feeds groups rebakes tsrq verdicts abandons free}
    (hm : Memory.wf (MemSys.bytes mem) = true) (hh : Memory.wf (HostIf.bytes host) = true) (hc : Rising ctxs) (hr : Rising (MemSys.region mem)) :
    StateOk ⟨pending, cores, maps, clusters, parts, ctxs, mem, fab, time, host, mgmt, rel, pwr, gsrq, rhos, feeds, groups, rebakes, tsrq, verdicts, abandons, free⟩ :=
  ⟨⟨hm, hh⟩, hc, hr⟩
theorem mk_same_iff {pending cores maps clusters parts fab time mgmt rel pwr gsrq rhos feeds groups rebakes tsrq verdicts abandons free} :
    StateOk ⟨pending, cores, maps, clusters, parts, s.ctxs, s.mem, fab, time, s.host, mgmt, rel, pwr, gsrq, rhos, feeds, groups, rebakes, tsrq, verdicts, abandons, free⟩ ↔ StateOk s :=
  ⟨fun h => ⟨h.mem, h.ctxs, h.region⟩, fun h => ⟨h.mem, h.ctxs, h.region⟩⟩
theorem mk_iff {pending cores maps clusters parts ctxs mem fab time host mgmt rel pwr gsrq rhos feeds groups rebakes tsrq verdicts abandons free} :
    StateOk ⟨pending, cores, maps, clusters, parts, ctxs, mem, fab, time, host, mgmt, rel, pwr, gsrq, rhos, feeds, groups, rebakes, tsrq, verdicts, abandons, free⟩ ↔
      Memory.wf (MemSys.bytes mem) = true ∧ Memory.wf (HostIf.bytes host) = true ∧ Rising ctxs ∧ Rising (MemSys.region mem) :=
  ⟨fun h => ⟨h.mem.1, h.mem.2, h.ctxs, h.region⟩, fun h => ⟨⟨h.1, h.2.1⟩, h.2.2.1, h.2.2.2⟩⟩
theorem foldl_fst_ok {f : State × β → α → State × β} {l : List α} {p : State × β} (h : StateOk p.1) (hf : ∀ q a, StateOk q.1 → StateOk (f q a).1) :
    StateOk (l.foldl f p).1 := by
  induction l generalizing p with
  | nil => exact h
  | cons a l ih => exact ih (hf p a h)
theorem some_snd_ok {q : α} (h : ∀ p, some (q, s) = some p → StateOk p.2) : StateOk s := h _ rfl
/-- The next state of an outcome is sound. -/
def OutOk (o : Host.Outcome State Fault Refusal) : Prop := ∀ t, o = .next t → StateOk t
theorem next_ok (h : StateOk s) : OutOk (.next s) := fun _ e => by cases e; exact h
/-- What holds of the value of an answer that is not an error. -/
def ResOk {ε α : Type} (P : α → Prop) (x : Except ε α) : Prop := ∀ r, x = .ok r → P r
variable {ε : Type} {P : β → Prop} {Q : α → Prop}
theorem ret_ok {b : β} (h : P b) : ResOk P (Except.ok b : Except ε β) := fun _ e => by cases e; exact h
theorem pure_ok {b : β} (h : P b) : ResOk P (pure b : Except ε β) := ret_ok h
theorem error_ok (e : ε) : ResOk P (Except.error e : Except ε β) := fun _ h => by cases h
theorem throw_ok (e : ε) : ResOk P (throw e : Except ε β) := fun _ h => by cases h
theorem bind_ok {x : Except ε α} {f : α → Except ε β} (hf : ∀ a, ResOk P (f a)) : ResOk P (x >>= f) := by
  cases x with
  | error e => exact error_ok e
  | ok a => exact hf a
theorem bind2_ok {x : Except ε α} {f : α → Except ε β} (hx : ResOk Q x) (hf : ∀ a, Q a → ResOk P (f a)) : ResOk P (x >>= f) := by
  cases x with
  | error e => exact error_ok e
  | ok a => exact hf a (hx a rfl)
theorem ite_res_ok {c : Prop} [Decidable c] {a b : Except ε β} (ha : ResOk P a) (hb : ResOk P b) : ResOk P (if c then a else b) := by
  split <;> assumption
theorem foldl_any {σ : Type} {P : σ → Prop} {f : σ → α → σ} {l : List α} {x : σ} (h : P x) (hf : ∀ y a, P y → P (f y a)) : P (l.foldl f x) := by
  induction l generalizing x with
  | nil => exact h
  | cons a l ih => exact ih (hf x a h)
/-- A state with the same memories and tables. -/
theorem same_ok {t : State} (h : StateOk s) (h1 : t.mem = s.mem) (h2 : t.host = s.host) (h3 : t.ctxs = s.ctxs) : StateOk t :=
  ⟨⟨by rw [h1]; exact h.mem.1, by rw [h2]; exact h.mem.2⟩, by rw [h3]; exact h.ctxs, by rw [h1]; exact h.region⟩

end Sys2Proof.Machine
end

