-- ==== Sys2Proof/Laws/InvariantMemory.lean ====
section
/-! SUPPORT. Every function of the machine keeps the invariant StateOk: the operations, the records of faults, issue, repair, the memory
commands and DMA.
One lemma per function, each a walk over its definition that cites the lemmas of the functions it calls. -/
set_option Elab.async false
namespace Sys2Proof.Machine
open Sys2Proof
theorem raise_ok {s : State} (code : Nat) (part ctx : Option Nat) (data : Nat) (hs : StateOk s) : StateOk (raise s code part ctx data) := by
  unfold raise
  repeat' first
    | with_reducible assumption
    | (with_reducible refine modHost_ok ?_ (fun _ hb => ?_))

theorem raiseCtx_ok {s : State} (code k data : Nat) (hs : StateOk s) : StateOk (raiseCtx s code k data) := by
  unfold raiseCtx
  repeat' first
    | with_reducible assumption
    | with_reducible apply raise_ok

theorem raiseDev_ok {s : State} (code data : Nat) (hs : StateOk s) : StateOk (raiseDev s code data) := by
  unfold raiseDev
  repeat' first
    | with_reducible assumption
    | with_reducible apply raise_ok

theorem causeAbandon_ok {s : State} (n reason : Nat) (hs : StateOk s) : StateOk (causeAbandon s n reason) := by
  unfold causeAbandon
  repeat' first
    | with_reducible assumption
    | with_reducible apply modAtt_ok
    | with_reducible apply emit_ok
    | with_reducible apply ite_ok
    | simp only [mk_same_iff]

theorem putEntry_ok {s : State} (r : Nat) (e : Word64) (hs : StateOk s) : StateOk (putEntry s r e) := by
  unfold putEntry
  repeat' first
    | with_reducible assumption
    | (with_reducible refine modMem_ok ?_ (fun _ hb => ?_) (fun _ hb => ?_))
    | with_reducible apply ite_ok
    | simp only
    | split
    | with_reducible apply Rising.tput
    | with_reducible apply Rising.tdel

theorem countRefused_ok {s : State} (n : Nat) (hs : StateOk s) : StateOk (countRefused s n) := by
  unfold countRefused
  repeat' first
    | with_reducible assumption
    | with_reducible apply modPart_ok

theorem putPmem_ok {s : State} {m : PMem} (h : StateOk s) (hm : Memory.wf m.bytes = true) : StateOk (s.putPmem m) :=
  modMem_ok h (fun _ _ => hm) (fun _ hr => hr)
theorem pmem_write_wf {m : PMem} (h : Memory.wf m.bytes = true) (a : Nat) (bs : List PByte) : Memory.wf (m.write a bs).bytes = true :=
  memPutAll_wf a _ h

theorem countCorrected_ok {s : State} (part da r : Nat) (hs : StateOk s) : StateOk (countCorrected s part da r) := by
  unfold countCorrected
  repeat' first
    | with_reducible assumption
    | with_reducible apply modMemPart_ok
    | with_reducible apply raiseDev_ok
    | with_reducible apply ite_ok

theorem recordUe_ok {s : State} (k : Option Nat) (da part : Nat) (hs : StateOk s) : StateOk (recordUe s k da part) := by
  unfold recordUe
  repeat' first
    | with_reducible assumption
    | (with_reducible refine modMem_ok ?_ (fun _ hb => ?_) (fun _ hb => ?_))
    | with_reducible apply ite_ok

theorem takeUncorrectable_ok {s : State} (k : Option Nat) (g part : Nat) (hs : StateOk s) : StateOk (takeUncorrectable s k g part) := by
  unfold takeUncorrectable
  repeat' first
    | with_reducible assumption
    | with_reducible apply modMemPart_ok
    | with_reducible apply raise_ok
    | with_reducible apply putEntry_ok
    | with_reducible apply recordUe_ok
    | (with_reducible refine modMem_ok ?_ (fun _ hb => ?_) (fun _ hb => ?_))
    | with_reducible apply ite_ok

theorem discover1_ok {s : State} (k : Option Nat) (g : Nat) (hs : StateOk s) : StateOk (discover1 s k g) := by
  unfold discover1
  repeat' first
    | with_reducible assumption
    | with_reducible apply countCorrected_ok
    | with_reducible apply takeUncorrectable_ok
    | (with_reducible refine modMem_ok ?_ (fun _ hb => ?_) (fun _ hb => ?_))
    | with_reducible apply ite_ok
    | (refine pair_ok (by with_reducible assumption) ?_)
    | simp only
    | split

theorem discover_ok {s : State} (k : Option Nat) (da n : Nat) (hs : StateOk s) : StateOk (discover s k da n) := by
  unfold discover
  repeat' first
    | with_reducible assumption
    | with_reducible apply discover1_ok
    | with_reducible apply ite_ok
    | (with_reducible refine foldl_ok ?_ (fun t a ht => ?_))

theorem dropLine_ok {s : State} (p : PLine) (hs : StateOk s) : StateOk (dropLine s p) := by
  unfold dropLine
  have h1 : StateOk (s.modMem fun m => { m with lines := m.lines.filter (fun l => l.line != p.line) }) := modMem_ok hs (fun _ hb => hb) (fun _ hr => hr)
  dsimp only
  split
  · exact h1
  · exact modMem_ok (putPmem_ok h1 (pmem_write_wf h1.mem.1 _ _)) (fun _ hb => hb) (fun _ hr => hr)

theorem pantryRead1_ok {s : State} (hint : Nat) (narrow : Bool) (ln : Nat) (hs : StateOk s) : StateOk (pantryRead1 s hint narrow ln) := by
  unfold pantryRead1
  dsimp only
  split
  · exact hs
  · split
    · split
      · exact dropLine_ok _ hs
      · exact hs
    · exact modMem_ok hs (fun _ hb => hb) (fun _ hr => hr)

theorem pantryWrite1_ok {s : State} (hint ln da : Nat) (bs : List PByte) (hs : StateOk s) : StateOk (pantryWrite1 s hint ln da bs) := by
  unfold pantryWrite1
  repeat' first
    | with_reducible assumption
    | with_reducible apply discover_ok
    | (with_reducible refine modMem_ok ?_ (fun _ hb => ?_) (fun _ hb => ?_))
    | with_reducible apply ite_ok

theorem devWriteRun_ok {s : State} (hint da : Nat) (bs : List PByte) (h : StateOk s) : StateOk (devWriteRun s hint da bs) := by
  unfold devWriteRun
  split
  · exact h
  · have h1 := modMem_ok (f := fun m => { m with latent := m.latent.filter (fun c => !(da ≤ 32 * c.1 && 32 * c.1 + 32 ≤ da + bs.length)) })
      (pantryWrite1_ok hint (da / 256) da bs h) (fun _ hb => hb) (fun _ hr => hr)
    exact putPmem_ok h1 (pmem_write_wf h1.mem.1 da bs)

theorem devWriteGo_ok {s : State} (hint k da : Nat) (bs : List PByte) (h : StateOk s) : StateOk (devWriteGo s hint k da bs) := by
  induction k generalizing s da bs with
  | zero => exact h
  | succ k ih => exact ih _ _ (devWriteRun_ok hint da _ h)

theorem devWriteAs_ok {s : State} (hint da : Nat) (bs : List PByte) (h : StateOk s) : StateOk (devWriteAs s hint da bs) := by
  unfold devWriteAs
  split
  · exact h
  · exact devWriteGo_ok _ _ _ _ h

theorem devWrite_ok {s : State} (da : Nat) (bs : List PByte) (h : StateOk s) : StateOk (devWrite s da bs) := devWriteAs_ok 0 da bs h

theorem discoverFill_ok {s : State} (k : Option Nat) (da n : Nat) (hs : StateOk s) : StateOk (discoverFill s k da n) := by
  unfold discoverFill
  repeat' first
    | with_reducible assumption
    | with_reducible apply discover_ok
    | with_reducible apply ite_ok
    | (with_reducible refine foldl_ok ?_ (fun t a ht => ?_))

theorem demand_ok {s : State} (k : Option Nat) (da n : Nat) (hs : StateOk s) : StateOk (demand s k da n) := by
  unfold demand
  repeat' first
    | with_reducible assumption
    | with_reducible apply discoverFill_ok
    | with_reducible apply pantryRead1_ok
    | with_reducible apply ite_ok
    | (with_reducible refine foldl_ok ?_ (fun t a ht => ?_))

theorem pantryFlush_ok {s : State} (hs : StateOk s) : StateOk (pantryFlush s) := by
  unfold pantryFlush
  repeat' first
    | with_reducible assumption
    | (with_reducible refine modMem_ok ?_ (fun _ hb => ?_) (fun _ hb => ?_))

theorem pantryTrim_ok {s : State} (hs : StateOk s) : StateOk (pantryTrim s) := by
  unfold pantryTrim
  repeat' first
    | with_reducible assumption
    | (with_reducible refine modMem_ok ?_ (fun _ hb => ?_) (fun _ hb => ?_))

theorem tick_ok {s : State} (hs : StateOk s) : StateOk (tick s) := by
  unfold tick
  repeat' first
    | with_reducible assumption
    | with_reducible apply modTime_ok
    | with_reducible apply ite_ok

theorem arrFlags_ok {s : State} (n k : Nat) (f : Flags) (hs : StateOk s) : StateOk (arrFlags s n k f) := by
  unfold arrFlags
  repeat' first
    | with_reducible assumption
    | with_reducible apply modCore_ok

theorem cvtFlags_ok {s : State} (n k : Nat) (f : Flags) (hs : StateOk s) : StateOk (cvtFlags s n k f) := by
  unfold cvtFlags
  repeat' first
    | with_reducible assumption
    | with_reducible apply modCore_ok

theorem vecFlags_ok {s : State} (n k : Nat) (f : Flags) (hs : StateOk s) : StateOk (vecFlags s n k f) := by
  unfold vecFlags
  repeat' first
    | with_reducible assumption
    | with_reducible apply modCore_ok

theorem updFlags_ok {s : State} (n : Nat) (f : Flags) (hs : StateOk s) : StateOk (updFlags s n f) := by
  unfold updFlags
  repeat' first
    | with_reducible assumption
    | with_reducible apply modCluster_ok

theorem freeBuffer_ok {s : State} (came : Option Nat) (vc : Nat) (hs : StateOk s) : StateOk (freeBuffer s came vc) := by
  unfold freeBuffer
  repeat' first
    | with_reducible assumption
    | with_reducible apply modLink_ok
    | with_reducible apply ite_ok
    | (refine pair_ok (by with_reducible assumption) ?_)
    | simp only [mk_same_iff]
    | split

theorem txFlit_ok {s : State} (n : Nat) (e : Option Nat × BitVec 2048) (hs : StateOk s) : StateOk (txFlit s n e) := by
  unfold txFlit
  repeat' first
    | with_reducible assumption
    | with_reducible apply modLink_ok
    | with_reducible apply emit_ok
    | with_reducible apply freeBuffer_ok

theorem pump_ok (k n : Nat) {s : State} (h : StateOk s) : StateOk (pump k n s) := by
  induction k generalizing s with
  | zero => exact h
  | succ k ih =>
    unfold pump
    split
    · exact ih (txFlit_ok _ _ h)
    · exact h

theorem sendFlit_ok {s : State} (n : Nat) (came : Option Nat) (f : BitVec 2048) (hs : StateOk s) : StateOk (sendFlit s n came f) := by
  unfold sendFlit
  repeat' first
    | with_reducible assumption
    | with_reducible apply modLink_ok
    | with_reducible apply pump_ok

theorem sendIdle_ok {s : State} (n : Nat) (hs : StateOk s) : StateOk (sendIdle s n) := by
  unfold sendIdle
  repeat' first
    | with_reducible assumption
    | with_reducible apply modLink_ok
    | with_reducible apply emit_ok

theorem unroutable_ok {s : State} (dst : Nat) (hs : StateOk s) : StateOk (unroutable s dst) := by
  unfold unroutable
  repeat' first
    | with_reducible assumption
    | with_reducible apply raiseDev_ok

theorem deliver_ok {s : State} (came : Option Nat) (f : BitVec 2048) (hs : StateOk s) : StateOk (deliver s came f) := by
  unfold deliver
  repeat' first
    | with_reducible assumption
    | with_reducible apply modFab_ok

theorem routeFlit_ok {s : State} (came : Option Nat) (f : BitVec 2048) (hs : StateOk s) : StateOk (routeFlit s came f) := by
  unfold routeFlit
  repeat' first
    | with_reducible assumption
    | with_reducible apply freeBuffer_ok
    | with_reducible apply sendFlit_ok
    | with_reducible apply unroutable_ok
    | with_reducible apply deliver_ok
    | with_reducible apply ite_ok
    | (with_reducible refine foldl_ok ?_ (fun t a ht => ?_))
    | (refine pair_ok (by with_reducible assumption) ?_)
    | simp only [mk_same_iff]
    | split

theorem routeMessage_ok {s : State} (fs : List (BitVec 2048)) (hs : StateOk s) : StateOk (routeMessage s fs) := by
  unfold routeMessage
  repeat' first
    | with_reducible assumption
    | with_reducible apply unroutable_ok
    | with_reducible apply routeFlit_ok
    | with_reducible apply ite_ok
    | (with_reducible refine foldl_ok ?_ (fun t a ht => ?_))
    | (refine pair_ok (by with_reducible assumption) ?_)
    | simp only
    | split

theorem launch_ok {s : State} (h : FlitHead) (runs : List (Nat × List PByte)) (hs : StateOk s) : StateOk (launch s h runs) := by
  unfold launch
  repeat' first
    | with_reducible assumption
    | with_reducible apply modFab_ok
    | with_reducible apply unroutable_ok
    | with_reducible apply deliver_ok
    | with_reducible apply routeMessage_ok
    | with_reducible apply ite_ok
    | (with_reducible refine foldl_ok ?_ (fun t a ht => ?_))

theorem pruneKept_ok {s : State} (hs : StateOk s) : StateOk (pruneKept s) := by
  unfold pruneKept
  repeat' first
    | with_reducible assumption
    | with_reducible apply modFab_ok

theorem findRuns_ok {s : State} (k : Option Nat) (dev fills : Bool) (rs : List Run) (hs : StateOk s) :
    StateOk (findRuns s k dev fills rs) := by
  unfold findRuns
  repeat' first
    | with_reducible assumption
    | with_reducible apply discoverFill_ok
    | with_reducible apply discover_ok
    | with_reducible apply ite_ok
    | (with_reducible refine foldl_ok ?_ (fun t a ht => ?_))

theorem discoverRuns_ok {s : State} (k : Option Nat) (dev : Bool) (rs : List Run) (hs : StateOk s) : StateOk (discoverRuns s k dev rs) := by
  unfold discoverRuns
  repeat' first
    | with_reducible assumption
    | with_reducible apply demand_ok
    | with_reducible apply ite_ok
    | (with_reducible refine foldl_ok ?_ (fun t a ht => ?_))

theorem pantryRead_ok {s : State} (hint : Nat) (dev narrow : Bool) (rs : List Run) (hs : StateOk s) : StateOk (pantryRead s hint dev narrow rs) := by
  unfold pantryRead
  repeat' first
    | with_reducible assumption
    | with_reducible apply pantryRead1_ok
    | with_reducible apply ite_ok
    | (with_reducible refine foldl_ok ?_ (fun t a ht => ?_))

theorem spWrite_ok {s : State} (v : VRef) (hint : Nat) (dev : Bool) (a : Nat) (bs : List PByte) (hs : StateOk s) : StateOk (spWrite s v hint dev a bs) := by
  unfold spWrite
  repeat' first
    | with_reducible assumption
    | with_reducible apply modVc_ok
    | with_reducible apply devWriteAs_ok
    | with_reducible apply ite_ok

theorem spWriteAll_ok {s : State} (v : VRef) (hint : Nat) (dev : Bool) (ws : List (Nat × List PByte)) (hs : StateOk s) : StateOk (spWriteAll s v hint dev ws) := by
  unfold spWriteAll
  repeat' first
    | with_reducible assumption
    | with_reducible apply spWrite_ok
    | with_reducible apply ite_ok
    | (with_reducible refine foldl_ok ?_ (fun t a ht => ?_))

theorem landFeeds_ok {s : State} (v : VRef) (outs : List OutLoc) (new : List Feed) (hs : StateOk s) : StateOk (landFeeds s v outs new) := by
  unfold landFeeds
  repeat' first
    | with_reducible assumption
    | with_reducible apply ite_ok
    | simp only [mk_same_iff]

theorem finish_ok {s : State} (o : Origin) (status result : Nat) (hs : StateOk s) : StateOk (finish s o status result) := by
  unfold finish
  repeat' first
    | with_reducible assumption
    | with_reducible apply modRing_ok
    | with_reducible apply emit_ok
    | (with_reducible refine modHost_ok ?_ (fun _ hb => ?_))
    | with_reducible apply ite_ok
    | (refine pair_ok (by with_reducible assumption) ?_)
    | simp only
    | split

theorem raiseVc_ok {s : State} (v : VRef) (code fault idx : Nat) (hs : StateOk s) : StateOk (raiseVc s v code fault idx) := by
  unfold raiseVc
  repeat' first
    | with_reducible assumption
    | with_reducible apply raiseCtx_ok
    | with_reducible apply ite_ok
    | (refine pair_ok (by with_reducible assumption) ?_)
    | simp only [mk_same_iff]
    | split

theorem endSave_ok {s : State} (k status : Nat) (hs : StateOk s) : StateOk (endSave s k status) := by
  unfold endSave
  repeat' first
    | with_reducible assumption
    | with_reducible apply modCtx_ok
    | with_reducible apply finish_ok
    | with_reducible apply ite_ok
    | (refine pair_ok (by with_reducible assumption) ?_)
    | simp only [mk_same_iff]
    | split

theorem stopCtx_ok {s : State} (k : Nat) (hs : StateOk s) : StateOk (stopCtx s k) := by
  unfold stopCtx
  repeat' first
    | with_reducible assumption
    | with_reducible apply modCtx_ok
    | with_reducible apply endSave_ok

theorem progFault_ok {s : State} (v : VRef) (x : Vcore) (code : Nat) (hs : StateOk s) : StateOk (progFault s v x code) := by
  unfold progFault
  repeat' first
    | with_reducible assumption
    | with_reducible apply modCore_ok
    | with_reducible apply raiseVc_ok
    | with_reducible apply stopCtx_ok

theorem poisonCtx_ok {s : State} (k : Nat) (p : Policy) (da : Nat) (hs : StateOk s) : StateOk (poisonCtx s k p da) := by
  unfold poisonCtx
  repeat' first
    | with_reducible assumption
    | with_reducible apply modPart_ok
    | with_reducible apply raiseCtx_ok
    | with_reducible apply stopCtx_ok
    | with_reducible apply ite_ok
    | (with_reducible refine foldl_ok ?_ (fun t a ht => ?_))
    | (refine pair_ok (by with_reducible assumption) ?_)
    | simp only
    | split

theorem refusedAccess_ok {s : State} (n code : Nat) (hs : StateOk s) : StateOk (refusedAccess s n code) := by
  unfold refusedAccess
  repeat' first
    | with_reducible assumption
    | with_reducible apply countRefused_ok
    | with_reducible apply ite_ok

theorem addMaps_ok {s : State} (rs : List (Nat × Nat)) (up : Bool) (hs : StateOk s) : StateOk (addMaps s rs up) := by
  unfold addMaps
  repeat' first
    | with_reducible assumption
    | with_reducible apply putEntry_ok
    | with_reducible apply ite_ok
    | (with_reducible refine foldl_ok ?_ (fun t a ht => ?_))

theorem keepRoutines_ok {s : State} (n : Nat) (hs : StateOk s) : StateOk (keepRoutines s n) := by
  unfold keepRoutines
  repeat' first
    | with_reducible assumption
    | with_reducible apply modPart_ok

theorem groupDone_ok {s : State} (g : Nat) (hs : StateOk s) : StateOk (groupDone s g) := by
  unfold groupDone
  repeat' first
    | with_reducible assumption
    | with_reducible apply modFab_ok
    | with_reducible apply finish_ok
    | with_reducible apply ite_ok
    | (refine pair_ok (by with_reducible assumption) ?_)
    | simp only [mk_same_iff]
    | split

theorem groupsDone_ok {s : State} (hs : StateOk s) : StateOk (groupsDone s) := by
  unfold groupsDone
  repeat' first
    | with_reducible assumption
    | with_reducible apply groupDone_ok
    | (with_reducible refine foldl_ok ?_ (fun t a ht => ?_))

theorem removeCtx_ok {s : State} (k : Nat) (hs : StateOk s) : StateOk (removeCtx s k) := by
  unfold removeCtx
  repeat' first
    | with_reducible assumption
    | with_reducible apply modFab_ok
    | with_reducible apply modRel_ok
    | with_reducible apply putEntry_ok
    | with_reducible apply endSave_ok
    | with_reducible apply addMaps_ok
    | with_reducible apply keepRoutines_ok
    | with_reducible apply groupsDone_ok
    | with_reducible apply ite_ok
    | (with_reducible refine foldl_ok ?_ (fun t a ht => ?_))
    | (refine pair_ok (by with_reducible assumption) ?_)
    | simp only
    | split
    | (simp only [mk_iff]; refine ⟨?_, ?_, ?_, ?_⟩)
    | with_reducible apply StateOk.memWf
    | with_reducible apply StateOk.hostWf
    | with_reducible apply StateOk.ctxs
    | with_reducible apply StateOk.region
    | exact Rising.nil
    | with_reducible apply Rising.tput
    | with_reducible apply Rising.tdel

theorem endCtx_ok {s : State} (k : Nat) (hs : StateOk s) : StateOk (endCtx s k) := by
  unfold endCtx
  repeat' first
    | with_reducible assumption
    | with_reducible apply finish_ok
    | with_reducible apply removeCtx_ok
    | split

theorem destroyDone_ok {s : State} (k : Nat) (hs : StateOk s) : StateOk (destroyDone s k) := by
  unfold destroyDone
  repeat' first
    | with_reducible assumption
    | with_reducible apply finish_ok
    | with_reducible apply endCtx_ok
    | with_reducible apply ite_ok
    | (refine pair_ok (by with_reducible assumption) ?_)
    | simp only [mk_same_iff]
    | split

theorem saveVc_ok {s : State} (v : VRef) (hs : StateOk s) : StateOk (saveVc s v) := by
  unfold saveVc
  repeat' first
    | with_reducible assumption
    | with_reducible apply modCtx_ok
    | with_reducible apply raiseCtx_ok
    | with_reducible apply finish_ok
    | with_reducible apply refusedAccess_ok
    | with_reducible apply devWrite_ok
    | with_reducible apply ite_ok
    | (refine pair_ok (by with_reducible assumption) ?_)
    | simp only
    | split

theorem trySave_ok {s : State} (v : VRef) (hs : StateOk s) : StateOk (trySave s v) := by
  unfold trySave
  repeat' first
    | with_reducible assumption
    | with_reducible apply saveVc_ok
    | with_reducible apply ite_ok
    | (refine pair_ok (by with_reducible assumption) ?_)
    | simp only [mk_same_iff]
    | split

theorem boundaryWork_ok {s : State} (v : VRef) (x : Vcore) (w : Word64) (hs : StateOk s) : StateOk (boundaryWork s v x w) := by
  unfold boundaryWork
  repeat' first
    | with_reducible assumption
    | with_reducible apply modVc_ok
    | with_reducible apply ite_ok
    | (refine pair_ok (by with_reducible assumption) ?_)
    | simp only [mk_same_iff]
    | split

theorem issueWith_ok {s : State} (h : StateOk s) {f : State → Ctx → Vcore → Word64 → State} (hf : ∀ t c x w, StateOk t → StateOk (f t c x w)) (v : VRef)
    (op : Nat → Bool) : StateOk (issueWith s v op f) := by
  unfold issueWith
  split
  · exact h
  · dsimp only
    split
    · exact boundaryWork_ok v _ _ h
    · exact trySave_ok v (hf _ _ _ _ (boundaryWork_ok v _ _ h))

theorem putVc_ok {s : State} (v : VRef) (x : Vcore) (hs : StateOk s) : StateOk (putVc s v x) := by
  unfold putVc
  repeat' first
    | with_reducible assumption
    | with_reducible apply modVc_ok

theorem execNop_ok (v : VRef) {s : State} (hs : StateOk s) : OutOk (execNop v s) := by
  unfold execNop
  repeat' first
    | with_reducible assumption
    | with_reducible apply next_ok
    | with_reducible apply putVc_ok
    | (with_reducible refine issueWith_ok ?_ (fun t c x w ht => ?_) v _)

theorem execEnd_ok (v : VRef) {s : State} (hs : StateOk s) : OutOk (execEnd v s) := by
  unfold execEnd
  repeat' first
    | with_reducible assumption
    | with_reducible apply next_ok
    | with_reducible apply modCtx_ok
    | (with_reducible refine issueWith_ok ?_ (fun t c x w ht => ?_) v _)
    | with_reducible apply ite_ok

theorem execCall_ok (v : VRef) {s : State} (hs : StateOk s) : OutOk (execCall v s) := by
  unfold execCall
  repeat' first
    | with_reducible assumption
    | with_reducible apply next_ok
    | with_reducible apply progFault_ok
    | with_reducible apply putVc_ok
    | (with_reducible refine issueWith_ok ?_ (fun t c x w ht => ?_) v _)
    | with_reducible apply ite_ok
    | (refine pair_ok (by with_reducible assumption) ?_)
    | simp only
    | split

theorem execRet_ok (v : VRef) {s : State} (hs : StateOk s) : OutOk (execRet v s) := by
  unfold execRet
  repeat' first
    | with_reducible assumption
    | with_reducible apply next_ok
    | with_reducible apply progFault_ok
    | with_reducible apply putVc_ok
    | (with_reducible refine issueWith_ok ?_ (fun t c x w ht => ?_) v _)
    | with_reducible apply ite_ok
    | (refine pair_ok (by with_reducible assumption) ?_)
    | simp only
    | split

theorem execLoop_ok (v : VRef) {s : State} (hs : StateOk s) : OutOk (execLoop v s) := by
  unfold execLoop
  repeat' first
    | with_reducible assumption
    | with_reducible apply next_ok
    | with_reducible apply putVc_ok
    | (with_reducible refine issueWith_ok ?_ (fun t c x w ht => ?_) v _)
    | with_reducible apply ite_ok
    | (refine pair_ok (by with_reducible assumption) ?_)
    | simp only
    | split

theorem execCmp_ok (v : VRef) {s : State} (hs : StateOk s) : OutOk (execCmp v s) := by
  unfold execCmp
  repeat' first
    | with_reducible assumption
    | with_reducible apply next_ok
    | with_reducible apply putVc_ok
    | (with_reducible refine issueWith_ok ?_ (fun t c x w ht => ?_) v _)
    | with_reducible apply ite_ok
    | (refine pair_ok (by with_reducible assumption) ?_)
    | simp only
    | split

theorem execSkip_ok (v : VRef) {s : State} (hs : StateOk s) : OutOk (execSkip v s) := by
  unfold execSkip
  repeat' first
    | with_reducible assumption
    | with_reducible apply next_ok
    | with_reducible apply putVc_ok
    | (with_reducible refine issueWith_ok ?_ (fun t c x w ht => ?_) v _)

theorem execYield_ok (v : VRef) {s : State} (hs : StateOk s) : OutOk (execYield v s) := by
  unfold execYield
  repeat' first
    | with_reducible assumption
    | with_reducible apply next_ok
    | with_reducible apply putVc_ok
    | (with_reducible refine issueWith_ok ?_ (fun t c x w ht => ?_) v _)

theorem execPset_ok (v : VRef) {s : State} (hs : StateOk s) : OutOk (execPset v s) := by
  unfold execPset
  repeat' first
    | with_reducible assumption
    | with_reducible apply next_ok
    | with_reducible apply putVc_ok
    | (with_reducible refine issueWith_ok ?_ (fun t c x w ht => ?_) v _)
    | with_reducible apply ite_ok
    | (refine pair_ok (by with_reducible assumption) ?_)
    | simp only
    | split

theorem execPadd_ok (v : VRef) {s : State} (hs : StateOk s) : OutOk (execPadd v s) := by
  unfold execPadd
  repeat' first
    | with_reducible assumption
    | with_reducible apply next_ok
    | with_reducible apply putVc_ok
    | (with_reducible refine issueWith_ok ?_ (fun t c x w ht => ?_) v _)
    | with_reducible apply ite_ok
    | (refine pair_ok (by with_reducible assumption) ?_)
    | simp only
    | split

theorem execPmad_ok (v : VRef) {s : State} (hs : StateOk s) : OutOk (execPmad v s) := by
  unfold execPmad
  repeat' first
    | with_reducible assumption
    | with_reducible apply next_ok
    | with_reducible apply putVc_ok
    | (with_reducible refine issueWith_ok ?_ (fun t c x w ht => ?_) v _)
    | with_reducible apply ite_ok
    | (refine pair_ok (by with_reducible assumption) ?_)
    | simp only [mk_same_iff]
    | split

theorem execWrs_ok (v : VRef) {s : State} (hs : StateOk s) : OutOk (execWrs v s) := by
  unfold execWrs
  repeat' first
    | with_reducible assumption
    | with_reducible apply next_ok
    | with_reducible apply progFault_ok
    | with_reducible apply putVc_ok
    | (with_reducible refine issueWith_ok ?_ (fun t c x w ht => ?_) v _)
    | with_reducible apply ite_ok
    | (refine pair_ok (by with_reducible assumption) ?_)
    | simp only
    | split

theorem execPush_ok (v : VRef) {s : State} (hs : StateOk s) : OutOk (execPush v s) := by
  unfold execPush
  repeat' first
    | with_reducible assumption
    | with_reducible apply next_ok
    | with_reducible apply putVc_ok
    | (with_reducible refine issueWith_ok ?_ (fun t c x w ht => ?_) v _)
    | with_reducible apply ite_ok
    | (refine pair_ok (by with_reducible assumption) ?_)
    | simp only
    | split

theorem execInstructionDispatch_ok (v : VRef) {s : State} (hs : StateOk s) : OutOk (execInstructionDispatch v s) := by
  unfold execInstructionDispatch
  repeat' first
    | with_reducible assumption
    | with_reducible apply next_ok
    | with_reducible apply putVc_ok
    | (with_reducible refine issueWith_ok ?_ (fun t c x w ht => ?_) v _)
    | with_reducible apply ite_ok
    | (refine pair_ok (by with_reducible assumption) ?_)
    | with_reducible apply fresh_ok
    | (refine pair_snd_ok (by with_reducible assumption) ?_)
    | simp only [mk_same_iff]
    | split

theorem takeCore_ok {s : State} (x : Vcore) (hs : StateOk s) : StateOk (takeCore s x) := by
  unfold takeCore
  repeat' first
    | with_reducible assumption
    | with_reducible apply modCore_ok
    | with_reducible apply ite_ok

theorem patchBad_ok {s : State} (v : VRef) (hs : StateOk s) : StateOk (patchBad s v) := by
  unfold patchBad
  repeat' first
    | with_reducible assumption
    | with_reducible apply modCtx_ok
    | with_reducible apply raiseVc_ok

theorem execReplayStart_ok (v : VRef) {s : State} (hs : StateOk s) : OutOk (execReplayStart v s) := by
  unfold execReplayStart
  repeat' first
    | with_reducible assumption
    | with_reducible apply next_ok
    | with_reducible apply modCtx_ok
    | with_reducible apply raiseCtx_ok
    | with_reducible apply demand_ok
    | with_reducible apply poisonCtx_ok
    | with_reducible apply refusedAccess_ok
    | with_reducible apply takeCore_ok
    | with_reducible apply patchBad_ok
    | with_reducible apply devWrite_ok
    | with_reducible apply ite_ok
    | (refine pair_ok (by with_reducible assumption) ?_)
    | simp only
    | split

theorem pushCtl_ok {s : State} (v : VRef) (val : Nat) (step : Word64) (hs : StateOk s) : StateOk (pushCtl s v val step) := by
  unfold pushCtl
  repeat' first
    | with_reducible assumption
    | with_reducible apply modVc_ok
    | with_reducible apply raiseVc_ok
    | with_reducible apply ite_ok
    | (refine pair_ok (by with_reducible assumption) ?_)
    | simp only
    | split

theorem sendCtl_ok {s : State} (n val : Nat) (step : Word64) (hs : StateOk s) : StateOk (sendCtl s n val step) := by
  unfold sendCtl
  repeat' first
    | with_reducible assumption
    | with_reducible apply pushCtl_ok
    | with_reducible apply ite_ok
    | (with_reducible refine foldl_ok ?_ (fun t a ht => ?_))
    | (refine pair_ok (by with_reducible assumption) ?_)
    | simp only [mk_same_iff]
    | split

theorem execControlTokenHeldDeliver_ok (v : VRef) {s : State} (hs : StateOk s) : OutOk (execControlTokenHeldDeliver v s) := by
  unfold execControlTokenHeldDeliver
  repeat' first
    | with_reducible assumption
    | with_reducible apply next_ok
    | with_reducible apply modVc_ok

theorem execQ1Notify_ok (v : VRef) {s : State} (hs : StateOk s) : OutOk (execQ1Notify v s) := by
  unfold execQ1Notify
  repeat' first
    | with_reducible assumption
    | with_reducible apply next_ok
    | with_reducible apply raiseCtx_ok
    | with_reducible apply putVc_ok
    | with_reducible apply ite_ok
    | (refine pair_ok (by with_reducible assumption) ?_)
    | simp only [mk_same_iff]
    | split

theorem execVirtualCoreSwitch_ok (n : Nat) {s : State} (hs : StateOk s) : OutOk (execVirtualCoreSwitch n s) := by
  unfold execVirtualCoreSwitch
  repeat' first
    | with_reducible assumption
    | with_reducible apply next_ok
    | with_reducible apply modCore_ok
    | with_reducible apply ite_ok
    | (refine pair_ok (by with_reducible assumption) ?_)
    | simp only
    | split

theorem addEntry_ok {s : State} (e : Repair) (hs : StateOk s) : StateOk (addEntry s e) := by
  unfold addEntry
  repeat' first
    | with_reducible assumption
    | with_reducible apply modRel_ok

theorem addRepair_ok {s : State} (kind action logical physical cause : Nat) (hs : StateOk s) : StateOk (addRepair s kind action logical physical cause) := by
  unfold addRepair
  repeat' first
    | with_reducible assumption
    | with_reducible apply addEntry_ok

theorem remapEvent_ok {s : State} (kind logical physical cause core cluster : Nat) (hs : StateOk s) : StateOk (remapEvent s kind logical physical cause core cluster) := by
  unfold remapEvent
  repeat' first
    | with_reducible assumption
    | with_reducible apply raiseDev_ok
    | with_reducible apply addRepair_ok

theorem declareFailed_ok {s : State} (core cluster : Nat) (hs : StateOk s) : StateOk (declareFailed s core cluster) := by
  unfold declareFailed
  repeat' first
    | with_reducible assumption
    | with_reducible apply modRel_ok
    | with_reducible apply emit_ok
    | with_reducible apply raiseDev_ok

theorem failBeyond_ok {s : State} (kind logical physical cause core cluster : Nat) (hs : StateOk s) : StateOk (failBeyond s kind logical physical cause core cluster) := by
  unfold failBeyond
  repeat' first
    | with_reducible assumption
    | with_reducible apply raiseDev_ok
    | with_reducible apply addRepair_ok
    | with_reducible apply declareFailed_ok

theorem finishClears_ok {s : State} (hs : StateOk s) : StateOk (finishClears s) := by
  unfold finishClears
  repeat' first
    | with_reducible assumption
    | with_reducible apply finish_ok
    | (with_reducible refine modMem_ok ?_ (fun _ hb => ?_) (fun _ hb => ?_))
    | with_reducible apply ite_ok
    | (with_reducible refine foldl_ok ?_ (fun t a ht => ?_))

theorem zeroRegion_ok {s : State} (r : Nat) (hs : StateOk s) : StateOk (zeroRegion s r) := by
  unfold zeroRegion
  repeat' first
    | with_reducible assumption
    | with_reducible apply putEntry_ok
    | (with_reducible refine modMem_ok ?_ (fun _ hb => ?_) (fun _ hb => ?_))
    | with_reducible apply ite_ok
    | simp only
    | split
    | with_reducible apply Rising.tput
    | with_reducible apply Rising.tdel
    | with_reducible apply Rising.filter
    | with_reducible apply Rising.tmap
    | with_reducible apply memPutAll_wf
    | with_reducible apply memClear_wf

theorem execRegionClear_ok (r : Nat) {s : State} (hs : StateOk s) : OutOk (execRegionClear r s) := by
  unfold execRegionClear
  repeat' first
    | with_reducible assumption
    | with_reducible apply next_ok
    | with_reducible apply finishClears_ok
    | with_reducible apply zeroRegion_ok
    | with_reducible apply ite_ok

theorem corruptRaw_ok {s : State} (g : Nat) (f : Syndrome) (hs : StateOk s) : StateOk (corruptRaw s g f) := by
  unfold corruptRaw
  repeat' first
    | with_reducible assumption
    | (with_reducible refine modMem_ok ?_ (fun _ hb => ?_) (fun _ hb => ?_))
    | with_reducible apply ite_ok
    | (with_reducible refine foldl_ok ?_ (fun t a ht => ?_))
    | (refine pair_ok (by with_reducible assumption) ?_)
    | with_reducible apply fresh_ok
    | (refine pair_snd_ok (by with_reducible assumption) ?_)
    | simp only [mk_same_iff]
    | split
    | with_reducible apply Rising.tput
    | with_reducible apply Rising.tdel
    | with_reducible apply Rising.filter
    | with_reducible apply Rising.tmap
    | with_reducible apply memPutAll_wf

theorem padFault_ok {s : State} (v : VRef) (g : Nat) (f : Syndrome) (hs : StateOk s) : StateOk (padFault s v g f) := by
  unfold padFault
  repeat' first
    | with_reducible assumption
    | with_reducible apply modVc_ok
    | with_reducible apply raise_ok
    | with_reducible apply ite_ok
    | (refine pair_ok (by with_reducible assumption) ?_)
    | simp only [mk_same_iff]
    | split

theorem failGranule_ok {s : State} (g : Nat) (f : Syndrome) (hs : StateOk s) : StateOk (failGranule s g f) := by
  unfold failGranule
  repeat' first
    | with_reducible assumption
    | with_reducible apply corruptRaw_ok
    | with_reducible apply ite_ok
    | (with_reducible refine modMem_ok ?_ (fun _ hb => ?_) (fun _ hb => ?_))

theorem partFault_ok {s : State} (g : Nat) (f : Syndrome) (hs : StateOk s) : StateOk (partFault s g f) := by
  unfold partFault
  repeat' first
    | with_reducible assumption
    | with_reducible apply failGranule_ok
    | (with_reducible refine modMem_ok ?_ (fun _ hb => ?_) (fun _ hb => ?_))

theorem pantryFault_ok {s : State} (g : Nat) (f : Syndrome) (hs : StateOk s) : StateOk (pantryFault s g f) := by
  unfold pantryFault
  repeat' first
    | with_reducible assumption
    | with_reducible apply failGranule_ok
    | with_reducible apply ite_ok

theorem execPatrolScrub_ok (g : Nat) (fault : Option Failure) {s : State} (hs : StateOk s) :
    OutOk (execPatrolScrub g fault s) := by
  unfold execPatrolScrub
  obtain _ | ⟨f, _ | _ | v⟩ := fault <;>
  repeat' first
    | with_reducible assumption
    | with_reducible apply next_ok
    | with_reducible apply discover1_ok
    | with_reducible apply partFault_ok
    | with_reducible apply pantryFault_ok
    | with_reducible apply padFault_ok
    | with_reducible apply ite_ok

theorem abortMembers_ok {s : State} (reason : Nat) (hs : StateOk s) : StateOk (abortMembers s reason) := by
  unfold abortMembers
  repeat' first
    | with_reducible assumption
    | with_reducible apply causeAbandon_ok
    | with_reducible apply ite_ok
    | (with_reducible refine foldl_ok ?_ (fun t a ht => ?_))

theorem fencePart_ok {s : State} (p : Nat) (hs : StateOk s) : StateOk (fencePart s p) := by
  unfold fencePart
  repeat' first
    | with_reducible assumption
    | with_reducible apply modMemPart_ok
    | with_reducible apply raiseDev_ok
    | with_reducible apply declareFailed_ok
    | with_reducible apply abortMembers_ok
    | with_reducible apply ite_ok

theorem partReading_ok {s : State} (p : Nat) (temp : Int) (hs : StateOk s) : StateOk (partReading s p temp) := by
  unfold partReading
  repeat' first
    | with_reducible assumption
    | with_reducible apply modPwr_ok
    | with_reducible apply modMemPart_ok
    | with_reducible apply raiseDev_ok
    | with_reducible apply fencePart_ok
    | with_reducible apply ite_ok

theorem execPartTempSample_ok (p : Nat) (temp : Int) {s : State} (hs : StateOk s) : OutOk (execPartTempSample p temp s) := by
  unfold execPartTempSample
  repeat' first
    | with_reducible assumption
    | with_reducible apply next_ok
    | with_reducible apply partReading_ok
    | with_reducible apply ite_ok

theorem setPantryMode_ok {s : State} (hinted : Bool) (hs : StateOk s) : StateOk (setPantryMode s hinted) := by
  unfold setPantryMode
  repeat' first
    | with_reducible assumption
    | with_reducible apply pantryFlush_ok
    | (with_reducible refine modMem_ok ?_ (fun _ hb => ?_) (fun _ hb => ?_))

theorem execPantryModeChange_ok (hinted : Bool) {s : State} (hs : StateOk s) : OutOk (execPantryModeChange hinted s) := by
  unfold execPantryModeChange
  repeat' first
    | with_reducible assumption
    | with_reducible apply next_ok
    | with_reducible apply setPantryMode_ok
    | with_reducible apply ite_ok

theorem modOp_ok {s : State} (v : VRef) (id : Nat) (f : UOp → UOp) (hs : StateOk s) : StateOk (modOp s v id f) := by
  unfold modOp
  repeat' first
    | with_reducible assumption
    | with_reducible apply modVc_ok

theorem releaseOp_ok {s : State} (v : VRef) (id : Nat) (err : Option Nat) (hs : StateOk s) : StateOk (releaseOp s v id err) := by
  unfold releaseOp
  repeat' first
    | with_reducible assumption
    | with_reducible apply modOp_ok

theorem nanConsumed_ok {s : State} (v : VRef) (nan : Bool) (hs : StateOk s) : StateOk (nanConsumed s v nan) := by
  unfold nanConsumed
  repeat' first
    | with_reducible assumption
    | with_reducible apply modPart_ok
    | with_reducible apply raiseCtx_ok
    | with_reducible apply ite_ok

theorem moveOp_ok {s : State} (v : VRef) (x : Vcore) (n hint : Nat) (src dst : Opnd) (hs : StateOk s) : ResOk (fun r => StateOk r.1) (moveOp s v x n hint src dst) := by
  unfold moveOp
  repeat' first
    | with_reducible assumption
    | with_reducible apply findRuns_ok
    | with_reducible apply pantryRead_ok
    | with_reducible apply spWriteAll_ok
    | with_reducible apply ite_ok
    | with_reducible apply ret_ok
    | with_reducible apply pure_ok
    | with_reducible apply error_ok
    | with_reducible apply throw_ok
    | with_reducible apply ite_res_ok
    | (with_reducible refine bind_ok (fun _ => ?_))

theorem runLoad_ok {s : State} (v : VRef) (x : Vcore) (n : Nat) (o : UOp) (hs : StateOk s) : ResOk (fun r => StateOk r.st) (runLoad s v x n o) := by
  unfold runLoad
  repeat' first
    | with_reducible assumption
    | (with_reducible refine bind2_ok (moveOp_ok (hs := ?_) ..) (fun _ _ => ?_))
    | with_reducible apply moveOp_ok
    | with_reducible apply ite_ok
    | (with_reducible refine bind2_ok (Q := fun (a : State × List Feed) => StateOk a.1) ?_ (fun _ _ => ?_))
    | with_reducible apply ret_ok
    | with_reducible apply pure_ok
    | with_reducible apply error_ok
    | with_reducible apply throw_ok
    | with_reducible apply ite_res_ok
    | (with_reducible refine bind_ok (fun _ => ?_))

theorem runStore_ok {s : State} (v : VRef) (x : Vcore) (n : Nat) (o : UOp) (hs : StateOk s) : ResOk (fun r => StateOk r.st) (runStore s v x n o) := by
  unfold runStore
  repeat' first
    | with_reducible assumption
    | (with_reducible refine bind2_ok (moveOp_ok (hs := ?_) ..) (fun _ _ => ?_))
    | with_reducible apply moveOp_ok
    | with_reducible apply ite_ok
    | (with_reducible refine bind2_ok (Q := fun (a : State × List Feed) => StateOk a.1) ?_ (fun _ _ => ?_))
    | with_reducible apply ret_ok
    | with_reducible apply pure_ok
    | with_reducible apply error_ok
    | with_reducible apply throw_ok
    | with_reducible apply ite_res_ok
    | (with_reducible refine bind_ok (fun _ => ?_))

theorem countNarrow_ok {s : State} (n k : Nat) (hs : StateOk s) : StateOk (countNarrow s n k) := by
  unfold countNarrow
  repeat' first
    | with_reducible assumption
    | with_reducible apply modPart_ok
    | (with_reducible refine modMem_ok ?_ (fun _ hb => ?_) (fun _ hb => ?_))

theorem runGather_ok {s : State} (v : VRef) (x : Vcore) (n : Nat) (o : UOp) (hs : StateOk s) : ResOk (fun r => StateOk r.st) (runGather s v x n o) := by
  unfold runGather
  repeat' first
    | with_reducible assumption
    | with_reducible apply findRuns_ok
    | with_reducible apply discoverRuns_ok
    | with_reducible apply pantryRead_ok
    | with_reducible apply spWrite_ok
    | with_reducible apply countNarrow_ok
    | with_reducible apply ite_ok
    | with_reducible apply ret_ok
    | with_reducible apply pure_ok
    | with_reducible apply error_ok
    | with_reducible apply throw_ok
    | with_reducible apply ite_res_ok
    | (with_reducible refine bind_ok (fun _ => ?_))
    | (refine pair_ok (by with_reducible assumption) ?_)
    | simp only
    | split

theorem sendMessage_ok {s : State} (dst : Nat) (m : SendMsg) (bs : List PByte) (hs : StateOk s) : StateOk (sendMessage s dst m bs) := by
  unfold sendMessage
  repeat' first
    | with_reducible assumption
    | with_reducible apply modFab_ok
    | with_reducible apply emit_ok
    | with_reducible apply launch_ok
    | with_reducible apply ite_ok

theorem runSend_ok {s : State} (v : VRef) (x : Vcore) (n : Nat) (o : UOp) (hs : StateOk s) : ResOk (fun r => StateOk r.st) (runSend s v x n o) := by
  unfold runSend
  repeat' first
    | with_reducible assumption
    | with_reducible apply modFab_ok
    | with_reducible apply sendMessage_ok
    | with_reducible apply discoverRuns_ok
    | with_reducible apply ite_ok
    | with_reducible apply ret_ok
    | with_reducible apply pure_ok
    | with_reducible apply error_ok
    | with_reducible apply throw_ok
    | with_reducible apply ite_res_ok
    | (with_reducible refine bind_ok (fun _ => ?_))

end Sys2Proof.Machine
end

