-- ==== Sys2Proof/Laws/InvariantUnits.lean ====
section
/-! SUPPORT. Every function of the machine keeps the invariant StateOk: the array, conversion, vector and collective instructions, and the
messages and verdicts behind them.
One lemma per function, each a walk over its definition that cites the lemmas of the functions it calls. -/
set_option Elab.async false
namespace Sys2Proof.Machine
open Sys2Proof
theorem putLacc_ok {s : State} (v : VRef) (l : LaccSet) (hs : StateOk s) : StateOk (putLacc s v l) := by
  unfold putLacc
  repeat' first
    | with_reducible assumption
    | with_reducible apply modVc_ok

theorem runZero_ok {s : State} (v : VRef) (x : Vcore) (_n : Nat) (o : UOp) (hs : StateOk s) : ResOk (fun r => StateOk r.st) (runZero s v x _n o) := by
  unfold runZero
  repeat' first
    | with_reducible assumption
    | with_reducible apply putLacc_ok
    | with_reducible apply ite_ok
    | with_reducible apply ret_ok
    | with_reducible apply pure_ok
    | with_reducible apply error_ok
    | with_reducible apply throw_ok
    | with_reducible apply ite_res_ok
    | (with_reducible refine bind_ok (fun _ => ?_))

theorem runAcc_ok {s : State} (v : VRef) (x : Vcore) (n : Nat) (o : UOp) (hs : StateOk s) : ResOk (fun r => StateOk r.st) (runAcc s v x n o) := by
  unfold runAcc
  repeat' first
    | with_reducible assumption
    | with_reducible apply arrFlags_ok
    | with_reducible apply nanConsumed_ok
    | with_reducible apply putLacc_ok
    | with_reducible apply ite_ok
    | with_reducible apply ret_ok
    | with_reducible apply pure_ok
    | with_reducible apply error_ok
    | with_reducible apply throw_ok
    | with_reducible apply ite_res_ok
    | (with_reducible refine bind_ok (fun _ => ?_))
    | (refine pair_ok (by with_reducible assumption) ?_)
    | simp only
    | split

theorem runTwin_ok {s : State} (v : VRef) (x : Vcore) (n : Nat) (o : UOp) (hs : StateOk s) : ResOk (fun r => StateOk r.st) (runTwin s v x n o) := by
  unfold runTwin
  repeat' first
    | with_reducible assumption
    | with_reducible apply arrFlags_ok
    | with_reducible apply nanConsumed_ok
    | with_reducible apply putLacc_ok
    | with_reducible apply ite_ok
    | with_reducible apply ret_ok
    | with_reducible apply pure_ok
    | with_reducible apply error_ok
    | with_reducible apply throw_ok
    | with_reducible apply ite_res_ok
    | (with_reducible refine bind_ok (fun _ => ?_))
    | (refine pair_ok (by with_reducible assumption) ?_)
    | simp only
    | split

theorem runExport_ok {s : State} (v : VRef) (x : Vcore) (n : Nat) (o : UOp) (hs : StateOk s) : ResOk (fun r => StateOk r.st) (runExport s v x n o) := by
  unfold runExport
  repeat' first
    | with_reducible assumption
    | with_reducible apply spWrite_ok
    | with_reducible apply putLacc_ok
    | with_reducible apply ite_ok
    | with_reducible apply ret_ok
    | with_reducible apply pure_ok
    | with_reducible apply error_ok
    | with_reducible apply throw_ok
    | with_reducible apply ite_res_ok
    | (with_reducible refine bind_ok (fun _ => ?_))

theorem runImport_ok {s : State} (v : VRef) (x : Vcore) (n : Nat) (o : UOp) (hs : StateOk s) : ResOk (fun r => StateOk r.st) (runImport s v x n o) := by
  unfold runImport
  repeat' first
    | with_reducible assumption
    | with_reducible apply arrFlags_ok
    | with_reducible apply nanConsumed_ok
    | with_reducible apply putLacc_ok
    | with_reducible apply ite_ok
    | with_reducible apply ret_ok
    | with_reducible apply pure_ok
    | with_reducible apply error_ok
    | with_reducible apply throw_ok
    | with_reducible apply ite_res_ok
    | (with_reducible refine bind_ok (fun _ => ?_))

theorem runSwap_ok {s : State} (v : VRef) (x : Vcore) (n : Nat) (o : UOp) (hs : StateOk s) : ResOk (fun r => StateOk r.st) (runSwap s v x n o) := by
  unfold runSwap
  repeat' first
    | with_reducible assumption
    | with_reducible apply arrFlags_ok
    | with_reducible apply spWrite_ok
    | with_reducible apply nanConsumed_ok
    | with_reducible apply putLacc_ok
    | with_reducible apply ite_ok
    | with_reducible apply ret_ok
    | with_reducible apply pure_ok
    | with_reducible apply error_ok
    | with_reducible apply throw_ok
    | with_reducible apply ite_res_ok
    | (with_reducible refine bind_ok (fun _ => ?_))

theorem homeWrite_ok {s : State} (da : Nat) (bs : List Byte) (hs : StateOk s) : StateOk (homeWrite s da bs) := by
  unfold homeWrite
  repeat' first
    | with_reducible assumption
    | with_reducible apply pantryWrite1_ok
    | (with_reducible refine modMem_ok ?_ (fun _ hb => ?_) (fun _ hb => ?_))
    | with_reducible apply ite_ok
    | (with_reducible refine foldl_ok ?_ (fun t a ht => ?_))
    | simp only
    | split
    | with_reducible apply Rising.tput
    | with_reducible apply Rising.tdel
    | with_reducible apply Rising.filter
    | with_reducible apply Rising.tmap
    | with_reducible apply memPutAll_wf

theorem supersede_ok {s : State} (ga key : Nat) (hs : StateOk s) : StateOk (supersede s ga key) := by
  unfold supersede
  repeat' first
    | with_reducible assumption
    | with_reducible apply modPart_ok
    | with_reducible apply modRel_ok
    | with_reducible apply releaseOp_ok
    | with_reducible apply ite_ok
    | (with_reducible refine foldl_ok ?_ (fun t a ht => ?_))
    | (refine pair_ok (by with_reducible assumption) ?_)
    | simp only [mk_same_iff]
    | split

theorem appendEntry_ok {s : State} (c : BitVec 512) (ga g cap full : Nat) (row col w : Nat) (hs : StateOk s) : StateOk (appendEntry s c ga g cap full row col w) := by
  unfold appendEntry
  repeat' first
    | with_reducible assumption
    | with_reducible apply homeWrite_ok
    | with_reducible apply devWrite_ok
    | with_reducible apply ite_ok

theorem telAdd_ok {s : State} (n layer fmt : Nat) (ks : List Nat) (hs : StateOk s) : StateOk (telAdd s n layer fmt ks) := by
  unfold telAdd
  repeat' first
    | with_reducible assumption
    | with_reducible apply modPart_ok
    | with_reducible apply raise_ok
    | with_reducible apply countRefused_ok
    | with_reducible apply homeWrite_ok
    | with_reducible apply ite_ok
    | (refine pair_ok (by with_reducible assumption) ?_)
    | simp only
    | split

theorem suspectFed_ok {s : State} (g : Group) (hs : StateOk s) : StateOk (suspectFed s g) := by
  unfold suspectFed
  repeat' first
    | with_reducible assumption
    | with_reducible apply ite_ok
    | simp only
    | split
    | (simp only [mk_iff]; refine ⟨?_, ?_, ?_, ?_⟩)
    | with_reducible apply StateOk.memWf
    | with_reducible apply StateOk.hostWf
    | with_reducible apply StateOk.ctxs
    | with_reducible apply StateOk.region
    | exact Rising.nil
    | with_reducible apply Rising.tput
    | with_reducible apply Rising.tdel
    | with_reducible apply Rising.filter
    | with_reducible apply Rising.tmap

theorem slotCeiling_ok {s : State} (v : VRef) (n : Nat) (c : BitVec 512) (ga g cap : Nat) (hs : StateOk s) : StateOk (slotCeiling s v n c ga g cap) := by
  unfold slotCeiling
  repeat' first
    | with_reducible assumption
    | with_reducible apply modCore_ok
    | with_reducible apply raiseCtx_ok
    | with_reducible apply homeWrite_ok
    | with_reducible apply telAdd_ok
    | with_reducible apply suspectFed_ok
    | with_reducible apply ite_ok
    | (refine pair_ok (by with_reducible assumption) ?_)
    | simp only
    | split

theorem openGroup_ok {s : State} (c : BitVec 512) (ga : Nat) (thr : Word64) (hs : StateOk s) : StateOk (openGroup s c ga thr) := by
  unfold openGroup
  repeat' first
    | with_reducible assumption
    | with_reducible apply homeWrite_ok
    | with_reducible apply supersede_ok
    | with_reducible apply ite_ok
    | (refine pair_ok (by with_reducible assumption) ?_)
    | simp only
    | split

theorem rebakeSlot_ok {s : State} (c : BitVec 512) (ga hdr need : Nat) (live : Bool) (hs : StateOk s) : StateOk (rebakeSlot s c ga hdr need live).1 := by
  unfold rebakeSlot
  repeat' first
    | with_reducible assumption
    | with_reducible apply homeWrite_ok
    | with_reducible apply ite_ok
    | simp only
    | split

theorem placeGroup_ok {s : State} (c : BitVec 512) (o : Opnd) (ga g : Nat) (slot : Option (Nat × Nat × Nat)) (hs : StateOk s) : StateOk (placeGroup s c o ga g slot) := by
  unfold placeGroup
  repeat' first
    | with_reducible assumption
    | with_reducible apply ite_ok
    | simp only [mk_same_iff]

theorem sideshow_ok {s : State} (c : BitVec 512) (part : Opnd) (ga g cap : Nat) (bs : List BlockRes) (hs : StateOk s) : StateOk (sideshow s c part ga g cap bs) := by
  unfold sideshow
  repeat' first
    | with_reducible assumption
    | with_reducible apply appendEntry_ok
    | with_reducible apply ite_ok
    | (with_reducible refine foldl_ok ?_ (fun t a ht => ?_))

theorem landGroup_ok (p : CvtPass) {s : State} (g r0 k rows : Nat) (live : Bool) (q : Opnd) (hs : StateOk s) : ResOk (fun r => StateOk r.1) (landGroup p s g r0 k rows live q) := by
  unfold landGroup
  repeat' first
    | with_reducible assumption
    | with_reducible apply spWriteAll_ok
    | with_reducible apply sideshow_ok
    | with_reducible apply ite_ok
    | with_reducible apply ret_ok
    | with_reducible apply pure_ok
    | with_reducible apply error_ok
    | with_reducible apply throw_ok
    | with_reducible apply ite_res_ok
    | (with_reducible refine bind_ok (fun _ => ?_))
    | (refine pair_ok (by with_reducible assumption) ?_)
    | simp only [mk_same_iff]

theorem landSlot_ok (p : CvtPass) {s : State} (g r0 k rows : Nat) (live : Bool) (old hdr : Nat) (hs : StateOk s) : ResOk (fun r => StateOk r.1) (landSlot p s g r0 k rows live old hdr) := by
  unfold landSlot
  repeat' first
    | with_reducible assumption
    | with_reducible apply raiseCtx_ok
    | with_reducible apply homeWrite_ok
    | with_reducible apply slotCeiling_ok
    | with_reducible apply rebakeSlot_ok
    | with_reducible apply placeGroup_ok
    | (with_reducible refine bind2_ok (landGroup_ok (hs := ?_) ..) (fun _ _ => ?_))
    | with_reducible apply landGroup_ok
    | with_reducible apply ite_ok
    | (with_reducible refine bind2_ok (Q := fun (a : State × CvtOut) => StateOk a.1) ?_ (fun _ _ => ?_))
    | (with_reducible refine bind2_ok (Q := fun (a : Option (Opnd × State)) => ∀ q, a = some q → StateOk q.2) ?_ (fun _ _ => ?_))
    | (intro q e; cases e)
    | with_reducible exact some_snd_ok (by assumption)
    | with_reducible apply ret_ok
    | with_reducible apply pure_ok
    | with_reducible apply error_ok
    | with_reducible apply throw_ok
    | with_reducible apply ite_res_ok
    | (with_reducible refine bind_ok (fun _ => ?_))
    | (refine pair_ok (by with_reducible assumption) ?_)
    | simp only
    | split

theorem writeGroup_ok (p : CvtPass) {s : State} (gr : Nat × Nat × Nat) (hs : StateOk s) : ResOk (fun r => StateOk r.1) (writeGroup p s gr) := by
  unfold writeGroup
  repeat' first
    | with_reducible assumption
    | with_reducible apply discoverRuns_ok
    | with_reducible apply openGroup_ok
    | with_reducible apply placeGroup_ok
    | (with_reducible refine bind2_ok (landGroup_ok (hs := ?_) ..) (fun _ _ => ?_))
    | with_reducible apply landGroup_ok
    | (with_reducible refine bind2_ok (landSlot_ok (hs := ?_) ..) (fun _ _ => ?_))
    | with_reducible apply landSlot_ok
    | with_reducible apply ite_ok
    | (with_reducible refine bind2_ok (Q := fun (a : State × CvtOut) => StateOk a.1) ?_ (fun _ _ => ?_))
    | with_reducible apply ret_ok
    | with_reducible apply pure_ok
    | with_reducible apply error_ok
    | with_reducible apply throw_ok
    | with_reducible apply ite_res_ok
    | (with_reducible refine bind_ok (fun _ => ?_))

theorem writeGroups_ok (p : CvtPass) (gs : List (Nat × Nat × Nat)) (r : State × CvtOut) (h : StateOk r.1) :
    ResOk (fun a => StateOk a.1) (writeGroups p gs r) := by
  induction gs generalizing r with
  | nil => exact ret_ok h
  | cons g gs ih =>
    obtain ⟨s, f⟩ := r
    refine bind2_ok (writeGroup_ok p g h) (fun a ha => ?_)
    obtain ⟨s', f'⟩ := a
    exact ih _ ha

theorem headTsr_ok {s : State} (v : VRef) (c : BitVec 512) (hs : StateOk s) : StateOk (headTsr s v c) := by
  unfold headTsr
  repeat' first
    | with_reducible assumption
    | with_reducible apply discoverRuns_ok
    | with_reducible apply homeWrite_ok

theorem passInto_ok {s : State} (v : VRef) (x : Vcore) (n : Nat) (c : BitVec 512) (o : Opnd) (vals : List (List FV)) (susp nan : Bool) (hs : StateOk s) : ResOk (fun r => StateOk r.1) (passInto s v x n c o vals susp nan) := by
  unfold passInto
  repeat' first
    | with_reducible assumption
    | with_reducible apply discoverRuns_ok
    | with_reducible apply nanConsumed_ok
    | with_reducible apply headTsr_ok
    | (with_reducible refine bind2_ok (writeGroups_ok (h := ?_) ..) (fun _ _ => ?_))
    | with_reducible apply ite_ok
    | (with_reducible refine bind2_ok (Q := fun (a : State × CvtOut) => StateOk a.1) ?_ (fun _ _ => ?_))
    | with_reducible apply ret_ok
    | with_reducible apply pure_ok
    | with_reducible apply error_ok
    | with_reducible apply throw_ok
    | with_reducible apply ite_res_ok
    | (with_reducible refine bind_ok (fun _ => ?_))
    | (refine pair_ok (by with_reducible assumption) ?_)
    | simp only [mk_same_iff]

theorem mxImport_ok {s : State} (v : VRef) (x : Vcore) (n : Nat) (c : BitVec 512) (src dst : Opnd) (sbase : Nat) (hs : StateOk s) : ResOk (fun r => StateOk r.1) (mxImport s v x n c src dst sbase) := by
  unfold mxImport
  repeat' first
    | with_reducible assumption
    | with_reducible apply modCore_ok
    | with_reducible apply discoverRuns_ok
    | with_reducible apply spWriteAll_ok
    | with_reducible apply nanConsumed_ok
    | with_reducible apply ite_ok
    | (with_reducible refine bind2_ok (Q := fun (a : State × Flags) => StateOk a.1) ?_ (fun _ _ => ?_))
    | with_reducible apply ret_ok
    | with_reducible apply pure_ok
    | with_reducible apply error_ok
    | with_reducible apply throw_ok
    | with_reducible apply ite_res_ok
    | (with_reducible refine bind_ok (fun _ => ?_))

theorem mxExportOp_ok {s : State} (v : VRef) (x : Vcore) (n : Nat) (c : BitVec 512) (src dst : Opnd) (sbase : Nat) (hs : StateOk s) : ResOk (fun r => StateOk r.1) (mxExportOp s v x n c src dst sbase) := by
  unfold mxExportOp
  repeat' first
    | with_reducible assumption
    | with_reducible apply discoverRuns_ok
    | with_reducible apply spWriteAll_ok
    | with_reducible apply nanConsumed_ok
    | with_reducible apply ite_ok
    | with_reducible apply ret_ok
    | with_reducible apply pure_ok
    | with_reducible apply error_ok
    | with_reducible apply throw_ok
    | with_reducible apply ite_res_ok
    | (with_reducible refine bind_ok (fun _ => ?_))

theorem runCvt_ok {s : State} (v : VRef) (x : Vcore) (n : Nat) (o : UOp) (hs : StateOk s) : ResOk (fun r => StateOk r.st) (runCvt s v x n o) := by
  unfold runCvt
  repeat' first
    | with_reducible assumption
    | with_reducible apply cvtFlags_ok
    | (with_reducible refine bind2_ok (passInto_ok (hs := ?_) ..) (fun _ _ => ?_))
    | with_reducible apply passInto_ok
    | (with_reducible refine bind2_ok (mxImport_ok (hs := ?_) ..) (fun _ _ => ?_))
    | with_reducible apply mxImport_ok
    | (with_reducible refine bind2_ok (mxExportOp_ok (hs := ?_) ..) (fun _ _ => ?_))
    | with_reducible apply mxExportOp_ok
    | with_reducible apply ite_ok
    | (with_reducible refine bind2_ok (Q := fun (a : State × CvtOut) => StateOk a.1) ?_ (fun _ _ => ?_))
    | (with_reducible refine bind2_ok (Q := fun (a : State × Flags) => StateOk a.1) ?_ (fun _ _ => ?_))
    | with_reducible apply ret_ok
    | with_reducible apply pure_ok
    | with_reducible apply error_ok
    | with_reducible apply throw_ok
    | with_reducible apply ite_res_ok
    | (with_reducible refine bind_ok (fun _ => ?_))

theorem runConvert_ok {s : State} (v : VRef) (x : Vcore) (n : Nat) (o : UOp) (hs : StateOk s) : ResOk (fun r => StateOk r.st) (runConvert s v x n o) := by
  unfold runConvert
  repeat' first
    | with_reducible assumption
    | with_reducible apply cvtFlags_ok
    | with_reducible apply putLacc_ok
    | (with_reducible refine bind2_ok (passInto_ok (hs := ?_) ..) (fun _ _ => ?_))
    | with_reducible apply passInto_ok
    | with_reducible apply ite_ok
    | (with_reducible refine bind2_ok (Q := fun (a : State × CvtOut) => StateOk a.1) ?_ (fun _ _ => ?_))
    | with_reducible apply ret_ok
    | with_reducible apply pure_ok
    | with_reducible apply error_ok
    | with_reducible apply throw_ok
    | with_reducible apply ite_res_ok
    | (with_reducible refine bind_ok (fun _ => ?_))

theorem runVwait_ok {s : State} (v : VRef) (x : Vcore) (n : Nat) (o : UOp) (hs : StateOk s) : ResOk (fun r => StateOk r.st) (runVwait s v x n o) := by
  unfold runVwait
  repeat' first
    | with_reducible assumption
    | with_reducible apply discoverRuns_ok
    | with_reducible apply ite_ok
    | with_reducible apply ret_ok
    | with_reducible apply pure_ok
    | with_reducible apply error_ok
    | with_reducible apply throw_ok
    | with_reducible apply ite_res_ok
    | (with_reducible refine bind_ok (fun _ => ?_))

theorem vecOperand_ok {s : State} (v : VRef) (n : Nat) (x : Vcore) (off : Nat) (hs : StateOk s) : ResOk (fun a => StateOk a.st) (vecOperand s v n x off) := by
  unfold vecOperand
  repeat' first
    | with_reducible assumption
    | with_reducible apply discoverRuns_ok
    | with_reducible apply ite_ok
    | with_reducible apply ret_ok
    | with_reducible apply pure_ok
    | with_reducible apply error_ok
    | with_reducible apply throw_ok
    | with_reducible apply ite_res_ok
    | (with_reducible refine bind_ok (fun _ => ?_))

theorem countEvals_ok {s : State} (x : Vcore) (k : Nat) (hs : StateOk s) : StateOk (countEvals s x k) := by
  unfold countEvals
  repeat' first
    | with_reducible assumption
    | with_reducible apply modCore_ok

theorem vecWrite_ok {s : State} (v : VRef) (x : Vcore) (j : BitVec 512) (o : Opnd) (vals : List (List Word32)) (hs : StateOk s) : StateOk (vecWrite s v x j o vals).1 := by
  unfold vecWrite
  repeat' first
    | with_reducible assumption
    | with_reducible apply spWriteAll_ok
    | with_reducible apply countEvals_ok

theorem vecDone_ok {s : State} (v : VRef) (x : Vcore) (j : BitVec 512) (o : UOp) (outs : List OutLoc) (fl : Flags) (nan : Bool) (hs : StateOk s) : StateOk (vecDone s v x j o outs fl nan).st := by
  unfold vecDone
  repeat' first
    | with_reducible assumption
    | with_reducible apply vecFlags_ok
    | with_reducible apply nanConsumed_ok

theorem vopRand_ok {s : State} (v : VRef) (x : Vcore) (n : Nat) (o : UOp) (j : BitVec 512) (hs : StateOk s) : ResOk (fun r => StateOk r.st) (vopRand s v x n o j) := by
  unfold vopRand
  repeat' first
    | with_reducible assumption
    | with_reducible apply spWriteAll_ok
    | with_reducible apply countEvals_ok
    | with_reducible apply vecDone_ok
    | with_reducible apply ite_ok
    | with_reducible apply ret_ok
    | with_reducible apply pure_ok
    | with_reducible apply error_ok
    | with_reducible apply throw_ok
    | with_reducible apply ite_res_ok
    | (with_reducible refine bind_ok (fun _ => ?_))

theorem runVop_ok {s : State} (v : VRef) (x : Vcore) (n : Nat) (o : UOp) (hs : StateOk s) : ResOk (fun r => StateOk r.st) (runVop s v x n o) := by
  unfold runVop
  repeat' first
    | with_reducible assumption
    | (with_reducible refine bind2_ok (vecOperand_ok (hs := ?_) ..) (fun _ _ => ?_))
    | with_reducible apply vecOperand_ok
    | with_reducible apply vecWrite_ok
    | with_reducible apply vecDone_ok
    | (with_reducible refine bind2_ok (vopRand_ok (hs := ?_) ..) (fun _ _ => ?_))
    | with_reducible apply vopRand_ok
    | with_reducible apply ite_ok
    | (with_reducible refine bind2_ok (Q := fun (a : VecOp) => StateOk a.st) ?_ (fun _ _ => ?_))
    | (with_reducible refine bind2_ok (Q := fun (a : State × Flags) => StateOk a.1) ?_ (fun _ _ => ?_))
    | with_reducible apply ret_ok
    | with_reducible apply pure_ok
    | with_reducible apply error_ok
    | with_reducible apply throw_ok
    | with_reducible apply ite_res_ok
    | (with_reducible refine bind_ok (fun _ => ?_))
    | (refine pair_ok (by with_reducible assumption) ?_)
    | simp only
    | split

theorem runVred_ok {s : State} (v : VRef) (x : Vcore) (n : Nat) (o : UOp) (hs : StateOk s) : ResOk (fun r => StateOk r.st) (runVred s v x n o) := by
  unfold runVred
  repeat' first
    | with_reducible assumption
    | (with_reducible refine bind2_ok (vecOperand_ok (hs := ?_) ..) (fun _ _ => ?_))
    | with_reducible apply vecOperand_ok
    | with_reducible apply vecWrite_ok
    | with_reducible apply vecDone_ok
    | with_reducible apply ite_ok
    | (with_reducible refine bind2_ok (Q := fun (a : VecOp) => StateOk a.st) ?_ (fun _ _ => ?_))
    | (with_reducible refine bind2_ok (Q := fun (a : State × Flags) => StateOk a.1) ?_ (fun _ _ => ?_))
    | with_reducible apply ret_ok
    | with_reducible apply pure_ok
    | with_reducible apply error_ok
    | with_reducible apply throw_ok
    | with_reducible apply ite_res_ok
    | (with_reducible refine bind_ok (fun _ => ?_))

theorem runVmm_ok {s : State} (v : VRef) (x : Vcore) (n : Nat) (o : UOp) (hs : StateOk s) : ResOk (fun r => StateOk r.st) (runVmm s v x n o) := by
  unfold runVmm
  repeat' first
    | with_reducible assumption
    | (with_reducible refine bind2_ok (vecOperand_ok (hs := ?_) ..) (fun _ _ => ?_))
    | with_reducible apply vecOperand_ok
    | with_reducible apply vecWrite_ok
    | with_reducible apply vecDone_ok
    | with_reducible apply ite_ok
    | (with_reducible refine bind2_ok (Q := fun (a : VecOp) => StateOk a.st) ?_ (fun _ _ => ?_))
    | (with_reducible refine bind2_ok (Q := fun (a : State × Flags) => StateOk a.1) ?_ (fun _ _ => ?_))
    | with_reducible apply ret_ok
    | with_reducible apply pure_ok
    | with_reducible apply error_ok
    | with_reducible apply throw_ok
    | with_reducible apply ite_res_ok
    | (with_reducible refine bind_ok (fun _ => ?_))

theorem runVnorm_ok {s : State} (v : VRef) (x : Vcore) (n : Nat) (o : UOp) (hs : StateOk s) : ResOk (fun r => StateOk r.st) (runVnorm s v x n o) := by
  unfold runVnorm
  repeat' first
    | with_reducible assumption
    | with_reducible apply modCmt_ok
    | (with_reducible refine bind2_ok (vecOperand_ok (hs := ?_) ..) (fun _ _ => ?_))
    | with_reducible apply vecOperand_ok
    | with_reducible apply vecDone_ok
    | with_reducible apply ite_ok
    | (with_reducible refine bind2_ok (Q := fun (a : VecOp) => StateOk a.st) ?_ (fun _ _ => ?_))
    | with_reducible apply ret_ok
    | with_reducible apply pure_ok
    | with_reducible apply error_ok
    | with_reducible apply throw_ok
    | with_reducible apply ite_res_ok
    | (with_reducible refine bind_ok (fun _ => ?_))

theorem runDrop_ok {s : State} (v : VRef) (x : Vcore) (n : Nat) (o : UOp) (hs : StateOk s) : ResOk (fun r => StateOk r.st) (runDrop s v x n o) := by
  unfold runDrop
  repeat' first
    | with_reducible assumption
    | (with_reducible refine bind2_ok (vecOperand_ok (hs := ?_) ..) (fun _ _ => ?_))
    | with_reducible apply vecOperand_ok
    | with_reducible apply countEvals_ok
    | with_reducible apply vecWrite_ok
    | with_reducible apply vecDone_ok
    | with_reducible apply ite_ok
    | (with_reducible refine bind2_ok (Q := fun (a : VecOp) => StateOk a.st) ?_ (fun _ _ => ?_))
    | (with_reducible refine bind2_ok (Q := fun (a : State × Flags) => StateOk a.1) ?_ (fun _ _ => ?_))
    | with_reducible apply ret_ok
    | with_reducible apply pure_ok
    | with_reducible apply error_ok
    | with_reducible apply throw_ok
    | with_reducible apply ite_res_ok
    | (with_reducible refine bind_ok (fun _ => ?_))

theorem runInit_ok {s : State} (v : VRef) (x : Vcore) (n : Nat) (o : UOp) (hs : StateOk s) : ResOk (fun r => StateOk r.st) (runInit s v x n o) := by
  unfold runInit
  repeat' first
    | with_reducible assumption
    | with_reducible apply countEvals_ok
    | with_reducible apply vecWrite_ok
    | with_reducible apply vecDone_ok
    | with_reducible apply ite_ok
    | (with_reducible refine bind2_ok (Q := fun (a : State × Flags) => StateOk a.1) ?_ (fun _ _ => ?_))
    | with_reducible apply ret_ok
    | with_reducible apply pure_ok
    | with_reducible apply error_ok
    | with_reducible apply throw_ok
    | with_reducible apply ite_res_ok
    | (with_reducible refine bind_ok (fun _ => ?_))

theorem runSample_ok {s : State} (v : VRef) (x : Vcore) (n : Nat) (o : UOp) (hs : StateOk s) : ResOk (fun r => StateOk r.st) (runSample s v x n o) := by
  unfold runSample
  repeat' first
    | with_reducible assumption
    | with_reducible apply raiseCtx_ok
    | with_reducible apply spWrite_ok
    | (with_reducible refine bind2_ok (vecOperand_ok (hs := ?_) ..) (fun _ _ => ?_))
    | with_reducible apply vecOperand_ok
    | with_reducible apply countEvals_ok
    | with_reducible apply vecDone_ok
    | with_reducible apply ite_ok
    | (with_reducible refine bind2_ok (Q := fun (a : VecOp) => StateOk a.st) ?_ (fun _ _ => ?_))
    | with_reducible apply ret_ok
    | with_reducible apply pure_ok
    | with_reducible apply error_ok
    | with_reducible apply throw_ok
    | with_reducible apply ite_res_ok
    | (with_reducible refine bind_ok (fun _ => ?_))
    | (with_reducible refine foldl_ok ?_ (fun t a ht => ?_))

theorem modColl_ok {s : State} (v : VRef) (op : Nat) (f : Coll → Coll) (hs : StateOk s) : StateOk (modColl s v op f) := by
  unfold modColl
  repeat' first
    | with_reducible assumption
    | with_reducible apply modFab_ok

theorem sendRanks_ok {s : State} (ms : List (Nat × Nat × Nat)) (own : Nat) (who : Nat → Bool) (m : Nat → CollMsg) (hs : StateOk s) : StateOk (sendRanks s ms own who m) := by
  unfold sendRanks
  repeat' first
    | with_reducible assumption
    | with_reducible apply emit_ok
    | with_reducible apply ite_ok
    | (with_reducible refine foldl_ok ?_ (fun t a ht => ?_))
    | (refine pair_ok (by with_reducible assumption) ?_)
    | simp only [mk_same_iff]
    | split

theorem reportContrib_ok {s : State} (n bucket count : Nat) (hs : StateOk s) : StateOk (reportContrib s n bucket count) := by
  unfold reportContrib
  repeat' first
    | with_reducible assumption
    | with_reducible apply modCmt_ok

theorem landResult_ok {s : State} (c : Coll) (parts : List (Nat × List PByte)) (hs : StateOk s) : StateOk (landResult s c parts) := by
  unfold landResult
  repeat' first
    | with_reducible assumption
    | with_reducible apply spWriteAll_ok
    | with_reducible apply ite_ok
    | (refine pair_ok (by with_reducible assumption) ?_)
    | simp only
    | split

theorem endColl_ok {s : State} (c : Coll) (err : Option Nat) (hs : StateOk s) : StateOk (endColl s c err) := by
  unfold endColl
  repeat' first
    | with_reducible assumption
    | with_reducible apply releaseOp_ok
    | with_reducible apply modColl_ok
    | with_reducible apply groupDone_ok

theorem reduceOwn_ok {s : State} (c : Coll) (hs : StateOk s) : StateOk (reduceOwn s c) := by
  unfold reduceOwn
  repeat' first
    | with_reducible assumption
    | with_reducible apply raiseCtx_ok
    | with_reducible apply modColl_ok
    | with_reducible apply sendRanks_ok
    | with_reducible apply reportContrib_ok
    | with_reducible apply ite_ok
    | (refine pair_ok (by with_reducible assumption) ?_)
    | with_reducible apply fresh_ok
    | (refine pair_snd_ok (by with_reducible assumption) ?_)
    | simp only [mk_same_iff]
    | split

theorem normTotal_ok {s : State} (n : Nat) (sums : Tab (BitVec 256 × Bool × Bool)) (hs : StateOk s) : StateOk (normTotal s n sums) := by
  unfold normTotal
  repeat' first
    | with_reducible assumption
    | with_reducible apply modCmt_ok

theorem finishColl_ok {s : State} (c : Coll) (hs : StateOk s) : StateOk (finishColl s c) := by
  unfold finishColl
  repeat' first
    | with_reducible assumption
    | with_reducible apply raiseCtx_ok
    | with_reducible apply landResult_ok
    | with_reducible apply endColl_ok
    | with_reducible apply normTotal_ok
    | with_reducible apply ite_ok
    | (refine pair_ok (by with_reducible assumption) ?_)
    | simp only
    | split

theorem driveColl_ok {s : State} (v : VRef) (op : Nat) (hs : StateOk s) : StateOk (driveColl s v op) := by
  unfold driveColl
  repeat' first
    | with_reducible assumption
    | with_reducible apply reduceOwn_ok
    | with_reducible apply finishColl_ok
    | with_reducible apply ite_ok
    | (refine pair_ok (by with_reducible assumption) ?_)
    | simp only
    | split

theorem sendNorm_ok {s : State} (ms : List (Nat × Nat × Nat)) (m : NormMsg) (hs : StateOk s) : StateOk (sendNorm s ms m) := by
  unfold sendNorm
  repeat' first
    | with_reducible assumption
    | with_reducible apply emit_ok
    | with_reducible apply ite_ok

theorem countLate_ok {s : State} (n k : Nat) (fold : Bool) (hs : StateOk s) : StateOk (countLate s n k fold) := by
  unfold countLate
  repeat' first
    | with_reducible assumption
    | with_reducible apply modCmt_ok
    | with_reducible apply raise_ok
    | with_reducible apply ite_ok

theorem holdLate_ok {s : State} (n : Nat) (m : CollMsg) (hs : StateOk s) : StateOk (holdLate s n m) := by
  unfold holdLate
  repeat' first
    | with_reducible assumption
    | with_reducible apply modCmt_ok

theorem lateMsg_ok {s : State} (v : VRef) (m : CollMsg) (hs : StateOk s) : StateOk (lateMsg s v m) := by
  unfold lateMsg
  repeat' first
    | with_reducible assumption
    | with_reducible apply countLate_ok
    | with_reducible apply holdLate_ok
    | with_reducible apply ite_ok

theorem shutColl_ok {s : State} (n : Nat) (c : Coll) (hs : StateOk s) : StateOk (shutColl s n c) := by
  unfold shutColl
  repeat' first
    | with_reducible assumption
    | with_reducible apply modColl_ok
    | with_reducible apply countLate_ok
    | with_reducible apply ite_ok

theorem closeColl_ok {s : State} (n : Nat) (c : Coll) (hs : StateOk s) : StateOk (closeColl s n c) := by
  unfold closeColl
  repeat' first
    | with_reducible assumption
    | with_reducible apply driveColl_ok
    | with_reducible apply shutColl_ok

theorem enterNorm_ok {s : State} (n : Nat) (ms : List (Nat × Nat × Nat)) (c : Coll) (hs : StateOk s) : StateOk (enterNorm s n ms c).1 := by
  unfold enterNorm
  repeat' first
    | with_reducible assumption
    | with_reducible apply modFab_ok
    | with_reducible apply sendNorm_ok

theorem enterData_ok {s : State} (x : Vcore) (n : Nat) (ms : List (Nat × Nat × Nat)) (c : Coll) (hs : StateOk s) : ResOk (fun r => StateOk r.1) (enterData s x n ms c) := by
  unfold enterData
  repeat' first
    | with_reducible assumption
    | with_reducible apply discoverRuns_ok
    | with_reducible apply sendRanks_ok
    | with_reducible apply lateMsg_ok
    | with_reducible apply ite_ok
    | (with_reducible refine bind2_ok (Q := fun (a : State × Coll) => StateOk a.1) ?_ (fun _ _ => ?_))
    | with_reducible apply ret_ok
    | with_reducible apply pure_ok
    | with_reducible apply error_ok
    | with_reducible apply throw_ok
    | with_reducible apply ite_res_ok
    | (with_reducible refine bind_ok (fun _ => ?_))
    | (refine pair_ok (by with_reducible assumption) ?_)
    | simp only
    | split

theorem takeEarly_ok {s : State} (n : Nat) (c : Coll) (hs : StateOk s) : StateOk (takeEarly s n c) := by
  unfold takeEarly
  repeat' first
    | with_reducible assumption
    | with_reducible apply modFab_ok
    | with_reducible apply lateMsg_ok
    | with_reducible apply shutColl_ok
    | with_reducible apply ite_ok
    | (with_reducible refine foldl_ok ?_ (fun t a ht => ?_))

theorem runColl_ok {s : State} (v : VRef) (x : Vcore) (n : Nat) (o : UOp) (hs : StateOk s) : ResOk (fun r => StateOk r.st) (runColl s v x n o) := by
  unfold runColl
  repeat' first
    | with_reducible assumption
    | with_reducible apply enterNorm_ok
    | (with_reducible refine bind2_ok (enterData_ok (hs := ?_) ..) (fun _ _ => ?_))
    | with_reducible apply enterData_ok
    | with_reducible apply takeEarly_ok
    | with_reducible apply ite_ok
    | (with_reducible refine bind2_ok (Q := fun (a : State × Coll) => StateOk a.1) ?_ (fun _ _ => ?_))
    | with_reducible apply ret_ok
    | with_reducible apply pure_ok
    | with_reducible apply error_ok
    | with_reducible apply throw_ok
    | with_reducible apply ite_res_ok
    | (with_reducible refine bind_ok (fun _ => ?_))
    | (refine pair_ok (by with_reducible assumption) ?_)
    | simp only
    | split

theorem startOp_ok {s : State} (v : VRef) (u : UnitId) (hs : StateOk s) : StateOk (startOp s v u) := by
  unfold startOp
  repeat' first
    | with_reducible assumption
    | with_reducible apply modCore_ok
    | with_reducible apply putVc_ok
    | with_reducible apply ite_ok
    | (refine pair_ok (by with_reducible assumption) ?_)
    | simp only
    | split

theorem execOperationStart_ok (v : VRef) (u : UnitId) {s : State} (hs : StateOk s) : OutOk (execOperationStart v u s) := by
  unfold execOperationStart
  repeat' first
    | with_reducible assumption
    | with_reducible apply next_ok
    | with_reducible apply startOp_ok

theorem refuseEvent_ok {s : State} (v : VRef) (x : Vcore) (n code da : Nat) (hs : StateOk s) : StateOk (refuseEvent s v x n code da) := by
  unfold refuseEvent
  repeat' first
    | with_reducible assumption
    | with_reducible apply raiseCtx_ok
    | with_reducible apply refusedAccess_ok

theorem queueCheck_ok {s : State} (v : VRef) (x : Vcore) (n : Nat) (outs : List OutLoc) (aux : List Byte) (waits : List (Group × Nat)) (op : Nat) (suspect resid : Bool) (hs : StateOk s) : StateOk (queueCheck s v x n outs aux waits op suspect resid) := by
  unfold queueCheck
  repeat' first
    | with_reducible assumption
    | with_reducible apply modPart_ok
    | with_reducible apply modRel_ok

theorem sampleRun_ok {s : State} (v : VRef) (x : Vcore) (n : Nat) (outs : List OutLoc) (aux : List Byte) (waits : List (Group × Nat)) (run : List Nat) (op : Nat) (hs : StateOk s) : StateOk (sampleRun s v x n outs aux waits run op) := by
  unfold sampleRun
  repeat' first
    | with_reducible assumption
    | with_reducible apply modRel_ok
    | with_reducible apply queueCheck_ok
    | with_reducible apply ite_ok

theorem touch_ok {s : State} (core op : Nat) (o : UOp) (outs : List OutLoc) (hs : StateOk s) : StateOk (touch s core op o outs) := by
  unfold touch
  repeat' first
    | with_reducible assumption
    | with_reducible apply modCore_ok

theorem landOp_ok {s : State} (v : VRef) (x : Vcore) (n op : Nat) (o : UOp) {r : Ran} (h : StateOk r.st) : StateOk (landOp s v x n op o r) := by
  unfold landOp
  repeat' first
    | with_reducible assumption
    | with_reducible apply landFeeds_ok
    | with_reducible apply modOp_ok
    | with_reducible apply queueCheck_ok
    | with_reducible apply sampleRun_ok
    | with_reducible apply touch_ok
    | with_reducible apply ite_ok

theorem refuseOp_ok {s : State} (v : VRef) (x : Vcore) (n : Nat) (o : UOp) (code da : Nat) (hs : StateOk s) : StateOk (refuseOp s v x n o code da) := by
  unfold refuseOp
  repeat' first
    | with_reducible assumption
    | with_reducible apply modOp_ok
    | with_reducible apply refuseEvent_ok

theorem poisonOp_ok {s : State} (v : VRef) (o : UOp) (p : Policy) (da : Nat) (found : List (Nat × Nat)) (hs : StateOk s) : StateOk (poisonOp s v o p da found) := by
  unfold poisonOp
  repeat' first
    | with_reducible assumption
    | with_reducible apply discoverRuns_ok
    | with_reducible apply poisonCtx_ok
    | with_reducible apply modOp_ok

theorem suspectOp_ok {s : State} (v : VRef) (id : Nat) (resid : Bool) (hs : StateOk s) : StateOk (suspectOp s v id resid) := by
  unfold suspectOp
  repeat' first
    | with_reducible assumption
    | with_reducible apply modVc_ok
    | with_reducible apply modRel_ok
    | with_reducible apply modOp_ok
    | with_reducible apply queueCheck_ok
    | with_reducible apply ite_ok
    | (with_reducible refine foldl_ok ?_ (fun t a ht => ?_))
    | (refine pair_ok (by with_reducible assumption) ?_)
    | simp only [mk_same_iff]
    | split

theorem mismatchOp_ok {s : State} (v : VRef) (x : Vcore) (o : UOp) (hs : StateOk s) : StateOk (mismatchOp s v x o) := by
  unfold mismatchOp
  repeat' first
    | with_reducible assumption
    | with_reducible apply raiseCtx_ok
    | with_reducible apply suspectOp_ok

theorem mismatchArr_ok {s : State} (v : VRef) (x : Vcore) (o : UOp) (arrB bufB lockstep : Bool) (hs : StateOk s) : StateOk (mismatchArr s v x o arrB bufB lockstep) := by
  unfold mismatchArr
  repeat' first
    | with_reducible assumption
    | with_reducible apply modCore_ok
    | with_reducible apply mismatchOp_ok

theorem perform_sound {s : State} (v : VRef) (op : Nat) (h : StateOk s) {run : State → VRef → Vcore → Nat → UOp → Res Ran}
    (hr : ∀ t x n o, StateOk t → ResOk (fun r => StateOk r.st) (run t v x n o)) : StateOk (perform s v op run) := by
  unfold perform
  split
  · exact h
  · split
    · exact h
    · dsimp only
      split
      · exact h
      · split
        · exact h
        · exact refuseOp_ok _ _ _ _ _ _ h
        · exact poisonOp_ok _ _ _ _ _ h
        · rename_i r e
          have h1 := hr _ _ _ _ h _ e
          split
          · exact mismatchArr_ok _ _ _ _ _ _ (landOp_ok _ _ _ _ _ h1)
          · exact landOp_ok _ _ _ _ _ h1

theorem execLoad_ok (v : VRef) {s : State} (hs : StateOk s) : OutOk (execLoad v s) := by
  unfold execLoad
  repeat' first
    | with_reducible assumption
    | with_reducible apply next_ok
    | (with_reducible refine bind2_ok (runLoad_ok (hs := ?_) ..) (fun _ _ => ?_))
    | with_reducible apply runLoad_ok
    | (with_reducible refine perform_sound _ _ ?_ (fun t x n o ht => ?_))

theorem execGather_ok (v : VRef) {s : State} (hs : StateOk s) : OutOk (execGather v s) := by
  unfold execGather
  repeat' first
    | with_reducible assumption
    | with_reducible apply next_ok
    | (with_reducible refine bind2_ok (runGather_ok (hs := ?_) ..) (fun _ _ => ?_))
    | with_reducible apply runGather_ok
    | (with_reducible refine perform_sound _ _ ?_ (fun t x n o ht => ?_))

theorem execStore_ok (v : VRef) {s : State} (hs : StateOk s) : OutOk (execStore v s) := by
  unfold execStore
  repeat' first
    | with_reducible assumption
    | with_reducible apply next_ok
    | (with_reducible refine bind2_ok (runStore_ok (hs := ?_) ..) (fun _ _ => ?_))
    | with_reducible apply runStore_ok
    | (with_reducible refine perform_sound _ _ ?_ (fun t x n o ht => ?_))

theorem execColl_ok (v : VRef) {s : State} (hs : StateOk s) : OutOk (execColl v s) := by
  unfold execColl
  repeat' first
    | with_reducible assumption
    | with_reducible apply next_ok
    | with_reducible apply driveColl_ok
    | (with_reducible refine bind2_ok (runColl_ok (hs := ?_) ..) (fun _ _ => ?_))
    | with_reducible apply runColl_ok
    | (with_reducible refine perform_sound _ _ ?_ (fun t x n o ht => ?_))
    | with_reducible apply ite_ok
    | (with_reducible refine foldl_ok ?_ (fun t a ht => ?_))

theorem execZero_ok (v : VRef) {s : State} (hs : StateOk s) : OutOk (execZero v s) := by
  unfold execZero
  repeat' first
    | with_reducible assumption
    | with_reducible apply next_ok
    | (with_reducible refine bind2_ok (runZero_ok (hs := ?_) ..) (fun _ _ => ?_))
    | with_reducible apply runZero_ok
    | (with_reducible refine perform_sound _ _ ?_ (fun t x n o ht => ?_))

theorem execAcc_ok (v : VRef) {s : State} (hs : StateOk s) : OutOk (execAcc v s) := by
  unfold execAcc
  repeat' first
    | with_reducible assumption
    | with_reducible apply next_ok
    | (with_reducible refine bind2_ok (runAcc_ok (hs := ?_) ..) (fun _ _ => ?_))
    | with_reducible apply runAcc_ok
    | (with_reducible refine perform_sound _ _ ?_ (fun t x n o ht => ?_))

theorem execTwin_ok (v : VRef) {s : State} (hs : StateOk s) : OutOk (execTwin v s) := by
  unfold execTwin
  repeat' first
    | with_reducible assumption
    | with_reducible apply next_ok
    | (with_reducible refine bind2_ok (runTwin_ok (hs := ?_) ..) (fun _ _ => ?_))
    | with_reducible apply runTwin_ok
    | (with_reducible refine perform_sound _ _ ?_ (fun t x n o ht => ?_))

theorem execConvert_ok (v : VRef) {s : State} (hs : StateOk s) : OutOk (execConvert v s) := by
  unfold execConvert
  repeat' first
    | with_reducible assumption
    | with_reducible apply next_ok
    | (with_reducible refine bind2_ok (runConvert_ok (hs := ?_) ..) (fun _ _ => ?_))
    | with_reducible apply runConvert_ok
    | (with_reducible refine perform_sound _ _ ?_ (fun t x n o ht => ?_))

theorem execExport_ok (v : VRef) {s : State} (hs : StateOk s) : OutOk (execExport v s) := by
  unfold execExport
  repeat' first
    | with_reducible assumption
    | with_reducible apply next_ok
    | (with_reducible refine bind2_ok (runExport_ok (hs := ?_) ..) (fun _ _ => ?_))
    | with_reducible apply runExport_ok
    | (with_reducible refine perform_sound _ _ ?_ (fun t x n o ht => ?_))

theorem execImport_ok (v : VRef) {s : State} (hs : StateOk s) : OutOk (execImport v s) := by
  unfold execImport
  repeat' first
    | with_reducible assumption
    | with_reducible apply next_ok
    | (with_reducible refine bind2_ok (runImport_ok (hs := ?_) ..) (fun _ _ => ?_))
    | with_reducible apply runImport_ok
    | (with_reducible refine perform_sound _ _ ?_ (fun t x n o ht => ?_))

theorem execSwap_ok (v : VRef) {s : State} (hs : StateOk s) : OutOk (execSwap v s) := by
  unfold execSwap
  repeat' first
    | with_reducible assumption
    | with_reducible apply next_ok
    | (with_reducible refine bind2_ok (runSwap_ok (hs := ?_) ..) (fun _ _ => ?_))
    | with_reducible apply runSwap_ok
    | (with_reducible refine perform_sound _ _ ?_ (fun t x n o ht => ?_))

theorem execCvt_ok (v : VRef) {s : State} (hs : StateOk s) : OutOk (execCvt v s) := by
  unfold execCvt
  repeat' first
    | with_reducible assumption
    | with_reducible apply next_ok
    | (with_reducible refine bind2_ok (runCvt_ok (hs := ?_) ..) (fun _ _ => ?_))
    | with_reducible apply runCvt_ok
    | (with_reducible refine perform_sound _ _ ?_ (fun t x n o ht => ?_))

theorem execVwait_ok (v : VRef) {s : State} (hs : StateOk s) : OutOk (execVwait v s) := by
  unfold execVwait
  repeat' first
    | with_reducible assumption
    | with_reducible apply next_ok
    | (with_reducible refine bind2_ok (runVwait_ok (hs := ?_) ..) (fun _ _ => ?_))
    | with_reducible apply runVwait_ok
    | (with_reducible refine perform_sound _ _ ?_ (fun t x n o ht => ?_))

theorem execVop_ok (v : VRef) {s : State} (hs : StateOk s) : OutOk (execVop v s) := by
  unfold execVop
  repeat' first
    | with_reducible assumption
    | with_reducible apply next_ok
    | (with_reducible refine bind2_ok (runVop_ok (hs := ?_) ..) (fun _ _ => ?_))
    | with_reducible apply runVop_ok
    | (with_reducible refine perform_sound _ _ ?_ (fun t x n o ht => ?_))

theorem execVred_ok (v : VRef) {s : State} (hs : StateOk s) : OutOk (execVred v s) := by
  unfold execVred
  repeat' first
    | with_reducible assumption
    | with_reducible apply next_ok
    | (with_reducible refine bind2_ok (runVred_ok (hs := ?_) ..) (fun _ _ => ?_))
    | with_reducible apply runVred_ok
    | (with_reducible refine perform_sound _ _ ?_ (fun t x n o ht => ?_))

theorem execVmm_ok (v : VRef) {s : State} (hs : StateOk s) : OutOk (execVmm v s) := by
  unfold execVmm
  repeat' first
    | with_reducible assumption
    | with_reducible apply next_ok
    | (with_reducible refine bind2_ok (runVmm_ok (hs := ?_) ..) (fun _ _ => ?_))
    | with_reducible apply runVmm_ok
    | (with_reducible refine perform_sound _ _ ?_ (fun t x n o ht => ?_))

theorem execVnorm_ok (v : VRef) {s : State} (hs : StateOk s) : OutOk (execVnorm v s) := by
  unfold execVnorm
  repeat' first
    | with_reducible assumption
    | with_reducible apply next_ok
    | (with_reducible refine bind2_ok (runVnorm_ok (hs := ?_) ..) (fun _ _ => ?_))
    | with_reducible apply runVnorm_ok
    | (with_reducible refine perform_sound _ _ ?_ (fun t x n o ht => ?_))

theorem execDrop_ok (v : VRef) {s : State} (hs : StateOk s) : OutOk (execDrop v s) := by
  unfold execDrop
  repeat' first
    | with_reducible assumption
    | with_reducible apply next_ok
    | (with_reducible refine bind2_ok (runDrop_ok (hs := ?_) ..) (fun _ _ => ?_))
    | with_reducible apply runDrop_ok
    | (with_reducible refine perform_sound _ _ ?_ (fun t x n o ht => ?_))

theorem execInit_ok (v : VRef) {s : State} (hs : StateOk s) : OutOk (execInit v s) := by
  unfold execInit
  repeat' first
    | with_reducible assumption
    | with_reducible apply next_ok
    | (with_reducible refine bind2_ok (runInit_ok (hs := ?_) ..) (fun _ _ => ?_))
    | with_reducible apply runInit_ok
    | (with_reducible refine perform_sound _ _ ?_ (fun t x n o ht => ?_))

theorem execSample_ok (v : VRef) {s : State} (hs : StateOk s) : OutOk (execSample v s) := by
  unfold execSample
  repeat' first
    | with_reducible assumption
    | with_reducible apply next_ok
    | (with_reducible refine bind2_ok (runSample_ok (hs := ?_) ..) (fun _ _ => ?_))
    | with_reducible apply runSample_ok
    | (with_reducible refine perform_sound _ _ ?_ (fun t x n o ht => ?_))

theorem completeOp_ok {s : State} (v : VRef) (u : UnitId) (hs : StateOk s) : StateOk (completeOp s v u) := by
  unfold completeOp
  repeat' first
    | with_reducible assumption
    | with_reducible apply destroyDone_ok
    | with_reducible apply trySave_ok
    | with_reducible apply putVc_ok
    | with_reducible apply ite_ok
    | (refine pair_ok (by with_reducible assumption) ?_)
    | simp only
    | split

theorem execOperationComplete_ok (v : VRef) (u : UnitId) {s : State} (hs : StateOk s) : OutOk (execOperationComplete v u s) := by
  unfold execOperationComplete
  repeat' first
    | with_reducible assumption
    | with_reducible apply next_ok
    | with_reducible apply completeOp_ok

theorem sendVec_ok {s : State} (fn vec : Nat) (hs : StateOk s) : StateOk (sendVec s fn vec) := by
  unfold sendVec
  repeat' first
    | with_reducible assumption
    | with_reducible apply modFn_ok
    | (with_reducible refine modHost_ok ?_ (fun _ hb => ?_))

theorem signal_ok {s : State} (fn vec : Nat) (hs : StateOk s) : StateOk (signal s fn vec) := by
  unfold signal
  repeat' first
    | with_reducible assumption
    | with_reducible apply modFn_ok
    | with_reducible apply sendVec_ok
    | with_reducible apply ite_ok
    | (refine pair_ok (by with_reducible assumption) ?_)
    | simp only
    | split

theorem execMsixModerationExpiry_ok (fn vec : Nat) {s : State} (hs : StateOk s) : OutOk (execMsixModerationExpiry fn vec s) := by
  unfold execMsixModerationExpiry
  repeat' first
    | with_reducible assumption
    | with_reducible apply next_ok
    | with_reducible apply modFn_ok
    | with_reducible apply sendVec_ok
    | with_reducible apply ite_ok
    | (refine pair_ok (by with_reducible assumption) ?_)
    | simp only [mk_same_iff]
    | split

theorem answerSend_ok {s : State} (m : SendMsg) (refused : Bool) (hs : StateOk s) : StateOk (answerSend s m refused) := by
  unfold answerSend
  repeat' first
    | with_reducible assumption
    | with_reducible apply emit_ok
    | with_reducible apply launch_ok

theorem refuseSend_ok {s : State} (m : SendMsg) (hs : StateOk s) : StateOk (refuseSend s m) := by
  unfold refuseSend
  repeat' first
    | with_reducible assumption
    | with_reducible apply raise_ok
    | with_reducible apply raiseCtx_ok
    | with_reducible apply answerSend_ok
    | with_reducible apply ite_ok

theorem landSend_ok {s t : State} (m : SendMsg) (hs : StateOk s) (e : landSend s m = some t) : StateOk t := by
  unfold landSend at e
  split at e
  · split at e
    · cases e; exact answerSend_ok _ _ hs
    · split at e
      · cases e; exact refuseSend_ok _ hs
      · split at e
        · cases e
        · cases e; exact answerSend_ok _ _ (modVc_ok (spWrite_ok _ _ _ _ _ hs) _ _)
  · cases e; exact refuseSend_ok _ hs

theorem landInbox_ok {s : State} (hs : StateOk s) : StateOk (landInbox s) := by
  unfold landInbox
  refine modFab_ok (foldl_fst_ok hs fun q e hq => ?_) _
  split
  · exact hq
  · split
    · exact hq
    · exact freeBuffer_ok _ _ (landSend_ok _ hq (by assumption))

theorem endSend_ok {s : State} (w : SendWait) (err : Option Nat) (hs : StateOk s) : StateOk (endSend s w err) := by
  unfold endSend
  repeat' first
    | with_reducible assumption
    | with_reducible apply modFab_ok
    | with_reducible apply releaseOp_ok

theorem takeSendAck_ok {s : State} (id : Nat) (refused : Bool) (hs : StateOk s) : StateOk (takeSendAck s id refused) := by
  unfold takeSendAck
  repeat' first
    | with_reducible assumption
    | with_reducible apply endSend_ok
    | with_reducible apply ite_ok
    | (refine pair_ok (by with_reducible assumption) ?_)
    | simp only [mk_same_iff]
    | split

theorem execSendAck_ok (id : Nat) (refused : Bool) {s : State} (hs : StateOk s) : OutOk (execSendAck id refused s) := by
  unfold execSendAck
  repeat' first
    | with_reducible assumption
    | with_reducible apply next_ok
    | with_reducible apply takeSendAck_ok

theorem execSendTimeout_ok (id : Nat) {s : State} (hs : StateOk s) : OutOk (execSendTimeout id s) := by
  unfold execSendTimeout
  repeat' first
    | with_reducible assumption
    | with_reducible apply next_ok
    | with_reducible apply raiseCtx_ok
    | with_reducible apply endSend_ok
    | with_reducible apply ite_ok
    | (refine pair_ok (by with_reducible assumption) ?_)
    | simp only [mk_same_iff]
    | split

theorem landMsg_ok {s : State} (v : VRef) (n : Nat) (m : CollMsg) (c : Coll) (hs : StateOk s) : StateOk (landMsg s v n m c) := by
  unfold landMsg
  repeat' first
    | with_reducible assumption
    | with_reducible apply modColl_ok
    | with_reducible apply driveColl_ok
    | with_reducible apply lateMsg_ok
    | with_reducible apply closeColl_ok
    | with_reducible apply ite_ok

theorem execCollArrival_ok (v : VRef) (m : CollMsg) {s : State} (hs : StateOk s) : OutOk (execCollArrival v m s) := by
  unfold execCollArrival
  repeat' first
    | with_reducible assumption
    | with_reducible apply next_ok
    | with_reducible apply modFab_ok
    | with_reducible apply lateMsg_ok
    | with_reducible apply landMsg_ok
    | with_reducible apply ite_ok
    | (refine pair_ok (by with_reducible assumption) ?_)
    | simp only [mk_same_iff]
    | split

theorem execNormsumPartial_ok (v : VRef) (rank : NormTag) (t : BitVec 256) (nonfin ovr : Bool) {s : State} (hs : StateOk s) :
    OutOk (execNormsumPartial v rank t nonfin ovr s) := by
  unfold execNormsumPartial
  repeat' first
    | with_reducible assumption
    | with_reducible apply next_ok
    | with_reducible apply modFab_ok
    | with_reducible apply modColl_ok
    | with_reducible apply driveColl_ok
    | with_reducible apply ite_ok
    | (refine pair_ok (by with_reducible assumption) ?_)
    | simp only [mk_same_iff]
    | split

theorem execGradDeadline_ok (n : Nat) {s : State} (hs : StateOk s) : OutOk (execGradDeadline n s) := by
  unfold execGradDeadline
  repeat' first
    | with_reducible assumption
    | with_reducible apply next_ok
    | with_reducible apply modAtt_ok
    | with_reducible apply closeColl_ok
    | with_reducible apply ite_ok
    | (with_reducible refine foldl_ok ?_ (fun t a ht => ?_))

theorem landGsr_ok {s : State} (m : GsrMsg) (hs : StateOk s) : StateOk (landGsr s m) := by
  unfold landGsr
  repeat' first
    | with_reducible assumption
    | with_reducible apply demand_ok
    | with_reducible apply homeWrite_ok
    | with_reducible apply ite_ok
    | (refine pair_ok (by with_reducible assumption) ?_)
    | simp only [mk_same_iff]
    | split

theorem execGsrTaggedUpdate_ok {s : State} (hs : StateOk s) : OutOk (execGsrTaggedUpdate s) := by
  unfold execGsrTaggedUpdate
  repeat' first
    | with_reducible assumption
    | with_reducible apply next_ok
    | with_reducible apply landGsr_ok
    | with_reducible apply ite_ok
    | (refine pair_ok (by with_reducible assumption) ?_)
    | simp only [mk_same_iff]
    | split

theorem landTsr_ok {s : State} (m : TsrMsg) (hs : StateOk s) : StateOk (landTsr s m) := by
  unfold landTsr
  repeat' first
    | with_reducible assumption
    | with_reducible apply demand_ok
    | with_reducible apply homeWrite_ok

theorem execTsrTaggedMax_ok {s : State} (hs : StateOk s) : OutOk (execTsrTaggedMax s) := by
  unfold execTsrTaggedMax
  repeat' first
    | with_reducible assumption
    | with_reducible apply next_ok
    | with_reducible apply landTsr_ok
    | with_reducible apply ite_ok
    | (refine pair_ok (by with_reducible assumption) ?_)
    | simp only [mk_same_iff]
    | split

theorem verdictTsr_ok {s : State} (c : BitVec 512) (t g : Nat) (cap : Nat) (v : Verdict) (hs : StateOk s) : StateOk (verdictTsr s c t g cap v) := by
  unfold verdictTsr
  repeat' first
    | with_reducible assumption
    | with_reducible apply homeWrite_ok
    | with_reducible apply ite_ok

theorem finalVerdict_ok {s : State} (m : VerdictMsg) (x : Vcore) (v : Verdict) (ev : List Nat) (hs : StateOk s) : StateOk (finalVerdict s m x v ev) := by
  unfold finalVerdict
  repeat' first
    | with_reducible assumption
    | with_reducible apply modCore_ok
    | with_reducible apply raiseCtx_ok
    | with_reducible apply homeWrite_ok
    | with_reducible apply telAdd_ok
    | with_reducible apply suspectFed_ok
    | with_reducible apply verdictTsr_ok
    | with_reducible apply ite_ok
    | (with_reducible refine foldl_ok ?_ (fun t a ht => ?_))
    | simp only [mk_same_iff]

theorem judge_ok {s t : State} (m : VerdictMsg) (h : StateOk s) (e : judge s m = some t) : StateOk t := by
  unfold judge at e
  dsimp only at e
  split at e
  · cases e; exact h
  · split at e
    · cases e; exact h
    · have h1 := discoverRuns_ok (some m.v.ctx) true (verdictRuns m.cvd m.gsr) h
      split at e
      · cases e; exact poisonCtx_ok _ _ _ h1
      · split at e
        · cases e
        · split at e
          · cases e
          · cases e; exact finalVerdict_ok _ _ _ _ h1

theorem raiseEarly_ok {s : State} (m : VerdictMsg) (hs : StateOk s) : StateOk (raiseEarly s m) := by
  unfold raiseEarly
  repeat' first
    | with_reducible assumption
    | with_reducible apply raiseCtx_ok
    | with_reducible apply ite_ok
    | (with_reducible refine foldl_ok ?_ (fun t a ht => ?_))

theorem judgeFirst_ok {s : State} (before after : List VerdictMsg) (h : StateOk s) : StateOk (judgeFirst s before after) := by
  induction after generalizing before with
  | nil => exact h
  | cons m after ih =>
    unfold judgeFirst
    dsimp only
    split
    · exact ih _
    · split
      · exact mk_same_iff.mpr (judge_ok m h (by assumption))
      · split
        · exact ih _
        · exact mk_same_iff.mpr (raiseEarly_ok m h)

theorem execGroupVerdict_ok {s : State} (hs : StateOk s) : OutOk (execGroupVerdict s) := by
  unfold execGroupVerdict
  repeat' first
    | with_reducible assumption
    | with_reducible apply next_ok
    | with_reducible apply judgeFirst_ok

theorem flushEntry_ok (n : Nat) (step : Word64) (attempt : Word16) (dropped : Bool) (p : State × Bool × Bool) (i : Nat) (h : StateOk p.1) :
    StateOk (flushEntry n step attempt dropped p i).1 := by
  unfold flushEntry
  repeat' first
    | with_reducible assumption
    | with_reducible apply modPart_ok
    | with_reducible apply devWrite_ok
    | with_reducible apply demand_ok
    | with_reducible apply ite_ok
    | simp only []
    | split

theorem execTelemetryFlush_ok (n : Nat) {s : State} (hs : StateOk s) : OutOk (execTelemetryFlush n s) := by
  unfold execTelemetryFlush
  repeat' first
    | with_reducible assumption
    | with_reducible apply next_ok
    | with_reducible apply modPart_ok
    | with_reducible apply raise_ok
    | with_reducible apply signal_ok
    | with_reducible apply flushEntry_ok
    | with_reducible apply ite_ok
    | (with_reducible refine foldl_fst_ok ?_ (fun t a ht => ?_))
    | (with_reducible refine foldl_ok ?_ (fun t a ht => ?_))
    | (refine pair_ok (by with_reducible assumption) ?_)
    | simp only
    | split

end Sys2Proof.Machine
end

