-- ==== Sys2Proof/Laws/InvariantPod.lean ====
section
/-! SUPPORT. Every function of the machine keeps the invariant StateOk: the update engines, links, commit, the pod and its time, and reset.
One lemma per function, each a walk over its definition that cites the lemmas of the functions it calls. -/
set_option Elab.async false
namespace Sys2Proof.Machine
open Sys2Proof
theorem writeShadow_ok {s : State} (u : UpdCtx) (rho : List Q) (h : Nat) (o : PassOut) (frames : List (Option Int)) (pcm : List Byte) (hs : StateOk s) : StateOk (writeShadow s u rho h o frames pcm) := by
  unfold writeShadow
  repeat' first
    | with_reducible assumption
    | with_reducible apply devWrite_ok
    | with_reducible apply ite_ok

theorem judgeRecord_ok {s : State} (n : Nat) (u : UpdCtx) (again : Bool) (t : Nat) (m : GsrMsg) (g : Option Nat) (hs : StateOk s) :
    StateOk (judgeRecord s n u again t m g).1 := by
  cases g with
  | none => exact hs
  | some g => exact telAdd_ok _ _ _ _ (foldl_ok (homeWrite_ok _ _ hs) fun t a ht => raise_ok _ _ _ _ ht)

theorem judgeTensor_ok {s : State} (n : Nat) (u : UpdCtx) (o : PassOut) (again : Bool) (t : Nat) (hs : StateOk s) : StateOk (judgeTensor s n u o again t).1 :=
  judgeRecord_ok _ _ _ _ _ _ hs

theorem judgeAll_ok {s : State} (n : Nat) (u : UpdCtx) (o : PassOut) (again : Bool) (hs : StateOk s) : StateOk (judgeAll s n u o again).1 := by
  have key : ∀ (r : State × Verdict) (l : List Verdict), StateOk r.1 → StateOk (r.1, l ++ [r.2]).1 := fun _ _ h => h
  have zero : ∀ q : State × List Verdict, StateOk q.1 → StateOk (q.1, q.2 ++ [0]).1 := fun _ h => h
  have pick : ∀ (b : Bool) (x y : State × List Verdict), StateOk x.1 → StateOk y.1 → StateOk (if b = true then x else y).1 := by
    intro b x y hx hy; cases b <;> assumption
  exact foldl_fst_ok hs fun q a hq => pick _ _ _ (key _ _ (judgeTensor_ok n u o again a hq)) (zero q hq)

theorem layerEvent_ok {s : State} (n code layer : Nat) (hs : StateOk s) : StateOk (layerEvent s n code layer) := by
  unfold layerEvent
  repeat' first
    | with_reducible assumption
    | with_reducible apply raise_ok

theorem failPass_ok {s : State} (n k : Nat) (hs : StateOk s) : StateOk (failPass s n k) := by
  unfold failPass
  repeat' first
    | with_reducible assumption
    | with_reducible apply modCluster_ok
    | with_reducible apply causeAbandon_ok

theorem queueLayerCheck_ok {s : State} (n k layer : Nat) (l : BitVec 1024) (shadow suspect : Bool) (hs : StateOk s) : StateOk (queueLayerCheck s n k layer l shadow suspect) := by
  unfold queueLayerCheck
  repeat' first
    | with_reducible assumption
    | with_reducible apply modPart_ok
    | with_reducible apply modRel_ok
    | with_reducible apply ite_ok

theorem passDone_ok {s : State} (n k layer : Nat) (l : BitVec 1024) (u : UpdCtx) (hs : StateOk s) : StateOk (passDone s n k layer l u) :=
  have h3 := modCluster_ok (modAtt_ok hs n fun a => { a with passed := a.passed ++ [layer] }) k fun c =>
    { c with busy := some layer, records := c.records + ludNrec l }
  ite_ok (queueLayerCheck_ok _ _ _ _ _ _ h3) h3

theorem reframePass_ok {s : State} (n k layer : Nat) (l : BitVec 1024) (u : UpdCtx) (rho : List Q) (h : Nat) (o : PassOut) (os : List RecOut)
    (xs : List RecIn) (pcm : List Byte) (flg : Flags) (vs : List Verdict) (failed : List Nat) (hs : StateOk s) :
    StateOk (reframePass s n k layer l u rho h o os xs pcm flg vs failed) := by
  have h3 : StateOk (failed.foldl (fun w t => (raise w 0x1204 (some n) none (data1 layer (ludFmt l t) t 0 u.step)).modCluster k
    (fun c => { c with reframes := satInc c.reframes })) s) := foldl_ok hs fun t a ht => modCluster_ok (raise_ok _ _ _ _ ht) _ _
  unfold reframePass
  extract_lets s3 rho2 frames o2
  split
  · exact failPass_ok _ _ (layerEvent_ok _ _ _ (updFlags_ok _ _ h3))
  · exact passDone_ok _ _ _ _ _ (updFlags_ok _ _ (judgeAll_ok _ _ _ _ (writeShadow_ok _ _ _ _ _ _ h3)))

theorem landPass_ok {s : State} (n k layer : Nat) (l : BitVec 1024) (u : UpdCtx) (rho : List Q) (h : Nat) (o : PassOut) (os : List RecOut)
    (xs : List RecIn) (pcm : List Byte) (flg : Flags) (bad : Option Flags) (hs : StateOk s) :
    StateOk (landPass s n k layer l u rho h o os xs pcm flg bad) := by
  cases bad with
  | some f => exact failPass_ok _ _ (layerEvent_ok _ _ _ (updFlags_ok _ _ hs))
  | none =>
    have h1 := judgeAll_ok n u o false (writeShadow_ok u rho h o [] pcm hs)
    exact ite_ok (passDone_ok _ _ _ _ _ (updFlags_ok _ _ h1)) (reframePass_ok _ _ _ _ _ _ _ _ _ _ _ _ _ _ h1)

theorem layerPass_ok {s : State} (n k layer : Nat) (l : BitVec 1024) (inst : Option Refresh) (hs : StateOk s) : StateOk (layerPass s n k layer l inst) :=
  landPass_ok _ _ _ _ _ _ _ _ _ _ _ _ _ hs

theorem poisonPass_ok {s : State} (n k : Nat) (r : Run) (hs : StateOk s) : StateOk (poisonPass s n k r) := by
  unfold poisonPass
  repeat' first
    | with_reducible assumption
    | with_reducible apply modPart_ok
    | with_reducible apply raise_ok
    | with_reducible apply failPass_ok

theorem execUpdatePass_ok (k : Nat) {s : State} (hs : StateOk s) : OutOk (execUpdatePass k s) := by
  unfold execUpdatePass
  repeat' first
    | with_reducible assumption
    | with_reducible apply next_ok
    | with_reducible apply modCluster_ok
    | with_reducible apply modPart_ok
    | with_reducible apply modCmt_ok
    | with_reducible apply raise_ok
    | with_reducible apply countRefused_ok
    | with_reducible apply discoverRuns_ok
    | with_reducible apply layerEvent_ok
    | with_reducible apply failPass_ok
    | with_reducible apply layerPass_ok
    | with_reducible apply poisonPass_ok
    | with_reducible apply ite_ok
    | (refine pair_ok (by with_reducible assumption) ?_)
    | simp only
    | split

theorem execLayerArm_ok (n layer : Nat) {s : State} (hs : StateOk s) : OutOk (execLayerArm n layer s) := by
  unfold execLayerArm
  repeat' first
    | with_reducible assumption
    | with_reducible apply next_ok
    | with_reducible apply modCluster_ok
    | with_reducible apply modCmt_ok
    | with_reducible apply ite_ok

theorem execPcSnapshot_ok (n layer : Nat) {s : State} (hs : StateOk s) : OutOk (execPcSnapshot n layer s) := by
  unfold execPcSnapshot
  repeat' first
    | with_reducible assumption
    | with_reducible apply next_ok
    | with_reducible apply modPart_ok
    | with_reducible apply raise_ok
    | with_reducible apply countRefused_ok
    | with_reducible apply discoverRuns_ok
    | with_reducible apply devWrite_ok
    | with_reducible apply ite_ok
    | (with_reducible refine foldl_ok ?_ (fun t a ht => ?_))
    | (refine pair_ok (by with_reducible assumption) ?_)
    | simp only
    | split

theorem landBlock_ok {s : State} (n layer : Nat) (l : BitVec 1024) (r : Refresh) (q : Option (List Word32)) (hs : StateOk s) : StateOk (landBlock s n layer l r q) := by
  unfold landBlock
  repeat' first
    | with_reducible assumption
    | with_reducible apply modPart_ok
    | with_reducible apply layerEvent_ok
    | with_reducible apply ite_ok

theorem execPcRefreshSlice_ok (n layer : Nat) {s : State} (hs : StateOk s) : OutOk (execPcRefreshSlice n layer s) := by
  unfold execPcRefreshSlice
  repeat' first
    | with_reducible assumption
    | with_reducible apply next_ok
    | with_reducible apply modCore_ok
    | with_reducible apply modPart_ok
    | with_reducible apply raise_ok
    | with_reducible apply countRefused_ok
    | with_reducible apply discoverRuns_ok
    | with_reducible apply landBlock_ok
    | with_reducible apply ite_ok
    | (refine pair_ok (by with_reducible assumption) ?_)
    | simp only
    | split

theorem checkLayers_ok {s : State} (n : Nat) (hs : StateOk s) : StateOk (checkLayers s n) := by
  unfold checkLayers
  repeat' first
    | with_reducible assumption
    | with_reducible apply modPart_ok
    | with_reducible apply raise_ok
    | with_reducible apply causeAbandon_ok
    | with_reducible apply countRefused_ok
    | with_reducible apply discoverRuns_ok
    | with_reducible apply layerEvent_ok
    | with_reducible apply ite_ok
    | (refine pair_ok (by with_reducible assumption) ?_)
    | simp only
    | split

theorem execNormGate_ok (n : Nat) {s : State} (hs : StateOk s) : OutOk (execNormGate n s) := by
  unfold execNormGate
  repeat' first
    | with_reducible assumption
    | with_reducible apply next_ok
    | with_reducible apply modCluster_ok
    | with_reducible apply modCmt_ok
    | with_reducible apply raise_ok
    | with_reducible apply causeAbandon_ok
    | with_reducible apply checkLayers_ok
    | with_reducible apply ite_ok
    | (with_reducible refine foldl_ok ?_ (fun t a ht => ?_))

theorem downLink_ok {s : State} (n : Nat) (hs : StateOk s) : StateOk (downLink s n) := by
  unfold downLink
  repeat' first
    | with_reducible assumption
    | with_reducible apply modLink_ok
    | with_reducible apply emit_ok
    | with_reducible apply raiseDev_ok
    | with_reducible apply freeBuffer_ok
    | with_reducible apply routeMessage_ok
    | with_reducible apply pruneKept_ok
    | with_reducible apply ite_ok
    | (with_reducible refine foldl_ok ?_ (fun t a ht => ?_))

theorem execLinkDown_ok (n : Nat) {s : State} (hs : StateOk s) : OutOk (execLinkDown n s) := by
  unfold execLinkDown
  repeat' first
    | with_reducible assumption
    | with_reducible apply next_ok
    | with_reducible apply downLink_ok

theorem failLane_ok {s : State} (n lane : Nat) (hs : StateOk s) : StateOk (failLane s n lane) := by
  unfold failLane
  repeat' first
    | with_reducible assumption
    | with_reducible apply modLink_ok
    | with_reducible apply raiseDev_ok
    | with_reducible apply remapEvent_ok
    | with_reducible apply failBeyond_ok
    | with_reducible apply downLink_ok
    | with_reducible apply ite_ok

theorem laneFailed_ok {s : State} (n lane : Nat) (hs : StateOk s) : StateOk (laneFailed s n lane) := by
  unfold laneFailed
  repeat' first
    | with_reducible assumption
    | with_reducible apply emit_ok
    | with_reducible apply failLane_ok
    | with_reducible apply ite_ok

theorem execLaneFail_ok (n lane : Nat) {s : State} (hs : StateOk s) : OutOk (execLaneFail n lane s) := by
  unfold execLaneFail
  repeat' first
    | with_reducible assumption
    | with_reducible apply next_ok
    | with_reducible apply laneFailed_ok

theorem laneError_ok {s : State} (n : Nat) (lane : Option Nat) (hs : StateOk s) : StateOk (laneError s n lane) := by
  unfold laneError
  repeat' first
    | with_reducible assumption
    | with_reducible apply modLink_ok
    | with_reducible apply laneFailed_ok
    | with_reducible apply ite_ok
    | (refine pair_ok (by with_reducible assumption) ?_)
    | simp only
    | split

theorem darkLane_ok {s : State} (e lane : Nat) (hs : StateOk s) : StateOk (darkLane s e lane) := by
  unfold darkLane
  repeat' first
    | with_reducible assumption
    | with_reducible apply failLane_ok
    | with_reducible apply ite_ok
    | (with_reducible refine foldl_ok ?_ (fun t a ht => ?_))

theorem execLaserFail_ok (e m : Nat) {s : State} (hs : StateOk s) : OutOk (execLaserFail e m s) := by
  unfold execLaserFail
  repeat' first
    | with_reducible assumption
    | with_reducible apply next_ok
    | with_reducible apply modOptic_ok
    | with_reducible apply raiseDev_ok
    | with_reducible apply remapEvent_ok
    | with_reducible apply darkLane_ok
    | with_reducible apply ite_ok

theorem sendTraining_ok {s : State} (n : Nat) (hs : StateOk s) : StateOk (sendTraining s n) := by
  unfold sendTraining
  repeat' first
    | with_reducible assumption
    | with_reducible apply emit_ok

theorem floodLinks_ok {s : State} (hs : StateOk s) : StateOk (floodLinks s) := by
  unfold floodLinks
  repeat' first
    | with_reducible assumption
    | with_reducible apply modFab_ok
    | with_reducible apply emit_ok

theorem excludeDev_ok {s : State} (d : Nat) (hs : StateOk s) : StateOk (excludeDev s d) := by
  unfold excludeDev
  repeat' first
    | with_reducible assumption
    | with_reducible apply modFab_ok
    | with_reducible apply raiseDev_ok
    | with_reducible apply ite_ok

theorem hearSerial_ok {s : State} (dev serial : Nat) (hs : StateOk s) : StateOk (hearSerial s dev serial) := by
  unfold hearSerial
  repeat' first
    | with_reducible assumption
    | with_reducible apply modFab_ok
    | with_reducible apply excludeDev_ok
    | with_reducible apply ite_ok
    | (refine pair_ok (by with_reducible assumption) ?_)
    | simp only [mk_same_iff]
    | split

theorem execLinkTrain_ok (n : Nat) (p : Peer) {s : State} (hs : StateOk s) : OutOk (execLinkTrain n p s) := by
  unfold execLinkTrain
  repeat' first
    | with_reducible assumption
    | with_reducible apply next_ok
    | with_reducible apply modLink_ok
    | with_reducible apply emit_ok
    | with_reducible apply raiseDev_ok
    | with_reducible apply sendTraining_ok
    | with_reducible apply floodLinks_ok
    | with_reducible apply excludeDev_ok
    | with_reducible apply hearSerial_ok
    | with_reducible apply pump_ok
    | with_reducible apply ite_ok
    | (with_reducible refine foldl_ok ?_ (fun t a ht => ?_))

theorem execLinkTrainTimeout_ok (n : Nat) {s : State} (hs : StateOk s) : OutOk (execLinkTrainTimeout n s) := by
  unfold execLinkTrainTimeout
  repeat' first
    | with_reducible assumption
    | with_reducible apply next_ok
    | with_reducible apply downLink_ok
    | with_reducible apply ite_ok

theorem trainLink_ok {s : State} (n : Nat) (hs : StateOk s) : StateOk (trainLink s n) := by
  unfold trainLink
  repeat' first
    | with_reducible assumption
    | with_reducible apply modLink_ok

theorem execRetrain_ok (n : Nat) {s : State} (hs : StateOk s) : OutOk (execRetrain n s) := by
  unfold execRetrain
  repeat' first
    | with_reducible assumption
    | with_reducible apply next_ok
    | with_reducible apply trainLink_ok

theorem execLinkWakePulse_ok (n : Nat) {s : State} (hs : StateOk s) : OutOk (execLinkWakePulse n s) := by
  unfold execLinkWakePulse
  repeat' first
    | with_reducible assumption
    | with_reducible apply next_ok
    | with_reducible apply modLink_ok

theorem takeAck_ok {s : State} (n h : Nat) (hs : StateOk s) : StateOk (takeAck s n h) := by
  unfold takeAck
  repeat' first
    | with_reducible assumption
    | with_reducible apply modLink_ok
    | with_reducible apply emit_ok
    | with_reducible apply raiseDev_ok
    | with_reducible apply pruneKept_ok
    | with_reducible apply pump_ok
    | with_reducible apply ite_ok
    | (with_reducible refine foldl_ok ?_ (fun t a ht => ?_))

theorem execAckTimer_ok (n : Nat) {s : State} (hs : StateOk s) : OutOk (execAckTimer n s) := by
  unfold execAckTimer
  repeat' first
    | with_reducible assumption
    | with_reducible apply next_ok
    | with_reducible apply sendIdle_ok
    | with_reducible apply ite_ok

theorem starterLand_ok {s : State} (src da : Nat) (bs : List PByte) (last : Bool) (step : Option Word64) (hs : StateOk s) : StateOk (starterLand s src da bs last step) := by
  unfold starterLand
  repeat' first
    | with_reducible assumption
    | with_reducible apply modFab_ok
    | with_reducible apply emit_ok
    | with_reducible apply raiseDev_ok
    | with_reducible apply devWrite_ok
    | with_reducible apply ite_ok
    | (refine pair_ok (by with_reducible assumption) ?_)
    | simp only
    | split

theorem execStarterReceive_ok (f : StarterFlit) {s : State} (hs : StateOk s) : OutOk (execStarterReceive f s) := by
  unfold execStarterReceive
  repeat' first
    | with_reducible assumption
    | with_reducible apply next_ok
    | with_reducible apply starterLand_ok

theorem joinSend_ok {s : State} (came : Option Nat) (f : BitVec 2048) (hs : StateOk s) : StateOk (joinSend s came f) := by
  unfold joinSend
  repeat' first
    | with_reducible assumption
    | with_reducible apply modFab_ok
    | with_reducible apply freeBuffer_ok
    | with_reducible apply ite_ok

theorem takeFlit_ok {s : State} (e : Option Nat × BitVec 2048) (hs : StateOk s) : StateOk (takeFlit s e) := by
  unfold takeFlit
  repeat' first
    | with_reducible assumption
    | with_reducible apply modFab_ok
    | with_reducible apply freeBuffer_ok
    | with_reducible apply takeSendAck_ok
    | with_reducible apply starterLand_ok
    | with_reducible apply joinSend_ok
    | with_reducible apply ite_ok
    | (refine pair_ok (by with_reducible assumption) ?_)
    | simp only
    | split

theorem takeArrived_ok {s : State} (hs : StateOk s) : StateOk (takeArrived s) := by
  unfold takeArrived
  repeat' first
    | with_reducible assumption
    | with_reducible apply modFab_ok
    | with_reducible apply takeFlit_ok
    | with_reducible apply ite_ok
    | (with_reducible refine foldl_ok ?_ (fun t a ht => ?_))

theorem settle_ok {s : State} (hs : StateOk s) : StateOk (settle s) := by
  unfold settle
  repeat' first
    | with_reducible assumption
    | with_reducible apply landInbox_ok
    | with_reducible apply takeArrived_ok

theorem execSend_ok (v : VRef) {s : State} (hs : StateOk s) : OutOk (execSend v s) := by
  unfold execSend
  repeat' first
    | with_reducible assumption
    | with_reducible apply next_ok
    | (with_reducible refine bind2_ok (runSend_ok (hs := ?_) ..) (fun _ _ => ?_))
    | with_reducible apply runSend_ok
    | with_reducible apply settle_ok
    | (with_reducible refine perform_sound _ _ ?_ (fun t x n o ht => ?_))

theorem execSendArrival_ok (m : SendMsg) {s : State} (hs : StateOk s) : OutOk (execSendArrival m s) := by
  unfold execSendArrival
  repeat' first
    | with_reducible assumption
    | with_reducible apply next_ok
    | with_reducible apply modFab_ok
    | with_reducible apply settle_ok
    | with_reducible apply ite_ok

theorem execFlitReceive_ok (n : Nat) (f : FlitIn) {s : State} (hs : StateOk s) : OutOk (execFlitReceive n f s) := by
  unfold execFlitReceive
  repeat' first
    | with_reducible assumption
    | with_reducible apply next_ok
    | with_reducible apply modLink_ok
    | with_reducible apply sendIdle_ok
    | with_reducible apply routeFlit_ok
    | with_reducible apply laneError_ok
    | with_reducible apply takeAck_ok
    | with_reducible apply settle_ok
    | with_reducible apply ite_ok

theorem hear_ok {s : State} (n : Nat) (m : Member) (hs : StateOk s) : StateOk (hear s n m) := by
  unfold hear
  repeat' first
    | with_reducible assumption
    | with_reducible apply modCmt_ok
    | with_reducible apply ite_ok

theorem sendMirror_ok {s : State} (n : Nat) (hs : StateOk s) : StateOk (sendMirror s n) := by
  unfold sendMirror
  repeat' first
    | with_reducible assumption
    | with_reducible apply modFab_ok
    | with_reducible apply emit_ok
    | with_reducible apply raise_ok
    | with_reducible apply countRefused_ok
    | with_reducible apply demand_ok
    | with_reducible apply launch_ok
    | with_reducible apply ite_ok
    | (with_reducible refine foldl_ok ?_ (fun t a ht => ?_))
    | (refine pair_ok (by with_reducible assumption) ?_)
    | simp only
    | split

theorem mirrorAtCommit_ok {s : State} (n : Nat) (hs : StateOk s) : StateOk (mirrorAtCommit s n) := by
  unfold mirrorAtCommit
  repeat' first
    | with_reducible assumption
    | with_reducible apply modFab_ok
    | with_reducible apply raiseDev_ok
    | with_reducible apply sendMirror_ok
    | with_reducible apply ite_ok
    | (refine pair_ok (by with_reducible assumption) ?_)
    | simp only
    | split

theorem execMemberReady_ok (n : Nat) {s : State} (hs : StateOk s) : OutOk (execMemberReady n s) := by
  unfold execMemberReady
  repeat' first
    | with_reducible assumption
    | with_reducible apply next_ok
    | with_reducible apply modAtt_ok
    | with_reducible apply emit_ok
    | with_reducible apply ite_ok

theorem execReadyReceive_ok (n : Nat) (m : Member) (step : Word64) (attempt : Word16) {s : State} (hs : StateOk s) : OutOk (execReadyReceive n m step attempt s) := by
  unfold execReadyReceive
  repeat' first
    | with_reducible assumption
    | with_reducible apply next_ok
    | with_reducible apply modAtt_ok
    | with_reducible apply emit_ok
    | with_reducible apply hear_ok
    | with_reducible apply ite_ok

theorem execAbortReceive_ok (n : Nat) (m : Member) (step : Word64) (attempt : Word16) (reason : Nat) {s : State} (hs : StateOk s) : OutOk (execAbortReceive n m step attempt reason s) := by
  unfold execAbortReceive
  repeat' first
    | with_reducible assumption
    | with_reducible apply next_ok
    | with_reducible apply modAtt_ok
    | with_reducible apply emit_ok
    | with_reducible apply hear_ok
    | with_reducible apply ite_ok

theorem sampleNext_ok {s : State} (n : Nat) (hs : StateOk s) : StateOk (sampleNext s n) := by
  unfold sampleNext
  repeat' first
    | with_reducible assumption
    | with_reducible apply modPart_ok

theorem clearArmed_ok {s : State} (n : Nat) (hs : StateOk s) : StateOk (clearArmed s n) := by
  unfold clearArmed
  repeat' first
    | with_reducible assumption
    | with_reducible apply modCluster_ok
    | with_reducible apply ite_ok
    | (with_reducible refine foldl_ok ?_ (fun t a ht => ?_))

theorem flip_ok {s : State} (n tc : Nat) (hs : StateOk s) : StateOk (flip s n tc) := by
  unfold flip
  repeat' first
    | with_reducible assumption
    | with_reducible apply modPart_ok
    | with_reducible apply modCmt_ok
    | with_reducible apply modFab_ok
    | with_reducible apply sendCtl_ok
    | with_reducible apply mirrorAtCommit_ok
    | with_reducible apply sampleNext_ok
    | with_reducible apply clearArmed_ok
    | with_reducible apply ite_ok
    | simp only [mk_same_iff]
    | split
    | (simp only [mk_iff]; refine ⟨?_, ?_, ?_, ?_⟩)
    | with_reducible apply StateOk.memWf
    | with_reducible apply StateOk.hostWf
    | with_reducible apply StateOk.ctxs
    | with_reducible apply StateOk.region
    | with_reducible exact Rising.nil
    | with_reducible apply Rising.tput
    | with_reducible apply Rising.tdel
    | with_reducible apply Rising.filter
    | with_reducible apply Rising.tmap

theorem execCommitReceive_ok (n : Nat) (step : Word64) (attempt : Word16) (tc : Word64) {s : State} (hs : StateOk s) : OutOk (execCommitReceive n step attempt tc s) := by
  unfold execCommitReceive
  repeat' first
    | with_reducible assumption
    | with_reducible apply next_ok
    | with_reducible apply modAtt_ok
    | with_reducible apply raise_ok
    | with_reducible apply flip_ok
    | with_reducible apply ite_ok

theorem execCommitFlip_ok (n : Nat) {s : State} (hs : StateOk s) : OutOk (execCommitFlip n s) := by
  unfold execCommitFlip
  repeat' first
    | with_reducible assumption
    | with_reducible apply next_ok
    | with_reducible apply flip_ok
    | with_reducible apply ite_ok
    | (refine pair_ok (by with_reducible assumption) ?_)
    | simp only [mk_same_iff]
    | split

theorem execCommitTimeout_ok (n : Nat) {s : State} (hs : StateOk s) : OutOk (execCommitTimeout n s) := by
  unfold execCommitTimeout
  repeat' first
    | with_reducible assumption
    | with_reducible apply next_ok
    | with_reducible apply modAtt_ok
    | with_reducible apply emit_ok
    | with_reducible apply raise_ok
    | with_reducible apply ite_ok
    | (with_reducible refine foldl_ok ?_ (fun t a ht => ?_))

theorem sendResume_ok {s : State} (n : Nat) (hs : StateOk s) : StateOk (sendResume s n) := by
  unfold sendResume
  repeat' first
    | with_reducible assumption
    | with_reducible apply modAtt_ok
    | with_reducible apply emit_ok

theorem dropChecks_ok {s : State} (n : Nat) (hs : StateOk s) : StateOk (dropChecks s n) := by
  unfold dropChecks
  repeat' first
    | with_reducible assumption
    | with_reducible apply modPart_ok
    | with_reducible apply modRel_ok
    | with_reducible apply releaseOp_ok
    | with_reducible apply ite_ok
    | (with_reducible refine foldl_ok ?_ (fun t a ht => ?_))
    | (refine pair_ok (by with_reducible assumption) ?_)
    | simp only [mk_same_iff]
    | split

theorem leaveColls_ok {s : State} (n : Nat) (hs : StateOk s) : StateOk (leaveColls s n) := by
  unfold leaveColls
  repeat' first
    | with_reducible assumption
    | with_reducible apply modFab_ok

theorem abandonAttempt_ok {s : State} (n reason : Nat) (hs : StateOk s) : StateOk (abandonAttempt s n reason) := by
  unfold abandonAttempt
  repeat' first
    | with_reducible assumption
    | with_reducible apply modPart_ok
    | with_reducible apply modCmt_ok
    | with_reducible apply sendCtl_ok
    | with_reducible apply clearArmed_ok
    | with_reducible apply sendResume_ok
    | with_reducible apply dropChecks_ok
    | with_reducible apply leaveColls_ok
    | with_reducible apply ite_ok
    | simp only [mk_same_iff]

theorem execAttemptAbandon_ok (n reason : Nat) {s : State} (hs : StateOk s) : OutOk (execAttemptAbandon n reason s) := by
  unfold execAttemptAbandon
  repeat' first
    | with_reducible assumption
    | with_reducible apply next_ok
    | with_reducible apply abandonAttempt_ok
    | with_reducible apply ite_ok

theorem execResumeReceive_ok (n : Nat) (m : Member) (step : Word64) (attempt : Word16) {s : State} (hs : StateOk s) : OutOk (execResumeReceive n m step attempt s) := by
  unfold execResumeReceive
  repeat' first
    | with_reducible assumption
    | with_reducible apply next_ok
    | with_reducible apply modAtt_ok
    | with_reducible apply emit_ok
    | with_reducible apply hear_ok
    | with_reducible apply ite_ok

theorem execOpenReceive_ok (n : Nat) (step : Word64) (attempt : Word16) (topen : Word64) {s : State} (hs : StateOk s) : OutOk (execOpenReceive n step attempt topen s) := by
  unfold execOpenReceive
  repeat' first
    | with_reducible assumption
    | with_reducible apply next_ok
    | with_reducible apply modAtt_ok
    | with_reducible apply ite_ok

theorem execAttemptOpen_ok (n : Nat) {s : State} (hs : StateOk s) : OutOk (execAttemptOpen n s) := by
  unfold execAttemptOpen
  repeat' first
    | with_reducible assumption
    | with_reducible apply next_ok
    | with_reducible apply modAtt_ok
    | with_reducible apply ite_ok
    | (refine pair_ok (by with_reducible assumption) ?_)
    | simp only [mk_same_iff]
    | split

theorem openFirst_ok {s : State} (mark : Nat) (hs : StateOk s) : StateOk (openFirst s mark) := by
  unfold openFirst
  repeat' first
    | with_reducible assumption
    | with_reducible apply modAtt_ok
    | with_reducible apply sampleNext_ok
    | with_reducible apply ite_ok
    | (with_reducible refine foldl_ok ?_ (fun t a ht => ?_))

theorem sendRoutes_ok {s : State} (gone : List Nat) (hs : StateOk s) : StateOk (sendRoutes s gone) := by
  unfold sendRoutes
  repeat' first
    | with_reducible assumption
    | with_reducible apply emit_ok
    | with_reducible apply ite_ok
    | (with_reducible refine foldl_ok ?_ (fun t a ht => ?_))

theorem execLinkListReceive_ok (dev : Nat) (ls : LinkList) {s : State} (hs : StateOk s) : OutOk (execLinkListReceive dev ls s) := by
  unfold execLinkListReceive
  repeat' first
    | with_reducible assumption
    | with_reducible apply next_ok
    | with_reducible apply modFab_ok
    | with_reducible apply emit_ok
    | with_reducible apply excludeDev_ok
    | with_reducible apply hearSerial_ok
    | with_reducible apply sendRoutes_ok
    | with_reducible apply ite_ok
    | (with_reducible refine foldl_ok ?_ (fun t a ht => ?_))

theorem setMaster_ok {s : State} (tm : Nat) (hs : StateOk s) : StateOk (setMaster s tm) := by
  unfold setMaster
  repeat' first
    | with_reducible assumption
    | with_reducible apply modFab_ok
    | with_reducible apply modTime_ok
    | with_reducible apply raiseDev_ok
    | with_reducible apply ite_ok

theorem electMaster_ok {s : State} (refOnly : Bool) (gone : List Nat) (hs : StateOk s) : StateOk (electMaster s refOnly gone) := by
  unfold electMaster
  repeat' first
    | with_reducible assumption
    | with_reducible apply sendRoutes_ok
    | with_reducible apply setMaster_ok
    | with_reducible apply ite_ok
    | (refine pair_ok (by with_reducible assumption) ?_)
    | simp only [mk_same_iff]
    | split

theorem execLeaderElect_ok {s : State} (hs : StateOk s) : OutOk (execLeaderElect s) := by
  unfold execLeaderElect
  repeat' first
    | with_reducible assumption
    | with_reducible apply next_ok
    | with_reducible apply modFab_ok
    | with_reducible apply electMaster_ok
    | with_reducible apply ite_ok

theorem installRoutes_ok {s : State} (rs : List (Nat × Word32)) (ms : List (Nat × BitVec 128)) (hs : StateOk s) : StateOk (installRoutes s rs ms) := by
  unfold installRoutes
  repeat' first
    | with_reducible assumption
    | with_reducible apply modFab_ok

theorem execRoutesInstall_ok (rs : List (Nat × Word32)) (ms : List (Nat × BitVec 128)) (p : TimePlace) {s : State} (hs : StateOk s) : OutOk (execRoutesInstall rs ms p s) := by
  unfold execRoutesInstall
  repeat' first
    | with_reducible assumption
    | with_reducible apply next_ok
    | with_reducible apply modFab_ok
    | with_reducible apply emit_ok
    | with_reducible apply setMaster_ok
    | with_reducible apply installRoutes_ok

theorem execPodUp_ok (members : List Nat) (pt : Word64) {s : State} (hs : StateOk s) : OutOk (execPodUp members pt s) := by
  unfold execPodUp
  repeat' first
    | with_reducible assumption
    | with_reducible apply next_ok
    | with_reducible apply modFab_ok
    | with_reducible apply emit_ok
    | with_reducible apply raiseDev_ok
    | with_reducible apply sendRoutes_ok
    | with_reducible apply ite_ok
    | (with_reducible refine foldl_ok ?_ (fun t a ht => ?_))

theorem execDiscoveryTimeout_ok {s : State} (hs : StateOk s) : OutOk (execDiscoveryTimeout s) := by
  unfold execDiscoveryTimeout
  repeat' first
    | with_reducible assumption
    | with_reducible apply next_ok
    | with_reducible apply raiseDev_ok
    | with_reducible apply ite_ok

theorem execRouteSummaryReceive_ok (pod : Nat) (trunk : Trunk) (devices : List Nat) {s : State} (hs : StateOk s) : OutOk (execRouteSummaryReceive pod trunk devices s) := by
  unfold execRouteSummaryReceive
  repeat' first
    | with_reducible assumption
    | with_reducible apply next_ok
    | with_reducible apply modFab_ok
    | with_reducible apply emit_ok
    | with_reducible apply installRoutes_ok
    | with_reducible apply ite_ok
    | (with_reducible refine foldl_ok ?_ (fun t a ht => ?_))

theorem loseColls_ok {s : State} (dev : Nat) (hs : StateOk s) : StateOk (loseColls s dev) := by
  unfold loseColls
  repeat' first
    | with_reducible assumption
    | with_reducible apply raiseCtx_ok
    | with_reducible apply modColl_ok
    | with_reducible apply endColl_ok
    | with_reducible apply driveColl_ok
    | with_reducible apply ite_ok
    | (with_reducible refine foldl_ok ?_ (fun t a ht => ?_))

theorem loseGroupMember_ok {s : State} (n : Nat) (held : List (Word16 × Word64)) (hs : StateOk s) : StateOk (loseGroupMember s n held) := by
  unfold loseGroupMember
  repeat' first
    | with_reducible assumption
    | with_reducible apply modAtt_ok
    | with_reducible apply emit_ok
    | with_reducible apply ite_ok
    | (refine pair_ok (by with_reducible assumption) ?_)
    | simp only [mk_same_iff]
    | split

theorem haltGroup_ok {s : State} (n : Nat) (hs : StateOk s) : StateOk (haltGroup s n) := by
  unfold haltGroup
  repeat' first
    | with_reducible assumption
    | with_reducible apply modCmt_ok
    | with_reducible apply sendCtl_ok

theorem startRecovery_ok {s : State} (dev : Nat) (groups : List Nat) (hs : StateOk s) : StateOk (startRecovery s dev groups) := by
  unfold startRecovery
  repeat' first
    | with_reducible assumption
    | with_reducible apply modFab_ok
    | with_reducible apply modRel_ok
    | with_reducible apply emit_ok
    | with_reducible apply raiseDev_ok
    | with_reducible apply haltGroup_ok
    | with_reducible apply ite_ok
    | (with_reducible refine foldl_ok ?_ (fun t a ht => ?_))
    | (refine pair_ok (by with_reducible assumption) ?_)
    | simp only
    | split

theorem dropMember_ok {s : State} (dev : Nat) (hs : StateOk s) : StateOk (dropMember s dev) := by
  unfold dropMember
  repeat' first
    | with_reducible assumption
    | with_reducible apply modFab_ok
    | with_reducible apply raiseDev_ok
    | with_reducible apply sendRoutes_ok
    | with_reducible apply electMaster_ok
    | with_reducible apply ite_ok

theorem forget_ok {s : State} (n dev : Nat) (hs : StateOk s) : StateOk (forget s n dev) := by
  unfold forget
  repeat' first
    | with_reducible assumption
    | with_reducible apply modCmt_ok

theorem execMemberLost_ok (loss : Loss) {s : State} (hs : StateOk s) : OutOk (execMemberLost loss s) := by
  unfold execMemberLost
  repeat' first
    | with_reducible assumption
    | with_reducible apply next_ok
    | with_reducible apply raiseDev_ok
    | with_reducible apply loseColls_ok
    | with_reducible apply loseGroupMember_ok
    | with_reducible apply startRecovery_ok
    | with_reducible apply dropMember_ok
    | with_reducible apply forget_ok
    | with_reducible apply ite_ok
    | (with_reducible refine foldl_ok ?_ (fun t a ht => ?_))

theorem execStarterRestoreLanded_ok (n : Nat) (rec_ : CommitRecord) {s : State} (hs : StateOk s) : OutOk (execStarterRestoreLanded n rec_ s) := by
  unfold execStarterRestoreLanded
  repeat' first
    | with_reducible assumption
    | with_reducible apply next_ok
    | with_reducible apply modCmt_ok
    | with_reducible apply modRel_ok
    | with_reducible apply raiseDev_ok
    | with_reducible apply sendResume_ok
    | with_reducible apply ite_ok
    | (with_reducible refine foldl_ok ?_ (fun t a ht => ?_))
    | simp only [mk_same_iff]
    | split
    | (simp only [mk_iff]; refine ⟨?_, ?_, ?_, ?_⟩)
    | with_reducible apply StateOk.memWf
    | with_reducible apply StateOk.hostWf
    | with_reducible apply StateOk.ctxs
    | with_reducible apply StateOk.region
    | with_reducible exact Rising.nil
    | with_reducible apply Rising.tput
    | with_reducible apply Rising.tdel
    | with_reducible apply Rising.filter
    | with_reducible apply Rising.tmap

theorem execStarterConfirm_ok (step : Word64) {s : State} (hs : StateOk s) : OutOk (execStarterConfirm step s) := by
  unfold execStarterConfirm
  repeat' first
    | with_reducible assumption
    | with_reducible apply next_ok
    | with_reducible apply modFab_ok

theorem execTimeExchange_ok (offset : Int) {s : State} (hs : StateOk s) : OutOk (execTimeExchange offset s) := by
  unfold execTimeExchange
  repeat' first
    | with_reducible assumption
    | with_reducible apply next_ok
    | with_reducible apply modTime_ok
    | with_reducible apply emit_ok
    | with_reducible apply raiseDev_ok
    | with_reducible apply ite_ok
    | (refine pair_ok (by with_reducible assumption) ?_)
    | simp only [mk_same_iff]
    | split

theorem execHoldoverTimeout_ok {s : State} (hs : StateOk s) : OutOk (execHoldoverTimeout s) := by
  unfold execHoldoverTimeout
  repeat' first
    | with_reducible assumption
    | with_reducible apply next_ok
    | with_reducible apply modTime_ok
    | with_reducible apply raiseDev_ok
    | with_reducible apply ite_ok

theorem execPtSyncEdge_ok {s : State} (hs : StateOk s) : OutOk (execPtSyncEdge s) := by
  unfold execPtSyncEdge
  repeat' first
    | with_reducible assumption
    | with_reducible apply next_ok
    | with_reducible apply modTime_ok
    | with_reducible apply raiseDev_ok
    | with_reducible apply ite_ok

theorem noteRef_ok {s : State} (dev : Nat) (ok : Bool) (hs : StateOk s) : StateOk (noteRef s dev ok) := by
  unfold noteRef
  repeat' first
    | with_reducible assumption
    | with_reducible apply modFab_ok
    | with_reducible apply emit_ok
    | with_reducible apply ite_ok

theorem refElect_ok {s : State} (dev : Nat) (ok : Bool) (hs : StateOk s) : StateOk (refElect s dev ok) := by
  unfold refElect
  repeat' first
    | with_reducible assumption
    | with_reducible apply electMaster_ok
    | with_reducible apply ite_ok

theorem hearRef_ok {s : State} (dev : Nat) (ok : Bool) (hs : StateOk s) : StateOk (hearRef s dev ok) := by
  unfold hearRef
  repeat' first
    | with_reducible assumption
    | with_reducible apply refElect_ok
    | with_reducible apply noteRef_ok
    | with_reducible apply ite_ok

theorem execPtRefLoss_ok {s : State} (hs : StateOk s) : OutOk (execPtRefLoss s) := by
  unfold execPtRefLoss
  repeat' first
    | with_reducible assumption
    | with_reducible apply next_ok
    | with_reducible apply modTime_ok
    | with_reducible apply raiseDev_ok
    | with_reducible apply refElect_ok
    | with_reducible apply noteRef_ok
    | with_reducible apply ite_ok

theorem execPtRefReturn_ok {s : State} (hs : StateOk s) : OutOk (execPtRefReturn s) := by
  unfold execPtRefReturn
  repeat' first
    | with_reducible assumption
    | with_reducible apply next_ok
    | with_reducible apply modTime_ok
    | with_reducible apply refElect_ok
    | with_reducible apply noteRef_ok
    | with_reducible apply ite_ok

theorem applyBeatChange_ok {s : State} (mark : Nat) (hs : StateOk s) : StateOk (applyBeatChange s mark) := by
  unfold applyBeatChange
  repeat' first
    | with_reducible assumption
    | with_reducible apply modTime_ok
    | with_reducible apply finish_ok
    | with_reducible apply ite_ok
    | (refine pair_ok (by with_reducible assumption) ?_)
    | simp only
    | split

theorem swapConfigs_ok {s : State} (beat mark : Nat) (hs : StateOk s) : StateOk (swapConfigs s beat mark) := by
  unfold swapConfigs
  repeat' first
    | with_reducible assumption
    | with_reducible apply modPart_ok
    | with_reducible apply raise_ok
    | with_reducible apply finish_ok
    | with_reducible apply ite_ok
    | (with_reducible refine foldl_ok ?_ (fun t a ht => ?_))
    | (refine pair_ok (by with_reducible assumption) ?_)
    | simp only
    | split

theorem countStalls_ok {s : State} (hs : StateOk s) : StateOk (countStalls s) := by
  unfold countStalls
  repeat' first
    | with_reducible assumption
    | with_reducible apply ite_ok
    | simp only [mk_same_iff]

theorem execBeatMark_ok {s : State} (hs : StateOk s) : OutOk (execBeatMark s) := by
  unfold execBeatMark
  repeat' first
    | with_reducible assumption
    | with_reducible apply next_ok
    | with_reducible apply modFab_ok
    | with_reducible apply modTime_ok
    | with_reducible apply modMgmt_ok
    | with_reducible apply modPwr_ok
    | with_reducible apply emit_ok
    | with_reducible apply openFirst_ok
    | with_reducible apply applyBeatChange_ok
    | with_reducible apply swapConfigs_ok
    | with_reducible apply countStalls_ok
    | (with_reducible refine modMem_ok ?_ (fun _ hb => ?_) (fun _ hb => ?_))
    | with_reducible apply ite_ok

theorem execBeatChange_ok (period : Word32) (origin beat : Word64) {s : State} (hs : StateOk s) : OutOk (execBeatChange period origin beat s) := by
  unfold execBeatChange
  repeat' first
    | with_reducible assumption
    | with_reducible apply next_ok
    | with_reducible apply modTime_ok
    | with_reducible apply ite_ok

theorem execPtAlarm_ok (k : Nat) {s : State} (hs : StateOk s) : OutOk (execPtAlarm k s) := by
  unfold execPtAlarm
  repeat' first
    | with_reducible assumption
    | with_reducible apply next_ok
    | with_reducible apply modTime_ok
    | with_reducible apply modPwr_ok
    | with_reducible apply ite_ok

theorem retireCore_ok {s : State} (n cause : Nat) (hs : StateOk s) : StateOk (retireCore s n cause) := by
  unfold retireCore
  repeat' first
    | with_reducible assumption
    | with_reducible apply modMap_ok
    | with_reducible apply modRel_ok
    | with_reducible apply remapEvent_ok
    | with_reducible apply failBeyond_ok
    | with_reducible apply ite_ok
    | (refine pair_ok (by with_reducible assumption) ?_)
    | simp only
    | split

theorem retireEngine_ok {s : State} (k cause : Nat) (hs : StateOk s) : StateOk (retireEngine s k cause) := by
  unfold retireEngine
  repeat' first
    | with_reducible assumption
    | with_reducible apply modRel_ok
    | with_reducible apply remapEvent_ok
    | with_reducible apply failBeyond_ok
    | with_reducible apply ite_ok

theorem quarantine_ok {s : State} (n cause : Nat) (hs : StateOk s) : StateOk (quarantine s n cause) := by
  unfold quarantine
  repeat' first
    | with_reducible assumption
    | with_reducible apply modMap_ok
    | with_reducible apply addRepair_ok
    | with_reducible apply ite_ok

theorem markCore_ok {s : State} (n cause : Nat) (hs : StateOk s) : StateOk (markCore s n cause) := by
  unfold markCore
  repeat' first
    | with_reducible assumption
    | with_reducible apply modMap_ok
    | with_reducible apply addRepair_ok
    | with_reducible apply quarantine_ok
    | with_reducible apply ite_ok

theorem markCheckCore_ok {s : State} (i cause : Nat) (hs : StateOk s) : StateOk (markCheckCore s i cause) := by
  unfold markCheckCore
  repeat' first
    | with_reducible assumption
    | with_reducible apply modRel_ok
    | with_reducible apply addRepair_ok
    | with_reducible apply ite_ok

theorem takeSample_ok {s : State} (n : Nat) (hs : StateOk s) : StateOk (takeSample s n) := by
  unfold takeSample
  repeat' first
    | with_reducible assumption
    | with_reducible apply modRel_ok

theorem resetCtx_ok {s : State} (inScope : Nat → Bool) (k : Nat) (c : Ctx) (hs : StateOk s) : StateOk (resetCtx s inScope k c) := by
  unfold resetCtx
  repeat' first
    | with_reducible assumption
    | with_reducible apply putCtx_ok
    | with_reducible apply modFab_ok
    | with_reducible apply modRel_ok
    | with_reducible apply endSave_ok
    | with_reducible apply groupsDone_ok
    | with_reducible apply ite_ok

theorem resetCores_ok {s : State} (inScope : Nat → Bool) (hs : StateOk s) : StateOk (resetCores s inScope) := by
  unfold resetCores
  repeat' first
    | with_reducible assumption
    | with_reducible apply takeSample_ok
    | with_reducible apply resetCtx_ok
    | with_reducible apply ite_ok
    | (with_reducible refine foldl_ok ?_ (fun t a ht => ?_))
    | simp only [mk_same_iff]

theorem remapScope_ok {s : State} (inScope : Nat → Bool) (engines : Bool) (failed : List Nat) (hs : StateOk s) : StateOk (remapScope s inScope engines failed) := by
  unfold remapScope
  repeat' first
    | with_reducible assumption
    | with_reducible apply modRel_ok
    | with_reducible apply retireCore_ok
    | with_reducible apply retireEngine_ok
    | with_reducible apply ite_ok
    | (with_reducible refine foldl_ok ?_ (fun t a ht => ?_))

theorem spareBank_ok {s : State} (unit cause : Nat) (hs : StateOk s) : StateOk (spareBank s unit cause) := by
  unfold spareBank
  repeat' first
    | with_reducible assumption
    | with_reducible apply remapEvent_ok
    | with_reducible apply failBeyond_ok
    | (with_reducible refine modMem_ok ?_ (fun _ hb => ?_) (fun _ hb => ?_))
    | with_reducible apply ite_ok

theorem spareChannel_ok {s : State} (p cause : Nat) (hs : StateOk s) : StateOk (spareChannel s p cause) := by
  unfold spareChannel
  repeat' first
    | with_reducible assumption
    | with_reducible apply modMemPart_ok
    | with_reducible apply remapEvent_ok
    | with_reducible apply failBeyond_ok
    | (with_reducible refine modMem_ok ?_ (fun _ hb => ?_) (fun _ hb => ?_))
    | with_reducible apply ite_ok

theorem spareMemory_ok {s : State} (failed : List Nat) (hs : StateOk s) : StateOk (spareMemory s failed) := by
  unfold spareMemory
  repeat' first
    | with_reducible assumption
    | with_reducible apply spareBank_ok
    | with_reducible apply spareChannel_ok
    | with_reducible apply ite_ok
    | (with_reducible refine foldl_ok ?_ (fun t a ht => ?_))

theorem hitMember_ok {s : State} (n : Nat) (hs : StateOk s) : StateOk (hitMember s n) := by
  unfold hitMember
  repeat' first
    | with_reducible assumption
    | with_reducible apply modAtt_ok
    | with_reducible apply causeAbandon_ok

theorem resumeMember_ok {s : State} (n : Nat) (hs : StateOk s) : StateOk (resumeMember s n) := by
  unfold resumeMember
  repeat' first
    | with_reducible assumption
    | with_reducible apply sendResume_ok
    | with_reducible apply ite_ok

theorem flushPart_ok {s : State} (n : Nat) (hs : StateOk s) : StateOk (flushPart s n) := by
  unfold flushPart
  repeat' first
    | with_reducible assumption
    | (with_reducible refine modMem_ok ?_ (fun _ hb => ?_) (fun _ hb => ?_))

theorem resetDone_ok {s : State} (scope target : Nat) (hs : StateOk s) : StateOk (resetDone s scope target) := by
  unfold resetDone
  repeat' first
    | with_reducible assumption
    | with_reducible apply modRel_ok
    | with_reducible apply raiseDev_ok
    | with_reducible apply ite_ok
    | (refine pair_ok (by with_reducible assumption) ?_)
    | with_reducible apply fresh_ok

theorem giveTurn_ok {s : State} (n : Nat) (k : Option Nat) (hs : StateOk s) : StateOk (giveTurn s n k) := by
  unfold giveTurn
  repeat' first
    | with_reducible assumption
    | with_reducible apply modCore_ok
    | with_reducible apply modPart_ok
    | with_reducible apply modRel_ok
    | with_reducible apply ite_ok

theorem startIsolation_ok {s : State} (inScope : Nat → Bool) (hs : StateOk s) : StateOk (startIsolation s inScope) := by
  unfold startIsolation
  repeat' first
    | with_reducible assumption
    | with_reducible apply giveTurn_ok
    | with_reducible apply ite_ok
    | (with_reducible refine foldl_ok ?_ (fun t a ht => ?_))

theorem doScopeReset_ok {s : State} (scope target : Nat) (failed : List Nat) (hs : StateOk s) : StateOk (doScopeReset s scope target failed) := by
  unfold doScopeReset
  repeat' first
    | with_reducible assumption
    | with_reducible apply modRel_ok
    | with_reducible apply pantryFlush_ok
    | with_reducible apply finish_ok
    | with_reducible apply resetCores_ok
    | with_reducible apply remapScope_ok
    | with_reducible apply spareMemory_ok
    | with_reducible apply hitMember_ok
    | with_reducible apply resumeMember_ok
    | with_reducible apply flushPart_ok
    | with_reducible apply resetDone_ok
    | with_reducible apply startIsolation_ok
    | with_reducible apply ite_ok
    | (with_reducible refine foldl_ok ?_ (fun t a ht => ?_))
    | simp only [mk_same_iff]

theorem requestReset_ok {s : State} (scope target : Nat) (o : Option Origin) (hs : StateOk s) : StateOk (requestReset s scope target o) := by
  unfold requestReset
  repeat' first
    | with_reducible assumption
    | with_reducible apply modPart_ok
    | with_reducible apply modRel_ok
    | with_reducible apply ite_ok
    | (with_reducible refine foldl_ok ?_ (fun t a ht => ?_))

theorem computeFailed_ok {s : State} (hs : StateOk s) : StateOk (computeFailed s) := by
  unfold computeFailed
  repeat' first
    | with_reducible assumption
    | with_reducible apply modRel_ok
    | with_reducible apply raiseDev_ok
    | with_reducible apply requestReset_ok

theorem execComputeResetFail_ok {s : State} (hs : StateOk s) : OutOk (execComputeResetFail s) := by
  unfold execComputeResetFail
  repeat' first
    | with_reducible assumption
    | with_reducible apply next_ok
    | with_reducible apply modRel_ok
    | with_reducible apply finish_ok
    | with_reducible apply computeFailed_ok
    | with_reducible apply ite_ok
    | (with_reducible refine foldl_ok ?_ (fun t a ht => ?_))

theorem boot_ok {s : State} (rm : Bool) (hs : StateOk s) : StateOk (boot s rm) := by
  unfold boot
  repeat' first
    | with_reducible assumption
    | with_reducible apply modMgmt_ok
    | with_reducible apply raiseDev_ok
    | with_reducible apply ite_ok

theorem endRunning_ok {s : State} (st : Nat) (hs : StateOk s) : StateOk (endRunning s st) := by
  unfold endRunning
  repeat' first
    | with_reducible assumption
    | with_reducible apply finish_ok
    | with_reducible apply ite_ok
    | (with_reducible refine foldl_ok ?_ (fun t a ht => ?_))

theorem deviceState_ok {s : State} (hs : StateOk s) : StateOk (deviceState s) := by
  unfold deviceState
  repeat' first
    | with_reducible assumption
    | with_reducible apply ite_ok
    | simp only
    | split
    | (simp only [mk_iff]; refine ⟨?_, ?_, ?_, ?_⟩)
    | with_reducible apply StateOk.memWf
    | with_reducible apply StateOk.hostWf
    | with_reducible apply StateOk.ctxs
    | with_reducible apply StateOk.region
    | with_reducible exact Rising.nil
    | with_reducible apply Rising.tput
    | with_reducible apply Rising.tdel
    | with_reducible apply Rising.filter
    | with_reducible apply Rising.tmap
    | with_reducible apply memPutAll_wf
    | with_reducible apply memClear_wf
    | with_reducible apply Memory.wf_filter
    | with_reducible exact wf_nil
    | simp only [freshHost_bytes]
    | (with_reducible refine Rising.mapv _ (fun _ => rfl) ?_)

theorem abortAfter_ok {before s : State} (hs : StateOk before) (hs1 : StateOk s) : StateOk (abortAfter before s) := by
  unfold abortAfter
  repeat' first
    | with_reducible assumption
    | with_reducible apply emit_ok
    | with_reducible apply ite_ok
    | (with_reducible refine foldl_ok ?_ (fun t a ht => ?_))

theorem doDeviceReset_ok {s : State} (scope : Nat) (failed : List Nat) (hs : StateOk s) : StateOk (doDeviceReset s scope failed) := by
  unfold doDeviceReset
  repeat' first
    | with_reducible assumption
    | with_reducible apply modPart_ok
    | with_reducible apply raise_ok
    | with_reducible apply takeSample_ok
    | with_reducible apply remapScope_ok
    | with_reducible apply spareMemory_ok
    | with_reducible apply resetDone_ok
    | with_reducible apply endRunning_ok
    | with_reducible apply deviceState_ok
    | with_reducible apply abortAfter_ok
    | with_reducible apply ite_ok
    | (with_reducible refine foldl_ok ?_ (fun t a ht => ?_))

theorem runDeviceReset_ok {s : State} (failed : List Nat) (hs : StateOk s) : StateOk (runDeviceReset s failed) := by
  unfold runDeviceReset
  repeat' first
    | with_reducible assumption
    | with_reducible apply next_ok
    | with_reducible apply modRel_ok
    | with_reducible apply boot_ok
    | with_reducible apply doDeviceReset_ok
    | with_reducible apply ite_ok

theorem execDeviceReset_ok {s : State} (hs : StateOk s) : OutOk (execDeviceReset s) := next_ok (runDeviceReset_ok [] hs)

theorem execScopeReset_ok (scope target : Nat) (failed : List Nat) {s : State} (hs : StateOk s) : OutOk (execScopeReset scope target failed s) := by
  unfold execScopeReset
  repeat' first
    | with_reducible assumption
    | with_reducible apply next_ok
    | with_reducible apply modRel_ok
    | with_reducible apply modPwr_ok
    | with_reducible apply runDeviceReset_ok
    | with_reducible apply doScopeReset_ok
    | with_reducible apply computeFailed_ok
    | with_reducible apply ite_ok

theorem execAlwaysOnRestart_ok (bootCore : Option (Bool × List Nat)) {s : State} (hs : StateOk s) : OutOk (execAlwaysOnRestart bootCore s) := by
  unfold execAlwaysOnRestart
  repeat' first
    | with_reducible assumption
    | with_reducible apply next_ok
    | with_reducible apply modMgmt_ok
    | with_reducible apply boot_ok
    | with_reducible apply deviceState_ok
    | with_reducible apply doDeviceReset_ok
    | with_reducible apply ite_ok
    | (refine pair_ok (by with_reducible assumption) ?_)
    | simp only [mk_same_iff]
    | split
    | (simp only [mk_iff]; refine ⟨?_, ?_, ?_, ?_⟩)
    | with_reducible apply StateOk.memWf
    | with_reducible apply StateOk.hostWf
    | with_reducible apply StateOk.ctxs
    | with_reducible apply StateOk.region
    | with_reducible exact Rising.nil
    | with_reducible exact wf_nil
    | simp only [freshHost_bytes]

theorem recovered_ok {s : State} (k : Nat) (hs : StateOk s) : StateOk (recovered s k) := by
  unfold recovered
  repeat' first
    | with_reducible assumption
    | with_reducible apply modRel_ok
    | with_reducible apply resumeMember_ok

theorem savePoisoned_ok {s : State} (k : Nat) (c : Ctx) (p : Policy) (hs : StateOk s) : StateOk (savePoisoned s k c p) := by
  unfold savePoisoned
  repeat' first
    | with_reducible assumption
    | with_reducible apply modPart_ok
    | with_reducible apply raiseCtx_ok
    | with_reducible apply stopCtx_ok
    | with_reducible apply ite_ok
    | (with_reducible refine foldl_ok ?_ (fun t a ht => ?_))
    | (refine pair_ok (by with_reducible assumption) ?_)
    | simp only
    | split

theorem execContextRecovery_ok (k : Nat) {s : State} (hs : StateOk s) : OutOk (execContextRecovery k s) := by
  unfold execContextRecovery
  repeat' first
    | with_reducible assumption
    | with_reducible apply next_ok
    | with_reducible apply modCtx_ok
    | with_reducible apply recovered_ok
    | with_reducible apply savePoisoned_ok
    | with_reducible apply ite_ok
    | (with_reducible refine foldl_ok ?_ (fun t a ht => ?_))
    | (refine pair_ok (by with_reducible assumption) ?_)
    | simp only
    | split

theorem nextSuspect_ok {s : State} (n k : Nat) (last : Bool) (hs : StateOk s) : StateOk (nextSuspect s n k last) := by
  unfold nextSuspect
  repeat' first
    | with_reducible assumption
    | with_reducible apply markCore_ok
    | with_reducible apply giveTurn_ok
    | with_reducible apply ite_ok
    | (refine pair_ok (by with_reducible assumption) ?_)
    | simp only [mk_same_iff]
    | split

theorem execIsolationReplay_ok (n k : Nat) (r : IsolationResult) {s : State} (hs : StateOk s) : OutOk (execIsolationReplay n k r s) := by
  unfold execIsolationReplay
  repeat' first
    | with_reducible assumption
    | with_reducible apply next_ok
    | with_reducible apply raiseCtx_ok
    | with_reducible apply stopCtx_ok
    | with_reducible apply giveTurn_ok
    | with_reducible apply nextSuspect_ok
    | with_reducible apply ite_ok
    | (refine pair_ok (by with_reducible assumption) ?_)
    | simp only
    | split

theorem testFailure_ok {s : State} (set unit : Nat) (hs : StateOk s) : StateOk (testFailure s set unit) := by
  unfold testFailure
  repeat' first
    | with_reducible assumption
    | with_reducible apply modLink_ok
    | with_reducible apply modOptic_ok
    | with_reducible apply raiseDev_ok
    | with_reducible apply remapEvent_ok
    | with_reducible apply declareFailed_ok
    | with_reducible apply failBeyond_ok
    | with_reducible apply retireCore_ok
    | with_reducible apply retireEngine_ok
    | with_reducible apply spareBank_ok
    | with_reducible apply spareChannel_ok
    | with_reducible apply ite_ok
    | (refine pair_ok (by with_reducible assumption) ?_)
    | simp only
    | split

theorem coldState_ok {s : State} (c : ColdStart) (hs : StateOk s) : StateOk (coldState s c) := by
  unfold coldState
  repeat' first
    | with_reducible assumption
    | with_reducible apply ite_ok
    | (with_reducible refine foldl_ok ?_ (fun t a ht => ?_))
    | simp only
    | split
    | (simp only [mk_iff]; refine ⟨?_, ?_, ?_, ?_⟩)
    | with_reducible apply StateOk.memWf
    | with_reducible apply StateOk.hostWf
    | with_reducible apply StateOk.ctxs
    | with_reducible apply StateOk.region
    | with_reducible exact Rising.nil
    | with_reducible apply Rising.tput
    | with_reducible apply Rising.tdel
    | with_reducible apply Rising.filter
    | with_reducible apply Rising.tmap
    | with_reducible apply memPutAll_wf
    | with_reducible apply memClear_wf
    | with_reducible apply Memory.wf_filter
    | with_reducible exact wf_nil

theorem startClocks_ok {s : State} (rpll : Bool) (hs : StateOk s) : StateOk (startClocks s rpll) := by
  unfold startClocks
  repeat' first
    | with_reducible assumption
    | with_reducible apply modPwr_ok
    | with_reducible apply raiseDev_ok
    | with_reducible apply declareFailed_ok
    | with_reducible apply ite_ok

theorem startMemory_ok {s : State} (hs : StateOk s) : StateOk (startMemory s) := by
  unfold startMemory
  repeat' first
    | with_reducible assumption
    | with_reducible apply putEntry_ok
    | (with_reducible refine modMem_ok ?_ (fun _ hb => ?_) (fun _ hb => ?_))

theorem execColdStart_ok (c : ColdStart) {s : State} (hs : StateOk s) : OutOk (execColdStart c s) := by
  unfold execColdStart
  repeat' first
    | with_reducible assumption
    | with_reducible apply next_ok
    | with_reducible apply modMgmt_ok
    | with_reducible apply boot_ok
    | with_reducible apply testFailure_ok
    | with_reducible apply coldState_ok
    | with_reducible apply startClocks_ok
    | with_reducible apply startMemory_ok
    | (with_reducible refine modMem_ok ?_ (fun _ hb => ?_) (fun _ hb => ?_))
    | with_reducible apply ite_ok
    | (with_reducible refine foldl_ok ?_ (fun t a ht => ?_))

end Sys2Proof.Machine
end

