-- ==== Sys2Proof/Laws/InvariantHost.lean ====
section
/-! SUPPORT. Every function of the machine keeps the invariant StateOk: the host interface, the registers, the mailbox, images and the
mailbox commands.
One lemma per function, each a walk over its definition that cites the lemmas of the functions it calls. -/
set_option Elab.async false
namespace Sys2Proof.Machine
open Sys2Proof
theorem stopRing_ok {s : State} (fn ch r code : Nat) (hs : StateOk s) : StateOk (stopRing s fn ch r code) := by
  unfold stopRing
  repeat' first
    | with_reducible assumption
    | with_reducible apply modRing_ok
    | with_reducible apply raise_ok

theorem hostWrite_ok {s : State} (a : Nat) (bs : List Byte) (hs : StateOk s) : StateOk (hostWrite s a bs) := by
  unfold hostWrite
  repeat' first
    | with_reducible assumption
    | (with_reducible refine modHost_ok ?_ (fun _ hb => ?_))
    | with_reducible apply ite_ok
    | simp only
    | split
    | with_reducible apply Rising.tput
    | with_reducible apply Rising.tdel
    | with_reducible apply Rising.filter
    | with_reducible apply Rising.tmap
    | with_reducible apply memPutAll_wf

theorem startRemote_ok {s : State} (fn ch r : Nat) (hs : StateOk s) : StateOk (startRemote s fn ch r) := by
  unfold startRemote
  repeat' first
    | with_reducible assumption
    | with_reducible apply modRing_ok
    | with_reducible apply emit_ok
    | with_reducible apply finish_ok
    | with_reducible apply ite_ok
    | (refine pair_ok (by with_reducible assumption) ?_)
    | simp only
    | split

theorem headCome_ok {s : State} (fn ch r : Nat) (hs : StateOk s) : StateOk (headCome s fn ch r) := by
  unfold headCome
  repeat' first
    | with_reducible assumption
    | with_reducible apply finish_ok
    | with_reducible apply startRemote_ok
    | with_reducible apply ite_ok
    | (refine pair_ok (by with_reducible assumption) ?_)
    | simp only
    | split

theorem ringBell_ok {s : State} (fn ch r : Nat) (value : Word32) (hs : StateOk s) : StateOk (ringBell s fn ch r value) := by
  unfold ringBell
  repeat' first
    | with_reducible assumption
    | with_reducible apply modRing_ok
    | (with_reducible refine modHost_ok ?_ (fun _ hb => ?_))

theorem queueRemote_ok {s : State} (key : Nat) (e : Entry) (hs : StateOk s) : StateOk (queueRemote s key e) := by
  unfold queueRemote
  repeat' first
    | with_reducible assumption
    | (with_reducible refine modHost_ok ?_ (fun _ hb => ?_))

theorem cmdDoorbell_ok {s : State} (fn ch r : Nat) (value : Word32) (hs : StateOk s) : StateOk (cmdDoorbell s fn ch r value) := by
  unfold cmdDoorbell
  repeat' first
    | with_reducible assumption
    | with_reducible apply stopRing_ok
    | with_reducible apply ringBell_ok
    | with_reducible apply ite_ok

theorem execCommandDoorbell_ok (fn ch r : Nat) (value : Word32) {s : State} (hs : StateOk s) : OutOk (execCommandDoorbell fn ch r value s) := by
  unfold execCommandDoorbell
  repeat' first
    | with_reducible assumption
    | with_reducible apply next_ok
    | with_reducible apply cmdDoorbell_ok

theorem execCommandFetch_ok (fn ch r : Nat) (bad : Bool) {s : State} (hs : StateOk s) : OutOk (execCommandFetch fn ch r bad s) := by
  unfold execCommandFetch
  repeat' first
    | with_reducible assumption
    | with_reducible apply next_ok
    | with_reducible apply modRing_ok
    | with_reducible apply stopRing_ok
    | with_reducible apply headCome_ok
    | with_reducible apply ite_ok

theorem execCompletionPost_ok (fn ch r : Nat) {s : State} (hs : StateOk s) : OutOk (execCompletionPost fn ch r s) := by
  unfold execCompletionPost
  repeat' first
    | with_reducible assumption
    | with_reducible apply next_ok
    | with_reducible apply modRing_ok
    | with_reducible apply signal_ok
    | with_reducible apply hostWrite_ok
    | with_reducible apply headCome_ok
    | with_reducible apply ite_ok
    | (refine pair_ok (by with_reducible assumption) ?_)
    | simp only
    | split

theorem cplDoorbell_ok {s : State} (fn ch r : Nat) (value : Word32) (hs : StateOk s) : StateOk (cplDoorbell s fn ch r value) := by
  unfold cplDoorbell
  repeat' first
    | with_reducible assumption
    | with_reducible apply modRing_ok
    | with_reducible apply stopRing_ok
    | with_reducible apply ite_ok

theorem execCompletionDoorbell_ok (fn ch r : Nat) (value : Word32) {s : State} (hs : StateOk s) : OutOk (execCompletionDoorbell fn ch r value s) := by
  unfold execCompletionDoorbell
  repeat' first
    | with_reducible assumption
    | with_reducible apply next_ok
    | with_reducible apply cplDoorbell_ok

theorem evtDoorbell_ok {s : State} (fn ch : Nat) (value : Word32) (hs : StateOk s) : StateOk (evtDoorbell s fn ch value) := by
  unfold evtDoorbell
  repeat' first
    | with_reducible assumption
    | with_reducible apply modChan_ok
    | with_reducible apply ite_ok

theorem execEventDoorbell_ok (fn ch : Nat) (value : Word32) {s : State} (hs : StateOk s) : OutOk (execEventDoorbell fn ch value s) := by
  unfold execEventDoorbell
  repeat' first
    | with_reducible assumption
    | with_reducible apply next_ok
    | with_reducible apply evtDoorbell_ok

theorem setRingEn_ok {s : State} (fn ch r : Nat) (en : Bool) (hs : StateOk s) : StateOk (setRingEn s fn ch r en) := by
  unfold setRingEn
  repeat' first
    | with_reducible assumption
    | with_reducible apply modRing_ok

theorem execRingEnable_ok (fn ch r : Nat) (en : Bool) {s : State} (hs : StateOk s) : OutOk (execRingEnable fn ch r en s) := by
  unfold execRingEnable
  repeat' first
    | with_reducible assumption
    | with_reducible apply next_ok
    | with_reducible apply setRingEn_ok
    | with_reducible apply ite_ok

theorem resetChan_ok {s : State} (fn ch : Nat) (hs : StateOk s) : StateOk (resetChan s fn ch) := by
  unfold resetChan
  repeat' first
    | with_reducible assumption
    | with_reducible apply modChan_ok

theorem execChannelReset_ok (fn ch : Nat) {s : State} (hs : StateOk s) : OutOk (execChannelReset fn ch s) := by
  unfold execChannelReset
  repeat' first
    | with_reducible assumption
    | with_reducible apply next_ok
    | with_reducible apply resetChan_ok
    | with_reducible apply ite_ok

theorem putRecord_ok {s : State} (fn ch rec_ : Nat) (hs : StateOk s) : StateOk (putRecord s fn ch rec_) := by
  unfold putRecord
  repeat' first
    | with_reducible assumption
    | with_reducible apply modChan_ok
    | with_reducible apply hostWrite_ok

theorem deliverEvent_ok {s : State} (rec_ : Nat) (fn ch : Nat) (hs : StateOk s) : StateOk (deliverEvent s rec_ fn ch) := by
  unfold deliverEvent
  repeat' first
    | with_reducible assumption
    | with_reducible apply modChan_ok
    | with_reducible apply signal_ok
    | with_reducible apply putRecord_ok
    | with_reducible apply ite_ok

theorem execEventPost_ok {s : State} (hs : StateOk s) : OutOk (execEventPost s) := by
  unfold execEventPost
  repeat' first
    | with_reducible assumption
    | with_reducible apply next_ok
    | with_reducible apply emit_ok
    | with_reducible apply deliverEvent_ok
    | (with_reducible refine modHost_ok ?_ (fun _ hb => ?_))
    | with_reducible apply ite_ok
    | (with_reducible refine foldl_ok ?_ (fun t a ht => ?_))
    | (refine pair_ok (by with_reducible assumption) ?_)
    | simp only
    | split

theorem execMgmtMessage_ok (slot : Nat) (m : MgmtMsg) {s : State} (hs : StateOk s) : OutOk (execMgmtMessage slot m s) := by
  unfold execMgmtMessage
  repeat' first
    | with_reducible assumption
    | with_reducible apply next_ok
    | with_reducible apply emit_ok
    | with_reducible apply raiseDev_ok
    | with_reducible apply finish_ok
    | with_reducible apply queueRemote_ok
    | with_reducible apply deliverEvent_ok
    | with_reducible apply hearRef_ok
    | with_reducible apply ite_ok
    | (with_reducible refine foldl_ok ?_ (fun t a ht => ?_))
    | (refine pair_ok (by with_reducible assumption) ?_)
    | simp only
    | split

theorem reply_ok {s : State} (r : Reply) (hs : StateOk s) : StateOk (reply s r) := by
  unfold reply
  repeat' first
    | with_reducible assumption
    | (with_reducible refine modHost_ok ?_ (fun _ hb => ?_))

theorem refuseHost_ok {s : State} (code da : Nat) (hs : StateOk s) : StateOk (refuseHost s code da) := by
  unfold refuseHost
  repeat' first
    | with_reducible assumption
    | with_reducible apply raise_ok

theorem execBar2Access_ok (fn : Nat) (a : Bar2) {s : State} (hs : StateOk s) : OutOk (execBar2Access fn a s) := by
  unfold execBar2Access
  repeat' first
    | with_reducible assumption
    | with_reducible apply next_ok
    | with_reducible apply raiseDev_ok
    | with_reducible apply demand_ok
    | with_reducible apply reply_ok
    | with_reducible apply refuseHost_ok
    | with_reducible apply devWrite_ok
    | with_reducible apply ite_ok
    | (with_reducible refine foldl_ok ?_ (fun t a ht => ?_))
    | (refine pair_ok (by with_reducible assumption) ?_)
    | simp only
    | split

theorem doFlr_ok {s : State} (fn : Nat) (hs : StateOk s) : StateOk (doFlr s fn) := by
  unfold doFlr
  repeat' first
    | with_reducible assumption
    | with_reducible apply modFn_ok
    | with_reducible apply raiseDev_ok
    | with_reducible apply endCtx_ok
    | with_reducible apply dropChecks_ok
    | with_reducible apply doScopeReset_ok
    | with_reducible apply ite_ok
    | (with_reducible refine foldl_ok ?_ (fun t a ht => ?_))

theorem execFlr_ok (fn : Nat) {s : State} (hs : StateOk s) : OutOk (execFlr fn s) := by
  unfold execFlr
  repeat' first
    | with_reducible assumption
    | with_reducible apply next_ok
    | with_reducible apply doFlr_ok

theorem flrVfs_ok {s : State} (hs : StateOk s) : StateOk (flrVfs s) := by
  unfold flrVfs
  repeat' first
    | with_reducible assumption
    | with_reducible apply doFlr_ok
    | with_reducible apply ite_ok
    | (with_reducible refine foldl_ok ?_ (fun t a ht => ?_))

theorem execVfEnableClear_ok {s : State} (hs : StateOk s) : OutOk (execVfEnableClear s) := by
  unfold execVfEnableClear
  repeat' first
    | with_reducible assumption
    | with_reducible apply next_ok
    | with_reducible apply flrVfs_ok
    | (with_reducible refine modHost_ok ?_ (fun _ hb => ?_))

theorem conventionalReset_ok {s : State} (hs : StateOk s) : StateOk (conventionalReset s) := by
  unfold conventionalReset
  repeat' first
    | with_reducible assumption
    | with_reducible apply requestReset_ok
    | with_reducible apply doFlr_ok
    | with_reducible apply flrVfs_ok
    | (with_reducible refine modHost_ok ?_ (fun _ hb => ?_))
    | with_reducible apply ite_ok

theorem execPerstOrHotReset_ok (perst : Bool) {s : State} (hs : StateOk s) : OutOk (execPerstOrHotReset perst s) := by
  unfold execPerstOrHotReset
  repeat' first
    | with_reducible assumption
    | with_reducible apply next_ok
    | with_reducible apply conventionalReset_ok
    | (with_reducible refine modHost_ok ?_ (fun _ hb => ?_))
    | with_reducible apply ite_ok

theorem execPerstDeassert_ok {s : State} (hs : StateOk s) : OutOk (execPerstDeassert s) := by
  unfold execPerstDeassert
  repeat' first
    | with_reducible assumption
    | with_reducible apply next_ok
    | (with_reducible refine modHost_ok ?_ (fun _ hb => ?_))

theorem sendPending_ok {s : State} (fn : Nat) (hs : StateOk s) : StateOk (sendPending s fn) := by
  unfold sendPending
  repeat' first
    | with_reducible assumption
    | with_reducible apply signal_ok
    | with_reducible apply ite_ok
    | (with_reducible refine foldl_ok ?_ (fun t a ht => ?_))

theorem execBusMasterEnable_ok (fn : Nat) {s : State} (hs : StateOk s) : OutOk (execBusMasterEnable fn s) := by
  unfold execBusMasterEnable
  repeat' first
    | with_reducible assumption
    | with_reducible apply next_ok
    | with_reducible apply modFn_ok
    | with_reducible apply sendPending_ok

theorem execD3hotEntry_ok (fn : Nat) {s : State} (hs : StateOk s) : OutOk (execD3hotEntry fn s) := by
  unfold execD3hotEntry
  repeat' first
    | with_reducible assumption
    | with_reducible apply next_ok
    | with_reducible apply modFn_ok

theorem execReturnToD0_ok (fn : Nat) {s : State} (hs : StateOk s) : OutOk (execReturnToD0 fn s) := by
  unfold execReturnToD0
  repeat' first
    | with_reducible assumption
    | with_reducible apply next_ok
    | with_reducible apply modFn_ok
    | with_reducible apply sendPending_ok

theorem releaseMember_ok {s : State} (n : Nat) (hs : StateOk s) : StateOk (releaseMember s n) := by
  unfold releaseMember
  repeat' first
    | with_reducible assumption
    | with_reducible apply modCmt_ok
    | with_reducible apply sendCtl_ok
    | with_reducible apply sendResume_ok
    | with_reducible apply ite_ok

theorem execRelease_ok (fn n : Nat) {s : State} (hs : StateOk s) : OutOk (execRelease fn n s) := by
  unfold execRelease
  repeat' first
    | with_reducible assumption
    | with_reducible apply next_ok
    | with_reducible apply releaseMember_ok
    | with_reducible apply ite_ok

theorem abandonMember_ok {s : State} (n : Nat) (hs : StateOk s) : StateOk (abandonMember s n) := by
  unfold abandonMember
  repeat' first
    | with_reducible assumption
    | with_reducible apply causeAbandon_ok
    | with_reducible apply ite_ok

theorem execAbandon_ok (fn n : Nat) {s : State} (hs : StateOk s) : OutOk (execAbandon fn n s) := by
  unfold execAbandon
  repeat' first
    | with_reducible assumption
    | with_reducible apply next_ok
    | with_reducible apply abandonMember_ok
    | with_reducible apply ite_ok

theorem execRngToutRead_ok (fn core : Nat) (hi : Bool) {s : State} (hs : StateOk s) : OutOk (execRngToutRead fn core hi s) := by
  unfold execRngToutRead
  repeat' first
    | with_reducible assumption
    | with_reducible apply next_ok
    | with_reducible apply reply_ok
    | with_reducible apply ite_ok

theorem writeChan_ok {s : State} (fn c o : Nat) (w : Wr) (hs : StateOk s) : StateOk (writeChan s fn c o w) := by
  unfold writeChan
  repeat' first
    | with_reducible assumption
    | with_reducible apply modChan_ok
    | with_reducible apply modRing_ok
    | with_reducible apply cmdDoorbell_ok
    | with_reducible apply cplDoorbell_ok
    | with_reducible apply evtDoorbell_ok
    | with_reducible apply setRingEn_ok
    | with_reducible apply resetChan_ok
    | with_reducible apply ite_ok
    | (refine pair_ok (by with_reducible assumption) ?_)
    | simp only
    | split

theorem writePart_ok {s : State} (n o : Nat) (w : Wr) (hs : StateOk s) : StateOk (writePart s n o w) := by
  unfold writePart
  repeat' first
    | with_reducible assumption
    | with_reducible apply modPart_ok
    | with_reducible apply releaseMember_ok
    | with_reducible apply abandonMember_ok
    | with_reducible apply ite_ok
    | (refine pair_ok (by with_reducible assumption) ?_)
    | simp only
    | split

theorem writeCore_ok {s : State} (fn n o : Nat) (w : Wr) (hs : StateOk s) : StateOk (writeCore s fn n o w) := by
  unfold writeCore
  repeat' first
    | with_reducible assumption
    | with_reducible apply modVc_ok
    | with_reducible apply modCore_ok
    | with_reducible apply ite_ok
    | (refine pair_ok (by with_reducible assumption) ?_)
    | simp only
    | split

theorem writeRel_ok {s : State} (o : Nat) (w : Wr) (hs : StateOk s) : StateOk (writeRel s o w) := by
  unfold writeRel
  repeat' first
    | with_reducible assumption
    | with_reducible apply modRel_ok
    | with_reducible apply ite_ok

theorem writePwr_ok {s : State} (o : Nat) (w : Wr) (hs : StateOk s) : StateOk (writePwr s o w) := by
  unfold writePwr
  repeat' first
    | with_reducible assumption
    | with_reducible apply modPwr_ok
    | with_reducible apply ite_ok

theorem driveObs_ok {s : State} (hs : StateOk s) : StateOk (driveObs s) := by
  unfold driveObs
  repeat' first
    | with_reducible assumption
    | with_reducible apply modMgmt_ok
    | with_reducible apply ite_ok
    | (refine pair_ok (by with_reducible assumption) ?_)
    | with_reducible apply fresh_ok
    | (refine pair_snd_ok (by with_reducible assumption) ?_)
    | simp only [mk_same_iff]
    | split

theorem setSel_ok {s : State} (sel : Word16) (jtag : Bool) (hs : StateOk s) : StateOk (setSel s sel jtag) := by
  unfold setSel
  repeat' first
    | with_reducible assumption
    | with_reducible apply modMgmt_ok
    | with_reducible apply driveObs_ok

theorem writeMgmt_ok {s : State} (o : Nat) (w : Wr) (hs : StateOk s) : StateOk (writeMgmt s o w) := by
  unfold writeMgmt
  repeat' first
    | with_reducible assumption
    | with_reducible apply modMgmt_ok
    | with_reducible apply driveObs_ok
    | with_reducible apply setSel_ok
    | with_reducible apply ite_ok
    | (refine pair_ok (by with_reducible assumption) ?_)
    | simp only [mk_same_iff]
    | split

theorem writeReg_ok {s : State} (fn off size : Nat) (value : Word64) (hs : StateOk s) : StateOk (writeReg s fn off size value) := by
  unfold writeReg
  repeat' first
    | with_reducible assumption
    | with_reducible apply modCluster_ok
    | with_reducible apply writeChan_ok
    | with_reducible apply writePart_ok
    | with_reducible apply writeCore_ok
    | with_reducible apply writeRel_ok
    | with_reducible apply writePwr_ok
    | with_reducible apply writeMgmt_ok
    | (with_reducible refine modMem_ok ?_ (fun _ hb => ?_) (fun _ hb => ?_))
    | with_reducible apply ite_ok
    | (refine pair_ok (by with_reducible assumption) ?_)
    | simp only [mk_same_iff]
    | split

theorem execRegisterWrite_ok (fn off size : Nat) (value : Word64) {s : State} (hs : StateOk s) : OutOk (execRegisterWrite fn off size value s) := by
  unfold execRegisterWrite
  repeat' first
    | with_reducible assumption
    | with_reducible apply next_ok
    | with_reducible apply writeReg_ok

theorem execObsSelWrite_ok (fn : Nat) (sel : Word16) {s : State} (hs : StateOk s) : OutOk (execObsSelWrite fn sel s) := by
  unfold execObsSelWrite
  repeat' first
    | with_reducible assumption
    | with_reducible apply next_ok
    | with_reducible apply setSel_ok
    | with_reducible apply ite_ok

theorem ok_ok {s : State} (result : Nat) (hs : StateOk s) : StateOk (ok s result).1 := by
  unfold ok
  repeat' first
    | with_reducible assumption

theorem bad_ok {s : State} (status : Nat) (hs : StateOk s) : StateOk (bad s status).1 := by
  unfold bad
  repeat' first
    | with_reducible assumption

theorem ruled_ok {s : State} (code : Nat) (hs : StateOk s) : StateOk (ruled s code).1 := by
  unfold ruled
  repeat' first
    | with_reducible assumption

theorem later_ok {s : State} (hs : StateOk s) : StateOk (later s).1 := by
  unfold later
  repeat' first
    | with_reducible assumption

theorem setRunning_ok {s : State} (o : Origin) (h : StateOk s) : StateOk (setRunning s o) := by
  unfold setRunning
  split
  · exact modRing_ok h _ _ _ _
  · exact modHost_ok h fun _ hb => hb

/-- The rules of a mailbox command keep the invariant. -/
def CmdOk (c : Cmd) : Prop := ∀ s o e n, StateOk s → StateOk (c.body s o e n).1
theorem runCmd_ok {c : Cmd} (hc : CmdOk c) {s : State} (hs : StateOk s) (o : Origin) (e : Entry) : StateOk (runCmd c o e s) := by
  unfold runCmd
  split
  · exact hs
  · split
    · exact finish_ok _ _ _ hs
    · split
      · exact hs
      · have h := hc (setRunning s o) o e (targetPart o e) (setRunning_ok o hs)
        split
        · rename_i e2
          rw [e2] at h
          exact finish_ok _ _ _ h
        · rename_i e2
          rw [e2] at h
          exact h

theorem packWindows_ok {s : State} (vs : List VRef) (b : Nat) (hs : StateOk s) : StateOk (packWindows s vs b).1 := by
  induction vs generalizing s b with
  | nil => exact hs
  | cons v vs ih => exact ih _ (modVc_ok hs v _)

theorem placeWindow_ok {s : State} (n size : Nat) (hs : StateOk s) : StateOk (placeWindow s n size).1 := by
  unfold placeWindow
  dsimp only
  split
  · exact hs
  · exact packWindows_ok _ _ hs

theorem seat_ok (k : Nat) {s : State} (d : Place × Nat × Bool) (x : Vcore) (hs : StateOk s) : StateOk (seat k s d x) := by
  unfold seat
  repeat' first
    | with_reducible assumption
    | with_reducible apply modCtx_ok
    | with_reducible apply modCore_ok
    | with_reducible apply placeWindow_ok

theorem reloadSwap_ok (t : Site) (placed : List (Place × Nat × Bool)) {s : State} (d : Nat × Bool) (hs : StateOk s) : StateOk (reloadSwap t placed s d) := by
  unfold reloadSwap
  repeat' first
    | with_reducible assumption
    | with_reducible apply modVc_ok
    | with_reducible apply ite_ok
    | (with_reducible refine foldl_ok ?_ (fun t a ht => ?_))

theorem imagePoison_ok {s : State} (n da : Nat) (hs : StateOk s) : StateOk (imagePoison s n da) := by
  unfold imagePoison
  repeat' first
    | with_reducible assumption
    | with_reducible apply modPart_ok
    | with_reducible apply raise_ok

/-- Both answers of a step of a program command are sound. -/
def AnsOk {α : Type} (x : Except Ans (State × α)) : Prop := (∀ a, x = .error a → StateOk a.1) ∧ ∀ r, x = .ok r → StateOk r.1
theorem AnsOk.error {α : Type} {a : Ans} (h : StateOk a.1) : AnsOk (.error a : Except Ans (State × α)) := And.intro (fun _ e => by cases e; exact h) (fun _ e => by cases e)
theorem AnsOk.ok {α : Type} {r : State × α} (h : StateOk r.1) : AnsOk (.ok r : Except Ans (State × α)) := And.intro (fun _ e => by cases e) (fun _ e => by cases e; exact h)
theorem imageBytes_ok {s : State} (q : Create) (h : StateOk s) : AnsOk (imageBytes s q) := by
  unfold imageBytes
  split
  · split
    · exact AnsOk.error (countRefused_ok _ (raise_ok _ _ _ _ h))
    · have h1 : StateOk (demand s none q.addr q.size) := demand_ok _ _ _ h
      exact iteInduction (fun _ => AnsOk.error (imagePoison_ok _ _ h1)) (fun _ => AnsOk.ok h1)
  · exact AnsOk.ok h

theorem progRefuse_ok {s : State} (n code : Nat) (hs : StateOk s) : StateOk (progRefuse s n code).1 := by
  unfold progRefuse
  repeat' first
    | with_reducible assumption
    | with_reducible apply raise_ok
    | with_reducible apply ruled_ok

theorem makeCtx_ok {s : State} (h : StateOk s) {state : State → Image → Except Ans (State × Tab Vcore)} (hst : ∀ t m, StateOk t → AnsOk (state t m))
    (q : Create) (restore rcvSave : Bool) : StateOk (makeCtx s q restore rcvSave state).1 := by
  unfold makeCtx
  dsimp only
  generalize (if q.clusters = 0 then (clusterSet s q.part).toNat else q.clusters) = ks
  split
  · exact h
  · split
    · exact h
    · have h1 := imageBytes_ok q h
      split
      · exact h1.1 _ (by assumption)
      · have h2 := h1.2 _ (by assumption)
        dsimp only at h2
        split
        · exact progRefuse_ok _ _ h2
        · split
          · exact progRefuse_ok _ _ h2
          · split
            · exact progRefuse_ok _ _ h2
            · split
              · exact h2
              · split
                · exact (hst _ _ h2).1 _ (by assumption)
                · have h4 := (hst _ _ h2).2 _ (by assumption)
                  dsimp only at h4
                  split
                  · exact progRefuse_ok _ _ h4
                  · split
                    · refine foldl_ok (foldl_ok (modPart_ok (foldl_ok (addMaps_ok _ _ (putCtx_ok h4 _ _)) fun u r hu => putEntry_ok _ _ hu) _ _)
                        fun u d hu => seat_ok _ _ _ hu) fun u d hu => reloadSwap_ok _ _ _ hu
                    · exact h4

theorem cmdCtxCreate_ok  : CmdOk cmdCtxCreate := by
  intro s o e n hs
  unfold cmdCtxCreate
  repeat' first
    | with_reducible assumption
    | exact AnsOk.ok ht
    | with_reducible apply ok_ok
    | (with_reducible refine makeCtx_ok ?_ (fun t m ht => ?_) _ _ _)

theorem execCtxCreate_ok (o : Origin) (e : Entry) {s : State} (hs : StateOk s) : OutOk (execCtxCreate o e s) := by
  unfold execCtxCreate
  repeat' first
    | with_reducible assumption
    | with_reducible apply next_ok
    | with_reducible apply cmdCtxCreate_ok
    | (with_reducible refine runCmd_ok ?_ (by assumption) _ _)

theorem loadSaves_ok (n base : Nat) {s : State} (m : Image) (h : StateOk s) : AnsOk (loadSaves n base s m) := by
  have refuse : ∀ (t : State) (code da : Nat), StateOk t →
      StateOk (ruled (countRefused (raise t code (some n) none (data2 da 0 (regionOf da))) n) code).1 :=
    fun t code da ht => countRefused_ok _ (raise_ok _ _ _ _ ht)
  unfold loadSaves
  dsimp only
  split
  · exact AnsOk.error (refuse _ _ _ h)
  · have h1 : StateOk (demand s none base 4096) := demand_ok _ _ _ h
    refine iteInduction (fun _ => AnsOk.error h1) (fun _ => ?_)
    refine foldl_any (P := AnsOk) (AnsOk.ok h1) fun y v hy => ?_
    split
    · exact AnsOk.error (hy.1 _ rfl)
    · have h2 := hy.2 _ rfl
      dsimp only at h2
      split
      · exact AnsOk.error (refuse _ _ _ h2)
      · refine iteInduction (fun _ => AnsOk.error (demand_ok _ _ _ h2)) (fun _ => ?_)
        refine iteInduction (fun _ => AnsOk.error (progRefuse_ok _ _ (demand_ok _ _ _ h2))) (fun _ => ?_)
        split
        · exact AnsOk.error (refuse _ _ _ (demand_ok _ _ _ h2))
        · exact iteInduction (fun _ => AnsOk.error (demand_ok _ _ _ (demand_ok _ _ _ h2)))
            (fun _ => AnsOk.ok (demand_ok _ _ _ (demand_ok _ _ _ h2)))

theorem cmdCtxRestore_ok  : CmdOk cmdCtxRestore := by
  intro s o e n hs
  unfold cmdCtxRestore
  repeat' first
    | with_reducible assumption
    | exact loadSaves_ok _ _ _ ht
    | with_reducible apply bad_ok
    | (with_reducible refine makeCtx_ok ?_ (fun t m ht => ?_) _ _ _)
    | with_reducible apply ite_ok
    | simp only
    | split

theorem execCtxRestore_ok (o : Origin) (e : Entry) {s : State} (hs : StateOk s) : OutOk (execCtxRestore o e s) := by
  unfold execCtxRestore
  repeat' first
    | with_reducible assumption
    | with_reducible apply next_ok
    | with_reducible apply cmdCtxRestore_ok
    | (with_reducible refine runCmd_ok ?_ (by assumption) _ _)

theorem cmdCtxDestroy_ok  : CmdOk cmdCtxDestroy := by
  intro s o e n hs
  unfold cmdCtxDestroy
  repeat' first
    | with_reducible assumption
    | with_reducible apply putCtx_ok
    | with_reducible apply destroyDone_ok
    | with_reducible apply ok_ok
    | with_reducible apply bad_ok
    | with_reducible apply later_ok
    | with_reducible apply ite_ok
    | (refine pair_ok (by with_reducible assumption) ?_)
    | simp only
    | split

theorem execCtxDestroy_ok (o : Origin) (e : Entry) {s : State} (hs : StateOk s) : OutOk (execCtxDestroy o e s) := by
  unfold execCtxDestroy
  repeat' first
    | with_reducible assumption
    | with_reducible apply next_ok
    | with_reducible apply cmdCtxDestroy_ok
    | (with_reducible refine runCmd_ok ?_ (by assumption) _ _)

theorem cmdCtxSave_ok  : CmdOk cmdCtxSave := by
  intro s o e n hs
  unfold cmdCtxSave
  repeat' first
    | with_reducible assumption
    | with_reducible apply putCtx_ok
    | with_reducible apply raiseCtx_ok
    | with_reducible apply countRefused_ok
    | with_reducible apply trySave_ok
    | with_reducible apply ok_ok
    | with_reducible apply bad_ok
    | with_reducible apply ruled_ok
    | with_reducible apply later_ok
    | with_reducible apply ite_ok
    | (with_reducible refine foldl_ok ?_ (fun t a ht => ?_))
    | (refine pair_ok (by with_reducible assumption) ?_)
    | simp only
    | split

theorem execCtxSave_ok (o : Origin) (e : Entry) {s : State} (hs : StateOk s) : OutOk (execCtxSave o e s) := by
  unfold execCtxSave
  repeat' first
    | with_reducible assumption
    | with_reducible apply next_ok
    | with_reducible apply cmdCtxSave_ok
    | (with_reducible refine runCmd_ok ?_ (by assumption) _ _)

theorem cmdCtxSetp_ok  : CmdOk cmdCtxSetp := by
  intro s o e n hs
  unfold cmdCtxSetp
  repeat' first
    | with_reducible assumption
    | with_reducible apply putCtx_ok
    | with_reducible apply ok_ok
    | with_reducible apply bad_ok
    | with_reducible apply ite_ok
    | (refine pair_ok (by with_reducible assumption) ?_)
    | simp only
    | split

theorem execCtxSetp_ok (o : Origin) (e : Entry) {s : State} (hs : StateOk s) : OutOk (execCtxSetp o e s) := by
  unfold execCtxSetp
  repeat' first
    | with_reducible assumption
    | with_reducible apply next_ok
    | with_reducible apply cmdCtxSetp_ok
    | (with_reducible refine runCmd_ok ?_ (by assumption) _ _)

theorem cmdRoutineQuery_ok  : CmdOk cmdRoutineQuery := by
  intro s o e n hs
  unfold cmdRoutineQuery
  repeat' first
    | with_reducible assumption
    | with_reducible apply hostWrite_ok
    | with_reducible apply ok_ok
    | with_reducible apply bad_ok
    | with_reducible apply ite_ok
    | simp only
    | split

theorem execRoutineQuery_ok (o : Origin) (e : Entry) {s : State} (hs : StateOk s) : OutOk (execRoutineQuery o e s) := by
  unfold execRoutineQuery
  repeat' first
    | with_reducible assumption
    | with_reducible apply next_ok
    | with_reducible apply cmdRoutineQuery_ok
    | (with_reducible refine runCmd_ok ?_ (by assumption) _ _)

theorem cmdCtxQuery_ok  : CmdOk cmdCtxQuery := by
  intro s o e n hs
  unfold cmdCtxQuery
  repeat' first
    | with_reducible assumption
    | with_reducible apply ok_ok
    | with_reducible apply bad_ok
    | with_reducible apply ite_ok
    | (refine pair_ok (by with_reducible assumption) ?_)
    | simp only
    | split

theorem execCtxQuery_ok (o : Origin) (e : Entry) {s : State} (hs : StateOk s) : OutOk (execCtxQuery o e s) := by
  unfold execCtxQuery
  repeat' first
    | with_reducible assumption
    | with_reducible apply next_ok
    | with_reducible apply cmdCtxQuery_ok
    | (with_reducible refine runCmd_ok ?_ (by assumption) _ _)

theorem cmdCtxRun_ok  : CmdOk cmdCtxRun := by
  intro s o e n hs
  unfold cmdCtxRun
  repeat' first
    | with_reducible assumption
    | with_reducible apply putCtx_ok
    | with_reducible apply ok_ok
    | with_reducible apply bad_ok
    | with_reducible apply ite_ok
    | (refine pair_ok (by with_reducible assumption) ?_)
    | simp only
    | split

theorem execCtxRun_ok (o : Origin) (e : Entry) {s : State} (hs : StateOk s) : OutOk (execCtxRun o e s) := by
  unfold execCtxRun
  repeat' first
    | with_reducible assumption
    | with_reducible apply next_ok
    | with_reducible apply cmdCtxRun_ok
    | (with_reducible refine runCmd_ok ?_ (by assumption) _ _)

theorem cmdIdentify_ok  : CmdOk cmdIdentify := by
  intro s o e n hs
  unfold cmdIdentify
  repeat' first
    | with_reducible assumption
    | with_reducible apply hostWrite_ok
    | with_reducible apply ok_ok
    | with_reducible apply ite_ok

theorem execIdentify_ok (o : Origin) (e : Entry) {s : State} (hs : StateOk s) : OutOk (execIdentify o e s) := by
  unfold execIdentify
  repeat' first
    | with_reducible assumption
    | with_reducible apply next_ok
    | with_reducible apply cmdIdentify_ok
    | (with_reducible refine runCmd_ok ?_ (by assumption) _ _)

theorem cmdEventMask_ok  : CmdOk cmdEventMask := by
  intro s o e n hs
  unfold cmdEventMask
  repeat' first
    | with_reducible assumption
    | with_reducible apply modChan_ok
    | with_reducible apply ok_ok

theorem execEventMask_ok (o : Origin) (e : Entry) {s : State} (hs : StateOk s) : OutOk (execEventMask o e s) := by
  unfold execEventMask
  repeat' first
    | with_reducible assumption
    | with_reducible apply next_ok
    | with_reducible apply cmdEventMask_ok
    | (with_reducible refine runCmd_ok ?_ (by assumption) _ _)

theorem partEvent_ok {s : State} (e : Entry) (hs : StateOk s) : StateOk (partEvent s e) := by
  unfold partEvent
  repeat' first
    | with_reducible assumption
    | with_reducible apply raiseDev_ok

theorem cmdPartCreate_ok  : CmdOk cmdPartCreate := by
  intro s o e n hs
  unfold cmdPartCreate
  repeat' first
    | with_reducible assumption
    | with_reducible apply modPart_ok
    | with_reducible apply ok_ok
    | with_reducible apply bad_ok
    | with_reducible apply partEvent_ok
    | with_reducible apply ite_ok
    | simp only
    | split

theorem execPartCreate_ok (o : Origin) (e : Entry) {s : State} (hs : StateOk s) : OutOk (execPartCreate o e s) := by
  unfold execPartCreate
  repeat' first
    | with_reducible assumption
    | with_reducible apply next_ok
    | with_reducible apply cmdPartCreate_ok
    | (with_reducible refine runCmd_ok ?_ (by assumption) _ _)

theorem cmdPartResize_ok  : CmdOk cmdPartResize := by
  intro s o e n hs
  unfold cmdPartResize
  repeat' first
    | with_reducible assumption
    | with_reducible apply modPart_ok
    | with_reducible apply ok_ok
    | with_reducible apply bad_ok
    | with_reducible apply partEvent_ok
    | with_reducible apply ite_ok
    | simp only
    | split

theorem execPartResize_ok (o : Origin) (e : Entry) {s : State} (hs : StateOk s) : OutOk (execPartResize o e s) := by
  unfold execPartResize
  repeat' first
    | with_reducible assumption
    | with_reducible apply next_ok
    | with_reducible apply cmdPartResize_ok
    | (with_reducible refine runCmd_ok ?_ (by assumption) _ _)

theorem cmdPartRemove_ok  : CmdOk cmdPartRemove := by
  intro s o e n hs
  unfold cmdPartRemove
  repeat' first
    | with_reducible assumption
    | with_reducible apply modPart_ok
    | with_reducible apply modFab_ok
    | with_reducible apply pantryTrim_ok
    | with_reducible apply ok_ok
    | with_reducible apply bad_ok
    | with_reducible apply partEvent_ok
    | (with_reducible refine modMem_ok ?_ (fun _ hb => ?_) (fun _ hb => ?_))
    | with_reducible apply ite_ok
    | simp only
    | split

theorem execPartRemove_ok (o : Origin) (e : Entry) {s : State} (hs : StateOk s) : OutOk (execPartRemove o e s) := by
  unfold execPartRemove
  repeat' first
    | with_reducible assumption
    | with_reducible apply next_ok
    | with_reducible apply cmdPartRemove_ok
    | (with_reducible refine runCmd_ok ?_ (by assumption) _ _)

theorem cmdPartQuery_ok  : CmdOk cmdPartQuery := by
  intro s o e n hs
  unfold cmdPartQuery
  repeat' first
    | with_reducible assumption
    | with_reducible apply ok_ok

theorem execPartQuery_ok (o : Origin) (e : Entry) {s : State} (hs : StateOk s) : OutOk (execPartQuery o e s) := by
  unfold execPartQuery
  repeat' first
    | with_reducible assumption
    | with_reducible apply next_ok
    | with_reducible apply cmdPartQuery_ok
    | (with_reducible refine runCmd_ok ?_ (by assumption) _ _)

theorem cmdCfgSwap_ok  : CmdOk cmdCfgSwap := by
  intro s o e n hs
  unfold cmdCfgSwap
  repeat' first
    | with_reducible assumption
    | with_reducible apply modPart_ok
    | with_reducible apply bad_ok
    | with_reducible apply later_ok
    | with_reducible apply ite_ok
    | simp only
    | split

theorem execCfgSwap_ok (o : Origin) (e : Entry) {s : State} (hs : StateOk s) : OutOk (execCfgSwap o e s) := by
  unfold execCfgSwap
  repeat' first
    | with_reducible assumption
    | with_reducible apply next_ok
    | with_reducible apply cmdCfgSwap_ok
    | (with_reducible refine runCmd_ok ?_ (by assumption) _ _)

theorem cmdCfgCopy_ok  : CmdOk cmdCfgCopy := by
  intro s o e n hs
  unfold cmdCfgCopy
  repeat' first
    | with_reducible assumption
    | with_reducible apply modPart_ok
    | with_reducible apply ok_ok

theorem execCfgCopy_ok (o : Origin) (e : Entry) {s : State} (hs : StateOk s) : OutOk (execCfgCopy o e s) := by
  unfold execCfgCopy
  repeat' first
    | with_reducible assumption
    | with_reducible apply next_ok
    | with_reducible apply cmdCfgCopy_ok
    | (with_reducible refine runCmd_ok ?_ (by assumption) _ _)

theorem setIdleSlot_ok {s : State} (x : FwSlot) (hs : StateOk s) : StateOk (setIdleSlot s x) := by
  unfold setIdleSlot
  repeat' first
    | with_reducible assumption
    | with_reducible apply modMgmt_ok

theorem stageChunk_ok {s : State} (src : Origin) (off : Nat) (bs : List Byte) (last : Bool) (hs : StateOk s) : StateOk (stageChunk s src off bs last).1 := by
  unfold stageChunk
  repeat' first
    | with_reducible assumption
    | with_reducible apply modMgmt_ok
    | with_reducible apply raiseDev_ok
    | with_reducible apply setIdleSlot_ok
    | with_reducible apply ite_ok
    | (refine pair_ok (by with_reducible assumption) ?_)
    | simp only
    | split

theorem cmdFwStage_ok  : CmdOk cmdFwStage := by
  intro s o e n hs
  unfold cmdFwStage
  repeat' first
    | with_reducible assumption
    | with_reducible apply bad_ok
    | with_reducible apply stageChunk_ok
    | with_reducible apply ite_ok
    | (refine pair_ok (by with_reducible assumption) ?_)
    | simp only
    | split

theorem execFwStage_ok (o : Origin) (e : Entry) {s : State} (hs : StateOk s) : OutOk (execFwStage o e s) := by
  unfold execFwStage
  repeat' first
    | with_reducible assumption
    | with_reducible apply next_ok
    | with_reducible apply cmdFwStage_ok
    | (with_reducible refine runCmd_ok ?_ (by assumption) _ _)

theorem activateLive_ok {s : State} (o : Option Origin) (hs : StateOk s) : StateOk (activateLive s o).1 := by
  unfold activateLive
  repeat' first
    | with_reducible assumption
    | with_reducible apply modMgmt_ok
    | with_reducible apply raiseDev_ok
    | with_reducible apply ite_ok
    | (refine pair_ok (by with_reducible assumption) ?_)
    | simp only
    | split

theorem cmdFwActivate_ok  : CmdOk cmdFwActivate := by
  intro s o e n hs
  unfold cmdFwActivate
  repeat' first
    | with_reducible assumption
    | with_reducible apply modMgmt_ok
    | with_reducible apply ok_ok
    | with_reducible apply bad_ok
    | with_reducible apply activateLive_ok
    | with_reducible apply ite_ok
    | (refine pair_ok (by with_reducible assumption) ?_)
    | simp only
    | split

theorem execFwActivate_ok (o : Origin) (e : Entry) {s : State} (hs : StateOk s) : OutOk (execFwActivate o e s) := by
  unfold execFwActivate
  repeat' first
    | with_reducible assumption
    | with_reducible apply next_ok
    | with_reducible apply cmdFwActivate_ok
    | (with_reducible refine runCmd_ok ?_ (by assumption) _ _)

theorem cmdFwQuery_ok  : CmdOk cmdFwQuery := by
  intro s o e n hs
  unfold cmdFwQuery
  repeat' first
    | with_reducible assumption
    | with_reducible apply ok_ok

theorem execFwQuery_ok (o : Origin) (e : Entry) {s : State} (hs : StateOk s) : OutOk (execFwQuery o e s) := by
  unfold execFwQuery
  repeat' first
    | with_reducible assumption
    | with_reducible apply next_ok
    | with_reducible apply cmdFwQuery_ok
    | (with_reducible refine runCmd_ok ?_ (by assumption) _ _)

theorem writtenTable_rising {t : Tab Word64} (first count : Nat) (v m : Word64) (h : Rising t) :
    Rising (writtenTable t first count v m) := by
  unfold writtenTable
  refine foldl_any h fun u i hu => ?_
  dsimp only
  split
  · exact hu.tdel _
  · exact hu.tput _ _

theorem cmdRegionSet_ok  : CmdOk cmdRegionSet := by
  intro s o e n hs
  unfold cmdRegionSet
  repeat' first
    | with_reducible assumption
    | with_reducible apply writtenTable_rising
    | exact hs.region
    | with_reducible apply raise_ok
    | with_reducible apply putEntry_ok
    | with_reducible apply pantryTrim_ok
    | with_reducible apply ok_ok
    | with_reducible apply bad_ok
    | with_reducible apply ruled_ok
    | with_reducible apply later_ok
    | (with_reducible refine modMem_ok ?_ (fun _ hb => ?_) (fun _ hb => ?_))
    | with_reducible apply ite_ok
    | (with_reducible refine foldl_ok ?_ (fun t a ht => ?_))
    | simp only
    | split

theorem execRegionSet_ok (o : Origin) (e : Entry) {s : State} (hs : StateOk s) : OutOk (execRegionSet o e s) := by
  unfold execRegionSet
  repeat' first
    | with_reducible assumption
    | with_reducible apply next_ok
    | with_reducible apply cmdRegionSet_ok
    | (with_reducible refine runCmd_ok ?_ (by assumption) _ _)

theorem cmdRegionQuery_ok  : CmdOk cmdRegionQuery := by
  intro s o e n hs
  unfold cmdRegionQuery
  repeat' first
    | with_reducible assumption
    | with_reducible apply ok_ok
    | with_reducible apply bad_ok
    | with_reducible apply ite_ok
    | simp only
    | split

theorem execRegionQuery_ok (o : Origin) (e : Entry) {s : State} (hs : StateOk s) : OutOk (execRegionQuery o e s) := by
  unfold execRegionQuery
  repeat' first
    | with_reducible assumption
    | with_reducible apply next_ok
    | with_reducible apply cmdRegionQuery_ok
    | (with_reducible refine runCmd_ok ?_ (by assumption) _ _)

theorem cmdPantryShare_ok  : CmdOk cmdPantryShare := by
  intro s o e n hs
  unfold cmdPantryShare
  repeat' first
    | with_reducible assumption
    | with_reducible apply raiseDev_ok
    | with_reducible apply pantryTrim_ok
    | with_reducible apply ok_ok
    | with_reducible apply bad_ok
    | with_reducible apply ruled_ok
    | (with_reducible refine modMem_ok ?_ (fun _ hb => ?_) (fun _ hb => ?_))
    | with_reducible apply ite_ok
    | simp only
    | split

theorem execPantryShare_ok (o : Origin) (e : Entry) {s : State} (hs : StateOk s) : OutOk (execPantryShare o e s) := by
  unfold execPantryShare
  repeat' first
    | with_reducible assumption
    | with_reducible apply next_ok
    | with_reducible apply cmdPantryShare_ok
    | (with_reducible refine runCmd_ok ?_ (by assumption) _ _)

theorem cmdHostCopy_ok  : CmdOk cmdHostCopy := by
  intro s o e n hs
  unfold cmdHostCopy
  repeat' first
    | with_reducible assumption
    | with_reducible apply raise_ok
    | with_reducible apply raiseDev_ok
    | with_reducible apply countRefused_ok
    | with_reducible apply demand_ok
    | with_reducible apply hostWrite_ok
    | with_reducible apply ok_ok
    | with_reducible apply bad_ok
    | with_reducible apply ruled_ok
    | (with_reducible refine modHost_ok ?_ (fun _ hb => ?_))
    | with_reducible apply devWrite_ok
    | with_reducible apply ite_ok
    | (refine pair_ok (by with_reducible assumption) ?_)
    | simp only
    | split

theorem execHostCopy_ok (o : Origin) (e : Entry) {s : State} (hs : StateOk s) : OutOk (execHostCopy o e s) := by
  unfold execHostCopy
  repeat' first
    | with_reducible assumption
    | with_reducible apply next_ok
    | with_reducible apply cmdHostCopy_ok
    | (with_reducible refine runCmd_ok ?_ (by assumption) _ _)

theorem cmdLinkCtl_ok  : CmdOk cmdLinkCtl := by
  intro s o e n hs
  unfold cmdLinkCtl
  repeat' first
    | with_reducible assumption
    | with_reducible apply modLink_ok
    | with_reducible apply trainLink_ok
    | with_reducible apply ok_ok
    | with_reducible apply ite_ok

theorem execLinkCtlCommand_ok (o : Origin) (e : Entry) {s : State} (hs : StateOk s) : OutOk (execLinkCtlCommand o e s) := by
  unfold execLinkCtlCommand
  repeat' first
    | with_reducible assumption
    | with_reducible apply next_ok
    | with_reducible apply cmdLinkCtl_ok
    | (with_reducible refine runCmd_ok ?_ (by assumption) _ _)

theorem cmdFabricSet_ok  : CmdOk cmdFabricSet := by
  intro s o e n hs
  unfold cmdFabricSet
  repeat' first
    | with_reducible assumption
    | with_reducible apply modFab_ok
    | with_reducible apply ok_ok
    | with_reducible apply bad_ok
    | with_reducible apply ite_ok
    | simp only
    | split

theorem execFabricSet_ok (o : Origin) (e : Entry) {s : State} (hs : StateOk s) : OutOk (execFabricSet o e s) := by
  unfold execFabricSet
  repeat' first
    | with_reducible assumption
    | with_reducible apply next_ok
    | with_reducible apply cmdFabricSet_ok
    | (with_reducible refine runCmd_ok ?_ (by assumption) _ _)

theorem cmdPtSet_ok  : CmdOk cmdPtSet := by
  intro s o e n hs
  unfold cmdPtSet
  repeat' first
    | with_reducible assumption
    | with_reducible apply modTime_ok
    | with_reducible apply emit_ok
    | with_reducible apply ok_ok
    | with_reducible apply bad_ok
    | with_reducible apply later_ok
    | with_reducible apply ite_ok
    | simp only
    | split

theorem execPtSet_ok (o : Origin) (e : Entry) {s : State} (hs : StateOk s) : OutOk (execPtSet o e s) := by
  unfold execPtSet
  repeat' first
    | with_reducible assumption
    | with_reducible apply next_ok
    | with_reducible apply cmdPtSet_ok
    | (with_reducible refine runCmd_ok ?_ (by assumption) _ _)

theorem cmdCgroupSet_ok  : CmdOk cmdCgroupSet := by
  intro s o e n hs
  unfold cmdCgroupSet
  repeat' first
    | with_reducible assumption
    | with_reducible apply modFab_ok
    | with_reducible apply ok_ok
    | with_reducible apply bad_ok
    | with_reducible apply ite_ok
    | (refine pair_ok (by with_reducible assumption) ?_)
    | simp only
    | split

theorem execCgroupSet_ok (o : Origin) (e : Entry) {s : State} (hs : StateOk s) : OutOk (execCgroupSet o e s) := by
  unfold execCgroupSet
  repeat' first
    | with_reducible assumption
    | with_reducible apply next_ok
    | with_reducible apply cmdCgroupSet_ok
    | (with_reducible refine runCmd_ok ?_ (by assumption) _ _)

theorem cmdCgroupClear_ok  : CmdOk cmdCgroupClear := by
  intro s o e n hs
  unfold cmdCgroupClear
  repeat' first
    | with_reducible assumption
    | with_reducible apply modFab_ok
    | with_reducible apply ok_ok
    | with_reducible apply bad_ok
    | with_reducible apply later_ok
    | with_reducible apply ite_ok
    | (refine pair_ok (by with_reducible assumption) ?_)
    | simp only
    | split

theorem execCgroupClear_ok (o : Origin) (e : Entry) {s : State} (hs : StateOk s) : OutOk (execCgroupClear o e s) := by
  unfold execCgroupClear
  repeat' first
    | with_reducible assumption
    | with_reducible apply next_ok
    | with_reducible apply cmdCgroupClear_ok
    | (with_reducible refine runCmd_ok ?_ (by assumption) _ _)

theorem cmdStarterRecv_ok  : CmdOk cmdStarterRecv := by
  intro s o e n hs
  unfold cmdStarterRecv
  repeat' first
    | with_reducible assumption
    | with_reducible apply modFab_ok
    | with_reducible apply ok_ok
    | with_reducible apply bad_ok
    | with_reducible apply ite_ok
    | simp only
    | split

theorem execStarterRecv_ok (o : Origin) (e : Entry) {s : State} (hs : StateOk s) : OutOk (execStarterRecv o e s) := by
  unfold execStarterRecv
  repeat' first
    | with_reducible assumption
    | with_reducible apply next_ok
    | with_reducible apply cmdStarterRecv_ok
    | (with_reducible refine runCmd_ok ?_ (by assumption) _ _)

theorem cmdStarterSet_ok  : CmdOk cmdStarterSet := by
  intro s o e n hs
  unfold cmdStarterSet
  repeat' first
    | with_reducible assumption
    | with_reducible apply modFab_ok
    | with_reducible apply ok_ok
    | with_reducible apply bad_ok
    | with_reducible apply ite_ok
    | simp only
    | split

theorem execStarterSet_ok (o : Origin) (e : Entry) {s : State} (hs : StateOk s) : OutOk (execStarterSet o e s) := by
  unfold execStarterSet
  repeat' first
    | with_reducible assumption
    | with_reducible apply next_ok
    | with_reducible apply cmdStarterSet_ok
    | (with_reducible refine runCmd_ok ?_ (by assumption) _ _)

theorem cmdReset_ok  : CmdOk cmdReset := by
  intro s o e n hs
  unfold cmdReset
  repeat' first
    | with_reducible assumption
    | with_reducible apply requestReset_ok
    | with_reducible apply ok_ok
    | with_reducible apply bad_ok
    | with_reducible apply later_ok
    | with_reducible apply ite_ok
    | simp only
    | split

theorem execReset_ok (o : Origin) (e : Entry) {s : State} (hs : StateOk s) : OutOk (execReset o e s) := by
  unfold execReset
  repeat' first
    | with_reducible assumption
    | with_reducible apply next_ok
    | with_reducible apply cmdReset_ok
    | (with_reducible refine runCmd_ok ?_ (by assumption) _ _)

theorem cmdSnetSet_ok  : CmdOk cmdSnetSet := by
  intro s o e n hs
  unfold cmdSnetSet
  repeat' first
    | with_reducible assumption
    | with_reducible apply modPart_ok
    | with_reducible apply sampleNext_ok
    | with_reducible apply ok_ok
    | with_reducible apply bad_ok
    | with_reducible apply ite_ok
    | simp only
    | split

theorem execSnetSet_ok (o : Origin) (e : Entry) {s : State} (hs : StateOk s) : OutOk (execSnetSet o e s) := by
  unfold execSnetSet
  repeat' first
    | with_reducible assumption
    | with_reducible apply next_ok
    | with_reducible apply cmdSnetSet_ok
    | (with_reducible refine runCmd_ok ?_ (by assumption) _ _)

theorem cmdRepairQuery_ok  : CmdOk cmdRepairQuery := by
  intro s o e n hs
  unfold cmdRepairQuery
  repeat' first
    | with_reducible assumption
    | with_reducible apply hostWrite_ok
    | with_reducible apply ok_ok

theorem execRepairQuery_ok (o : Origin) (e : Entry) {s : State} (hs : StateOk s) : OutOk (execRepairQuery o e s) := by
  unfold execRepairQuery
  repeat' first
    | with_reducible assumption
    | with_reducible apply next_ok
    | with_reducible apply cmdRepairQuery_ok
    | (with_reducible refine runCmd_ok ?_ (by assumption) _ _)

theorem testUnit_ok (set : Nat) (p : State × Nat) (unit : Nat) (h : StateOk p.1) : StateOk (testUnit set p unit).1 := by
  unfold testUnit
  split
  rename_i f s e
  have h1 : StateOk s := pair_snd_ok e (fresh_ok h)
  split
  · exact h1
  · refine ite_ok ?_ (quarantine_ok _ _ (raiseDev_ok _ _ h1))
    exact ite_ok (raiseDev_ok _ _ h1) (addRepair_ok _ _ _ _ _ (modRel_ok (raiseDev_ok _ _ h1) _))

theorem cmdFieldTest_ok  : CmdOk cmdFieldTest := by
  intro s o e n hs
  unfold cmdFieldTest
  repeat' first
    | with_reducible assumption
    | with_reducible apply pantryFlush_ok
    | with_reducible apply ok_ok
    | with_reducible apply bad_ok
    | with_reducible apply testUnit_ok
    | with_reducible apply ite_ok
    | (with_reducible refine foldl_fst_ok ?_ (fun t a ht => ?_))
    | (with_reducible refine foldl_ok ?_ (fun t a ht => ?_))
    | (refine pair_ok (by with_reducible assumption) ?_)
    | simp only
    | split

theorem execFieldTest_ok (o : Origin) (e : Entry) {s : State} (hs : StateOk s) : OutOk (execFieldTest o e s) := by
  unfold execFieldTest
  repeat' first
    | with_reducible assumption
    | with_reducible apply next_ok
    | with_reducible apply cmdFieldTest_ok
    | (with_reducible refine runCmd_ok ?_ (by assumption) _ _)

theorem cmdDiagRead_ok  : CmdOk cmdDiagRead := by
  intro s o e n hs
  unfold cmdDiagRead
  repeat' first
    | with_reducible assumption
    | with_reducible apply hostWrite_ok
    | with_reducible apply ok_ok

theorem execDiagRead_ok (o : Origin) (e : Entry) {s : State} (hs : StateOk s) : OutOk (execDiagRead o e s) := by
  unfold execDiagRead
  repeat' first
    | with_reducible assumption
    | with_reducible apply next_ok
    | with_reducible apply cmdDiagRead_ok
    | (with_reducible refine runCmd_ok ?_ (by assumption) _ _)

theorem cmdPowerState_ok  : CmdOk cmdPowerState := by
  intro s o e n hs
  unfold cmdPowerState
  repeat' first
    | with_reducible assumption
    | with_reducible apply modPwr_ok
    | with_reducible apply ok_ok
    | with_reducible apply bad_ok
    | with_reducible apply later_ok
    | with_reducible apply ite_ok
    | simp only
    | split

theorem execPowerState_ok (o : Origin) (e : Entry) {s : State} (hs : StateOk s) : OutOk (execPowerState o e s) := by
  unfold execPowerState
  repeat' first
    | with_reducible assumption
    | with_reducible apply next_ok
    | with_reducible apply cmdPowerState_ok
    | (with_reducible refine runCmd_ok ?_ (by assumption) _ _)

theorem cmdPartIdle_ok  : CmdOk cmdPartIdle := by
  intro s o e n hs
  unfold cmdPartIdle
  repeat' first
    | with_reducible assumption
    | with_reducible apply modPart_ok
    | with_reducible apply raise_ok
    | with_reducible apply ok_ok
    | with_reducible apply ite_ok
    | simp only
    | split

theorem execPartIdle_ok (o : Origin) (e : Entry) {s : State} (hs : StateOk s) : OutOk (execPartIdle o e s) := by
  unfold execPartIdle
  repeat' first
    | with_reducible assumption
    | with_reducible apply next_ok
    | with_reducible apply cmdPartIdle_ok
    | (with_reducible refine runCmd_ok ?_ (by assumption) _ _)

theorem readSensor_ok {s : State} (id : Nat) (hs : StateOk s) : StateOk (readSensor s id).1 := by
  unfold readSensor
  repeat' first
    | with_reducible assumption
    | with_reducible apply ite_ok
    | (refine pair_ok (by with_reducible assumption) ?_)
    | with_reducible apply fresh_ok
    | (refine pair_snd_ok (by with_reducible assumption) ?_)
    | simp only
    | split

theorem cmdSensorRead_ok  : CmdOk cmdSensorRead := by
  intro s o e n hs
  unfold cmdSensorRead
  repeat' first
    | with_reducible assumption
    | with_reducible apply ok_ok
    | with_reducible apply bad_ok
    | with_reducible apply readSensor_ok
    | with_reducible apply ite_ok
    | (refine pair_ok (by with_reducible assumption) ?_)
    | simp only
    | split

theorem execSensorRead_ok (o : Origin) (e : Entry) {s : State} (hs : StateOk s) : OutOk (execSensorRead o e s) := by
  unfold execSensorRead
  repeat' first
    | with_reducible assumption
    | with_reducible apply next_ok
    | with_reducible apply cmdSensorRead_ok
    | (with_reducible refine runCmd_ok ?_ (by assumption) _ _)

theorem cmdPowerCap_ok  : CmdOk cmdPowerCap := by
  intro s o e n hs
  unfold cmdPowerCap
  repeat' first
    | with_reducible assumption
    | with_reducible apply modPwr_ok
    | with_reducible apply ok_ok
    | with_reducible apply bad_ok
    | with_reducible apply ite_ok
    | simp only
    | split

theorem execPowerCap_ok (o : Origin) (e : Entry) {s : State} (hs : StateOk s) : OutOk (execPowerCap o e s) := by
  unfold execPowerCap
  repeat' first
    | with_reducible assumption
    | with_reducible apply next_ok
    | with_reducible apply cmdPowerCap_ok
    | (with_reducible refine runCmd_ok ?_ (by assumption) _ _)

end Sys2Proof.Machine
end

