-- ==== Sys2Proof/Laws/InvariantService.lean ====
section
/-! SUPPORT. Every function of the machine keeps the invariant StateOk: faults, power, the out-of-band port and the test access port.
One lemma per function, each a walk over its definition that cites the lemmas of the functions it calls. -/
set_option Elab.async false
namespace Sys2Proof.Machine
open Sys2Proof
theorem execResidueCheckpoint_ok (n : Nat) (m : Mismatch) {s : State} (hs : StateOk s) : OutOk (execResidueCheckpoint n m s) := by
  unfold execResidueCheckpoint
  repeat' first
    | with_reducible assumption
    | with_reducible apply next_ok
    | with_reducible apply raise_ok
    | with_reducible apply mismatchOp_ok
    | with_reducible apply mismatchArr_ok
    | with_reducible apply queueLayerCheck_ok
    | with_reducible apply ite_ok
    | (refine pair_ok (by with_reducible assumption) ?_)
    | simp only
    | split

theorem suspectAll_ok {s : State} (n : Nat) (hs : StateOk s) : StateOk (suspectAll s n) := by
  unfold suspectAll
  repeat' first
    | with_reducible assumption
    | with_reducible apply modRel_ok

theorem coreEvent_ok {s : State} (code n : Nat) (k : Option Nat) (hs : StateOk s) : StateOk (coreEvent s code n k) := by
  unfold coreEvent
  repeat' first
    | with_reducible assumption
    | with_reducible apply raise_ok

theorem coreFault_ok {s : State} (code n : Nat) (k : Option Nat) (hs : StateOk s) : StateOk (coreFault s code n k) := by
  unfold coreFault
  repeat' first
    | with_reducible assumption
    | with_reducible apply requestReset_ok
    | with_reducible apply suspectAll_ok
    | with_reducible apply coreEvent_ok
    | with_reducible apply ite_ok

theorem execParityError_ok (n source : Nat) (slot : Option Nat) {s : State} (hs : StateOk s) : OutOk (execParityError n source slot s) := by
  unfold execParityError
  repeat' first
    | with_reducible assumption
    | with_reducible apply next_ok
    | with_reducible apply modCore_ok
    | with_reducible apply coreFault_ok

theorem putCheck_ok {s : State} (c : Check) (hs : StateOk s) : StateOk (putCheck s c) := by
  unfold putCheck
  repeat' first
    | with_reducible assumption
    | with_reducible apply modRel_ok

theorem execCheckStart_ok {s : State} (hs : StateOk s) : OutOk (execCheckStart s) := by
  unfold execCheckStart
  repeat' first
    | with_reducible assumption
    | with_reducible apply next_ok
    | with_reducible apply putCheck_ok
    | with_reducible apply ite_ok
    | (refine pair_ok (by with_reducible assumption) ?_)
    | simp only [mk_same_iff]
    | split

theorem conclude_ok {s : State} (c : Check) (hs : StateOk s) : StateOk (conclude s c) := by
  unfold conclude
  repeat' first
    | with_reducible assumption
    | with_reducible apply modPart_ok
    | with_reducible apply modRel_ok
    | with_reducible apply releaseOp_ok
    | with_reducible apply ite_ok
    | (refine pair_ok (by with_reducible assumption) ?_)
    | simp only
    | split

theorem checkEvent_ok {s : State} (c : Check) (code : Nat) (hs : StateOk s) : StateOk (checkEvent s c code) := by
  unfold checkEvent
  repeat' first
    | with_reducible assumption
    | with_reducible apply raise_ok

theorem checkAbandons_ok {s : State} (c : Check) (hs : StateOk s) : StateOk (checkAbandons s c) := by
  unfold checkAbandons
  repeat' first
    | with_reducible assumption
    | with_reducible apply causeAbandon_ok
    | with_reducible apply putCheck_ok
    | with_reducible apply conclude_ok
    | with_reducible apply ite_ok

theorem replaceOut_ok {s : State} (c : Check) (bs : List Byte) (hs : StateOk s) : StateOk (replaceOut s c bs) := by
  unfold replaceOut
  repeat' first
    | with_reducible assumption
    | with_reducible apply spWrite_ok
    | with_reducible apply devWrite_ok
    | with_reducible apply ite_ok
    | (with_reducible refine foldl_fst_ok ?_ (fun t a ht => ?_))
    | (with_reducible refine foldl_ok ?_ (fun t a ht => ?_))
    | (refine pair_ok (by with_reducible assumption) ?_)
    | simp only [mk_same_iff]
    | split

theorem markPlace_ok {s : State} (c : Check) (i : Option Nat) (cause : Nat) (hs : StateOk s) : StateOk (markPlace s c i cause) := by
  unfold markPlace
  repeat' first
    | with_reducible assumption
    | with_reducible apply markCore_ok
    | with_reducible apply markCheckCore_ok
    | with_reducible apply ite_ok
    | (refine pair_ok (by with_reducible assumption) ?_)
    | simp only [mk_same_iff]
    | split

theorem quarantineCheckCore_ok {s : State} (i cause : Nat) (hs : StateOk s) : StateOk (quarantineCheckCore s i cause) := by
  unfold quarantineCheckCore
  repeat' first
    | with_reducible assumption
    | with_reducible apply modRel_ok
    | with_reducible apply addRepair_ok

theorem quarantineAll_ok {s : State} (c : Check) (third : Nat) (hs : StateOk s) : StateOk (quarantineAll s c third) := by
  unfold quarantineAll
  repeat' first
    | with_reducible assumption
    | with_reducible apply modRel_ok
    | with_reducible apply addRepair_ok
    | with_reducible apply quarantine_ok
    | with_reducible apply quarantineCheckCore_ok
    | with_reducible apply ite_ok
    | (with_reducible refine foldl_ok ?_ (fun t a ht => ?_))

theorem compareCheck_ok {s : State} (c : Check) (i : Nat) (bs : List Byte) (hs : StateOk s) : StateOk (compareCheck s c i bs) := by
  unfold compareCheck
  repeat' first
    | with_reducible assumption
    | with_reducible apply modCore_ok
    | with_reducible apply modRel_ok
    | with_reducible apply causeAbandon_ok
    | with_reducible apply putCheck_ok
    | with_reducible apply conclude_ok
    | with_reducible apply checkEvent_ok
    | with_reducible apply checkAbandons_ok
    | with_reducible apply replaceOut_ok
    | with_reducible apply markPlace_ok
    | with_reducible apply quarantineAll_ok
    | with_reducible apply ite_ok
    | (refine pair_ok (by with_reducible assumption) ?_)
    | simp only
    | split

theorem checkPoison_ok {s : State} (c : Check) (p : Policy) (hs : StateOk s) : StateOk (checkPoison s c p) := by
  unfold checkPoison
  repeat' first
    | with_reducible assumption
    | with_reducible apply modPart_ok
    | with_reducible apply raise_ok
    | with_reducible apply raiseCtx_ok
    | with_reducible apply causeAbandon_ok
    | with_reducible apply poisonCtx_ok
    | with_reducible apply ite_ok
    | (refine pair_ok (by with_reducible assumption) ?_)
    | simp only
    | split

theorem execCheckCompare_ok (id : Nat) (r : CheckEnd) {s : State} (hs : StateOk s) : OutOk (execCheckCompare id r s) := by
  unfold execCheckCompare
  repeat' first
    | with_reducible assumption
    | with_reducible apply next_ok
    | with_reducible apply markCheckCore_ok
    | with_reducible apply putCheck_ok
    | with_reducible apply conclude_ok
    | with_reducible apply compareCheck_ok
    | with_reducible apply checkPoison_ok
    | with_reducible apply ite_ok
    | (refine pair_ok (by with_reducible assumption) ?_)
    | simp only
    | split

theorem execRingmasterFailover_ok {s : State} (hs : StateOk s) : OutOk (execRingmasterFailover s) := by
  unfold execRingmasterFailover
  repeat' first
    | with_reducible assumption
    | with_reducible apply next_ok
    | with_reducible apply modMgmt_ok
    | with_reducible apply modRel_ok
    | with_reducible apply raiseDev_ok
    | with_reducible apply addRepair_ok
    | with_reducible apply ite_ok

theorem execWatchdogExpiry_ok (w : Watch) {s : State} (hs : StateOk s) : OutOk (execWatchdogExpiry w s) := by
  unfold execWatchdogExpiry
  repeat' first
    | with_reducible assumption
    | with_reducible apply next_ok
    | with_reducible apply modRel_ok
    | with_reducible apply raise_ok
    | with_reducible apply requestReset_ok
    | with_reducible apply coreFault_ok
    | with_reducible apply ite_ok
    | (refine pair_ok (by with_reducible assumption) ?_)
    | simp only
    | split

theorem setSensor_ok {s : State} (id : Nat) (milli : Int) (hs : StateOk s) : StateOk (setSensor s id milli) := by
  unfold setSensor
  repeat' first
    | with_reducible assumption
    | with_reducible apply modPwr_ok

theorem turnOff_ok {s : State} (hs : StateOk s) : StateOk (turnOff s) := by
  unfold turnOff
  repeat' first
    | with_reducible assumption
    | with_reducible apply ite_ok
    | simp only
    | split
    | (simp only [mk_iff]; refine ⟨?_, ?_, ?_, ?_⟩)
    | with_reducible apply StateOk.memWf
    | with_reducible apply StateOk.hostWf
    | with_reducible apply StateOk.ctxs
    | with_reducible apply StateOk.region
    | with_reducible exact Rising.nil
    | with_reducible apply Rising.tput
    | with_reducible apply Rising.tdel
    | with_reducible apply Rising.filter
    | with_reducible apply Rising.tmap
    | with_reducible apply memPutAll_wf
    | with_reducible apply memClear_wf
    | with_reducible apply Memory.wf_filter
    | with_reducible exact wf_nil

theorem inputReading_ok {s : State} (mv : Int) (hs : StateOk s) : StateOk (inputReading s mv) := by
  unfold inputReading
  repeat' first
    | with_reducible assumption
    | with_reducible apply modPwr_ok
    | with_reducible apply raiseDev_ok
    | with_reducible apply setSensor_ok
    | with_reducible apply ite_ok

theorem execInputOutOfRange_ok (mv : Int) {s : State} (hs : StateOk s) : OutOk (execInputOutOfRange mv s) := by
  unfold execInputOutOfRange
  repeat' first
    | with_reducible assumption
    | with_reducible apply next_ok
    | with_reducible apply turnOff_ok
    | with_reducible apply inputReading_ok
    | with_reducible apply ite_ok

theorem modRail_ok {s : State} (die : Nat) (f : Vrail → Vrail) (hs : StateOk s) : StateOk (modRail s die f) := by
  unfold modRail
  repeat' first
    | with_reducible assumption
    | with_reducible apply modPwr_ok

theorem passesOnDie_ok {s : State} (die : Nat) (hs : StateOk s) : StateOk (passesOnDie s die) := by
  unfold passesOnDie
  repeat' first
    | with_reducible assumption
    | with_reducible apply queueLayerCheck_ok
    | with_reducible apply ite_ok
    | (with_reducible refine foldl_ok ?_ (fun t a ht => ?_))
    | (refine pair_ok (by with_reducible assumption) ?_)
    | simp only
    | split

theorem repeatChecks_ok {s : State} (die : Nat) (hs : StateOk s) : StateOk (repeatChecks s die) := by
  unfold repeatChecks
  repeat' first
    | with_reducible assumption
    | with_reducible apply modRel_ok

theorem markDie_ok {s : State} (die : Nat) (hs : StateOk s) : StateOk (markDie s die) := by
  unfold markDie
  repeat' first
    | with_reducible assumption
    | with_reducible apply suspectOp_ok
    | with_reducible apply passesOnDie_ok
    | with_reducible apply repeatChecks_ok
    | with_reducible apply ite_ok
    | (with_reducible refine foldl_ok ?_ (fun t a ht => ?_))

theorem execVcoreWarning_ok (die mv : Nat) {s : State} (hs : StateOk s) : OutOk (execVcoreWarning die mv s) := by
  unfold execVcoreWarning
  repeat' first
    | with_reducible assumption
    | with_reducible apply next_ok
    | with_reducible apply setSensor_ok
    | with_reducible apply modRail_ok
    | with_reducible apply markDie_ok
    | with_reducible apply ite_ok

theorem execVcoreRecover_ok (die : Nat) {s : State} (hs : StateOk s) : OutOk (execVcoreRecover die s) := by
  unfold execVcoreRecover
  repeat' first
    | with_reducible assumption
    | with_reducible apply next_ok
    | with_reducible apply raiseDev_ok
    | with_reducible apply modRail_ok
    | with_reducible apply ite_ok

theorem resetLevel_ok {s : State} (die mv : Nat) (hs : StateOk s) : StateOk (resetLevel s die mv) := by
  unfold resetLevel
  repeat' first
    | with_reducible assumption
    | with_reducible apply raiseDev_ok
    | with_reducible apply requestReset_ok
    | with_reducible apply modRail_ok

theorem execVcoreDipTimeout_ok (die : Nat) {s : State} (hs : StateOk s) : OutOk (execVcoreDipTimeout die s) := by
  unfold execVcoreDipTimeout
  repeat' first
    | with_reducible assumption
    | with_reducible apply next_ok
    | with_reducible apply resetLevel_ok
    | with_reducible apply ite_ok

theorem execVcoreResetLevel_ok (die mv : Nat) {s : State} (hs : StateOk s) : OutOk (execVcoreResetLevel die mv s) := by
  unfold execVcoreResetLevel
  repeat' first
    | with_reducible assumption
    | with_reducible apply next_ok
    | with_reducible apply setSensor_ok
    | with_reducible apply resetLevel_ok
    | with_reducible apply ite_ok

theorem stepAclk_ok {s : State} (die : Nat) (up : Bool) (hs : StateOk s) : StateOk (stepAclk s die up) := by
  unfold stepAclk
  repeat' first
    | with_reducible assumption
    | with_reducible apply modPwr_ok

theorem capStep_ok {s : State} (watts : Nat) (hs : StateOk s) : StateOk (capStep s watts) := by
  unfold capStep
  repeat' first
    | with_reducible assumption
    | with_reducible apply modPwr_ok
    | with_reducible apply raiseDev_ok
    | with_reducible apply stepAclk_ok
    | with_reducible apply ite_ok
    | (with_reducible refine foldl_ok ?_ (fun t a ht => ?_))

theorem execPowerCapTick_ok (watts : Nat) {s : State} (hs : StateOk s) : OutOk (execPowerCapTick watts s) := by
  unfold execPowerCapTick
  repeat' first
    | with_reducible assumption
    | with_reducible apply next_ok
    | with_reducible apply modPwr_ok
    | with_reducible apply setSensor_ok
    | with_reducible apply capStep_ok
    | with_reducible apply ite_ok

theorem dieReading_ok {s : State} (die : Nat) (temp : Int) (hs : StateOk s) : StateOk (dieReading s die temp) := by
  unfold dieReading
  repeat' first
    | with_reducible assumption
    | with_reducible apply modPwr_ok
    | with_reducible apply setSensor_ok

theorem execDieTempWarning_ok (die : Nat) (temp : Int) {s : State} (hs : StateOk s) : OutOk (execDieTempWarning die temp s) := by
  unfold execDieTempWarning
  repeat' first
    | with_reducible assumption
    | with_reducible apply next_ok
    | with_reducible apply modPwr_ok
    | with_reducible apply raiseDev_ok
    | with_reducible apply stepAclk_ok
    | with_reducible apply dieReading_ok
    | with_reducible apply ite_ok

theorem tripDie_ok {s : State} (die : Nat) (hs : StateOk s) : StateOk (tripDie s die) := by
  unfold tripDie
  repeat' first
    | with_reducible assumption
    | with_reducible apply modMgmt_ok
    | with_reducible apply modPwr_ok
    | with_reducible apply raiseDev_ok
    | with_reducible apply declareFailed_ok
    | with_reducible apply abortMembers_ok

theorem execThermalTrip_ok (die : Nat) {s : State} (hs : StateOk s) : OutOk (execThermalTrip die s) := by
  unfold execThermalTrip
  repeat' first
    | with_reducible assumption
    | with_reducible apply next_ok
    | with_reducible apply modPwr_ok
    | with_reducible apply tripDie_ok
    | with_reducible apply ite_ok

theorem execCoolantAlarm_ok (sensor : Nat) (milli : Int) {s : State} (hs : StateOk s) : OutOk (execCoolantAlarm sensor milli s) := by
  unfold execCoolantAlarm
  repeat' first
    | with_reducible assumption
    | with_reducible apply next_ok
    | with_reducible apply modPwr_ok
    | with_reducible apply raiseDev_ok
    | with_reducible apply bad_ok
    | with_reducible apply setSensor_ok
    | with_reducible apply ite_ok

theorem enterHold_ok {s : State} (hs : StateOk s) : StateOk (enterHold s) := by
  unfold enterHold
  repeat' first
    | with_reducible assumption
    | with_reducible apply pantryFlush_ok
    | with_reducible apply ite_ok
    | simp only [mk_same_iff]

theorem leaveHold_ok {s : State} (hs : StateOk s) : StateOk (leaveHold s) := by
  unfold leaveHold
  repeat' first
    | with_reducible assumption
    | with_reducible apply ite_ok
    | simp only [mk_same_iff]

theorem enterCarousel_ok {s : State} (hs : StateOk s) : StateOk (enterCarousel s) := by
  unfold enterCarousel
  repeat' first
    | with_reducible assumption
    | with_reducible apply ite_ok
    | simp only [mk_same_iff]

theorem reportCrossing_ok {s : State} (c : Nat × Int) (hs : StateOk s) : StateOk (reportCrossing s c) := by
  unfold reportCrossing
  repeat' first
    | with_reducible assumption
    | with_reducible apply raiseDev_ok
    | with_reducible apply fencePart_ok
    | with_reducible apply inputReading_ok
    | with_reducible apply tripDie_ok
    | with_reducible apply ite_ok

theorem zeroScratch_ok {s : State} (hs : StateOk s) : StateOk (zeroScratch s) := by
  unfold zeroScratch
  repeat' first
    | with_reducible assumption
    | (with_reducible refine modMem_ok ?_ (fun _ hb => ?_) (fun _ hb => ?_))
    | with_reducible apply ite_ok
    | simp only
    | split
    | with_reducible apply Rising.tput
    | with_reducible apply Rising.tdel
    | with_reducible apply Rising.filter
    | with_reducible apply Rising.tmap
    | with_reducible apply memPutAll_wf
    | with_reducible apply memClear_wf
    | with_reducible apply Memory.wf_filter

theorem leaveCarousel_ok {s : State} (hs : StateOk s) : StateOk (leaveCarousel s) := by
  unfold leaveCarousel
  repeat' first
    | with_reducible assumption
    | with_reducible apply driveObs_ok
    | with_reducible apply zeroScratch_ok
    | with_reducible apply ite_ok
    | simp only [mk_same_iff]

theorem afterWake_ok {before s : State} (hs : StateOk before) (hs1 : StateOk s) : StateOk (afterWake before s) := by
  unfold afterWake
  repeat' first
    | with_reducible assumption
    | with_reducible apply conventionalReset_ok
    | with_reducible apply reportCrossing_ok
    | with_reducible apply ite_ok
    | (with_reducible refine foldl_ok ?_ (fun t a ht => ?_))

theorem changeTo_ok {s : State} (t : PState) (hs : StateOk s) : StateOk (changeTo s t) := by
  unfold changeTo
  repeat' first
    | with_reducible assumption
    | with_reducible apply modPwr_ok
    | with_reducible apply turnOff_ok
    | with_reducible apply enterHold_ok
    | with_reducible apply leaveHold_ok
    | with_reducible apply enterCarousel_ok
    | with_reducible apply leaveCarousel_ok
    | with_reducible apply afterWake_ok
    | with_reducible apply ite_ok
    | (refine pair_ok (by with_reducible assumption) ?_)
    | simp only [mk_same_iff]
    | split

theorem wakeBy_ok {s : State} (source : Nat) (hs : StateOk s) : StateOk (wakeBy s source) := by
  unfold wakeBy
  repeat' first
    | with_reducible assumption
    | with_reducible apply modPwr_ok
    | with_reducible apply ite_ok
    | (refine pair_ok (by with_reducible assumption) ?_)
    | simp only
    | split

theorem lateWake_ok {s : State} (hs : StateOk s) : StateOk (lateWake s) := by
  unfold lateWake
  repeat' first
    | with_reducible assumption
    | with_reducible apply modPwr_ok
    | with_reducible apply wakeBy_ok
    | with_reducible apply ite_ok
    | (refine pair_ok (by with_reducible assumption) ?_)
    | simp only [mk_same_iff]
    | split

theorem execStateChangeComplete_ok {s : State} (hs : StateOk s) : OutOk (execStateChangeComplete s) := by
  unfold execStateChangeComplete
  repeat' first
    | with_reducible assumption
    | with_reducible apply next_ok
    | with_reducible apply modPwr_ok
    | with_reducible apply raiseDev_ok
    | with_reducible apply finish_ok
    | with_reducible apply changeTo_ok
    | with_reducible apply lateWake_ok
    | with_reducible apply ite_ok
    | (refine pair_ok (by with_reducible assumption) ?_)
    | simp only
    | split

theorem execWake_ok (source : Nat) {s : State} (hs : StateOk s) : OutOk (execWake source s) := by
  unfold execWake
  repeat' first
    | with_reducible assumption
    | with_reducible apply next_ok
    | with_reducible apply modPwr_ok
    | with_reducible apply wakeBy_ok
    | with_reducible apply ite_ok

theorem execCarouselSample_ok (rs : List (Nat × Int)) {s : State} (hs : StateOk s) : OutOk (execCarouselSample rs s) := by
  unfold execCarouselSample
  repeat' first
    | with_reducible assumption
    | with_reducible apply next_ok
    | with_reducible apply modPwr_ok
    | with_reducible apply setSensor_ok
    | with_reducible apply wakeBy_ok
    | with_reducible apply ite_ok
    | (with_reducible refine foldl_ok ?_ (fun t a ht => ?_))

theorem oobAnswer_ok {s : State} (h : StateOk s) {f : State → State × List Byte} (hf : ∀ t, StateOk t → StateOk (f t).1) : StateOk (oobAnswer s f) := by
  unfold oobAnswer
  split
  · exact reply_ok _ (hf _ h)
  · exact h

theorem execSetEndpointId_ok (eid : Byte) {s : State} (hs : StateOk s) : OutOk (execSetEndpointId eid s) := by
  unfold execSetEndpointId
  repeat' first
    | with_reducible assumption
    | with_reducible apply next_ok
    | with_reducible apply modMgmt_ok
    | (with_reducible refine oobAnswer_ok ?_ (fun t ht => ?_))

theorem execGetEndpointId_ok {s : State} (hs : StateOk s) : OutOk (execGetEndpointId s) := by
  unfold execGetEndpointId
  repeat' first
    | with_reducible assumption
    | with_reducible apply next_ok
    | (with_reducible refine oobAnswer_ok ?_ (fun t ht => ?_))

theorem execGetEndpointUuid_ok {s : State} (hs : StateOk s) : OutOk (execGetEndpointUuid s) := by
  unfold execGetEndpointUuid
  repeat' first
    | with_reducible assumption
    | with_reducible apply next_ok
    | (with_reducible refine oobAnswer_ok ?_ (fun t ht => ?_))

theorem execGetMctpVersionSupport_ok (messageType : Byte) {s : State} (hs : StateOk s) : OutOk (execGetMctpVersionSupport messageType s) := by
  unfold execGetMctpVersionSupport
  repeat' first
    | with_reducible assumption
    | with_reducible apply next_ok
    | (with_reducible refine oobAnswer_ok ?_ (fun t ht => ?_))

theorem execGetMessageTypeSupport_ok {s : State} (hs : StateOk s) : OutOk (execGetMessageTypeSupport s) := by
  unfold execGetMessageTypeSupport
  repeat' first
    | with_reducible assumption
    | with_reducible apply next_ok
    | (with_reducible refine oobAnswer_ok ?_ (fun t ht => ?_))

theorem execGetVendorDefinedMessageSupport_ok (selector : Byte) {s : State} (hs : StateOk s) : OutOk (execGetVendorDefinedMessageSupport selector s) := by
  unfold execGetVendorDefinedMessageSupport
  repeat' first
    | with_reducible assumption
    | with_reducible apply next_ok
    | (with_reducible refine oobAnswer_ok ?_ (fun t ht => ?_))

theorem execVendorDefinedMessage_ok (e : Entry) {s : State} (hs : StateOk s) : OutOk (execVendorDefinedMessage e s) := by
  unfold execVendorDefinedMessage
  repeat' first
    | with_reducible assumption
    | with_reducible apply next_ok
    | with_reducible apply queueRemote_ok
    | with_reducible apply reply_ok
    | with_reducible apply ite_ok

theorem execGetTid_ok {s : State} (hs : StateOk s) : OutOk (execGetTid s) := by
  unfold execGetTid
  repeat' first
    | with_reducible assumption
    | with_reducible apply next_ok
    | (with_reducible refine oobAnswer_ok ?_ (fun t ht => ?_))

theorem execSetTid_ok (tid : Byte) {s : State} (hs : StateOk s) : OutOk (execSetTid tid s) := by
  unfold execSetTid
  repeat' first
    | with_reducible assumption
    | with_reducible apply next_ok
    | with_reducible apply modMgmt_ok
    | (with_reducible refine oobAnswer_ok ?_ (fun t ht => ?_))

theorem execGetPldmVersion_ok (pldmType : Byte) {s : State} (hs : StateOk s) : OutOk (execGetPldmVersion pldmType s) := by
  unfold execGetPldmVersion
  repeat' first
    | with_reducible assumption
    | with_reducible apply next_ok
    | (with_reducible refine oobAnswer_ok ?_ (fun t ht => ?_))

theorem execGetPldmTypes_ok {s : State} (hs : StateOk s) : OutOk (execGetPldmTypes s) := by
  unfold execGetPldmTypes
  repeat' first
    | with_reducible assumption
    | with_reducible apply next_ok
    | (with_reducible refine oobAnswer_ok ?_ (fun t ht => ?_))

theorem execGetPldmCommands_ok (pldmType : Byte) {s : State} (hs : StateOk s) : OutOk (execGetPldmCommands pldmType s) := by
  unfold execGetPldmCommands
  repeat' first
    | with_reducible assumption
    | with_reducible apply next_ok
    | (with_reducible refine oobAnswer_ok ?_ (fun t ht => ?_))

theorem execGetPdrRepositoryInfo_ok {s : State} (hs : StateOk s) : OutOk (execGetPdrRepositoryInfo s) := by
  unfold execGetPdrRepositoryInfo
  repeat' first
    | with_reducible assumption
    | with_reducible apply next_ok
    | (with_reducible refine oobAnswer_ok ?_ (fun t ht => ?_))

theorem execGetPdr_ok (handle : Nat) {s : State} (hs : StateOk s) : OutOk (execGetPdr handle s) := by
  unfold execGetPdr
  repeat' first
    | with_reducible assumption
    | with_reducible apply next_ok
    | (with_reducible refine oobAnswer_ok ?_ (fun t ht => ?_))

theorem execGetSensorReading_ok (sensor : Nat) {s : State} (hs : StateOk s) : OutOk (execGetSensorReading sensor s) := by
  unfold execGetSensorReading
  repeat' first
    | with_reducible assumption
    | with_reducible apply next_ok
    | with_reducible apply reply_ok
    | with_reducible apply readSensor_ok
    | (with_reducible refine oobAnswer_ok ?_ (fun t ht => ?_))
    | with_reducible apply ite_ok
    | (refine pair_ok (by with_reducible assumption) ?_)
    | simp only
    | split

theorem execGetStateSensorReadings_ok (sensor : Nat) {s : State} (hs : StateOk s) : OutOk (execGetStateSensorReadings sensor s) := by
  unfold execGetStateSensorReadings
  repeat' first
    | with_reducible assumption
    | with_reducible apply next_ok
    | (with_reducible refine oobAnswer_ok ?_ (fun t ht => ?_))
    | with_reducible apply ite_ok
    | (refine pair_ok (by with_reducible assumption) ?_)
    | with_reducible apply fresh_ok

theorem execSetEventReceiver_ok (eid : Byte) {s : State} (hs : StateOk s) : OutOk (execSetEventReceiver eid s) := by
  unfold execSetEventReceiver
  repeat' first
    | with_reducible assumption
    | with_reducible apply next_ok
    | with_reducible apply modMgmt_ok
    | (with_reducible refine oobAnswer_ok ?_ (fun t ht => ?_))

theorem pldmStep_ok {s : State} (c : PldmFw) (hs : StateOk s) : StateOk (pldmStep s c).1 := by
  unfold pldmStep
  repeat' first
    | with_reducible assumption
    | with_reducible apply modMgmt_ok
    | with_reducible apply setIdleSlot_ok
    | with_reducible apply stageChunk_ok
    | with_reducible apply ite_ok
    | (refine pair_ok (by with_reducible assumption) ?_)
    | simp only
    | split

theorem execPldmFirmwareUpdate_ok (c : PldmFw) {s : State} (hs : StateOk s) : OutOk (execPldmFirmwareUpdate c s) := by
  unfold execPldmFirmwareUpdate
  repeat' first
    | with_reducible assumption
    | with_reducible apply next_ok
    | with_reducible apply pldmStep_ok
    | (with_reducible refine oobAnswer_ok ?_ (fun t ht => ?_))

theorem execActivateFirmware_ok (selfContained : Bool) {s : State} (hs : StateOk s) : OutOk (execActivateFirmware selfContained s) := by
  unfold execActivateFirmware
  repeat' first
    | with_reducible assumption
    | with_reducible apply next_ok
    | with_reducible apply modMgmt_ok
    | with_reducible apply activateLive_ok
    | (with_reducible refine oobAnswer_ok ?_ (fun t ht => ?_))
    | with_reducible apply ite_ok
    | (refine pair_ok (by with_reducible assumption) ?_)
    | simp only
    | split

theorem tapOn_ok {s : State} (h : StateOk s) {f : State → State} (hf : ∀ t, StateOk t → StateOk (f t)) : StateOk (tapOn s f) := by
  unfold tapOn
  split
  · exact h
  · exact hf _ h

theorem tapLoad_ok {s : State} (ir : Byte) (dr : Nat) (mode : BitVec 2) (hs : StateOk s) : StateOk (tapLoad s ir dr mode) := by
  unfold tapLoad
  repeat' first
    | with_reducible assumption
    | with_reducible apply modMgmt_ok

theorem tapGuard_ok {s : State} (h : StateOk s) {f : State → State} (hf : ∀ t, StateOk t → StateOk (f t)) : StateOk (tapGuard s f) := by
  unfold tapGuard
  split
  · exact hf _ h
  · exact tapLoad_ok _ _ _ h

theorem capture_ok {s : State} (hs : StateOk s) : StateOk (capture s).2 := by
  unfold capture
  repeat' first
    | with_reducible assumption
    | with_reducible apply ite_ok
    | simp only [mk_same_iff]

theorem execIdcode_ok {s : State} (hs : StateOk s) : OutOk (execIdcode s) := by
  unfold execIdcode
  repeat' first
    | with_reducible assumption
    | with_reducible apply next_ok
    | with_reducible apply tapLoad_ok
    | (with_reducible refine tapOn_ok ?_ (fun t ht => ?_))

theorem execSamplePreload_ok (preload : Nat) {s : State} (hs : StateOk s) : OutOk (execSamplePreload preload s) := by
  unfold execSamplePreload
  repeat' first
    | with_reducible assumption
    | with_reducible apply next_ok
    | with_reducible apply modMgmt_ok
    | with_reducible apply tapLoad_ok
    | with_reducible apply capture_ok
    | (with_reducible refine tapOn_ok ?_ (fun t ht => ?_))

theorem execExtest_ok {s : State} (hs : StateOk s) : OutOk (execExtest s) := by
  unfold execExtest
  repeat' first
    | with_reducible assumption
    | with_reducible apply next_ok
    | with_reducible apply tapLoad_ok
    | with_reducible apply capture_ok
    | (with_reducible refine tapOn_ok ?_ (fun t ht => ?_))
    | (with_reducible refine tapGuard_ok ?_ (fun t ht => ?_))

theorem execClamp_ok {s : State} (hs : StateOk s) : OutOk (execClamp s) := by
  unfold execClamp
  repeat' first
    | with_reducible assumption
    | with_reducible apply next_ok
    | with_reducible apply tapLoad_ok
    | (with_reducible refine tapOn_ok ?_ (fun t ht => ?_))
    | (with_reducible refine tapGuard_ok ?_ (fun t ht => ?_))

theorem execHighz_ok {s : State} (hs : StateOk s) : OutOk (execHighz s) := by
  unfold execHighz
  repeat' first
    | with_reducible assumption
    | with_reducible apply next_ok
    | with_reducible apply tapLoad_ok
    | (with_reducible refine tapOn_ok ?_ (fun t ht => ?_))
    | (with_reducible refine tapGuard_ok ?_ (fun t ht => ?_))

theorem execDbgChain_ok {s : State} (hs : StateOk s) : OutOk (execDbgChain s) := by
  unfold execDbgChain
  repeat' first
    | with_reducible assumption
    | with_reducible apply next_ok
    | with_reducible apply tapLoad_ok
    | (with_reducible refine tapOn_ok ?_ (fun t ht => ?_))
    | (with_reducible refine tapGuard_ok ?_ (fun t ht => ?_))
    | with_reducible apply ite_ok
    | (refine pair_ok (by with_reducible assumption) ?_)
    | with_reducible apply fresh_ok

theorem execObsSelect_ok (sel : Word16) {s : State} (hs : StateOk s) : OutOk (execObsSelect sel s) := by
  unfold execObsSelect
  repeat' first
    | with_reducible assumption
    | with_reducible apply next_ok
    | with_reducible apply setSel_ok
    | with_reducible apply tapLoad_ok
    | (with_reducible refine tapOn_ok ?_ (fun t ht => ?_))

theorem execBypass_ok (code : Byte) {s : State} (hs : StateOk s) : OutOk (execBypass code s) := by
  unfold execBypass
  repeat' first
    | with_reducible assumption
    | with_reducible apply next_ok
    | with_reducible apply tapLoad_ok
    | (with_reducible refine tapOn_ok ?_ (fun t ht => ?_))

end Sys2Proof.Machine
end

