-- ==== Sys2Proof/Laws/Issue.lean ====
section
/-! SUPPORT. What the issue unit does with a virtual core that may issue (R213, R223, R248), said once for every control instruction. -/

namespace Sys2Proof.Machine

open Sys2Proof

variable {s : State} {v : VRef} {c : Ctx} {x : Vcore} {w : Word64}

/-- Replacing a virtual core that exists. -/
theorem putVc_of (hc : s.ctx? v.ctx = some c) (hx : tget c.vcs v.vc = some x) (y : Vcore) :
    putVc s v y = s.putCtx v.ctx { c with vcs := tput c.vcs v.vc y } := s.modVc_of hc hx _

@[simp] theorem putVc_mem (y : Vcore) : (putVc s v y).mem = s.mem := State.modVc_mem ..
@[simp] theorem putVc_cores (y : Vcore) : (putVc s v y).cores = s.cores := State.modVc_cores ..
@[simp] theorem putVc_parts (y : Vcore) : (putVc s v y).parts = s.parts := State.modVc_parts ..
@[simp] theorem putVc_fab (y : Vcore) : (putVc s v y).fab = s.fab := State.modVc_fab ..
@[simp] theorem putVc_host (y : Vcore) : (putVc s v y).host = s.host := State.modVc_host ..
@[simp] theorem putVc_pending (y : Vcore) : (putVc s v y).pending = s.pending := State.modVc_pending ..

theorem putVc_vc? (h : s.vc? v = some x) (y : Vcore) : (putVc s v y).vc? v = some y := s.vc?_modVc h _

theorem putVc_vc?_ne {u : VRef} (h : u ≠ v) (y : Vcore) : (putVc s v y).vc? u = s.vc? u := s.vc?_modVc_ne h _

/-- A save is taken only where CTX_SAVE waits for one (R385). -/
theorem trySave_of_not_saving (h : ∀ c, s.ctx? v.ctx = some c → c.saving = none) : trySave s v = s := by
  unfold trySave
  split
  · rename_i hc hx
    split
    · simp only [saveVc, hc, hx, h _ hc]
    · rfl
  · rfl

theorem canIssue_of (h : Issues s v c x w) {op : Nat → Bool} (hop : op (opOf w) = true) : canIssue s v op = some (c, x, w) := by
  obtain ⟨hc, hx, hw, hr, hp, hs, hi, hh, hd, hpw, -, -⟩ := h
  simp [canIssue, hc, hx, hw, hr, hp, hs, hi, hop, hh, hd, hpw]

/-- An instruction that cannot issue waits. -/
theorem canIssue_inv {op : Nat → Bool} {r : Ctx × Vcore × Word64} (h : canIssue s v op = some r) :
    s.ctx? v.ctx = some r.1 ∧ tget r.1.vcs v.vc = some r.2.1 ∧ nextWord s r.1 v r.2.1 = some r.2.2 ∧ op (opOf r.2.2) = true := by
  unfold canIssue at h
  split at h
  · cases h
  · rename_i hc
    split at h
    · cases h
    · rename_i hx
      split at h
      · cases h
      · rename_i hw
        dsimp only at h
        split at h
        · rename_i hcond
          cases h
          exact ⟨hc, hx, hw, hcond.2.2.2.2.1⟩
        · cases h

theorem boundaryWork_of_no_swap (h : x.swapDue = none) : boundaryWork s v x w = s := by
  simp [boundaryWork, h]

/-- A virtual core that may issue issues; a save that falls due is taken at once. -/
theorem issueWith_of (h : Issues s v c x w) {op : Nat → Bool} (hop : op (opOf w) = true) (f : State → Ctx → Vcore → Word64 → State) :
    issueWith s v op f = trySave (f s c x w) v := by
  simp only [issueWith, canIssue_of h hop, boundaryWork_of_no_swap h.2.2.2.2.2.2.2.2.2.2.2]

/-- With no save under way, an instruction that only replaces its virtual core leaves exactly that. -/
theorem trySave_putVc (h : Issues s v c x w) (y : Vcore) : trySave (putVc s v y) v = putVc s v y := by
  apply trySave_of_not_saving
  intro d hd
  rw [putVc_of h.1 h.2.1, State.ctx?_putCtx] at hd
  cases hd
  exact h.2.2.2.2.2.2.2.2.2.2.1

theorem trySave_self (h : Issues s v c x w) : trySave s v = s := by
  apply trySave_of_not_saving
  intro d hd
  rw [h.1] at hd
  cases hd
  exact h.2.2.2.2.2.2.2.2.2.2.1

/-- A virtual core after its bank swap (R250). -/
def swapped (x : Vcore) : Vcore := { x with bank := !x.bank, swapDue := none }

theorem boundaryWork_cases (x : Vcore) (w : Word64) : boundaryWork s v x w = s ∨ boundaryWork s v x w = s.modVc v swapped := by
  unfold boundaryWork
  split
  · exact .inl rfl
  · split
    · split
      · exact .inr rfl
      · exact .inl rfl
    · exact .inl rfl

/-- Everything that issuing can do (R223, R250): nothing, a bank swap alone, or the instruction on the virtual core as it is or just
swapped, with a save that falls due after it. -/
theorem issueWith_cases (hc : s.ctx? v.ctx = some c) (hx : tget c.vcs v.vc = some x) (hw : nextWord s c v x = some w)
    (op : Nat → Bool) (f : State → Ctx → Vcore → Word64 → State) :
    issueWith s v op f = s ∨ issueWith s v op f = putVc s v (swapped x) ∨
    (op (opOf w) = true ∧ issueWith s v op f = trySave (f s c x w) v) ∨
    (op (opOf w) = true ∧ issueWith s v op f =
      trySave (f (putVc s v (swapped x)) { c with vcs := tput c.vcs v.vc (swapped x) } (swapped x) w) v) := by
  have hput : s.modVc v swapped = putVc s v (swapped x) := by rw [putVc_of hc hx, s.modVc_of hc hx]
  unfold issueWith
  cases h1 : canIssue s v op with
  | none => exact .inl rfl
  | some r =>
    obtain ⟨c1, x1, w1⟩ := r
    obtain ⟨e1, e2, e3, e4⟩ := canIssue_inv h1
    simp only at e1 e2 e3 e4
    rw [hc] at e1; cases e1
    rw [hx] at e2; cases e2
    rw [hw] at e3; cases e3
    simp only
    rcases boundaryWork_cases (s := s) (v := v) x w with hb | hb
    · rw [hb, h1]; exact .inr (.inr (.inl ⟨e4, rfl⟩))
    · rw [hb, hput]
      cases h2 : canIssue (putVc s v (swapped x)) v op with
      | none => exact .inr (.inl rfl)
      | some r =>
        obtain ⟨c2, x2, w2⟩ := r
        obtain ⟨g1, g2, g3, g4⟩ := canIssue_inv h2
        simp only at g1 g2 g3 g4
        rw [putVc_of hc hx, State.ctx?_putCtx] at g1; cases g1
        simp only [tget_tput_same] at g2; cases g2
        have : nextWord (putVc s v (swapped x)) { c with vcs := tput c.vcs v.vc (swapped x) } v (swapped x) = nextWord s c v x := by
          rw [putVc_of hc hx]; rfl
        rw [this, hw] at g3; cases g3
        exact .inr (.inr (.inr ⟨e4, rfl⟩))

/-- Stopping a context of which no save is under way. -/
theorem stopCtx_of {s : State} {k : Nat} {c : Ctx} (hc : s.ctx? k = some c) (hs : c.saving = none) :
    stopCtx s k = s.putCtx k { c with st := .stopped } := by
  simp [stopCtx, endSave, s.modCtx_of hc, hs]

/-- What a program fault does (R259, R262). -/
theorem progFault_of (hc : s.ctx? v.ctx = some c) (hx : tget c.vcs v.vc = some x) (hs : c.saving = none) (code : Nat) :
    progFault s v x code =
      ((raise s 0x7004 (some c.part) (some v.ctx) (data7 v.vc x.core code x.pos.idx)).putCtx v.ctx { c with st := .stopped }).modCore x.core
        (fun r => if r.issFault.getLsbD 0 then r else { r with
          issFault := BitVec.ofNat 64 (1 + code * 2 ^ 4 + v.ctx % 64 * 2 ^ 8 + 2 ^ 14 + x.pos.idx % 2 ^ 16 * 2 ^ 16 + v.vc % 256 * 2 ^ 32) }) := by
  have h1 : ∀ f : Core → Core, (s.modCore x.core f).ctx? v.ctx = some c := fun f => hc
  unfold progFault raiseVc
  simp only [State.vc?_of _ (h1 _) hx]
  have key : ∀ t : State, t.ctx? v.ctx = some c → stopCtx t v.ctx = t.putCtx v.ctx { c with st := .stopped } :=
    fun t ht => stopCtx_of ht hs
  rw [key]
  · simp only [raiseCtx, ctxPart, h1]
    rfl
  · exact hc

end Sys2Proof.Machine
end

