-- ==== Sys2Proof/Laws/Units.lean ====
section
/-! SUPPORT. What becomes of a started operation of a unit (R222, R290), said once for every unit. -/

namespace Sys2Proof.Machine

open Sys2Proof

variable {s : State} {v : VRef} {x : Vcore} {op : Nat} {o : UOp} {run : State → VRef → Vcore → Nat → UOp → Res Ran}

/-- Its effect lands. -/
theorem perform_ok (h : OpStarted s v x op o) {r : Ran} (hm : r.mism = none)
    (hr : run s v (unitView x o) (ctxPart s v.ctx) o = .ok r) :
    perform s v op run = landOp s v x (ctxPart s v.ctx) op o r := by
  obtain ⟨hx, hs, hp⟩ := h
  simp only [perform, hx, hs, hp, hr, hm]; rfl

/-- Its effect lands, and the arrays' residues show a mismatch (R100). -/
theorem perform_mism (h : OpStarted s v x op o) {r : Ran} {arrB bufB : Bool} (hm : r.mism = some (arrB, bufB))
    (hr : run s v (unitView x o) (ctxPart s v.ctx) o = .ok r) :
    perform s v op run = mismatchArr (landOp s v x (ctxPart s v.ctx) op o r) v x o arrB bufB false := by
  obtain ⟨hx, hs, hp⟩ := h
  simp only [perform, hx, hs, hp, hr, hm]; rfl

/-- It is refused. -/
theorem perform_refuse (h : OpStarted s v x op o) {code da : Nat}
    (hr : run s v (unitView x o) (ctxPart s v.ctx) o = .error (.refuse code da)) :
    perform s v op run = refuseOp s v x (ctxPart s v.ctx) o code da := by
  obtain ⟨hx, hs, hp⟩ := h
  simp only [perform, hx, hs, hp, hr]; rfl

/-- It consumes poison. -/
theorem perform_poison (h : OpStarted s v x op o) {p : Policy} {da : Nat} {f : List (Nat × Nat)}
    (hr : run s v (unitView x o) (ctxPart s v.ctx) o = .error (.poisoned p da f)) :
    perform s v op run = poisonOp s v o p da f := by
  obtain ⟨hx, hs, hp⟩ := h
  simp only [perform, hx, hs, hp, hr]; rfl

/-- It waits. -/
theorem perform_wait (h : OpStarted s v x op o) (hr : run s v (unitView x o) (ctxPart s v.ctx) o = .error .wait) :
    perform s v op run = s := by
  obtain ⟨hx, hs, hp⟩ := h
  simp only [perform, hx, hs, hp, hr]; rfl

/-- With no such operation started, or a pause, nothing happens. -/
theorem perform_idle (h : s.vc? v = some x) (hn : startedOp x op = none) : perform s v op run = s := by
  simp only [perform, h, hn]

@[simp] theorem need_true (code : Nat) : need true code = .ok () := rfl
@[simp] theorem need_false (code : Nat) : need false code = .error (.refuse code 0) := rfl

@[simp] theorem Res.ok_bind {α β : Type} (a : α) (f : α → Res β) : (Except.ok a >>= f : Res β) = f a := rfl
@[simp] theorem Res.pure_eq {α : Type} (a : α) : (pure a : Res α) = .ok a := rfl

end Sys2Proof.Machine
end

