-- ==== Sys2Proof/Tests/Slice0.lean ====
section
/-! SUPPORT. Small tests: what WellFormed refuses, values that the manual itself gives, and for every statement with hypotheses
a state and operands that meet them. -/

namespace Sys2Proof.Tests

open Sys2Proof Sys2Proof.Machine

set_option maxRecDepth 100000
set_option Elab.async false

/-! ### Well-formed commands -/

-- Each check of WellFormed refuses a term that breaks it and takes one at its bound.
theorem test_wf_context : Instr.wf (.nop ⟨64, 0⟩) = false ∧ Instr.wf (.nop ⟨63, 255⟩) = true := by decide
theorem test_wf_virtual_core : Instr.wf (.vmm ⟨0, 256⟩) = false := by decide
theorem test_wf_unit_command : Instr.wf (.operationStart ⟨0, 256⟩ .vec) = false ∧ Instr.wf (.operationComplete ⟨64, 0⟩ .vec) = false := by decide
theorem test_wf_core : Instr.wf (.virtualCoreSwitch 256) = false ∧ Instr.wf (.virtualCoreSwitch 255) = true := by decide
theorem test_wf_partition : Instr.wf (.normGate 33) = false ∧ Instr.wf (.normGate 32) = true := by decide
theorem test_wf_cluster : Instr.wf (.updatePass 32) = false ∧ Instr.wf (.updatePass 31) = true := by decide
theorem test_wf_layer : Instr.wf (.layerArm 0 4096) = false ∧ Instr.wf (.pcSnapshot 33 0) = false := by decide
theorem test_wf_member : Instr.wf (.readyReceive 0 ⟨4096, 0⟩ 1 0) = false ∧ Instr.wf (.readyReceive 0 ⟨4095, 32⟩ 1 0) = true := by decide
theorem test_wf_abort_reason : Instr.wf (.abortReceive 0 ⟨0, 0⟩ 1 0 16) = false ∧ Instr.wf (.attemptAbandon 0 16) = false := by decide
theorem test_wf_commit_partition : Instr.wf (.commitReceive 33 1 0 0) = false ∧ Instr.wf (.openReceive 33 1 0 0) = false := by decide
theorem test_wf_region : Instr.wf (.regionClear 524288) = false ∧ Instr.wf (.regionClear 524287) = true := by decide
theorem test_wf_granule : Instr.wf (.patrolScrub (2 ^ 39) none) = false ∧ Instr.wf (.patrolScrub 0 (some ⟨.one, .pad ⟨64, 0⟩⟩)) = false ∧
  Instr.wf (.patrolScrub 0 (some ⟨.one, .pad ⟨63, 0⟩⟩)) = true := by decide
theorem test_wf_part : Instr.wf (.partTempSample 80 0) = false := by decide
theorem test_wf_lane : Instr.wf (.laneFail 0 5) = false ∧ Instr.wf (.laneFail 63 4) = true := by decide
theorem test_wf_laser : Instr.wf (.laserFail 8 0) = false ∧ Instr.wf (.laserFail 7 6) = false := by decide
theorem test_wf_link : Instr.wf (.linkDown 64) = false ∧ Instr.wf (.flitReceive 64 ⟨0, none⟩) = false ∧
  Instr.wf (.flitReceive 63 ⟨0, some 5⟩) = false ∧
    Instr.wf (.flitReceive 63 ⟨0, some 4⟩) = true := by decide
theorem test_wf_alarm : Instr.wf (.ptAlarm 16) = false ∧ Instr.wf (.ptAlarm 15) = true := by decide
theorem test_wf_message_id : Instr.wf (.sendTimeout 65536) = false := by decide
theorem test_wf_device : Instr.wf (.memberLost ⟨4096, []⟩) = false ∧ Instr.wf (.mgmtMessage 0 (.refState 4096 true)) = false ∧
  Instr.wf (.mgmtMessage 0 (.refState 4095 true)) = true ∧
    Instr.wf (.routesInstall [] [] ⟨none, 4096⟩) = false := by decide
theorem test_wf_rank : Instr.wf (.normsumPartial ⟨0, 0⟩ ⟨0, 4096, 0, 0⟩ 0 false false) = false ∧
    Instr.wf (.normsumPartial ⟨0, 0⟩ ⟨255, 4095, 0, 0⟩ 0 false false) = true := by decide
theorem test_wf_ring : Instr.wf (.completionPost 0 0 8) = false ∧ Instr.wf (.completionPost 0 63 7) = true := by decide
theorem test_wf_channel : Instr.wf (.channelReset 1 1) = false ∧ Instr.wf (.channelReset 0 64) = false := by decide
theorem test_wf_function : Instr.wf (.flr 33) = false ∧ Instr.wf (.registerWrite 33 0 8 0) = false := by decide
theorem test_wf_offset : Instr.wf (.registerWrite 0 (2 ^ 26) 8 0) = false := by decide
theorem test_wf_vector : Instr.wf (.msixModerationExpiry 1 64) = false ∧ Instr.wf (.msixModerationExpiry 0 2047) = true := by decide
theorem test_wf_origin : Instr.wf (.identify (.ring 0 0 8) 0) = false ∧ Instr.wf (.ctxRun (.remote 64 0) 0) = false ∧
  Instr.wf (.identify .oob 0) = true := by decide
theorem test_wf_sensor : Instr.wf (.getSensorReading 65536) = false := by decide
theorem test_wf_residue : Instr.wf (.residueCheckpoint 0 (.engine 32 0)) = false ∧
  Instr.wf (.residueCheckpoint 256 (.engine 0 0)) = false := by decide
theorem test_wf_parity : Instr.wf (.parityError 0 4 none) = false ∧ Instr.wf (.parityError 0 3 (some 8)) = false := by decide
theorem test_wf_watchdog : Instr.wf (.watchdogExpiry (.engine 32)) = false := by decide
theorem test_wf_scope : Instr.wf (.scopeReset 5 0 []) = false ∧ Instr.wf (.scopeReset 1 32 []) = false ∧
  Instr.wf (.scopeReset 2 32 []) = true := by decide
theorem test_wf_isolation : Instr.wf (.isolationReplay 0 64 .unfinished) = false ∧ Instr.wf (.contextRecovery 64) = false := by decide
theorem test_wf_die : Instr.wf (.thermalTrip 4) = false ∧ Instr.wf (.thermalTrip 3) = true := by decide
theorem test_wf_watts : Instr.wf (.powerCapTick 65536) = false := by decide
theorem test_wf_coolant : Instr.wf (.coolantAlarm 0x501 0) = false ∧ Instr.wf (.coolantAlarm 0x502 0) = true := by decide
theorem test_wf_wake : Instr.wf (.wake 6) = false ∧ Instr.wf (.wake 5) = true := by decide
theorem test_wf_sample : Instr.wf (.carouselSample [(65536, 0)]) = false := by decide
theorem test_wf_slot : Instr.wf (.coldStart { slot := 64, fails := [], rpllLocks := true, litLinks := [] }) = false := by decide
theorem test_wf_bypass : Instr.wf (.bypass 1) = false ∧ Instr.wf (.bypass 0xFF) = true := by decide
theorem test_wf_summary : Instr.wf (.routeSummaryReceive 64 ⟨0, 0⟩ []) = false ∧ Instr.wf (.routeSummaryReceive 63 ⟨0, 64⟩ []) = false ∧
    Instr.wf (.routeSummaryReceive 63 ⟨0, 63⟩ [4095]) = true := by decide

/-! ### Small states -/

def v0 : VRef := ⟨0, 0⟩

/-- An instruction word from its fields (R226). -/
def iw (op s1 s2 s3 d1 d2 imm : Nat) : Word64 :=
  BitVec.ofNat 64 (op + s1 * 2 ^ 8 + s2 * 2 ^ 15 + s3 * 2 ^ 22 + d1 * 2 ^ 29 + d2 * 2 ^ 34 + imm * 2 ^ 40)

/-- A module in RUN with its firmware running. -/
def up : State := { mgmt := { fwstate := 2, bootrom := false, ready := true, standbyOk := true }, mem := { ready := true, hinted := false } }

/-- Context 0 with one virtual core on core 0, whose code is the word `w`. -/
def one (w : Word64) (x : Vcore := {}) : State := { up with
  cores := [(0, { slots := [(0, v0)], issuing := some 0 })],
  ctxs := [(0, { part := 0, st := .running, image := { code := [(0, [w])] }, vcs := [(0, { x with winSize := 4096, waitPatch := false })] })] }

def ctx0 (s : State) : Ctx := (s.ctx? 0).getD { part := 0 }
def vc0 (s : State) : Vcore := (s.vc? v0).getD {}

/-- A filled queue slot. -/
def slot (val : Nat) : QSlot := ⟨0, some { val := BitVec.ofNat 32 val }⟩

/-- The instruction `w` issues in the state `one w x`. -/
abbrev At (w : Word64) (x : Vcore := {}) : Prop := Issues (one w x) v0 (ctx0 (one w x)) (vc0 (one w x)) w

/-- Region 0 belongs to partition 0, and bytes stand in device memory. -/
def mem0 (s : State) (a : Nat) (bs : List Byte) : State :=
  { s with mem := { s.mem with region := [(0, 1)], bytes := memPutAll s.mem.bytes a bs } }

/-- Context 0 running with virtual core `x` as it stands, on core 0. -/
def onCore (x : Vcore) (w : Word64 := 0) : State := { up with
  cores := [(0, { slots := [(0, v0)], issuing := some 0 })],
  ctxs := [(0, { part := 0, st := .running, image := { code := [(0, [w])] }, vcs := [(0, { x with winSize := 4096 })] })] }

/-- An operation that waits for its effect. -/
def op1 (w : Word64) : UOp := { id := 1, word := w, phase := .started }
/-- Virtual core 0 with one started operation and the given window. -/
def started (w : Word64) (win : List Host.Cell := []) (l : LaccSet := {}) : State :=
  let o :=
    { op1 w with ctl := win, s1 := BitVec.ofNat 64 (s1Of w % 16 * 64), s2 := BitVec.ofNat 64 (s2Of w % 16 * 64), s3 := BitVec.ofNat 64 (s3Of w % 16 * 64) }
  mem0 (onCore { ops := [o], win := win, lacc := l, waitPatch := false }) 0 []
def opOn (s : State) : UOp := (vc0 s).ops.headD (op1 0)

/-- A descriptor of `rows` × `cols` elements at `base`, in the window or in device memory. -/
def desc (fmtw base rows cols : Nat) (dev : Bool := false) : Nat :=
  fmtw + b2n dev * 2 ^ 32 + base * 2 ^ 64 + rows * 2 ^ 208 + cols * 2 ^ 232 + cols * 2 ^ 320
/-- A window with 64-byte control records from offset 0 on, and bytes at 1024. -/
def window (recs : List Nat) (bs : List Byte := []) : List Host.Cell :=
  memPutAll (memPutAll [] 0 (recs.flatMap (natToBytes 64))) 1024 bs
/-- The started operation `w` passes every check of its rule on the given window, and its effect is made. -/
def completes (w : Word64) (win : List Host.Cell) (l : LaccSet) (run : State → VRef → Vcore → Nat → UOp → Res Ran) : Bool :=
  let s := started w win l
  decide (OpStarted s v0 (vc0 s) (opOf w) (opOn s)) && (run s v0 (unitView (vc0 s) (opOn s)) 0 (opOn s)).toOption.map Ran.mism == some none
/-- An instruction word whose sources are the records 0, 1 and 2 of the window. -/
def iw3 (op imm : Nat) : Word64 := iw op 0 1 2 0 0 imm

/-- A contribution to the record at 0 whose CVD has step `st`. -/
def gsrMsg (st total cover : Nat) : GsrMsg :=
  { v := v0, gsr := 0, cvd := BitVec.ofNat 512 (st * 2 ^ 96 + 6 * 2 ^ 32 + 2 ^ 82), group := 0, total := total, cap := 4, cover := cover, nonzero := 0, clipped := 0,
    vanished := 0, nzblk := 0, floorblk := 0, satblk := 0, nanblk := 0, gmax := 0x3F800000, suspect := false, thr := 0 }


/-! ### Values that the manual works out -/

/-- Block 7 of the Tumbler row, as hundredths. -/
def tumbler : List (FV × Option Q) :=
  ([310, -40, 5, 120, -220, 0, 80, -160, 27, 250, -90, 13, -300, 190, -2, 60] : List Int).map (fun h => (.num (h < 0) ⟨h.natAbs, 100⟩, some ⟨9, 4⟩))
/-- Its conversion to G4 with a row scale of 2.25. -/
def tumblerG4 : BlockOut := encodeBlock 3 (.jit 254) (fun _ => .rne) tumbler

/-- "Worked conversion": the scale byte and the eight data bytes. -/
theorem test_tumbler_block : tumblerG4.byte = 0x67 ∧ packCodes 4 tumblerG4.codes = 0x206F0B61D30E40A7 := by decide +kernel
/-- "Worked conversion": three values vanish, and UF and NX are set. -/
theorem test_tumbler_counts : tumblerG4.counts.vanished = 3 ∧ tumblerG4.counts.nonzero = 15 ∧ tumblerG4.counts.cover = 16 ∧
    tumblerG4.flags = fUF ||| fNX := by decide +kernel
/-- "Worked export": the block power, the first codes and the flag. -/
theorem test_tumbler_export : (let r := mxExport 1 (List.replicate 16 (some Q.zero) ++ tumblerG4.codes.map (fun c => some (decodeElem 3 0x67 false (some ⟨9, 4⟩) c).toQ));
    r.1 = 0x7F ∧ r.2.1.drop 16 = [5, 9, 0, 2, 12, 0, 2, 11, 1, 4, 10, 0, 13, 4, 0, 1] ∧ r.2.2 = fNX) := by decide +kernel
/-- "Worked import": the device scale bytes of blocks 0 and 17 of a row whose largest block power is −3. -/
theorem test_tumbler_import : (mxImportHalf 1 3 124 (-19) [7]).1.byte = 0xF8 ∧ (mxImportHalf 1 3 120 (-19) [7]).1.byte = 0xD8 ∧
    (mxImportHalf 1 3 0xFF (-19) [7]).1.byte = 0xFF := by decide +kernel
/-- "One drawn nibble": logical element 70 of stream 1 under seed 1 at step 3 draws 0x4, and −0.625 rounds to −0.5. -/
theorem test_drawn_nibble : rndOf 1 1 1 3 70 = .sr 4 4 ∧ rndOf 2 1 1 3 70 = .sr 3 2 ∧ (roundNarrow 3 (.sr 4 4) ⟨-5, 8⟩).1 = 9 ∧
    (roundNarrow 3 (.sr 3 2) ⟨-5, 8⟩).1 = 9 := by decide +kernel
/-- "One address under three modes". -/
theorem test_placement : place 0 0x24D3C2B40 = (31, 0x1269E140) ∧ place 2 0x24D3C2B40 = (6, 0x13A78540) ∧ place 3 0x24D3C2B40 = (6, 0x133C2B40) ∧
    (place 0 (0x24D3C2B40 + 0x100)).1 = 0 := by decide +kernel

/-! ### States that meet the hypotheses of the statements -/

theorem witness_nop_issues :
    At (iw 0x00 0 0 0 0 0 0) := by decide +kernel

theorem witness_yield_issues :
    At (iw 0x07 0 0 0 0 0 0) := by decide +kernel

theorem witness_skip_taken :
    At (iw 0x06 0 0 0 0 0 (2 * 8)) ∧ (vc0 (one (iw 0x06 0 0 0 0 0 16))).cmp.getLsbD 0 = (immBits (iw 0x06 0 0 0 0 0 16) 2 2 == 1) := by decide +kernel

theorem witness_skip_not_taken :
    At (iw 0x06 0 0 0 0 0 (2 * 8 + 4)) ∧ (vc0 (one (iw 0x06 0 0 0 0 0 20))).cmp.getLsbD 0 ≠ (immBits (iw 0x06 0 0 0 0 0 20) 2 2 == 1) := by decide +kernel

theorem witness_pset_issues :
    At (iw 0x08 0x3F 0 0 0 0 0x40) ∧ (takeSrc (vc0 (one (iw 0x08 0x3F 0 0 0 0 0x40))) 0x3F 0).isSome := by decide +kernel

theorem witness_padd_pmad_cmp_sources :
    At (iw 0x09 0 0x40 0 0 0 0) { queues := [(0, [slot 5])] } ∧ At (iw 0x0A 0 0x40 0 0 0 0) { queues := [(0, [slot 5])] } ∧
      At (iw 0x05 0 0x40 0 0 0 0) { queues := [(0, [slot 5])] } ∧ (takeTwo { queues := [(0, [slot 5])] } (iw 0x09 0 0x40 0 0 0 0)).isSome := by decide +kernel

theorem witness_wrs_in_window :
    At (iw 0x0B 0x3F 0x40 0 0 0 4092) ∧ (takeTwo (vc0 (one (iw 0x0B 0x3F 0x40 0 0 0 4092))) (iw 0x0B 0x3F 0x40 0 0 0 4092)).isSome ∧
      padUse 0x3F 0 + 4092 + 4 ≤ (vc0 (one (iw 0x0B 0x3F 0x40 0 0 0 4092))).winSize := by decide +kernel

theorem witness_push_has_room :
    At (iw 0x0C 0x40 0 0 19 0 0) ∧ (pushDst (pushDst (some {}) 19 { val := 0 }) 0 { val := 0 }).isSome := by decide +kernel

/-- A virtual core whose Q3, the destination of its PUSH, is full. -/
def fullQ : List (Nat × List QSlot) := [(3, List.replicate 32 (slot 1))]

theorem witness_push_waits_for_room :
    At (iw 0x0C 0x3F 0 0 19 0 0) { queues := fullQ } ∧ (takeSrc (vc0 (one (iw 0x0C 0x3F 0 0 19 0 0) { queues := fullQ })) 0x3F 0).isSome ∧
      pushDst (pushDst (some { queues := fullQ }) 19 { val := 0 }) 0 { val := 0 } = none := by decide +kernel

theorem witness_loop_counts :
    At (iw 0x04 0x3F 0 0 0 0 (2 ^ 15)) ∧ At (iw 0x04 0x3F 0 0 0 0 0) ∧ immBits (iw 0x04 0x3F 0 0 0 0 (2 ^ 15)) 23 15 = 1 ∧
      immBits (iw 0x04 0x3F 0 0 0 0 0) 23 15 = 0 := by decide +kernel

theorem witness_loop_end :
    (0 : Word32).toNat + 1 < (2 : Word32).toNat ∧ (2 : Word32).toNat ≤ (1 : Word32).toNat + 1 := by decide +kernel

theorem witness_call_issues :
    At (iw 0x02 0x40 0x41 0x42 0 0 0x180) ∧ (takeTwo (vc0 (one (iw 0x02 0x40 0x41 0x42 0 0 1))) (iw 0x02 0x40 0x41 0x42 0 0 1)).isSome ∧
      (routineBody (one (iw 0x02 0x40 0x41 0x42 0 0 1)) (ctx0 (one (iw 0x02 0x40 0x41 0x42 0 0 1))) 1).isSome := by decide +kernel

theorem witness_ret_issues :
    Issues { one (iw 0x03 0 0 0 0 0 0) { rstack := [{}] } with pwr := {} } v0 (ctx0 (one (iw 0x03 0 0 0 0 0 0) { rstack := [{}] }))
      (vc0 (one (iw 0x03 0 0 0 0 0 0) { rstack := [{}] })) (iw 0x03 0 0 0 0 0 0) := by decide +kernel

theorem witness_end_issues :
    At (iw 0x01 0 0 0 0 0 0) ∧ (vc0 (one (iw 0x01 0 0 0 0 0 0))).ops = [] := by decide +kernel

theorem witness_wrs_outside_window :
    At (iw 0x0B 0x3F 0x40 0 0 0 4093) ∧ (vc0 (one (iw 0x0B 0x3F 0x40 0 0 0 4093))).winSize < padUse 0x3F 0 + 4093 + 4 := by decide +kernel

theorem witness_call_at_depth_four :
    At (iw 0x02 0x40 0x41 0x42 0 0 1) { rstack := [{}, {}, {}, {}] } := by decide +kernel

theorem witness_call_with_results_left :
    At (iw 0x02 0x40 0x41 0x42 0 0 1) { queues := [(15, [slot 1])] } ∧ Vcore.q { queues := [(15, [slot 1])] } (12 + 3) ≠ [] := by decide +kernel

theorem witness_call_to_absent_routine :
    At (iw 0x02 0x40 0x41 0x42 0 0 0x180) ∧ routineBody (one (iw 0x02 0x40 0x41 0x42 0 0 0x180)) (ctx0 (one (iw 0x02 0x40 0x41 0x42 0 0 0x180)))
      0x180 = none := by decide +kernel

theorem witness_ret_with_results_left :
    At (iw 0x03 0 0 0 0 0 0) { rstack := [{}], queues := [(14, [slot 1])] } := by decide +kernel

theorem witness_control_frame :
    At (iw 0x08 0x3F 0 0 0 0 0x40) ∧ Instr.pset v0 ∈ [Instr.nop v0, .skip v0, .yield v0, .pset v0, .padd v0, .pmad v0, .cmp v0, .push v0, .loop v0] := by decide +kernel

theorem witness_dispatch_plain :
    At (iw 0x20 0x3F 0x3F 0x3F 0 0 0) ∧ 0x10 ≤ opOf (iw 0x20 0x3F 0x3F 0x3F 0 0 0) ∧
      unitRoom (vc0 (one (iw 0x20 0x3F 0x3F 0x3F 0 0 0))) (iw 0x20 0x3F 0x3F 0x3F 0 0 0) = true ∧ ixOf (iw 0x20 0x3F 0x3F 0x3F 0 0 0) = 0 := by decide +kernel

theorem witness_dispatch_indexed :
    At (iw 0x20 0x3F 0x3F 0x3F 0 0 (17 * 256)) { k := [(1, { active := true, index := 3 })] } ∧ ixOf (iw 0x20 0x3F 0x3F 0x3F 0 0 (17 * 256)) ≠ 0 ∧
      (tgetD (vc0 (one (iw 0x20 0x3F 0x3F 0x3F 0 0 (17 * 256)) { k := [(1, { active := true, index := 3 })] })).k
      (ixOf (iw 0x20 0x3F 0x3F 0x3F 0 0 (17 * 256)) % 8) {}).active = true := by decide +kernel

theorem witness_dispatch_full_queue :
    At (iw 0x20 0x3F 0x3F 0x3F 0 0 0) { ops := List.replicate 16 { op1 (iw 0x20 0x3F 0x3F 0x3F 0 0 0) with phase := .queued } } := by decide +kernel

def replayState (hdr : Nat) : State := mem0 (onCore {}) 0 (natToBytes 8 hdr)
/-- Virtual core 0 waits for its patch slot, which its context may read. -/
abbrev replayReads (s : State) : Prop :=
  s.ctx? 0 = some (ctx0 s) ∧ tget (ctx0 s).vcs 0 = some (vc0 s) ∧ (ctx0 s).st = .running ∧ (ctx0 s).saving = none ∧
  (vc0 s).waitPatch = true ∧ (vc0 s).haltPend = false ∧ isolAllows s 0 0 0 = true ∧ (s.map 0).quar = false ∧ coreStopped s 0 = false ∧
  s.pwr.st = .run ∧ (s.part 0).idle = false ∧ tget (ctx0 s).patches (vc0 s).replay = none ∧ accessRefusal s (.part 0) 0 16384 = none ∧
  accessWaits s 0 16384 = false ∧ s.mem.latent = [] ∧ bits (devNat s 0 8) 41 32 = 0 ∧ strongest (devRead s 0 16) = none

theorem witness_replay_ready_slot :
    (let s := replayState (2 ^ 63); s.ctx? 0 = some (ctx0 s) ∧ tget (ctx0 s).vcs 0 = some (vc0 s) ∧ replayReads s ∧ bit (devNat s 0 8) 63 = true ∧ bits (devNat s 0 8) 31 0 = 0) := by decide +kernel

theorem witness_replay_waits :
    replayReads (replayState 0) ∧ bit (devNat (replayState 0) 0 8) 63 = false := by decide +kernel

theorem witness_held_token_enters :
    ((onCore { held := [{ val := 1 }] }).vc? v0).isSome ∧ (vc0 (onCore { held := [{ val := 1 }] })).held = [{ val := 1 }] ∧
      qFree (vc0 (onCore { held := [{ val := 1 }] })) 0 = true := by decide +kernel

theorem witness_q1_has_head :
    headTok (vc0 (onCore { queues := [(1, [slot 7])] })) 1 = some { val := 7 } := by decide +kernel

def idleCore : State := { onCore { waitPatch := false } (iw 0x20 0x3F 0x3F 0x3F 0 0 0) with cores := [(0, { slots := [(0, v0)] })] }

theorem witness_switch_when_idle :
    (idleCore.core 0).issuing = none ∧ (slotsAfter (idleCore.core 0).slots 8).find? (fun p => ready idleCore p.2) = some (0, v0) := by decide +kernel

def twoSlots : State := { onCore { waitPatch := true } with
    cores := [(0, { slots := [(0, v0), (1, ⟨0, 1⟩)], issuing := some 0 })],
    ctxs :=
      [(0, { part := 0, st := .running, image := { code := [(1, [iw 0x20 0x3F 0x3F 0x3F 0 0 0])] }, vcs := [(0, {}), (1, { slot := 1, waitPatch := false })] })]
      }

theorem witness_switch_at_boundary :
    (twoSlots.core 0).issuing = some 0 ∧ (ctx0 twoSlots).st = .running ∧ quiescent twoSlots (ctx0 twoSlots) v0 (vc0 twoSlots) = true ∧
      waits twoSlots (ctx0 twoSlots) v0 (vc0 twoSlots) = true ∧
      (slotsAfter (twoSlots.core 0).slots 0).find? (fun p => ready twoSlots p.2 && some p.1 != some 0) = some (1, ⟨0, 1⟩) := by decide +kernel

theorem witness_switch_of_stopped :
    (let s := twoSlots.modCtx 0 (fun c => { c with st := .stopped }); quiescent s (ctx0 s) v0 (vc0 s) = true ∧ (ctx0 s).st ≠ .running) := by decide +kernel

theorem witness_switch_not_quiescent :
    quiescent (started 0x20) (ctx0 (started 0x20)) v0 (vc0 (started 0x20)) = false := by decide +kernel

theorem witness_switch_within_slice :
    (idleCore.now < (idleCore.core 0).took + fld (idleCore.core 0).issCtl 23 0 * 1000) ∧ waits idleCore (ctx0 idleCore) v0 (vc0 idleCore) = false ∧
      haltStops idleCore (ctx0 idleCore) v0 (vc0 idleCore) = false := by decide +kernel

def queuedOp : State := onCore { ops := [{ op1 (iw 0x20 0x3F 0x3F 0x3F 0 0 0) with phase := .queued }], waitPatch := false }

theorem witness_operation_starts :
    (let s := queuedOp; let x := vc0 s; let o := opOn s; s.vc? v0 = some x ∧ x.ops.find? (fun o => o.phase == .queued && inUnit .arra o.word) = some o ∧ (∀ w ∈ allUnits, inUnit w o.word = true → (x.ops.find? (fun p => p.phase == .queued && inUnit w p.word)).map UOp.id = some o.id) ∧ coreStopped s x.core = false ∧ opPaused s x o = false ∧ (takeOperands x o).isSome ∧ arrayReady x o = true ∧ (reserveDst (reserveDst (some x) (d1Of o.word) o.id) (d2Of o.word) o.id).isSome) := by decide +kernel

def performedOp
  : State :=
  onCore { ops := [{ op1 (iw 0x20 0x3F 0x3F 0x3F 19 0 0) with phase := .performed, d1 := some { val := 0 } }], queues := [(3, [⟨1, none⟩])], waitPatch := false }

theorem witness_operation_completes :
    (let s := performedOp; (vc0 s).ops.find? (fun o => o.phase == .performed && !o.held && !o.hold.any (verdictDue s (ctxPart s v0.ctx)) && inUnit .arra o.word && !opPaused s (vc0 s) o) = some (opOn s) ∧ (ctx0 s).saving = none ∧ (ctx0 s).destroying = none) := by decide +kernel

theorem witness_queue_head_reserved :
    Vcore.q { queues := [(3, [⟨1, none⟩, ⟨2, none⟩])] } 3 = ⟨1, none⟩ :: [⟨2, none⟩] := by decide +kernel

theorem witness_operation_is_started :
    OpStarted (started 0x20) v0 (vc0 (started 0x20)) 0x20 (opOn (started 0x20)) ∧
      ((runZero (started 0x20) v0 (unitView (vc0 (started 0x20)) (opOn (started 0x20))) 0 (opOn (started 0x20))).toOption.map Ran.mism) = some none := by decide +kernel

/-- Buffer A0 holds one element whose residue is another's. -/
def flipped : State := started (iw3 0x24 0) [] { a0 := { data := true, m := 1, n := 1, elems := [some 3], res := [4] } }

theorem witness_operation_shows_a_mismatch :
    OpStarted flipped v0 (vc0 flipped) 0x24 (opOn flipped) ∧
      ((runExport flipped v0 (unitView (vc0 flipped) (opOn flipped)) 0 (opOn flipped)).toOption.map Ran.mism) = some (some (false, false)) := by decide +kernel

/-- An operation that its rule refuses. -/
def isRefused (r : Res Ran) : Bool := match r with | .error (.refuse _ _) => true | _ => false

theorem witness_operation_is_refused :
    OpStarted (started 0x21) v0 (vc0 (started 0x21)) 0x21 (opOn (started 0x21)) ∧
      isRefused (runAcc (started 0x21) v0 (unitView (vc0 (started 0x21)) (opOn (started 0x21))) 0 (opOn (started 0x21))) = true := by decide +kernel

/-- A VWAIT on a record that its step has not reached. -/
def unsettled : State := started (iw 0x31 0 0 0 0 0 0) (window [2 ^ 96 * 5 + 2 ^ 82])

theorem witness_operation_waits :
    (let s := mem0 unsettled 0 (natToBytes 64 5); OpStarted s v0 (vc0 s) 0x31 (opOn s) ∧ (match runVwait s v0 (unitView (vc0 s) (opOn s)) 0 (opOn s) with | .error .wait => true | _ => false) = true) := by decide +kernel

theorem witness_load_completes :
    completes (iw3 0x10 0) (window [desc 11 1024 1 4, desc 11 0 1 4 true]) {} runLoad := by decide +kernel

theorem witness_store_completes :
    completes (iw3 0x12 0) (window [desc 11 1024 1 4, desc 11 0 1 4 true]) {} runStore := by decide +kernel

theorem witness_gather_completes :
    completes (iw3 0x11 4) (window [desc 11 1024 1 1, desc 11 0 4 8 true, desc 11 2048 1 8]) {} runGather := by decide +kernel

theorem witness_send_completes :
    completes (iw3 0x13 0) (window [desc 11 1024 1 4]) {} runSend := by decide +kernel

theorem witness_zero_completes :
    completes (iw3 0x20 0) [] {} runZero := by decide +kernel

theorem witness_acc_completes :
    completes (iw3 0x21 0) (window [desc 9 1024 1 2, desc 9 1024 1 2]) {} runAcc ∧
      completes (iw3 0x21 0) (window [desc 1 1024 1 16, desc 1 1024 1 16]) {} runAcc := by decide +kernel

theorem witness_acc_t3_completes :
    (let s := started (iw3 0x21 80) (window [desc 9 1024 1 2, desc 9 1024 1 2]); let t := s.modCore 0 (fun r => { r with arrCtl := 7 }); OpStarted t v0 (vc0 t) 0x21 (opOn t) ∧ (runAcc t v0 (unitView (vc0 t) (opOn t)) 0 (opOn t)).toOption.isSome) := by decide +kernel

theorem witness_twin_completes :
    completes (iw3 0x22 0) (window [desc (1 + 48) 1024 4 4, desc (1 + 48) 1024 4 4, desc (1 + 48) 1024 4 4]) {} runTwin := by decide +kernel

theorem witness_export_completes :
    completes (iw3 0x24 0) [] { a0 := { data := true, m := 1, n := 1, elems := [some 3] } } runExport := by decide +kernel

theorem witness_import_completes :
    completes (iw3 0x25 0) (memPutAll [] 0 (recBytes { data := true, m := 1, n := 1, elems := [some 3] })) {} runImport := by decide +kernel

theorem witness_swap_completes :
    completes (iw3 0x26 0) (memPutAll [] 64 (recBytes { data := true, m := 1, n := 1, elems := [some 3] })) {} runSwap := by decide +kernel

theorem witness_exact_sum :
    ([2, 3] : List Int).Perm [3, 2] ∧ ((1 : Int) :: [2, 3]).foldl (fun a t => a + t.natAbs) 0 < 2 ^ (8 * elemBytes false - 1) := by decide +kernel

theorem witness_nan_term :
    (none : Option Int) ∈ [some 1, none] := by decide +kernel

def oneByOne : Lacc := setRes { data := true, m := 1, n := 1, kcount := 1048576, elems := [some (2 ^ 127 - 1)] }

theorem witness_record_of_buffer :
    oneByOne.data = true ∧ oneByOne.t3 = false ∧ oneByOne.scales = none ∧ oneByOne.resid = false ∧ oneByOne.feeds = [] ∧ setRes oneByOne = oneByOne ∧
      oneByOne.elems.length = oneByOne.m * oneByOne.n ∧ ∀ e ∈ oneByOne.elems,
      (∀ k, e = some k → -(2 : Int) ^ (8 * elemBytes oneByOne.paired - 1) < k ∧ k < 2 ^ (8 * elemBytes oneByOne.paired - 1)) := by decide +kernel

/-- A CVD for a wide output of format `f` from source format `sf`, without statistics. -/
def cvdWide (f sf : Nat) : Nat := f + sf * 2 ^ 40 + 2 ^ 82

theorem witness_convert_completes :
    completes (iw3 0x23 0) (window [desc 11 1024 1 1, cvdWide 11 15]) { a0 := { data := true, m := 1, n := 1, elems := [some 3] } } runConvert ∧
      completes (iw3 0x23 0) (window [desc 11 1024 1 1, cvdWide 11 15]) {} runConvert := by decide +kernel

theorem witness_cvt_completes :
    completes (iw3 0x30 0) (window [desc 11 1024 1 8, desc 9 2048 1 8, cvdWide 9 11]) {} runCvt := by decide +kernel

theorem witness_cvt_imports_mx :
    completes (iw3 0x30 0) (window [desc 11 1024 1 32, desc (3 + 256) 2048 1 32, (3 + 256) + 11 * 2 ^ 40 + 2 ^ 82 + 4 * 2 ^ 32]) {} runCvt := by decide +kernel

def gsrState (g : Nat) : State :=
  let s := started (iw 0x31 0 0 0 0 0 0) (window [2 ^ 96 * 5 + 2 ^ 82])
  mem0 s 0 (natToBytes 64 g)

theorem witness_vwait_answers :
    (let s := gsrState (6 : Nat); OpStarted s v0 (vc0 s) 0x31 (opOn s) ∧ (runVwait s v0 (unitView (vc0 s) (opOn s)) 0 (opOn s)).toOption.isSome) ∧
      (let s := gsrState (5 + 2 ^ 86 : Nat); (runVwait s v0 (unitView (vc0 s) (opOn s)) 0 (opOn s)).toOption.isSome) ∧
      (let s := gsrState 5; (match runVwait s v0 (unitView (vc0 s) (opOn s)) 0 (opOn s) with | .error .wait => true | _ => false) = true) := by decide +kernel

/-- A VJD: operands at records 1, 2 and 3, output at record 4. -/
def vjd (extra : Nat := 0) : Nat := 64 + 128 * 2 ^ 32 + 192 * 2 ^ 64 + 256 * 2 ^ 96 + extra
def vwin (extra : Nat := 0) : List Host.Cell := window [vjd extra, desc 11 1024 2 2, desc 11 1024 2 2, desc 11 1024 2 2, desc 11 2048 2 2]

theorem witness_vop_completes :
    completes (iw3 0x40 0) (vwin) {} runVop := by decide +kernel

theorem witness_vop_arities :
    (List.range 64).all (fun f => vopArity f == none || completes (iw3 0x40 f) vwin {} runVop) := by decide +kernel

theorem witness_vred_completes :
    completes (iw3 0x41 0) (window [vjd, desc 11 1024 2 2, 0, 0, desc 11 2048 2 1]) {} runVred ∧
      completes (iw3 0x41 0) (window [vjd (2 ^ 233), desc 11 1024 2 2, 0, 0, desc 11 2048 1 2]) {} runVred := by decide +kernel

theorem witness_vmm_completes :
    completes (iw3 0x42 0) vwin {} runVmm := by decide +kernel

theorem witness_vnorm_completes :
    completes (iw3 0x43 0) vwin {} runVnorm := by decide +kernel

theorem witness_drop_completes :
    completes (iw3 0x44 0) (vwin (128 * 2 ^ 224)) {} runDrop := by decide +kernel

theorem witness_init_completes :
    completes (iw3 0x45 0) vwin {} runInit ∧ completes (iw3 0x45 2) vwin {} runInit := by decide +kernel

theorem witness_sample_completes :
    completes (iw3 0x46 0) (window [vjd (320 * 2 ^ 256), desc 11 1024 2 2, 0, 0, desc 11 2048 1 2, 3]) {} runSample := by decide +kernel

theorem witness_sample_with_temperature :
    completes (iw3 0x46 0) (window [vjd (320 * 2 ^ 256 + 0x3F800000 * 2 ^ 160), desc 11 1024 1 2, 0, 0, desc 11 2048 1 1, 3]) {} runSample := by decide +kernel

/-- A collective descriptor: OP, FP32, group 0, source record 1, destination record 2, four elements. -/
def cld (op : Nat) : Nat := op + 64 * 2 ^ 32 + 128 * 2 ^ 64 + 4 * 2 ^ 96
def collState (op : Nat) (members : List (Nat × Nat × Nat)) : State :=
  (started (iw3 0x14 0) (window [cld op, desc 11 1024 1 4, desc 11 2048 1 16])).modFab
    (fun f => { f with groups := [(0, { owner := 0, rank := 0, members := members })] })
def collRuns_ok (op : Nat) (members : List (Nat × Nat × Nat)) : Bool :=
  let s := collState op members
  let d := BitVec.ofNat 512 (cld op)
  decide (OpStarted s v0 (vc0 s) 0x14 (opOn s)) && decide (tget s.fab.groups (clGroup d) = some { owner := 0, rank := 0, members := members }) &&
    !collBad d members.length && (runColl s v0 (unitView (vc0 s) (opOn s)) 0 (opOn s)).toOption.isSome

theorem witness_coll_completes :
    ∀ k < 5, collRuns_ok k [(0, 0, 0), (1, 0, 0)] = true := by decide +kernel

theorem witness_coll_receives_broadcast :
    (let s := (collState 3 [(1, 0, 0), (0, 0, 0)]).modFab (fun f => { f with groups := [(0, { owner := 0, rank := 1, members := [(1, 0, 0), (0, 0, 0)] })] }); (runColl s v0 (unitView (vc0 s) (opOn s)) 0 (opOn s)).toOption.isSome) := by decide +kernel

/-- One contribution waits, with the bytes given at its record. -/
def landing (m : GsrMsg) (bs : List Byte := []) : State := { mem0 up 0 bs with gsrq := [m] }
def first (s : State) : Option GsrMsg := s.gsrq.find? (fun m => !passOpen s m && !accessWaits s m.gsr 64)
/-- A state once its first contribution has read its record. -/
def met (s : State) : State := match s.gsrq with
  | m :: q => demand { s with gsrq := q } (some m.v.ctx) m.gsr 64
  | [] => s

theorem witness_contribution_stale :
    first (landing (gsrMsg 0 64 1) [9]) = some (gsrMsg 0 64 1) ∧ cvKey (gsrMsg 0 64 1).cvd < gsrKey (devNat (met (landing (gsrMsg 0 64 1) [9])) 0 64) := by decide +kernel

/-- A contribution under ladder position 3 of a tensor whose header, of the same tag, stands at position 4. -/
def levelMsg : GsrMsg := { gsrMsg 5 64 1 with cvd := (gsrMsg 5 64 1).cvd + BitVec.ofNat 512 (1024 * 2 ^ 288) }
def levelled : State := mem0 (landing levelMsg) 1024 (natToBytes 16 (5 + 4 * 2 ^ 80))

theorem witness_contribution_old_level :
    first levelled = some levelMsg ∧ oldLevel (met levelled) levelMsg.cvd = true := by decide +kernel

theorem witness_contribution_lands :
    first (landing (gsrMsg 5 64 1)) = some (gsrMsg 5 64 1) ∧ oldLevel (met (landing (gsrMsg 5 64 1))) (gsrMsg 5 64 1).cvd = false ∧
      (gsrOpen (devNat (met (landing (gsrMsg 5 64 1))) 0 64) (gsrMsg 5 64 1).cvd 0).isSome ∧
      bits (gsrAdd ((gsrOpen (devNat (met (landing (gsrMsg 5 64 1))) 0 64) (gsrMsg 5 64 1).cvd 0).getD 0) (gsrMsg 5 64 1)) 159 128 < 64 := by decide +kernel

theorem witness_contribution_adds :
    (gsrOpen (devNat up 0 64) (gsrMsg 5 64 1).cvd 0).isSome ∧
      bits (gsrAdd ((gsrOpen (devNat up 0 64) (gsrMsg 5 64 1).cvd 0).getD 0) (gsrMsg 5 64 1)) 159 128 < 64 := by decide +kernel

theorem witness_contribution_closes :
    first (landing (gsrMsg 5 64 64)) = some (gsrMsg 5 64 64) ∧ oldLevel (met (landing (gsrMsg 5 64 64))) (gsrMsg 5 64 64).cvd = false ∧
      64 ≤ bits (gsrAdd ((gsrOpen (devNat (met (landing (gsrMsg 5 64 64))) 0 64) (gsrMsg 5 64 64).cvd 0).getD 0) (gsrMsg 5 64 64)) 159 128 ∧
      (gsrOpen (devNat (met (landing (gsrMsg 5 64 64))) 0 64) (gsrMsg 5 64 64).cvd 0).isSome ∧
      bit (gsrAdd ((gsrOpen (devNat (met (landing (gsrMsg 5 64 64))) 0 64) (gsrMsg 5 64 64).cvd 0).getD 0) (gsrMsg 5 64 64)) 85 = false ∧
      cvHasTsr (gsrMsg 5 64 64).cvd = false := by decide +kernel

def tsrMsg : TsrMsg := { v := v0, tsr := 0, step := 3, attempt := 0, gmax := 0x40000000 }

theorem witness_maximum_lands :
    ({ up with tsrq := [tsrMsg] } : State).tsrq.find? (fun m => !accessWaits { up with tsrq := [tsrMsg] } m.tsr 320) = some tsrMsg ∧
      bits (devNat up (0 + 64 + 16 * (3 % 16)) 16) 63 0 ≠ 3 ∧ bits (devNat (mem0 up 112 [3]) (0 + 64 + 16 * (3 % 16)) 16) 63 0 = 3 := by decide +kernel

def vmsg : VerdictMsg := { v := v0, gsr := 0, cvd := (gsrMsg 5 64 64).cvd, group := 0, cap := 4 }
def closedGroup (st : Nat) : State := { mem0 (onCore {}) 0 (natToBytes 64 (st + 2 ^ 85)) with verdicts := [vmsg] }
/-- What the verdict `m` reads, and the state in which it reads. -/
abbrev judged (m : VerdictMsg) : List Run := verdictRuns m.cvd m.gsr
abbrev asJudged (s : State) (m : VerdictMsg) : State := discoverRuns s (some m.v.ctx) true (judged m)
/-- The verdict `m` is the first of `s`, for the record's tag, and nothing that it accesses is being cleared. -/
def judgeable (s : State) (m : VerdictMsg) : Bool :=
  decide (s.verdicts.head? = some m ∧ (s.vc? m.v).isSome ∧ gsrKey (devNat s m.gsr 64) = cvKey m.cvd ∧ bit (devNat s m.gsr 64) 86 = false ∧
    accessWaits s ((s.part (ctxPart s m.v.ctx)).tel.accBase.toNat + 64 * (16 * cvLayer m.cvd + cvFmt m.cvd)) 64 = false ∧
    ∀ a ∈ judged m, accessWaits s a.1 a.2 = false)
def verdictIn (s : State) (m : VerdictMsg) : Option (Verdict × List Nat) :=
  verdictOf (devNat s m.gsr 64) (devNat (asJudged s m) (cvTsr m.cvd) 320) m.cvd (((asJudged s m).part 0).active.numThr.getLsbD 48) m.cap

theorem witness_verdict_is_judged :
    judgeable (closedGroup 5) vmsg ∧ runsPoison (rdOf (asJudged (closedGroup 5) vmsg) (vc0 (closedGroup 5)) true) (judged vmsg) = none ∧
      verdictIn (closedGroup 5) vmsg = some (0, []) ∧ gsrKey (devNat (closedGroup 6) 0 64) ≠ cvKey vmsg.cvd ∧ (closedGroup 6).verdicts = [vmsg] := by decide +kernel

def poisonGroup : State := (closedGroup 5).modMem (fun m => { m with poison := [(0, .context)] })

theorem witness_verdict_consumes_poison :
    judgeable poisonGroup vmsg ∧ runsPoison (rdOf (asJudged poisonGroup vmsg) (vc0 poisonGroup) true) (judged vmsg) = some .context := by decide +kernel

/-- A group that vanishes under a delayed scale, whose tensor (at 1024) has not closed. -/
def waitMsg : VerdictMsg := { vmsg with cvd := BitVec.ofNat 512 (2 * 2 ^ 32 + 2 ^ 82 + 5 * 2 ^ 96 + 1024 * 2 ^ 288) }
def waitGroup : State := { (mem0 (mem0 (onCore {}) 0 (natToBytes 64 (5 + 2 ^ 85 + 2 ^ 288 + 2 ^ 480))) 1024 (natToBytes 24 (2 ^ 128))).modPart 0
  (fun p => { p with active := { p.active with numThr := 1 <<< 48 } }) with verdicts := [waitMsg] }

theorem witness_verdict_awaits_tensor :
    judgeable waitGroup waitMsg ∧ runsPoison (rdOf (asJudged waitGroup waitMsg) (vc0 waitGroup) true) (judged waitMsg) = none ∧
      verdictIn waitGroup waitMsg = none ∧ waitMsg.raised = false := by decide +kernel

def clipGroup : Nat := 2 ^ 320

theorem witness_verdict_thresholds :
    bits clipGroup 415 384 ≤ 4 ∧ bits clipGroup 383 352 = 0 ∧ 0 < bits clipGroup 351 320 ∧ bits clipGroup 84 83 = 0 ∧
      cvDelayed (BitVec.ofNat 512 (2 * 2 ^ 32 + 2 ^ 82)) = true ∧ cvFirst (BitVec.ofNat 512 (2 * 2 ^ 32 + 2 ^ 82)) = true := by decide +kernel

def telPart (head tail : Word32) (thr : Word64) : State :=
  (mem0 up
    0 (List.replicate
    24 1)).modPart
    0 (fun p => { p with tel := { p.tel with due := some (1, 0, false), touched := [0], base := 4096, log2 := 2, head := head, tail := tail }, active := { p.active with numThr := thr } })

theorem witness_telemetry_is_due :
    ((telPart 0 0 (2 ^ 49)).part 0).tel.due = some (1, 0, false) ∧ accessWaits (telPart 0 0 (2 ^ 49)) 0 64 = false ∧
      accessWaits (telPart 0 0 (2 ^ 49)) 4096 256 = false ∧ accessRefusal (telPart 0 0 (2 ^ 49)) .fw 0 64 = none ∧
      strongest (devRead (demand (telPart 0 0 (2 ^ 49)) none 0 64) 0 64) = none ∧ ((telPart 0 0 (2 ^ 49)).part 0).active.numThr.getLsbD 49 = true ∧
      (∃ f ∈ telFields, bits (devNat (telPart 0 0 (2 ^ 49)) 0 64) f.1 f.2 ≠ 0) := by decide +kernel

theorem witness_telemetry_ring_full :
    2 ^ ((telPart 3 (2 ^ 32 - 1) (2 ^ 49)).part 0).tel.log2.toNat ≤
      (((telPart 3 (2 ^ 32 - 1) (2 ^ 49)).part 0).tel.head - ((telPart 3 (2 ^ 32 - 1) (2 ^ 49)).part 0).tel.tail).toNat := by decide +kernel

theorem witness_telemetry_disabled :
    ((telPart 0 0 0).part 0).active.numThr.getLsbD 49 = false := by decide +kernel

/-- A momentum layer of one record: BF16 parameters and moments, sets at 1024 and 2048, headers at 4096 and 8192, gradient at 12288. -/
def lud : Nat := 2 ^ 14 + 9 * 2 ^ 16 + 9 * 2 ^ 20 + 0xFFF * 2 ^ 24 + 9 * 2 ^ 41 + 2 ^ 64 + 0x3F800000 * 2 ^ 96 + 0x3F000000 * 2 ^ 128 + 1024 * 2 ^
  256 + 2048 * 2 ^ 304 +
  4096 * 2 ^ 352 + 8192 * 2 ^ 400 + 12288 * 2 ^ 544 + 16384 * 2 ^ 640
/-- One partition with one layer, whose attempt is open and whose gate has opened. -/
def upd (l : Nat := lud) (gate : Option Bool := some true) : State :=
  (mem0 up
    0 (natToBytes
    128 l)).modPart
    0 (fun p => { p with active := { p.active with nlayers := 1, ssrBase := 512 }, clusters := 1, cmt := { p.cmt with att := { p.cmt.att with isOpen := true, gate := gate, normIn := true } } })
/-- What the pass of layer 0 reads, and with it what it writes. -/
abbrev passReads (s : State) : List Run := layerInputs s 0 0 (ludAt s 0 0) ((s.cmt 0).sel.getLsbD 0)
abbrev passRuns (s : State) : List Run := passReads s ++ setRuns (ludAt s 0 0) true
/-- The state in which the pass reads. -/
abbrev passFound (s : State) : State := discoverRuns (s.modCluster 0 (fun c => { c with waitpc := false })) none true (passReads s)

theorem witness_update_pass :
    clusterPart upd 0 = 0 ∧ dieStopped upd 0 = false ∧ (upd.cluster 0).busy = none ∧ (upd.att 0).gate = some true ∧ (upd.att 0).abortSent = false ∧
      nextLayer upd 0 0 = some 0 ∧ (∀ r ∈ setRuns (ludAt upd 0 0) true, ∀ g ∈ regionsOf r.1 r.2, reFrozen (entry upd g) = false) ∧
      updAccess upd 0 (passRuns upd) = none ∧ (∀ r ∈ passRuns upd, accessWaits upd r.1 r.2 = false) ∧ dueRefresh upd 0 0 (ludAt upd 0 0) = none ∧
      upd.mem.latent = [] := by decide +kernel

/-- Where no granule is poisoned and no part is fenced, a read finds no poison. -/
theorem clean_read (s : State) (a n : Nat) (hp : s.mem.poison = []) (hf : s.mem.parts = []) : strongest (devRead s a n) = none := by
  have h : ∀ b ∈ devRead s a n, b.2 = none := by
    intro b hb
    obtain ⟨i, hi, rfl⟩ := List.mem_mapIdx.mp hb
    have hq : fencedAt s (a + i) = false := by simp [fencedAt, State.memPart, hf, tgetD]
    simp [hq, PMem.read, State.pmem, hp]
  have k : ∀ l : List PByte, (∀ b ∈ l, b.2 = none) → l.foldl (fun a b => joinP a b.2) none = none := by
    intro l
    induction l with
    | nil => simp
    | cons b l ih =>
      intro hl
      have hb := hl b (by simp)
      simp only [List.foldl_cons, hb, joinP]
      exact ih (fun c hc => hl c (by simp [hc]))
  exact k _ h
/-- Reading with no failed symbol about changes no byte and no mark. -/
theorem found_read (s : State) (h : s.mem.latent = []) (rs : List Run) (a n : Nat) :
    devRead (discoverRuns s none true rs) a n = devRead s a n := by
  have k : ∀ (l : List Run) (t : State), t.mem.latent = [] →
    ∃ ls, l.foldl (fun t r => demand t none r.1 r.2) t = t.modMem (fun m => { m with lines := ls }) := by
    intro l
    induction l with
    | nil => exact fun t _ => ⟨t.mem.lines, rfl⟩
    | cons r l ih =>
      intro t ht
      obtain ⟨x, hx⟩ := Machine.demand_lines ht none r.1 r.2
      obtain ⟨y, hy⟩ := ih (t.modMem (fun m => { m with lines := x })) ht
      exact ⟨y, by rw [List.foldl_cons, hx, hy]; rfl⟩
  obtain ⟨ls, e⟩ := k rs s h
  rw [show discoverRuns s none true rs = s.modMem (fun m => { m with lines := ls }) from e]
  rfl
theorem witness_update_pass_reads : ∀ r ∈ passReads upd, strongest (devRead (passFound upd) r.1 r.2) = none :=
  fun r _ => by rw [found_read _ (by decide +kernel)]; exact clean_read _ r.1 r.2 (by decide +kernel) (by decide +kernel)

def poisoned : State := upd.modMem (fun m => { m with poison := [(16, .context)] })
theorem witness_update_pass_poison : (nextLayer poisoned 0 0 = some 0 ∧ dueRefresh poisoned 0 0 (ludAt poisoned 0 0) = none ∧
  updAccess poisoned 0 (passRuns poisoned) = none ∧
    (∀ r ∈ passRuns poisoned, accessWaits poisoned r.1 r.2 = false)) ∧
    (passReads poisoned).find? (fun r => (strongest (devRead (passFound poisoned) r.1 r.2)).isSome) = some (512, 64) := by
  refine ⟨by decide +kernel, ?_⟩
  simp only [passFound, found_read _ (show (poisoned.modCluster 0 (fun c => { c with waitpc := false })).mem.latent = [] by decide +kernel)]
  decide +kernel

def frozen : State := upd.modMem (fun m => { m with region := [(0, 1 + 2 ^ 10)] })

theorem witness_update_pass_frozen :
    (∃ r ∈ setRuns (ludAt frozen 0 0) true, ∃ g ∈ regionsOf r.1 r.2, reFrozen (entry frozen g) = true) ∧ nextLayer frozen 0 0 = some 0 ∧
      (frozen.att 0).gate = some true := by decide +kernel

def late : State := upd.modPart 0 (fun p => { p with refreshes := [{ layer := 0, step := curStep upd 0, snapped := true, late := true }] })

theorem witness_update_pass_waits :
    nextLayer late 0 0 = some 0 ∧ (∃ r, dueRefresh late 0 0 (ludAt late 0 0) = some r ∧ r.done = false ∧ r.late = true) ∧
      updAccess late 0 (passRuns late) = none ∧ (∀ r ∈ passRuns late, accessWaits late r.1 r.2 = false) ∧
      (∀ r ∈ setRuns (ludAt late 0 0) true, ∀ g ∈ regionsOf r.1 r.2, reFrozen (entry late g) = false) := by decide +kernel

def passed : State := upd.modAtt 0 (fun a => { a with passed := [0] })

theorem witness_layer_arm :
    0 ∈ (passed.att 0).passed ∧ (passed.cmt 0).armed.getLsbD 0 = false ∧ (passed.att 0).gate = some true := by decide +kernel

/-- A preconditioned layer after the commit of step 1, with period 1. -/
def pcLayer : State := (upd (lud + 2 * 2 ^ 12 + 1 * 2 ^ 45 + 1 * 2 ^ 688 + 1 * 2 ^ 704 + 0x10000 * 2 ^ 592)).modPart 0
  (fun p => { p with cmt := { p.cmt with stepC := 1 } })
/-- One block of sixteen columns makes no row block of sixteen rows, whatever the shape of the layer (log 18). -/
theorem no_pc_blocks : pcBlocks (ludAt pcLayer 0 0) = 0 := by
  have a : pcbSize (fld (ludAt pcLayer 0 0) 47 45) = 16 := by decide +kernel
  have b : fld (ludAt pcLayer 0 0) 95 64 = 1 := by decide +kernel
  have c : (ludAt pcLayer 0 0).getLsbD 36 = false := by decide +kernel
  have d : shardRows (ludAt pcLayer 0 0) ≤ 1 := by
    simp only [shardRows, b, c]
    split
    · omega
    · simpa using Nat.div_le_self 1 _
  simp only [pcBlocks, a]
  simp only [show (16 : Nat) ≠ 0 by decide, if_false]
  omega
theorem witness_snapshot_is_due : (0 < (pcLayer.part 0).active.nlayers.toNat ∧ ludEn (ludAt pcLayer 0 0) = true ∧ ludPcb (ludAt pcLayer 0 0) ≠ 0 ∧
  fld (ludAt pcLayer 0 0) 703 688 ≠ 0 ∧
    (pcLayer.cmt 0).stepC ≠ 0 ∧ (pcLayer.cmt 0).stepC.toNat % fld (ludAt pcLayer 0 0) 703 688 = 0 ∧ (pcLayer.part 0).refreshes = []) ∧
    snapMoves (ludAt pcLayer 0 0) ((pcLayer.cmt 0).sel.getLsbD 0) = [] :=
  ⟨by decide +kernel, by simp [snapMoves, no_pc_blocks]⟩

/-- A layer whose refresh has its snapshot: the identity matrix of 16 rows. -/
def refreshing : State := ((pcLayer).modPart 0 (fun p => { p with refreshes := [{ layer := 0, step := 1, snapped := true }] }))
/-- Its first block in the snapshot. -/
abbrev block : Run := (0x10000, 1024)
theorem witness_refresh_slice : (((refreshing.part 0).refreshes.find? (fun r => r.layer == 0 && !r.done)).isSome ∧
  ludPcb (ludAt refreshing 0 0) = 16 ∧
    updAccess refreshing 0 [block] = none ∧ accessWaits refreshing block.1 block.2 = false) ∧ (pcSnap (ludAt refreshing 0 0), 1024) = block ∧
    strongest (devRead (discoverRuns refreshing none true [block]) block.1 block.2) = none := by
  refine ⟨by decide +kernel, ?_, ?_⟩
  · have h : pcBlocks (ludAt refreshing 0 0) = 0 := no_pc_blocks
    have f : fld (ludAt refreshing 0 0) 639 592 = 0x10000 := by decide +kernel
    simp [pcSnap, pcHalf, h, f, alignUp]
  · rw [found_read _ (by decide +kernel)]
    exact clean_read _ _ _ (by decide +kernel) (by decide +kernel)

def gated (nonfin : Bool) : State := (upd lud none).modCmt 0 (fun c => { c with nonfin := nonfin, totT := 1 })

theorem witness_norm_gate_opens :
    ((gated false).att 0).isOpen = true ∧ ((gated false).att 0).normIn = true ∧ ((gated false).att 0).gate = none ∧
      ((gated false).cmt 0).nonfin = false ∧ ((gated false).cmt 0).ovr = false ∧ ((gated true).cmt 0).nonfin = true := by decide +kernel

/-- Partition 0 is the one member of group 0, with an open attempt whose gate has opened. -/
def member (a : Attempt := { isOpen := true, gate := some true }) (c : Commit := {}) : State :=
  up.modPart 0 (fun p => { p with active := { p.active with cmtCtl := 2 ^ 16 }, cmt := { c with att := a } })
def peer : Member := ⟨up.devId + 1, 0⟩
abbrev stepOf (s : State) : Word64 := curStep s 0

theorem witness_ready_is_due :
    isMember member 0 = true ∧ (member.att 0).isOpen = true ∧ (member.att 0).gate = some true ∧ (member.att 0).readySent = false ∧
      (member.att 0).abortSent = false ∧ (member.att 0).resetHit = false ∧ allArmed member 0 = true ∧ (member.part 0).sn.pending = 0 ∧
      (member.part 0).inReset = false := by decide +kernel

theorem witness_last_ready : member = hear member 0 (member.self 0) ∧ isLeader member 0 = true ∧ (member.att 0).decided = false ∧
  (∀ x ∈ membersFor member 0, x = member.self 0 ∨ x ∈ (member.att 0).ready) :=
  ⟨rfl, by decide +kernel⟩

def pair : State := hear member 0 peer

theorem witness_first_ready : pair = hear member 0 peer ∧ isLeader pair 0 = true ∧ (pair.att 0).decided = false ∧
  (∃ x ∈ membersFor pair 0, x ≠ peer ∧ x ∉ (pair.att 0).ready) :=
  ⟨rfl, by decide +kernel⟩

def decided : State := member { isOpen := true, decided := true }

theorem witness_abort_before_and_after : decided = hear decided 0 (decided.self 0) ∧ isLeader decided 0 = true ∧ (decided.att 0).decided = true ∧
  (member.att 0).decided = false :=
  ⟨rfl, by decide +kernel⟩

def overdue : State := pair

theorem witness_deadline_passes :
    isLeader overdue 0 = true ∧ isMember overdue 0 = true ∧ (overdue.att 0).isOpen = true ∧ (overdue.att 0).decided = false ∧
      (overdue.att 0).openAt + (overdue.part 0).active.gradDl.toNat + fld (overdue.part 0).active.cmtCtl 47 32 * overdue.time.beatPeriod.toNat ≤
      overdue.now := by decide +kernel

def timed : State := { member with time := { member.time with pt := 10, valid := true } }

theorem witness_commit_arrives :
    isMember timed 0 = true ∧ (timed.att 0).isOpen = true ∧ (timed.att 0).commit = none ∧ timed.now ≤ (20 : Word64).toNat ∧
      (5 : Word64).toNat < timed.now := by decide +kernel

def committed (tc : Nat) : State := { (member { isOpen := true, commit := some tc }) with time := { member.time with pt := 10, valid := true } }

theorem witness_commit_instant :
    ((committed 10).att 0).commit = some 10 ∧ 10 ≤ (committed 10).now ∧ ((committed 11).att 0).commit = some 11 ∧ (committed 11).now < 11 := by decide +kernel

theorem witness_attempt_is_abandoned :
    isMember (committed 10) 0 = true ∧ ((committed 10).att 0).commit.isSome = true ∧ (member.att 0).isOpen = true ∧ (member.att 0).commit = none ∧
      member.abandons.find? (fun a => a.part == 0) = none := by decide +kernel

def resting : State := member { resume := [] }

theorem witness_last_resume : resting = hear resting 0 (resting.self 0) ∧ isLeader resting 0 = true ∧ (resting.att 0).isOpen = false ∧
  (∀ x ∈ membersFor resting 0, x = resting.self 0 ∨ x ∈ (resting.att 0).resume) ∧ isMember resting 0 = true :=
  ⟨rfl, by decide +kernel⟩

def opening (t : Nat) : State := { (member { openMsg := some t }) with time := { member.time with pt := 10, valid := true } }

theorem witness_attempt_opens :
    ((opening 10).att 0).openMsg = some 10 ∧ ((opening 10).cmt 0).halted = false ∧ 10 ≤ (opening 10).now ∧ (opening 11).now < 11 := by decide +kernel

theorem witness_device_write :
    Memory.wf up.mem.bytes = true ∧ (∀ i, i < [(7, none), (0, some Policy.nan)].length → fencedAt up (2 ^ 44 - 1 + i) = false) ∧
      (1 : Nat) < [(7, none), ((0 : Byte), some Policy.nan)].length := by decide +kernel

def clearing
  : State :=
  up.modMem (fun m => { m with region := [(0, 1), (1, 2 ^ 18 + 2 ^ 19 + 1)], bytes := [(2 ^ 25 - 1, 1), (2 ^ 25, 2), (2 ^ 26 - 1, 3), (2 ^ 26, 4)], poison := [(2 ^ 20, .nan), (2 ^ 21, .nan)], clearing := [1] })

theorem witness_region_clears :
    1 ∈ clearing.mem.clearing ∧ reValid (entry clearing 1) = true ∧ reZeroing (entry clearing 1) = true ∧ memGet clearing.mem.bytes (2 ^ 25) ≠ 0 := by decide +kernel

def scrubbed (en : Bool) (e : Word64 := 1) : State := up.modMem (fun m => { m with region := [(0, e)], ctl := if en then 1 else 0 })

theorem witness_scrub_finds :
    homePart (scrubbed true) 0 < 80 ∧ (rePhint (entry (scrubbed true) 0) == 2) = false ∧ fencedAt (scrubbed true) 0 = false ∧
      reEcc (entry (scrubbed true) 0) = 0 ∧ (scrubbed true).mem.ctl.getLsbD 0 = true ∧ (scrubbed false).mem.ctl.getLsbD 0 = false ∧
      lineAt (scrubbed true) 0 = none := by decide +kernel

/-- The same in a RAW region, and in one that the Pantry holds. -/
def rawRegion : State := scrubbed true (1 + 2 * 2 ^ 15)
def pantryRegion : State := scrubbed true (1 + 2 * 2 ^ 13)
/-- The Pantry holds the line of granule 0. -/
def cachedLine : State := (scrubbed true).modMem (fun m => { m with lines := [{ line := 0, owner := 0, place := ⟨0, 0, 0, 0⟩ }] })

theorem witness_scrub_finds_in_raw :
    (rePhint (entry rawRegion 0) == 2) = false ∧ reEcc (entry rawRegion 0) = 2 ∧ rePhint (entry pantryRegion 0) = 2 ∧
      pantryRegion.mem.ctl.getLsbD 0 = true ∧ fencedAt pantryRegion 0 = false ∧ (lineAt cachedLine 0).isSome := by decide +kernel

theorem witness_scrub_finds_in_scratchpad :
    ((onCore {}).vc? v0).isSome ∧ 32 * 127 < (vc0 (onCore {})).winSize := by decide +kernel

def warm : State := { up with pwr := { up.pwr with st := .run } }

theorem witness_part_temperature :
    warm.mem.ready = true ∧ warm.pwr.st = .run ∧ (warm.memPart 3).fenced = false := by decide +kernel

theorem witness_part_fenced :
    (warm.memPart 79).fenced = false := by decide +kernel

theorem witness_pantry_changes :
    up.mem.hinted ≠ true := by decide +kernel

/-- Link 9 as given. -/
def linked (l : Link) : State := up.modLink 9 (fun _ => l)
def trained (x : Link := {}) : State := linked { x with st := .up, peer := some (5, 1) }

theorem witness_lane_fails :
    lanesHeld trained 9 = false ∧ (trained.link 9).st = .up ∧ (trained.link 9).spareDark = false ∧ (trained.link 9).spareIn = false := by decide +kernel

def routed : State := (linked { st := .up, spareIn := true }).modLink 8 (fun l => { l with st := .up })

theorem witness_lane_fails_again :
    lanesHeld routed 9 = false ∧ (routed.link 9).st = .up ∧ routeAround routed 9 = true ∧ (routed.link 9).spareIn = true ∧
      (routed.link 9).spared.toNat ≠ 3 ∧ (routed.link 9).spareDark = false := by decide +kernel

/-- A laser of engine 1 failed at instant 0, and 2 ms have not passed. -/
def afterLaser : State := trained.modOptic 1 (fun o => { o with eventAt := some 0 })

theorem witness_lanes_are_held :
    (afterLaser.optic (9 / 8)).eventAt = some 0 ∧ afterLaser.now < 0 + 2000000 := by decide +kernel

def lasers (spent : Bool) : State := up.modOptic 2 (fun o => { o with laserOk := 0x3F, spareUsed := spent })

theorem witness_laser_fails :
    ((lasers false).optic 2).laserOk.getLsbD 4 = true ∧ ((lasers false).optic 2).spareUsed = false ∧
      ((lasers false).optic 2).laserOk.getLsbD 5 = true ∧ ((lasers true).optic 2).laserOk.getLsbD 4 = true ∧ ((lasers true).optic 2).spareUsed = true := by decide +kernel

def inTraining : State := linked { st := .train, replay := [3], txq := [(none, 5)] }
def heard : Peer := { dev := 200, link := 7, serial := 41, prio := 0 }
/-- This end has said who it is and has heard the peer `p`. -/
abbrev introduced (p : Peer) : State := hearSerial (sendTraining inTraining 9) p.dev p.serial

theorem witness_link_trains :
    (inTraining.link 9).st = .train ∧ (inTraining.link 9).en = true ∧ heard.dev ≠ inTraining.devId ∧ heard.dev ∉ (introduced heard).fab.excluded ∧
      inTraining.devId ∉ (introduced heard).fab.excluded := by decide +kernel

theorem witness_link_hears_itself :
    inTraining.devId = ({ heard with dev := inTraining.devId } : Peer).dev := by decide +kernel

theorem witness_link_retrains :
    (trained.link 9).en = true := by decide +kernel

/-- A flit of another module and one of this one wait on link 9. -/
def foreign : BitVec 2048 := mkFlit (2 ^ 192) 2
def loaded : State := trained { txq := [(some 3, foreign)] }

theorem witness_link_goes_down :
    (loaded.link 9).st = .up ∧ foreign ∈ (loaded.link 9).replay ++ (loaded.link 9).txq.map Prod.snd ∧ hdrSrc (flitHdr foreign) ≠ loaded.devId ∧
      ((linked {}).link 9).st = .off ∧ (inTraining.link 9).st = .train := by decide +kernel

/-- A message of this module, of which one flit lies in the replay buffer. -/
def mine : BitVec 2048 := mkFlit (up.devId * 2 ^ 192) 2
def halfSent : State := (trained { replay := [mine] }).modFab (fun b => { b with kept := [[mine]] })

theorem witness_message_is_sent_again :
    (halfSent.link 9).st = .up ∧ (halfSent.link 9).txq = [] ∧ (halfSent.link 9).replay = [mine] ∧ hdrSrc (flitHdr mine) = halfSent.devId ∧
      halfSent.fab.kept.find? (fun m => m.any (fun g => msgKey g == msgKey mine)) = some [mine] := by decide +kernel

def flit (type seq : Nat) : BitVec 2048 := mkFlit (type * 2 ^ 220 + seq * 2 ^ 180) 5

theorem witness_flits_arrive :
    (trained.link 9).st = .up ∧ flitCrc (flit 1 0 + 1) ≠ flitCrcField (flit 1 0 + 1) ∧ flitCrc (flit 1 0) = flitCrcField (flit 1 0) ∧
      hdrType (flitHdr (flit 0 0)) = 0 ∧ hdrType (flitHdr (flit 1 0)) ≠ 0 ∧ hdrSeq (flitHdr (flit 1 1)) ≠ (trained.link 9).rxSeq.toNat ∧
      hdrSeq (flitHdr (mkFlit (2 ^ 220) 0)) = (trained.link 9).rxSeq.toNat := by decide +kernel

theorem witness_made_flit :
    (2 : Nat) ^ 224 - 1 < 2 ^ 224 ∧ (2 : Nat) ^ 1792 - 1 < 2 ^ 1792 := by decide +kernel

/-- The module as it begins discovery, and as leader or member of a pod of two. -/
def lone : State := up.modFab (fun b => { b with topo := [], leader := 0 })
def pod (b : Fabric → Fabric := id) : State := up.modFab (fun f => b { f with podup := true, memberList := [up.devId, 7], leader := 7 })
/-- The link list of module 7, as `s` takes it. -/
def list7 : List LinkEnd := [{ link := 1, peer := 0, peerLink := 1 }]
abbrev serialsHeard (s : State) : State := (list7.filter (fun e => e.peer != s.devId)).foldl (fun t e => hearSerial t e.peer e.peerSerial)
  (hearSerial s 7 41)
abbrev listed (s : State) : State := (serialsHeard s).modFab (fun b => { b with topo := tput b.topo 7 list7 })
/-- The leader of an UP pod of one. -/
def leading : State := up.modFab (fun f => { f with podup := true, memberList := [up.devId], leader := 0 })

theorem witness_link_list :
    7 ∉ lone.fab.excluded ∧ 7 ≠ lone.devId ∧ 7 / 64 = lone.fab.pod.toNat ∧ 7 ∉ (serialsHeard lone).fab.excluded ∧
      clashes (listed lone).fab.topo = [] ∧ lone.fab.podup = false ∧ lone.devId ∉ lone.fab.excluded ∧ 71 / 64 ≠ lone.fab.pod.toNat := by decide +kernel

theorem witness_joiner :
    7 ∉ leading.fab.excluded ∧ 7 ≠ leading.devId ∧ 7 / 64 = leading.fab.pod.toNat ∧ 7 ∉ (serialsHeard leading).fab.excluded ∧
      clashes (listed leading).fab.topo = [] ∧ leading.fab.podup = true ∧ tget (serialsHeard leading).fab.topo 7 ≠ some list7 ∧
      7 ∉ (serialsHeard leading).fab.memberList ∧ 7 ∉ (serialsHeard leading).fab.joining := by decide +kernel

theorem witness_pod_comes_up :
    pod.fab.podup = true ∧ lone.fab.podup = false := by decide +kernel

/-- Three heartbeats of module 7 are missing. -/
def silent : State := pod (fun b => { b with missed := [(7, 3)] })
abbrev groupsOf (s : State) (dev : Nat) : List Nat := (List.range 33).filter (fun n => isMember s n && (farMembers s n).any (fun m => m.dev == dev))

theorem witness_member_is_lost :
    7 ∈ pod.fab.memberList ∧ 7 ≠ pod.devId ∧ isLost pod 7 = false ∧ 7 ∈ silent.fab.memberList ∧ isLost silent 7 = true ∧ groupsOf silent 7 = [] := by decide +kernel

theorem witness_summary_arrives :
    pod.fab.leader.toNat ≠ pod.devId ∧ leading.fab.leader.toNat = leading.devId ∧
      64 ∈ ([64, 65, 130] : List Nat).filter (fun d => d / 64 == 1 && 1 != leading.fab.pod.toNat) := by decide +kernel

def stored : State := onCore { waitPatch := false }

theorem witness_shard_returns :
    (stored.ctx? 0).isSome := by decide +kernel

/-- A module whose upstream link 2 is up, with Pod Time `pt`. -/
def timed2 (valid : Bool) (pt : Word64 := 5000000) (t : Time → Time := id) : State :=
  { (up.modFab (fun b => { b with upstream := some 2, leader := 7 })).modLink 2 (fun l => { l with st := .up, ptEn := true }) with time := t { up.time with pt := pt, valid := valid } }

theorem witness_time_is_exchanged :
    (timed2 false).time.isTm = false ∧ (timed2 false).fab.upstream = some 2 ∧ ((timed2 false).link 2).st = .up ∧
      ((timed2 false).link 2).ptEn = true ∧ (timed2 false).time.valid = false ∧ (timed2 true).time.valid = true := by decide +kernel

theorem witness_exchanges_stop :
    (timed2 true).time.holdover = false ∧ (timed2 true).time.lastExchange + 3000000 ≤ (timed2 true).now ∧
      (timed2 true 2999999).now < (timed2 true 2999999).time.lastExchange + 3000000 := by decide +kernel

def master (valid : Bool) (next : Word64) : State := timed2 valid 5000000 (fun t => { t with isTm := true, tmSrc := 2, syncNext := next })

theorem witness_sync_edges :
    (master false 9).time.isTm = true ∧ (master false 9).time.tmSrc = 2 ∧ (master false 9).time.valid = false ∧
      (((master true 5001000).time.syncNext.toNat : Int) - (master true 5001000).time.pt.toNat).natAbs ≤ 1000 ∧
      1000 < (((master true 4998999).time.syncNext.toNat : Int) - (master true 4998999).time.pt.toNat).natAbs := by decide +kernel

def ownMaster : State := (master true 9).modFab (fun b => { b with leader := 0, podup := true, tm := 0 })

theorem witness_reference_is_lost :
    ((master true 9).fab.podup = false ∧ (master true 9).time.isTm = true) ∧ ownMaster.fab.podup = true ∧ ownMaster.fab.tm.toNat = ownMaster.devId := by decide +kernel

theorem witness_best_candidate :
    bestOf [(0, 5, false), (7, 9, false), (9, 9, true), (8, 9, true)] = some 8 := by decide +kernel

def atMark (pt : Word64) : State := { up with pwr := { up.pwr with st := .run }, time := { up.time with pt := pt, valid := true } }

theorem witness_beat_mark_comes :
    (atMark 10000000).time.beatPeriod ≠ 0 ∧ nextMark (atMark 10000000).time ≤ (atMark 10000000).now ∧
      (atMark 9999999).now < nextMark (atMark 9999999).time ∧ (atMark 10000000).pwr.st ≠ .off ∧ (atMark 10000000).pwr.st ≠ .carousel := by decide +kernel

theorem witness_beat_changes :
    beatOk 1000000 = true ∧ (atMark 0).time.beatNum.toNat < (3 : Word64).toNat ∧ (atMark 0).time.beatPend = none := by decide +kernel

def alarm (at_ : Word64) : State := { (atMark 100) with time := { (atMark 100).time with arm := 1, alm := [(0, at_)] } }

theorem witness_alarm_fires :
    (alarm 100).time.arm.getLsbD 0 = true ∧ (tgetD (alarm 100).time.alm 0 0).toNat ≤ (alarm 100).now ∧
      (alarm 101).now < (tgetD (alarm 101).time.alm 0 0).toNat ∧ (alarm 100).pwr.st ≠ .off := by decide +kernel

def sendTo (job addr : Nat) (n : Nat := 4) : SendMsg :=
  { src := 7, vch := 0, ctx := 0, vc := 0, job := job, addr := addr, tag := 9, msgid := 3, data := List.replicate n 5, poison := [] }
def target (arrivals : Nat := 0) : State := onCore { waitPatch := false, arrivals := List.replicate arrivals { val := 0 } }

theorem witness_send_lands :
    target.fab.inbox = [] ∧ target.fab.arrived = [] ∧ target.ctx? 0 = some (ctx0 target) ∧ tget (ctx0 target).vcs 0 = some (vc0 target) ∧
      coreInReset target (vc0 target).core = false ∧ (ctx0 target).job.toNat = (sendTo 0 4092).job ∧
      (sendTo 0 4092).addr + (sendTo 0 4092).data.length ≤ (vc0 target).winSize ∧ arrivalRoom (vc0 target) = true ∧
      arrivalRoom (vc0 (target 16)) = false ∧ (vc0 target).winSize < (sendTo 0 4093).addr + (sendTo 0 4093).data.length ∧
      (ctx0 target).job.toNat ≠ (sendTo 1 0).job := by decide +kernel

def waiting
  : State := ({ (onCore { waitPatch := false, ops := [{ op1 0 with held := true }] }) with time := { up.time with pt := 10000000, valid := true } } :
  State).modFab (fun b => { b with sends := [⟨3, v0, 1, 0, 7⟩] })

theorem witness_send_is_answered :
    sendOf waiting 3 = some ⟨3, v0, 1, 0, 7⟩ ∧ 0 + waiting.fab.sendTmo.toNat * 1000 ≤ waiting.now := by decide +kernel

def cdesc (op dt : Nat) : BitVec 512 := BitVec.ofNat 512 (op + dt * 16 + 2 ^ 32 * 1024 + 2 ^ 64 * 2048 + 2 ^ 96 * 2)
def arriving
  : CollMsg :=
  { group := 0, rank := 1, seg := 0, gathered := false, refused := false, step := curStep up 0, attempt := 0, bucket := 0, data := List.replicate 8 1, poison := [] }
def joined (op dt : Nat) (c : Coll → Coll := id) : State := (onCore { waitPatch := false, ops := [{ op1 0 with held := true }] }).modFab
  (fun b => { b with
  groups := [(0, { owner := 0, rank := 0, members := [(up.devId, 0, 0), (7, 0, 0)] })],
  colls :=
    [c { v := v0, op := 1, group := 0, desc := cdesc op dt, step := curStep up 0, attempt := 0, rank := 0, size := 4, contrib := [(0, List.replicate 8 1, [])] }]
    })

theorem witness_contribution_enters :
    absorbs (joined 0 0) v0 = false ∧ ((joined 0 0).fab.colls.find?
      (fun c => matchesColl v0 arriving c && !c.done && (arriving.gathered || !(tget c.contrib arriving.rank).isSome))).isSome ∧
      (∀ c ∈ (joined 0 0).fab.colls, c.closed = false ∧ clGradb c.desc = false) := by decide +kernel

/-- The same for a gradient bucket of the open attempt of a member partition. -/
def joinedGrad : State := (joined 0 0 (fun c => { c with desc := cdesc 0 0 ||| 1 <<< 8 }) ).modPart 0
  (fun p => { p with cmt := { p.cmt with att := { isOpen := true } } })

theorem witness_gradient_contribution :
    absorbs joinedGrad v0 = false ∧ staleTag joinedGrad 0 arriving.step arriving.attempt = false ∧
      (∀ c ∈ joinedGrad.fab.colls, matchesColl v0 arriving c ∧ clGradb c.desc = true ∧ c.closed = false ∧ pastDue joinedGrad 0 c = false) := by decide +kernel

def unissued : State := onCore { waitPatch := false }
def normOf (rank : Nat) (t : BitVec 256) (ovr : Bool := false) : NormMsg :=
  { group := 0, rank := rank, step := curStep up 0, attempt := 0, t := t, nonfin := false, ovr := ovr }
def sumMsg (m : NormMsg) : Instr := .normsumPartial v0 m.toNormTag m.t m.nonfin m.ovr
def earlyMsg : CollMsg := { arriving with step := 9 }

theorem witness_early_contribution :
    absorbs unissued v0 = false ∧ unissued.fab.colls = [] ∧ (unissued.vc? v0).isSome = true ∧
      staleTag unissued 0 earlyMsg.step earlyMsg.attempt = false ∧ staleTag unissued 0 0 0 = true ∧
      staleTag unissued 0 (normOf 1 5).step (normOf 1 5).attempt = false := by decide +kernel

def summing (n : Nat) : State := (joined 4 0 (fun c => { c with contrib := [], sums := [(0, 2, false, false)] })).modFab (fun b => { b with
  groups := [(0, { owner := 0, rank := 0, members := (List.range n).map (fun i => (i, 0, 0)) })] })

theorem witness_norm_partials :
    absorbs (summing 2) v0 = false ∧ (∀ c ∈ (summing 2).fab.colls, matchesNorm v0 (normOf 1 3 true) c = true ∧ c.differ = false ∧
      openNow (summing 2) 0 c = true) ∧ (membersOf (summing 2) 0).length = 2 ∧ (membersOf (summing 3) 0).length = 3 := by decide +kernel

def due (pt
  : Word64) :
  State := { member.modPart 0 (fun p => { p with active := { p.active with gradDl := 500 } }) with time := { up.time with pt := pt, valid := true } }

theorem witness_deadline_closes :
    ((due 500).part 0).active.gradDl.toNat ≠ 0 ∧ ((due 500).att 0).isOpen = true ∧ (due 500).fab.colls = [] ∧
      ((due 500).att 0).openAt + 500 ≤ (due 500).now ∧ (due 499).now < ((due 499).att 0).openAt + 500 ∧ ((due 500).att 0).folded = false ∧
      (((due 500).modAtt 0 (fun a => { a with dropped := true })).att 0).dropped = true := by decide +kernel

/-- The gradient bucket above, with its own deadline `own` (0: the partition's, 500) at instant 600. -/
def dueGrad (own : Nat) : State := { (joinedGrad.modPart 0 (fun p => { p with active := { p.active with gradDl := 500 } })).modFab (fun b => { b with
  colls := b.colls.map (fun c => { c with desc := c.desc ||| BitVec.ofNat 512 (own * 2 ^ 160) }) }) with time :=
    { up.time with pt := 600, valid := true } }
def bucketOf (s : State) : Coll := s.fab.colls.headD { v := v0, op := 1, group := 0, desc := 0, step := 0, attempt := 0, rank := 0, size := 4 }

theorem witness_deadline_closes_a_segment :
    ∀ own ∈ ([0, 900] : List Nat), (dueGrad own).fab.colls = [bucketOf (dueGrad own)] ∧ ctxPart (dueGrad own) (bucketOf (dueGrad own)).v.ctx = 0 ∧
      (bucketOf (dueGrad own)).closed = false ∧ (bucketOf (dueGrad own)).done = false ∧
      deadlineOf (dueGrad own) 0 (bucketOf (dueGrad own)) = some (if own = 0 then 500 else own) ∧
      ((dueGrad own).att 0).openAt + 500 ≤ (dueGrad own).now ∧ ((dueGrad own).att 0).isOpen = true := by decide +kernel

def buddy (cur : Option Bool := none) : State := (mem0 up 0 []).modFab
  (fun b => { b with starter := { b.starter with rx := [(7, { a := (0, 1), b := (1, 1), current := cur })] } }) |>.modMem
  (fun m => { m with region := [(0, 1 + 62 * 2), (1, 1 + 62 * 2)] })
def mirrorFlit (src da : Nat) (last : Bool) : StarterFlit := { src := src, step := 4, da := da, data := [1, 2], last := last, poison := [] }

theorem witness_starter_flits :
    tget buddy.fab.starter.rx 8 = none ∧ tget buddy.fab.starter.rx 7 = some { a := (0, 1), b := (1, 1) } ∧ inSlot (0, 1) (2 ^ 26) 2 = false ∧
      inSlot (1, 1) (2 ^ 26) 2 = false ∧ inSlot (0, 1) (2 ^ 25 - 2) 2 = true ∧ accessRefusal buddy .starter (2 ^ 25 - 2) 2 = none ∧
      accessWaits buddy (2 ^ 25 - 2) 2 = false ∧ (tget (buddy (some true)).fab.starter.rx 7).map StarterRx.current = some (some true) := by decide +kernel

/-- A module in RUN whose PF0 channel is local, with ring 0 of PF0 as given. -/
def hosted (x : Ring := {}) (f : Fn → Fn := id) (c : Chan → Chan := id) : State :=
  ({ up with pwr := { up.pwr with st := .run } } : State).modFn 0
    (fun g => f { g with bme := true, chans := [(up.fab.slot.toNat, c { rings := [(0, x)] })] })
def ch0 : Nat := up.fab.slot.toNat
def ringOn (x : Ring := {}) : Ring := { x with en := true, log2 := 2, base := 0, cplBase := 4096 }

theorem witness_doorbell_moves :
    ((hosted ringOn).fn 0).d3 = false ∧ awake (hosted ringOn) = true ∧ chanReady (hosted ringOn) 0 ch0 = true ∧
      ((4 : Word32) - ((hosted ringOn).ring 0 ch0 0).sqHead).toNat ≤ 2 ^ ((hosted ringOn).ring 0 ch0 0).log2.toNat ∧
      2 ^ ((hosted ringOn).ring 0 ch0 0).log2.toNat < ((5 : Word32) - ((hosted ringOn).ring 0 ch0 0).sqHead).toNat ∧
      ((hosted ringOn).ring 0 ch0 0).en = true ∧ ((hosted ringOn).ring 0 ch0 0).stopped = false := by decide +kernel

def fetching (op : Nat) (ch : Nat := ch0) : State :=
  ((hosted).modHost (fun h => { h with bytes := memPutAll [] 0 (natToBytes 64 (op + 7 * 2 ^ 16)) })).modFn 0
  (fun f => { f with chans := [(ch, { rings := [(0, ringOn { prod := 1 })] })] })
def far (op : Nat) : State := (fetching op (ch0 + 1)).modFab (fun b => { b with memberList := [0, 1], route := [(1, 2 ^ 27)] }) |>.modLink 0
  (fun l => { l with st := .up })

theorem witness_command_is_fetched :
    ((fetching 0x6001).fn 0).bme = true ∧ chanReady (fetching 0x6001) 0 ch0 = true ∧
      ((fetching 0x6001).ring 0 ch0 0).sqHead ≠ ((fetching 0x6001).ring 0 ch0 0).prod ∧
      (((fetching 0x6001).ring 0 ch0 0).sqHead - ((fetching 0x6001).ring 0 ch0 0).cons).toNat < 4 ∧ chanRemote (fetching 0x6001) 0 ch0 = false ∧
      knownOps.contains (fld (BitVec.ofNat 512 (memNat (fetching 0x6001).host.bytes 0 64)) 15 0) = true ∧
      knownOps.contains (fld (BitVec.ofNat 512 (memNat (fetching 0x1234).host.bytes 0 64)) 15 0) = false ∧
      chanRemote (far 0x6001) 0 (ch0 + 1) = true ∧ chanReach (far 0x6001) 0 (ch0 + 1) = true ∧ chanReady (far 0x6001) 0 (ch0 + 1) = true := by decide +kernel

def finished (drop : Nat) : State := hosted (ringOn
  { sqHead := 1, prod := 1, fetched := [7], running := true, done := some ⟨7, 3, 9⟩, drop := drop, cqTail := 5, cons := 3 })

theorem witness_completion_is_posted :
    ((finished 0).ring 0 ch0 0).done.isSome ∧ ((finished 0).ring 0 ch0 0).fetched.tail = [] ∧ ((finished 0).ring 0 ch0 0).drop = 0 ∧
      ((finished 0).ring 0 ch0 0).ien = false ∧ ((finished 1).ring 0 ch0 0).drop ≠ 0 ∧ ((finished 0).fn 0).bme = true ∧ awake (finished 0) = true ∧
      ((5 : Word32) - ((finished 0).ring 0 ch0 0).cons).toNat ≤ (((finished 0).ring 0 ch0 0).cqTail - ((finished 0).ring 0 ch0 0).cons).toNat ∧
      (((finished 0).ring 0 ch0 0).cqTail - ((finished 0).ring 0 ch0 0).cons).toNat < ((6 : Word32) - ((finished 0).ring 0 ch0 0).cons).toNat := by decide +kernel

theorem witness_rings_are_enabled :
    ((hosted).ring 0 ch0 0).en = false ∧ (tget ((hosted ringOn).chan 0 ch0).rings 0).isSome := by decide +kernel

def event : Event := { code := 0x3403, part := none, ctx := none, data := 5, ptv := false, pt := 3 }
def posting (c : Chan → Chan) : State := (hosted {} id (fun x => c { x with evrEn := true, evrLog2 := 1, evrBase := 8192 })).modHost
  (fun h => { h with raised := [event] })

theorem witness_event_is_posted :
    awake (posting id) = true ∧ (posting id).host.raised = [event] ∧ event.part = none ∧ isPlatformEvent event = false ∧
      (posting id).fab.podup = false ∧ canDma (posting id) 0 = true ∧ ((posting id).chan 0 ch0).evrEn = true ∧
      ((posting id).chan 0 ch0).maskClass.getLsbD (event.code.toNat / 4096 - 1) = false ∧
      ((posting id).chan 0 ch0).maskSev.toNat ≤ severity event.code.toNat ∧
      (((posting id).chan 0 ch0).evrHead - ((posting id).chan 0 ch0).evrTail).toNat < 2 ^ ((posting id).chan 0 ch0).evrLog2.toNat ∧
      ((posting id).chan 0 ch0).lostNew = 0 ∧ ((posting id).chan 0 ch0).evrIen = false ∧
      2 ^ ((posting (fun c => { c with evrHead := 2 })).chan 0 ch0).evrLog2.toNat ≤
      (((posting (fun c => { c with evrHead := 2 })).chan 0 ch0).evrHead - ((posting (fun c => { c with evrHead := 2 })).chan 0 ch0).evrTail).toNat ∧
      ((posting (fun c => { c with maskClass := 4 })).chan 0 ch0).maskClass.getLsbD (event.code.toNat / 4096 - 1) = true ∧
      severity event.code.toNat < ((posting (fun c => { c with maskSev := 3 })).chan 0 ch0).maskSev.toNat := by decide +kernel

/-- The ring of the event's channel cannot be written: PF0 masters nothing. -/
def unposted : State := (posting id).modFn 0 (fun f => { f with bme := false })

theorem witness_event_waits :
    unposted.host.raised = [event] ∧ eventReady unposted event = false := by decide +kernel

def moderated (masked : Bool) : State := hosted {}
  (fun f => { f with msixEn := true, vecs := [(8, { lastAt := some 0, moderated := true, masked := masked })] }) (fun c => { c with evrImod := 2 })
def after (pt : Word64) (s : State) : State := { s with time := { s.time with pt := pt, valid := true } }

theorem witness_interval_ends :
    tget ((moderated false).fn 0).vecs 8 = some (tgetD ((moderated false).fn 0).vecs 8 {}) ∧
      (after 1999 (moderated false)).now < 0 + 1000 * vecImod (moderated false) 0 8 ∧
      0 + 1000 * vecImod (moderated false) 0 8 ≤ (after 2000 (moderated false)).now ∧ canSend ((moderated false).fn 0) = true ∧
      (tgetD ((moderated true).fn 0).vecs 8 {}).masked = true := by decide +kernel

def remote : State := hosted (ringOn { sqHead := 1, prod := 1, fetched := [BitVec.ofNat 512 (0x6001 + 7 * 2 ^ 16)], running := true })

theorem witness_messages_of_management :
    (remote.ring 0 ch0 0).running = true ∧ (remote.ring 0 ch0 0).fetched = [BitVec.ofNat 512 (0x6001 + 7 * 2 ^ 16)] ∧
      (remote.chan 0 ch0).rings = [(0, remote.ring 0 ch0 0)] ∧ knownOps.contains (fld (BitVec.ofNat 512 0x6001 : Entry) 15 0) = true ∧
      knownOps.contains (fld (BitVec.ofNat 512 1 : Entry) 15 0) = false := by decide +kernel

def window2 (st : PState := .run) : State := mem0 { hosted with pwr := { up.pwr with st := st } } 64 [1, 2, 3]
abbrev da2 : Nat := barDa window2 0 64

theorem witness_window_reads_and_writes :
    ((window2).fn 0).d3 = false ∧ (window2).pwr.st = .run ∧ (window2 .hold).pwr.st = .hold ∧ barRefusal window2 0 da2 3 = none ∧
      accessWaits window2 da2 3 = false ∧ (window2).mem.latent = [] ∧ strongest (devRead window2 da2 3) = none ∧
      (barRefusal window2 0 (barDa window2 0 (2 ^ 25)) 4).isSome := by decide +kernel

def tainted : State := window2.modMem (fun m => { m with poison := [(2, .context)] })

theorem witness_window_reads_poison :
    barRefusal tainted 0 (barDa tainted 0 64) 3 = none ∧ accessWaits tainted (barDa tainted 0 64) 3 = false ∧ tainted.mem.latent = [] ∧
      strongest (devRead tainted (barDa tainted 0 64) 3) ≠ none := by decide +kernel

theorem witness_registers_read_back :
    awake hosted = true ∧ (0x8000000000000000 : Word64).getLsbD 63 = true ∧ hosted.mgmt.obsEn = false := by decide +kernel

def vf1 : State := { hosted with parts := [(1, { exist := true })] }

theorem witness_functions_reset :
    (hosted.part 1).exist = false ∧ (vf1.part 1).exist = true ∧ partCtxs vf1 1 = [] ∧
      ({ up with pwr := { up.pwr with st := .carousel } } : State).pwr.st = .carousel ∧ awake hosted = true := by decide +kernel

theorem witness_function_masters :
    (∀ v ∈ (hosted.fn 0).vecs, v.2.pend = false ∨ v.2.masked = true) ∧ (hosted.fn 0).d3 = false := by decide +kernel

def halted (h : Bool) : State := { member { isOpen := !h } { halted := h } with pwr := { up.pwr with st := .run } }

theorem witness_member_is_released :
    ((halted true).cmt 0).halted = true ∧ ((halted true).att 0).isOpen = false ∧ ((halted false).cmt 0).halted = false ∧
      ((halted false).att 0).isOpen = true ∧ awake (halted true) = true ∧ ((halted true).fn 0).d3 = false := by decide +kernel

/-- A mailbox entry and a module at whose head of PF0's ring 0 it stands. -/
def cmd (op : Nat) (param : Nat := 0) (part : Nat := 0) : Entry := BitVec.ofNat 512 (op + 7 * 2 ^ 16 + part * 2 ^ 32 + param * 2 ^ 64)
def pf : Origin := .ring 0 ch0 0
def sent (e : Entry) (f : State → State := id) : State := f ((hosted).modRing 0 ch0 0 (fun _ => ringOn { sqHead := 1, prod := 1, fetched := [e] }))
def vfOrigin : Origin := .ring 1 0 0

theorem witness_commands_gate :
    CmdHeads (sent (cmd 0x6010 1)) cmdPartCreate pf (cmd 0x6010 1) ∧ ¬ CmdHeads hosted cmdPartCreate pf (cmd 0x6010 1) ∧
      gate (sent (cmd 0x6010 (2 ^ 7))) cmdPartCreate pf (cmd 0x6010 (2 ^ 7)) = some 2 ∧
      (let s := (sent (cmd 0x5001 3)).modRel (fun r => { r with rstBusy := true }); CmdHeads s cmdPowerState pf (cmd 0x5001 3) ∧ gate s cmdPowerState pf (cmd 0x5001 3) = none ∧ cmdPowerState.wait s (cmd 0x5001 3) 0 = true)
      ∧ CmdRuns (sent (cmd 0x6001)) cmdIdentify pf (cmd 0x6001) ∧ (cmdIdentify.body (setRunning (sent (cmd 0x6001)) pf) pf (cmd 0x6001) 0).2.isSome ∧
      CmdRuns (sent (cmd 0x6020 9)) cmdCfgSwap pf (cmd 0x6020 9) ∧
      (cmdCfgSwap.body (setRunning (sent (cmd 0x6020 9)) pf) pf (cmd 0x6020 9) 0).2 = none := by decide +kernel

def rom : State := sent (cmd 0x6020) (fun s => s.modMgmt (fun m => { m with bootrom := true }))

theorem witness_gate_statuses :
    rom.mgmt.bootrom = true ∧ cmdCfgSwap.rom (cmd 0x6020) = false ∧
      (let s := sent (cmd 0x6020) (fun s => s.modMgmt (fun m => { m with fwstate := 1 })); s.mgmt.bootrom = false ∧ s.mgmt.fwstate = 1) ∧
      cmdCfgSwap.bringUp = false ∧ hosted.mgmt.bootrom = false ∧ hosted.mgmt.fwstate = 2 ∧ (hosted.part 1).exist = false ∧ cmdCfgSwap.free = false ∧
      (vf1.part 1).exist = true ∧ cmdPartCreate.pf0 = true ∧ cmdCfgSwap.oob = false ∧ (cmd 0x6010 (2 ^ 6)).getLsbD 70 = true ∧
      (∀ f ∈ cmdPartCreate.fields, ¬ (f.2 ≤ 70 ∧ 70 ≤ f.1)) ∧ 32 < fld (cmd 0x6010 1 33) 37 32 := by decide +kernel

def runs (c : Cmd) (param : Nat) (f : State → State := id) : Bool := decide (CmdRuns (sent (cmd c.op param) f) c pf (cmd c.op param))
def answers (i : Origin → Entry → Instr) (c : Cmd) (param : Nat) (f : State → State := id) : State := match exec (i pf (cmd c.op param))
  (sent (cmd c.op param) f) with | .next t => t | _ => {}
def rcv (c : Cmd) (param : Nat) (f : State → State := id) : State := setRunning (sent (cmd c.op param) f) pf

theorem witness_management_runs :
    runs cmdIdentify 4096 = true ∧ runs cmdIdentify 0 = true ∧ runs cmdEventMask (2 * 2 ^ 8) = true ∧ runs cmdCfgCopy 0 = true ∧
      runs cmdPartQuery 0 = true ∧ partExists (rcv cmdPartQuery 0) 0 = true ∧ runs cmdCfgSwap 2 = true ∧ ((rcv cmdCfgSwap 2).part 0).swap = none ∧
      (rcv cmdCfgSwap 2).time.beatNum.toNat + 2 ≤ fld (cmd 0x6020 2) 127 64 ∧ fld (cmd 0x6020 1) 127 64 < (rcv cmdCfgSwap 1).time.beatNum.toNat + 2 ∧
      (let f := fun (s : State) => s.modPart 0 (fun p => { p with swap := some ⟨9, pf⟩ }); runs cmdCfgSwap 2 f = true ∧ ((rcv cmdCfgSwap 2 f).part 0).swap = some ⟨9, pf⟩) := by decide +kernel

def parted (s : State) : State := s.modPart 1 (fun p => { p with exist := true, clusters := 1 })
def busy1 (s : State) : State := { parted s with ctxs := [(0, { part := 1, vcs := [(0, {})] })] }

theorem witness_partitions_change :
    runs cmdPartCreate (2 + 3 * 2 ^ 32) = true ∧ ((rcv cmdPartCreate 0).part 2).exist = false ∧
      (∀ j ∈ List.range 32, bit 3 j = true → holdsCluster (rcv cmdPartCreate 0) 0 j = true ∧ clusterUsed (rcv cmdPartCreate 0) j = false) ∧
      runs cmdPartCreate (1 + 2 ^ 32) parted = true ∧ ((rcv cmdPartCreate 0 parted).part 1).exist = true ∧
      runs cmdPartCreate (2 + 2 ^ 32) parted = true ∧ holdsCluster (rcv cmdPartCreate 0 parted) 0 0 = false := by decide +kernel

theorem witness_partitions_resize :
    runs cmdPartResize (1 + 2 * 2 ^ 32) parted = true ∧
      (∀ j ∈ List.range 32, holdsCluster (rcv cmdPartResize 0 parted) 1 j = bit 2 j ∨
      (holdsCluster (rcv cmdPartResize 0 parted) 1 j || holdsCluster (rcv cmdPartResize 0 parted) 0 j) = true ∧
      clusterUsed (rcv cmdPartResize 0 parted) j = false) ∧ runs cmdPartResize (1 + 2 * 2 ^ 32) busy1 = true ∧
      (∃ j ∈ List.range 32, holdsCluster (rcv cmdPartResize 0 busy1) 1 j ≠ bit 2 j ∧ clusterUsed (rcv cmdPartResize 0 busy1) j = true) := by decide +kernel

theorem witness_partitions_go :
    runs cmdPartRemove 1 parted = true ∧ ownsRegion (rcv cmdPartRemove 1 parted) 1 = false ∧ partCtxs (rcv cmdPartRemove 1 parted) 1 = [] ∧
      ((rcv cmdPartRemove 1 parted).part 1).swap = none ∧ runs cmdPartRemove 1 busy1 = true ∧ partCtxs (rcv cmdPartRemove 1 busy1) 1 ≠ [] := by decide +kernel

def stagingBy (o : Origin) (s : State) : State := s.modMgmt (fun m => { m with staging := some (o, [(0, 1)]) })
def chunk (n off : Nat) (last : Bool) : Nat := n * 2 ^ 64 + off * 2 ^ 96 + b2n last * 2 ^ 128

theorem witness_images_are_staged :
    runs cmdFwStage (chunk 4096 0 false) = true ∧ (rcv cmdFwStage 0).mgmt.staging = none ∧ 25161728 + 4096 ≤ 25165824 ∧
      runs cmdFwStage (chunk 4096 25161728 false) (stagingBy (sourceOf pf)) = true ∧
      (rcv cmdFwStage 0 (stagingBy (sourceOf pf))).mgmt.staging = some (sourceOf pf, [(0, 1)]) ∧
      runs cmdFwStage (chunk 4096 0 false) (stagingBy .oob) = true ∧ Origin.oob ≠ sourceOf pf ∧
      runs cmdFwStage (chunk 5 0 true) (stagingBy (sourceOf pf)) = true := by decide +kernel

def noOther (s : State) : State := s.modMgmt (fun m => { m with imgB := .empty })

theorem witness_images_are_activated :
    runs cmdFwActivate 0 = true ∧ (slotImage (rcv cmdFwActivate 0) (!(rcv cmdFwActivate 0).mgmt.slot)).isSome ∧
      (rcv cmdFwActivate 0).mgmt.slot = false ∧ runs cmdFwActivate 0 noOther = true ∧ slotImage (rcv cmdFwActivate 0 noOther) true = none ∧
      runs cmdFwActivate 1 = true ∧ (rcv cmdFwActivate 1).mgmt.standbyOk = true ∧ othersRun (rcv cmdFwActivate 1) (some pf) = false ∧
      runs cmdFwQuery 0 = true := by decide +kernel

def region (first count v m : Nat) : Nat := first + count * 2 ^ 19 + v * 2 ^ 64 + m * 2 ^ 128
def regions (s : State) : State := s.modMem (fun m => { m with region := [(0, 1), (1, 1 + 2 ^ 32)] })
abbrev rset (first count v m : Nat) : Bool := runs cmdRegionSet (region first count v m) regions
abbrev rs2 (s : State) (first count v m : Nat) : Prop := ∀ q ∈ (List.range count).map (· + first), entryOk
  (maskWrite (entry s q) (BitVec.ofNat 64 v) (BitVec.ofNat 64 m &&& 0x3FFFF)) = true

theorem witness_region_is_set :
    rset 0 1 0x2000 0x2000 = true ∧ rightsOf pf = 0 ∧ (0x2000 : Word64) &&& 0xFFFFFF00FFE00000 = 0 ∧
      rs2 (rcv cmdRegionSet 0 regions) 0 1 0x2000 0x2000 ∧
      clears (entry (rcv cmdRegionSet 0 regions) 0) (maskWrite (entry (rcv cmdRegionSet 0 regions) 0) 0x2000 (0x2000 &&& 0x3FFFF)) = false ∧
      rset 524287 1 1 (2 ^ 21) = true ∧ (BitVec.ofNat 64 (2 ^ 21) &&& 0xFFFFFF00FFE00000 : Word64) ≠ 0 ∧ rset 0 2 0 1 = true ∧
      clears (entry (rcv cmdRegionSet 0 regions) 1) (maskWrite (entry (rcv cmdRegionSet 0 regions) 1) 0 (1 &&& 0x3FFFF)) = true ∧
      reMaps (entry (rcv cmdRegionSet 0 regions) 1) ≠ 0 := by decide +kernel

abbrev cleared : State := answers .regionSet cmdRegionSet (region 0 1 0 1) regions

theorem witness_region_waits_for_its_clear :
    rset 0 1 0 1 = true ∧ rs2 (rcv cmdRegionSet 0 regions) 0 1 0 1 ∧
      clears (entry (rcv cmdRegionSet 0 regions) 0) (maskWrite (entry (rcv cmdRegionSet 0 regions) 0) 0 (1 &&& 0x3FFFF)) = true ∧
      reMaps (entry (rcv cmdRegionSet 0 regions) 0) = 0 ∧
      reIl (maskWrite (entry (rcv cmdRegionSet 0 regions) 0) 0 (1 &&& 0x3FFFF)) = reIl (entry (rcv cmdRegionSet 0 regions) 0) ∧
      rePhint (entry (rcv cmdRegionSet 0 regions) 0) ≠ 2 ∧ rePhint (maskWrite (entry (rcv cmdRegionSet 0 regions) 0) 0 (1 &&& 0x3FFFF)) ≠ 2 := by decide +kernel

def vfSent (e : Entry) (f : State → State := id) : State := f
  { (hosted.modFn 1 (fun g => { g with enabled := true, bme := true, chans := [(0, { rings := [(0, ringOn { sqHead := 1, prod := 1, fetched := [e] })] })] })) with parts := [(1, { exist := true })] }
def vfSet : Entry := cmd 0x2001 (region 0 1 0x2000 0x2000)

theorem witness_region_is_not_the_functions :
    CmdRuns (vfSent vfSet regions) cmdRegionSet vfOrigin vfSet ∧ rightsOf vfOrigin ≠ 0 ∧
      reOwner (entry (setRunning (vfSent vfSet regions) vfOrigin) 0) ≠ 1 := by decide +kernel

theorem witness_region_is_read :
    runs cmdRegionQuery 1 regions = true ∧ CmdRuns (vfSent (cmd 0x2002 1) regions) cmdRegionQuery vfOrigin (cmd 0x2002 1) ∧ rightsOf vfOrigin ≠ 0 ∧
      reOwner (entry (setRunning (vfSent (cmd 0x2002 1) regions) vfOrigin) 1) ≠ targetPart vfOrigin (cmd 0x2002 1) := by decide +kernel

def tooMuch : Nat := 2 ^ 64 * (2 ^ 56 - 1)

theorem witness_share_is_set :
    runs cmdPantryShare (2 ^ 64 * 1) = true ∧ partExists (rcv cmdPantryShare 0) 0 = true ∧
      banksFit (rcv cmdPantryShare 0).mem.fwBanks (tput (rcv cmdPantryShare 0).mem.share 0 1) (rcv cmdPantryShare 0).mem.region = true ∧
      runs cmdPantryShare tooMuch = true ∧ banksFit (rcv cmdPantryShare 0).mem.fwBanks
      (tput (rcv cmdPantryShare 0).mem.share 0 (BitVec.ofNat 64 (2 ^ 56 - 1))) (rcv cmdPantryShare 0).mem.region = false ∧
      runs cmdPantryShare 5 = true ∧ partExists (rcv cmdPantryShare 5) 5 = false ∧ runs cmdPantryShare 33 = true := by decide +kernel

def copy (a da len : Nat) (out : Bool) : Nat := a + da * 2 ^ 64 + len * 2 ^ 112 + b2n out * 2 ^ 144
def dev0 (s : State) : State := (mem0 s 64 [1, 2, 3]).modHost (fun h => { h with bytes := [(8192, 5)] })

theorem witness_bytes_are_copied :
    runs cmdHostCopy (copy 8192 64 32 true) dev0 = true ∧ accessRefusal (rcv cmdHostCopy 0 dev0) (.part 0) 64 32 = none ∧
      strongest (devRead (demand (rcv cmdHostCopy 0 dev0) none 64 32) 64 32) = none ∧ runs cmdHostCopy (copy 8192 64 32 false) dev0 = true ∧
      runs cmdHostCopy (copy 0 (2 ^ 25) 32 false) dev0 = true ∧ (accessRefusal (rcv cmdHostCopy 0 dev0) (.part 0) (2 ^ 25) 32).isSome ∧
      runs cmdHostCopy (copy 8192 64 31 true) dev0 = true := by decide +kernel

def dev1 (s : State) : State := (dev0 s).modMem (fun m => { m with poison := [(2, .context)] })

theorem witness_poison_is_copied :
    runs cmdHostCopy (copy 8192 64 32 true) dev1 = true ∧ accessRefusal (rcv cmdHostCopy 0 dev1) (.part 0) 64 32 = none ∧
      strongest (devRead (demand (rcv cmdHostCopy 0 dev1) none 64 32) 64 32) ≠ none := by decide +kernel

theorem witness_links_are_controlled :
    runs cmdLinkCtl (9 + 2 ^ 6) = true ∧ ((rcv cmdLinkCtl 0).link 9).lit = false ∧ bit (cmd 0x3001 (9 + 2 ^ 6)).toNat 71 = false ∧
      runs cmdLinkCtl (9 + 2 ^ 6 + 2 ^ 7) = true ∧ bit (cmd 0x3001 (9 + 2 ^ 6 + 2 ^ 7)).toNat 71 = true := by decide +kernel

def fab3 : Nat := 5 * 2 ^ 16 + 2 ^ 22 + 7 * 2 ^ 64 + 9 * 2 ^ 128 + 7 * 2 ^ 192

theorem witness_fabric_is_set :
    runs cmdFabricSet fab3 = true ∧ [0, 1, 2].all (fun i => bit (cmd 0x3002 fab3).toNat (256 + i)) = true ∧ fld (cmd 0x3002 fab3) 79 76 = 0 ∧
      bit (cmd 0x3002 fab3).toNat 87 = false ∧ fld (cmd 0x3002 fab3) 127 120 = 0 ∧ fld (cmd 0x3002 fab3) 191 164 = 0 ∧
      fld (cmd 0x3002 fab3) 255 216 = 0 := by decide +kernel

def ptset (sel period beat : Nat) : Nat := 2 + 7 * 2 ^ 2 + 5 * 2 ^ 64 + 6 * 2 ^ 128 + period * 2 ^ 192 + beat * 2 ^ 288 + sel * 2 ^ 352
def leads (s : State) : State := s.modFab (fun b => { b with podup := true, leader := 0 })

theorem witness_time_is_set :
    runs cmdPtSet (ptset 3 0 0) = true ∧ bit (cmd 0x3003 (ptset 3 0 0)).toNat 418 = false ∧ fld (cmd 0x3003 (ptset 3 0 0)) 65 64 ≠ 3 ∧
      runs cmdPtSet (ptset 4 1000000 2) leads = true ∧ bit (cmd 0x3003 (ptset 4 1000000 2)).toNat 418 = true ∧
      beatOk (BitVec.ofNat 32 (fld (cmd 0x3003 (ptset 4 1000000 2)) 287 256)) = true ∧ (rcv cmdPtSet 0 leads).fab.podup = true ∧
      (rcv cmdPtSet 0 leads).fab.leader.toNat = (rcv cmdPtSet 0 leads).devId ∧
      (rcv cmdPtSet 0 leads).time.beatNum.toNat + 2 ≤ fld (cmd 0x3003 (ptset 4 1000000 2)) 415 352 ∧ (rcv cmdPtSet 0 leads).time.beatPend = none := by decide +kernel

def group (k last rank : Nat) : Nat := k + last * 2 ^ 8 + rank * 2 ^ 20 + 4096 * 2 ^ 32
def inUse (s
  : State) :
  State := s.modFab (fun f => { f with groups := [(0, { owner := 0, rank := 0, members := [(0, 0, 0)] })], colls := (joined 0 0).fab.colls })
def grouped
  (s : State)
  : State :=
  s.modFab (fun f => { f with groups := [(0, { owner := 0, rank := 0, members := [(0, 0, 0)] }), (1, { owner := 3, rank := 0, members := [] })] })

theorem witness_groups_are_set :
    runs cmdCgroupSet (group 0 1 1) = true ∧ fld (cmd 0x3010 (group 0 1 1)) 95 84 ≤ fld (cmd 0x3010 (group 0 1 1)) 83 72 ∧
      (rcv cmdCgroupSet 0).fab.colls = [] ∧ tget (rcv cmdCgroupSet 0).fab.groups 0 = none ∧ runs cmdCgroupSet (group 0 1 1) inUse = true ∧
      (∃ c ∈ (rcv cmdCgroupSet 0 inUse).fab.colls, c.group = 0 ∧ c.done = false) ∧ runs cmdCgroupClear 0 grouped = true ∧
      runs cmdCgroupClear 1 grouped = true ∧ (tget (rcv cmdCgroupClear 1 grouped).fab.groups 1).isSome ∧ runs cmdCgroupClear 0 inUse = true ∧
      ((tget (rcv cmdCgroupClear 0 inUse).fab.groups 0).map CGroup.clearing) = some none := by decide +kernel

def slots (s : State) : State := s.modMem (fun m => { m with region := [(4, 1 + 62 * 2), (5, 1 + 62 * 2)] })
def recv (a b : Nat) : Nat := 7 + (a + 2 ^ 19) * 2 ^ 64 + (b + 2 ^ 19) * 2 ^ 128

theorem witness_starters_are_bound :
    runs cmdStarterRecv (recv 4 5) slots = true ∧ starterRange (rcv cmdStarterRecv 0 slots) 4 1 = true ∧
      starterRange (rcv cmdStarterRecv 0 slots) 5 1 = true ∧ starterRange (rcv cmdStarterRecv 0 slots) 6 1 = false ∧
      runs cmdStarterRecv (recv 6 5) slots = true ∧ runs cmdStarterSet (2 ^ 16 + 3) = true ∧ fld (cmd 0x3021 (2 ^ 16 + 3)) 87 80 ≠ 0 ∧
      runs cmdStarterSet 3 = true ∧ fld (cmd 0x3021 3) 87 80 = 0 := by decide +kernel

theorem witness_resets_are_asked_for :
    runs cmdReset 5 = true ∧ runs cmdReset 4 = true ∧ runs cmdReset 3 = true ∧ runs cmdReset (2 + 0 * 2 ^ 8) = true ∧
      targetIn (rcv cmdReset 0) 0 1 31 = true ∧ runs cmdReset (1 + 31 * 2 ^ 8) = true ∧ runs cmdReset (2 + 32 * 2 ^ 8) = true ∧
      targetIn (rcv cmdReset 0) 0 2 32 = false ∧ CmdRuns (vfSent (cmd 0x4001 3)) cmdReset vfOrigin (cmd 0x4001 3) := by decide +kernel

def joins (s : State) : State := s.modPart 0 (fun p => { p with active := { p.active with cmtCtl := 2 ^ 16 } })

theorem witness_nets_and_records :
    runs cmdSnetSet 17 = true ∧ runs cmdSnetSet (16 + 2 ^ 5) joins = true ∧ isMember (rcv cmdSnetSet 0 joins) 0 = true ∧
      runs cmdSnetSet (16 + 2 ^ 5) = true ∧ isMember (rcv cmdSnetSet 0) 0 = false ∧ runs cmdRepairQuery 4096 = true ∧
      runs cmdDiagRead (3 + 4096 * 2 ^ 64) = true := by decide +kernel

theorem witness_units_are_tested :
    runs cmdFieldTest 1 = true ∧ runs cmdFieldTest (3 + 2 ^ 32) = true ∧ holdsCluster (rcv cmdFieldTest 0) 0 0 = true ∧
      clusterUsed (rcv cmdFieldTest 0) 0 = false ∧ (rcv cmdFieldTest 0).rel.engQuar.getLsbD 0 = false ∧
      runs cmdFieldTest (1 + 2 ^ 32) parted = true ∧ holdsCluster (rcv cmdFieldTest 0 parted) 0 0 = false ∧ runs cmdFieldTest 0 = true ∧
      runs cmdFieldTest 4 = true := by decide +kernel

def withCtx (s : State) : State := { s with ctxs := [(0, { part := 0 })] }

theorem witness_power_is_commanded :
    runs cmdPowerState 5 = true ∧ runs cmdPowerState 0 = true ∧ stateOf 0 = (rcv cmdPowerState 0).pwr.st ∧ runs cmdPowerState 2 withCtx = true ∧
      (rcv cmdPowerState 0 withCtx).ctxs ≠ [] ∧ runs cmdPowerState 1 withCtx = true ∧ runs cmdPowerState 2 = true ∧ (rcv cmdPowerState 0).ctxs = [] ∧
      runs cmdPowerState 3 = true ∧ runs cmdPowerState 4 = true ∧ runs cmdPartIdle 0 = true ∧ runs cmdPartIdle 1 = true ∧
      ((rcv cmdPartIdle 0).part 0).idle = false ∧ runs cmdPowerCap 1500 = true ∧ runs cmdPowerCap 5500 = true ∧ runs cmdPowerCap 0 = true ∧
      runs cmdPowerCap 1499 = true ∧ runs cmdPowerCap 5501 = true := by decide +kernel

def sensed (s : State) : State := s.modPwr (fun p => { p with sensors := [(0x100, -5)] })

theorem witness_sensors_are_read :
    runs cmdSensorRead 0x100 sensed = true ∧ sensorOk 0x100 = true ∧ tget (rcv cmdSensorRead 0 sensed).pwr.sensors 0x100 = some (-5) ∧
      runs cmdSensorRead 0x600 = true ∧ runs cmdSensorRead 0x107 = true ∧ tget (rcv cmdSensorRead 0 sensed).pwr.sensors 0x107 = none ∧
      runs cmdSensorRead 0 = true ∧ sensorOk 0 = false := by decide +kernel

/-- An image of one virtual core with a 64 KiB window whose code is one instruction. -/
def section_ (typ vc off len : Nat) : List Byte := natToBytes 16 (typ + vc * 2 ^ 16 + off * 2 ^ 32 + len * 2 ^ 64)
def header (crc : Nat) : List Byte := natToBytes 64 (0x4D494C55 + 2 ^ 40 + 2 ^ 64 + 2 * 2 ^ 80 + crc * 2 ^ 96 + 108 * 2 ^ 128)
def tail (w : Word64) : List Byte := section_ 1 0 96 8 ++ section_ 6 0 104 4 ++ natToBytes 8 w.toNat ++ natToBytes 4 1
def image (w : Word64) : List Byte := header (crc32 (header 0 ++ tail w)).toNat ++ tail w
/-- CTX_CREATE, or CTX_RESTORE from a save at 1 MiB, of the 108 bytes at host address 0. -/
def create (base : Nat := 0) : Nat := 108 * 2 ^ 128 + 5 * 2 ^ 160 + 2 ^ 256 + base * 2 ^ 264
def saved : List Byte := natToBytes 8 65536
/-- The image lies in host memory, and the header of the save of a fresh virtual core in device memory. -/
def loads (w : Word64) (s : State) : State :=
  let s := s.modHost (fun h => { h with bytes := memPutAll [] 0 (image w) })
  let m := (parseImage (image w)).map loadImage |>.getD {}
  mem0 (mem0 s (2 ^ 20) saved) (2 ^ 20 + 65536) (natToBytes 256 (m.crc.toNat + 2 ^ 40 + 2 ^ 1088))
abbrev end_ : Word64 := iw 1 selNone selNone selNone 0 0 0
abbrev restored : State := rcv cmdCtxRestore (create (2 ^ 20)) (loads end_)
abbrev img : Image := ((parseImage (image end_)).map loadImage).getD {}
def places (m : Image) : List Place := (List.range m.nvc).map (fun v => ⟨v, tgetD m.window v 0, tgetD m.code v [], []⟩)
def siteOf (s : State) : Site := { s := s, bodies := [], cores := (List.range 256).filter (fun c => bit (2 ^ 32 - 1) (c / 8) && !(s.map c).quar) }
abbrev parsed (w : Word64) : Parsed := (parseImage (image w)).getD ⟨0, false, 0, []⟩

theorem witness_contexts_created :
    runs cmdCtxCreate create (loads end_) = true ∧ (parseImage (image end_)).isSome ∧ img.nvc = 1 ∧ translates (parsed end_) img [] = true ∧
      routinesJoin (parsed end_) [] = true ∧ translates (parsed 3) (loadImage (parsed 3)) [] = false ∧
      (placeAll (siteOf (rcv cmdCtxCreate create (loads end_))) false (places img) []).isSome ∧
      freeCtx (rcv cmdCtxCreate create (loads end_)) = some 0 ∧ parseImage (0 :: image end_) = none ∧
      memBytes (rcv cmdCtxCreate create (loads end_)).host.bytes 0 108 = image end_ ∧ (clusterSet (rcv cmdCtxCreate create) 0).toNat = 2 ^ 32 - 1 := by decide +kernel

theorem witness_contexts_restored :
    runs cmdCtxRestore (create (2 ^ 20)) (loads end_) = true ∧ fld (cmd 0x7004 (create (2 ^ 20))) 375 328 % 65536 = 0 ∧ freeCtx restored = some 0 := by decide +kernel

/-- A read of a run of clean device memory finds no poison. -/
theorem clean_run (s : State) (x : Vcore) (a n : Nat) (hp : s.mem.poison = []) (hf : s.mem.parts = []) :
    rdPoison (rdOf s x true) a n = none := by
  have k : ∀ l : List PByte, (∀ b ∈ l, b.2 = none) → l.foldl (fun a b => joinP a b.2) none = none := by
    intro l
    induction l with
    | nil => simp
    | cons b l ih =>
      intro hl
      have hb := hl b (by simp)
      simp only [List.foldl_cons, hb, joinP]
      exact ih (fun c hc => hl c (by simp [hc]))
  refine k _ fun b hb => ?_
  obtain ⟨i, hi, rfl⟩ := List.mem_map.mp hb
  simp [rdOf, fencedAt, State.memPart, hf, hp, tgetD, joinP]
/-- The save record of an image's one virtual core at `off`, by the table at `base`, may be read and belongs to it. -/
abbrev SaveFits (s : State) (m : Image) (base off : Nat) : Prop :=
  m.nvc = 1 ∧ s.mem.poison = [] ∧ s.mem.parts = [] ∧ s.mem.latent = [] ∧ accessRefusal s (.part 0) base 4096 = none ∧ base + devNat s base 8 = off ∧
    accessRefusal s (.part 0) off 5120 = none ∧
    (bits (devNat s off 256) 31 0 = m.crc.toNat ∧ bits (devNat s off 256) 39 32 = 0 ∧ bits (devNat s off 256) 47 40 = 1) ∧
    accessRefusal s (.part 0) off (alignUp (loadLaccs (fun a => rdOf s {} true (off + a)) (devNat s off 256) [0, 1, 2, 3] 5120 {}).2 65536 +
      bits (devNat s off 256) 1103 1088 * 65536) = none
/-- A save record that fits, in clean memory, is taken. -/
theorem save_is_taken {s : State} {m : Image} {base off : Nat} (h : SaveFits s m base off) : ∃ r t, loadSaves 0 base s m = .ok (r, t) := by
  obtain ⟨hm, hp, hf, hl, h1, ho, h2, ⟨h5, h6, h7⟩, h4⟩ := h
  have hd : ∀ ls a n, ∃ ls', demand (s.modMem (fun m => { m with lines := ls })) none a n = s.modMem (fun m => { m with lines := ls' }) :=
    fun ls a n => by
      obtain ⟨b, hb⟩ := demand_lines (s := s.modMem (fun m => { m with lines := ls })) hl none a n
      exact ⟨b, hb⟩
  obtain ⟨b1, e1⟩ := hd s.mem.lines base 4096
  obtain ⟨b2, e2⟩ := hd b1 off 5120
  obtain ⟨b3, e3⟩ := hd b2 off (alignUp (loadLaccs (fun a => rdOf s {} true (off + a)) (devNat s off 256) [0, 1, 2, 3] 5120 {}).2 65536 +
    bits (devNat s off 256) 1103 1088 * 65536)
  have e0 : demand s none base 4096 = s.modMem (fun m => { m with lines := b1 }) := e1
  have same : ∀ ls, devNat (s.modMem (fun m => { m with lines := ls })) = devNat s ∧ rdOf (s.modMem (fun m => { m with lines := ls })) = rdOf s ∧
      accessRefusal (s.modMem (fun m => { m with lines := ls })) = accessRefusal s := fun _ => ⟨rfl, rfl, rfl⟩
  have hr : List.range 1 = [0] := rfl
  refine ⟨s.modMem (fun m => { m with lines := b3 }), [(0, loadRecord (rdOf s {} true) off)], ?_⟩
  unfold loadSaves
  simp only [h1, e0, clean_read (s.modMem (fun m => { m with lines := b1 })) base 4096 hp hf, Option.isSome_none, Bool.false_eq_true, if_false, hm,
    hr,
    List.foldl_cons, List.foldl_nil, Nat.mul_zero, Nat.add_zero, (same _).1, (same _).2.1, (same _).2.2, ho, h2, e2, clean_run s {} off _ hp hf, h5,
      h6, h7,
    ne_eq, not_true_eq_false, or_self, Nat.zero_mod, h4, e3, List.nil_append]
theorem witness_saves_are_taken : ∃ r t, loadSaves 0 (2 ^ 20) restored img = .ok (r, t) :=
  save_is_taken (off := 2 ^ 20 + 65536) (by decide +kernel)

def holds (x : Vcore) (c : Ctx → Ctx := id) (s : State) : State :=
  { s with ctxs := [(0, c { part := 0, st := .running, image := { code := [(0, [end_])] }, vcs := [(0, x)] })] } |>.modMem
  (fun m => { m with region := [(0, 1)] })
def saveAt (stop : Bool) : Nat := b2n stop * 2 ^ 6 + 2 ^ 16 * 2 ^ 16

theorem witness_contexts_end :
    runs cmdCtxDestroy 0 (holds {}) = true ∧ opsLeft (ctx0 (rcv cmdCtxDestroy 0 (holds {}))) = false ∧
      runs cmdCtxDestroy 0 (holds { ops := [op1 0] }) = true ∧ opsLeft (ctx0 (rcv cmdCtxDestroy 0 (holds { ops := [op1 0] }))) = true ∧
      runs cmdCtxSave (2 ^ 16) (holds {}) = true ∧ fld (cmd 0x7003 (2 ^ 16)) 127 80 % 65536 ≠ 0 ∧
      runs cmdCtxSave (saveAt true) (holds {} (fun c => { c with st := .stopped })) = true ∧
      runs cmdCtxSave (saveAt true) (holds { rstack := [{}] }) = true ∧ accessRefusal (rcv cmdCtxSave 0 (holds {})) (.part 0) 65536 65536 = none ∧
      runs cmdCtxSave (saveAt true) (holds {}) = true ∧ fld (cmd 0x7003 (saveAt true)) 127 80 = 65536 ∧
      accessRefusal (rcv cmdCtxSave 0 (holds {})) (.part 0) (65536 + 65536) 65536 = none := by decide +kernel

theorem padded (f : List Byte) (n : Nat) (h : f.length = n) (k : n ≤ 65536) : (f ++ List.replicate (65536 - f.length) 0).length = 65536 := by
  rw [List.length_append, List.length_replicate, h]; omega
/-- The save record of a fresh virtual core takes the 65,536 bytes whose access the witness above allows. -/
theorem witness_save_length : (saveRecord 0 0 {}).length = 65536 := by
  have e : saveRecord 0 0 {} = clean (saveFront 0 0 {}) ++ [] := rfl
  rw [e, List.append_nil, clean, List.length_map]
  delta saveFront
  exact padded _ 5120 (by decide +kernel) (by decide)

def setp (vc i : Nat) (all : Bool) : Nat := vc * 2 ^ 8 + b2n all * 2 ^ 16 + i * 2 ^ 17 + 9 * 2 ^ 64
def loaded0 : State → State := holds {} (fun c => { c with st := .loaded })
def stopped0 : State → State := holds {} (fun c => { c with st := .stopped })

theorem witness_contexts_are_used :
    runs cmdCtxSetp (setp 0 63 false) loaded0 = true ∧ (ctx0 (rcv cmdCtxSetp 0 loaded0)).st = .loaded ∧
      bit (cmd 0x7005 (setp 0 63 false)).toNat 80 = false ∧ (tget (ctx0 (rcv cmdCtxSetp 0 loaded0)).vcs 0).isSome ∧
      runs cmdCtxSetp (setp 0 63 true) loaded0 = true ∧ bit (cmd 0x7005 (setp 0 63 true)).toNat 80 = true ∧
      runs cmdCtxSetp (setp 1 0 false) loaded0 = true ∧ tget (ctx0 (rcv cmdCtxSetp 0 loaded0)).vcs 1 = none ∧ runs cmdCtxSetp 0 stopped0 = true ∧
      ctxHalted (ctx0 (rcv cmdCtxSetp 0 stopped0)) = false ∧ runs cmdCtxQuery 0 loaded0 = true ∧ runs cmdCtxRun 0 loaded0 = true ∧
      runs cmdCtxRun 0 stopped0 = true ∧ runs cmdRoutineQuery 0x17F = true ∧ runs cmdRoutineQuery 0x180 = true := by decide +kernel

def manage (f : Mgmt → Mgmt := id) : State := hosted.modMgmt f

theorem witness_requests_are_served :
    oobServed hosted = true ∧ sensorOk 0x100 = true ∧ tget (sensed hosted).pwr.sensors 0x100 = some (-5) ∧ hosted.mgmt.staging = none ∧
      (stagingBy .oob hosted).mgmt.staging = some (.oob, [(0, 1)]) ∧ (slotImage hosted (!hosted.mgmt.slot)).isSome ∧
      slotImage (noOther hosted) (!(noOther hosted).mgmt.slot) = none ∧ oobServed (noOther hosted) = true ∧ hosted.pwr.st ≠ .off ∧
      hosted.mgmt.ready = true ∧ knownOps.contains (fld (cmd 0x6001) 15 0) = true ∧ knownOps.contains (fld (cmd 1) 15 0) = false ∧
      ({ hosted with pwr := { up.pwr with st := .carousel, sensors := [(0x100, 7)] } } : State).pwr.st = .carousel := by decide +kernel

def tap (fw : BitVec 4) : State := hosted.modMgmt (fun m => { m with fwstate := fw })

theorem witness_test_access :
    (tap 0).mgmt.fwstate = 0 ∧ (tap 2).mgmt.fwstate ≠ 0 ∧ (tap 2).mgmt.fwstate ≠ 3 ∧ (tap 2).mgmt.jtagEn = false ∧ (tap 2).pwr.st ≠ .off ∧
      ({ hosted with pwr := { up.pwr with st := .off } } : State).pwr.st = .off := by decide +kernel

/-- Virtual core 0 on core 0 with one started operation of opcode `op`. -/
def flying (op : Nat) : State := (onCore { ops := [op1 (iw op 0 0 0 0 0 0)] }).modCore 0 (fun r => { r with arrCtl := 1 })

theorem witness_mismatch_is_reported :
    (flying 0x20).vc? v0 = some (vc0 (flying 0x20)) ∧ (vc0 (flying 0x20)).core = 0 ∧ ((flying 0x20).core 0).arrCtl.getLsbD 0 = true ∧
      ((vc0 (flying
      0x20)).ops.find? (fun o => o.phase != .queued && (inUnit .arra o.word && (opOf o.word == 0x22) == false && (!false || t3Of o)))).isSome ∧
      ((vc0 (flying 0x40)).ops.find? (fun o => o.phase != .queued && inUnit .vec o.word)).isSome ∧
      ((vc0 (flying 0x30)).ops.find? (fun o => o.phase != .queued && inUnit .cvt o.word)).isSome ∧ (opOn (flying 0x20)).phase = .started ∧
      (vc0 unissued).ops = [] := by decide +kernel

theorem witness_engine_mismatch :
    (passed.att 0).passed.contains 0 = true ∧ (passed.att 0).readySent = false ∧ clusterPart passed 0 = 0 := by decide +kernel

theorem witness_parity_error :
    (unissued.core 0).parErr = false ∧ tget (unissued.core 0).slots 0 = some v0 ∧ unissued.rel.rstQueue = [] := by decide +kernel

def chk : Check := { id := 1, part := 0, ctx := some 0, core := 0, a := [1, 2] }
def checking (c : Check) : State := ((mem0 hosted 0 []).modPart 0
  (fun p => { p with sn := { p.sn with en := true, size := 1, pending := 1, base := 0 } })).modRel (fun r => { r with checks := [c] }) |>.modMem
  (fun m => { m with region := [(0, 1), (1, 1)] })
def running (b : Option (List Byte) := none) : Check := { chk with started := true, on := some 8, b := b, bOn := b.map (fun _ => 0) }

theorem witness_check_starts :
    (checking chk).mgmt.fwstate = 2 ∧ areaOk (checking chk) 0 = true ∧ (pickFor (checking chk) chk).isSome ∧ (tap 3).mgmt.fwstate ≠ 2 := by decide +kernel

/-- A check of an output whose group's verdict is not final. -/
def early : Check := { chk with waits := [({ gsr := 0, step := curStep up 0, attempt := 0 }, 0)] }

theorem witness_check_waits :
    (checking early).mgmt.fwstate = 2 ∧ areaOk (checking early) 0 = true ∧ (pickFor (checking early) early).isSome ∧
      groupsPending (checking early) 0 (early.waits.map Prod.fst) = true ∧ groupsPending (checking chk) 0 (chk.waits.map Prod.fst) = false ∧
      early.started = false ∧ early.closing = false := by decide +kernel

theorem witness_check_ends :
    (checking (running)).rel.checks = [running] ∧ dieStopped (checking (running)) (8 / 8) = false ∧
      thirdExists (checking (running)) { running with bOn := some 8 } = true ∧ running.resid = false ∧ running.vref = none ∧
      (running (some [3])).b = some [3] ∧ (running (some [3])).bOn = some 0 ∧ ([3] : List Byte) ≠ (running (some [3])).a := by decide +kernel

def stalled : State := ({ (unissued.modCore 0 (fun r => { r with stallb := 3 })) with pwr := { up.pwr with st := .run } } : State).modCluster 0
  (fun c => { c with stallb := 3 }) |>.modRel (fun r => { r with ctl := 3 })

theorem witness_watchdogs :
    awake stalled = true ∧ stalled.mgmt.bootrom = false ∧ stalled.mgmt.standbyOk = true ∧ stalled.rel.repair.length < 4096 ∧
      fld stalled.rel.ctl 3 0 ≤ (stalled.core 0).stallb.toNat ∧ dieStopped stalled 0 = false ∧ stalled.rel.rstQueue = [] ∧
      (stalled.core 0).issuing = some 0 ∧ tget (stalled.core 0).slots 0 = some v0 ∧ (stalled.core 1).stallb.toNat < fld stalled.rel.ctl 3 0 ∧
      fld stalled.rel.ctl 3 0 ≤ (stalled.cluster 0).stallb.toNat ∧ (stalled.cluster 1).stallb.toNat < fld stalled.rel.ctl 3 0 := by decide +kernel

/-- Context 0 runs on core 0 and a reset of a scope is due. -/
def resetting (scope : Nat) : State := (mem0 unissued 0 []).modRel (fun r => { r with rstQueue := [(scope, 0, none)], rstBusy := true })

theorem witness_scope_reset :
    (∀ sc ∈ List.range 4, ((resetting sc).rel.rstQueue = [(sc, 0, none)] ∧ Rising (resetting sc).ctxs)) ∧
      (resetting 0).ctx? 0 = some (ctx0 (resetting 0)) ∧ tget (ctx0 (resetting 0)).vcs 0 = some (vc0 (resetting 0)) ∧
      scopeCores (resetting 0) 0 0 0 = true ∧ scopeCores (resetting 0) 0 0 9 = false ∧ (ctx0 (resetting 0)).vcs ≠ [] ∧
      (∀ q ∈ up.rel.rstQueue, q.1 ≠ 0) := by decide +kernel

theorem witness_compute_reset :
    (resetting 3).rel.rstQueue = [(3, 0, none)] ∧ (∀ r ∈ (resetting 3).pwr.rails, r.2.below = false) ∧
      (let s := (resetting 3).modPwr (fun p => { p with rails := [(0, { below := true })] }); s.rel.rstQueue = [(3, 0, none)] ∧ ∃ r ∈ s.pwr.rails, r.2.below = true)
      ∧ (∀ q ∈ (resetting 2).rel.rstQueue, q.1 ≠ 3) := by decide +kernel

theorem witness_device_reset :
    (let s := resetting 4; s.rel.rstQueue = [(4, 0, none)] ∧ Rising s.mem.region ∧ s.pwr.trip = false ∧ s.mgmt.bootrom = false ∧ s.rel.engQuar = 0 ∧ (∀ p ∈ s.maps, p.2.quar = false) ∧ reOwner (entry s 0) ≤ 32)
      ∧ (∀ q ∈ up.rel.rstQueue,
      q.1 ≠ 4) ∧ (let s := (resetting 4).modPwr (fun p => { p with trip := true, hot := [1] }); s.pwr.trip = true ∧ s.pwr.hot ≠ []) ∧
      reOwner (entry (up.modMem (fun m => { m with region := [(3, BitVec.ofNat 64 (1 + 2 * 0x3E))] })) 3) = 0x3E := by decide +kernel

def coldArgs (lock : Bool) : ColdStart := { slot := 5, litLinks := [1], fails := [], rpllLocks := lock }
def offState : State := up.modPwr (fun p => { p with st := .off })

theorem witness_restart_and_cold_start :
    slotImage up up.mgmt.preferB ≠ none ∧ slotImage offState offState.mgmt.preferB ≠ none ∧ offState.pwr.st = .off ∧ (coldArgs true).fails = [] ∧
      (coldArgs true).rpllLocks = true ∧ (coldArgs false).rpllLocks = false ∧ State.reset.mgmt.fwstate = 0 ∧ up.pwr.st ≠ .off ∧ up.mgmt.fwstate ≠ 0 := by decide +kernel

/-- Context 0 awaits its recovery from its saves. -/
def recovering (saves : List Vcore) : State := ((unissued.modCtx 0
  (fun c => { c with st := .stopped, rcv := true, saves := if saves = [] then [] else [(0, saves)] })).modRel (fun r => { r with recover := [0] }))
def saveA (bad : Bool) : Vcore := { winSize := 4096, step := 7, winPoison := if bad then [(0, .context)] else [] }
def saveB : Vcore := { winSize := 4096, step := 3 }

theorem witness_recovery :
    (∀ b ∈
      [true, false],
      (let s := recovering [saveA b, saveB]; s.rel.recover = [0] ∧ s.ctx? 0 = some (ctx0 s) ∧ (ctx0 s).vcs = [(0, vc0 s)] ∧ tgetD (ctx0 s).saves 0 [] = saveA b :: saveB :: []))
      ∧ (saveA false).winPoison = [] ∧ (saveA true).winPoison = [(0, .context)] ∧ saveB.winPoison = [] ∧
      (let s := recovering []; s.rel.recover = [0] ∧ (ctx0 s).vcs ≠ [] ∧ (ctx0 s).saves = []) ∧ 0 ∉ unissued.rel.recover ∧
      unissued.ctx? 0 = some (ctx0 unissued) := by decide +kernel

/-- The suspects of core 0, or of the update engine of cluster 0, take turns. -/
def isolating (l : List Nat) (n : Nat := 0) : State := giveTurn (unissued.modRel (fun r => { r with suspects := [(n, l)] })) n (some 0)

theorem witness_isolation :
    suspectTurn (isolating [0]) 0 = some 0 ∧ (isolating [0]).ctx? 0 = some (ctx0 (isolating [0])) ∧ (ctx0 (isolating [0])).saving = none ∧
      suspectTurn (isolating [0, 4]) 0 = some 0 ∧ tgetD (isolating [0, 4]).rel.suspects 0 [] = [0, 4] ∧ suspectTurn unissued 0 ≠ some 0 ∧
      suspectTurn (isolating [0] 256) 256 = some 0 ∧ suspectTurn (isolating [0, 4] 256) 256 = some 0 ∧
      tgetD (isolating [0, 4] 256).rel.suspects 256 [] = [0, 4] := by decide +kernel

/-- The module runs, and the rail of die 0 is in a dip or not. -/
def dipped (b : Bool) : State := up.modPwr (fun p => { p with rails := [(0, { below := b, minmv := 650, dips := 2 })] })

theorem witness_input_dips :
    offState.pwr.st = .off ∧ up.pwr.st ≠ .off ∧ up.pwr.inputRaised = false ∧
      (∀ b ∈ [true, false], (computeOn (dipped b) = true ∧ (dipped b).pwr.trip = false ∧ (dipped b).ctxs = [] ∧ (dipped b).clusters = [] ∧
      (dipped b).rel.checks = [] ∧ (tgetD (dipped b).pwr.rails 0 {}).below = b ∧ (tgetD (dipped b).pwr.rails 0 {}).resetAt = none)) := by decide +kernel

/-- Every ACLK at `f` MHz, with the limit in force or not. -/
def capped (f : Nat) (on : Bool) : State := up.modPwr (fun p => { p with aclk := (List.range 4).map (fun d => (d, f)), capOn := on })

theorem witness_power_cap :
    computeOn (capped 1500 false) = true ∧ (List.range 4).all (fun d => !dieWindow (capped 1500 false) d) = true ∧
      (capped 1500 false).pwr.dieWarm = [] ∧ (capped 1500 false).pwr.capW.toNat < 6000 ∧ (capped 1500 false).pwr.capOn = false ∧
      (List.range 4).all (fun d => !dieWindow (capped 1000 true) d) = true ∧ 3000 * 100 < (capped 1000 true).pwr.capW.toNat * 95 ∧
      (capped 1000 true).pwr.capOn = true ∧ (List.range 4).any (fun d => decide (aclkOf (capped 1000 true) d < 1475)) = true ∧
      5400 ≤ (capped 1000 false).pwr.capW.toNat ∧ (capped 1000 false).pwr.capW.toNat * 95 ≤ 5400 * 100 := by decide +kernel

/-- The warning threshold is 95 °C; die 1 is above it or not. -/
def heated
  (b : Bool)
  : State :=
  up.modPwr (fun p => { p with dieWarm := if b then [1] else [], aclk := (List.range 4).map (fun d => (d, 1500)), coolOut := if b then [0x500] else [] })

theorem witness_heat :
    up.pwr.st ≠ .off ∧ up.pwr.st ≠ .carousel ∧ (heated false).pwr.trip = false ∧ ((heated false).pwr.tdieWarn.toNat : Int) ≤ 95 ∧
      1 ∉ (heated false).pwr.dieWarm ∧ computeOn (heated false) = true ∧ (92 : Int) < ((heated true).pwr.tdieWarn.toNat : Int) - 2 ∧
      (heated true).pwr.dieWarm = [1] ∧ ((heated true).pwr.tdieWarn.toNat : Int) - 2 ≤ 93 ∧ 1 ∈ (heated true).pwr.dieWarm ∧
      (1000 * up.pwr.tinWarn.toNat : Int) < 40001 ∧ 0x500 ∉ (heated false).pwr.coolOut ∧ (40000 : Int) ≤ (1000 * up.pwr.tinWarn.toNat : Int) ∧
      (heated true).pwr.coolOut = [0x500] ∧ (4999 : Int) < (up.pwr.flowWarn.toNat : Int) ∧ 0x502 ∉ (heated false).pwr.coolOut := by decide +kernel

theorem witness_thermal_trip :
    (let s := up.modPwr (fun p => { p with trip := true }); s.pwr.trip = true ∧ s.pwr.st ≠ .off) := by decide +kernel

def going (st : PState) (g : PState) (o : Option Origin := none) : State := (one 0).modPwr
  (fun p => { p with st := st, goal := some (g, o), crossings := [(7, 5)] })
def sampling (en : BitVec 6) : State := up.modPwr (fun p => { p with st := .carousel, wakeEn := en })

theorem witness_power_states :
    up.pwr.goal = none ∧ (going .idle .hold).pwr.goal = some (.hold, none) ∧ (going .idle .carousel).pwr.st = .idle ∧
      (∀ f ∈ (going .hold .carousel).host.fns, f.2.bme = false) ∧ (going .hold .idle).pwr.st = .hold ∧
      (let s := up.modPwr (fun p => { p with goal := some (.idle, none) }); s.pwr.st = .run ∧ s.ctxs = []) ∧
      (∀ f ∈ (going .run .off).host.fns, f.2.bme = false) ∧ (sampling 2).pwr.wakeEn.getLsbD 1 = true ∧ (sampling 2).pwr.wakeEn.getLsbD 0 = false ∧
      (sampling 2).pwr.goal = none ∧ (sampling 2).pwr.st = .carousel ∧ up.pwr.st ≠ .carousel ∧ fixedLimit (1, 48000) = false ∧
      crosses (sampling 2) (1, 48000) = false ∧ fixedLimit (1, 41999) = true := by decide +kernel

/-- An alarm has just fired, in the state given. -/
def edged (st : PState) (g : Option (PState × Option Origin) := none) : State := (sampling 8).modPwr
  (fun p => { p with st := st, goal := g, alarmEdge := true, wakeTo := true })
def calm (s : State) : State := s.modPwr (fun p => { p with alarmEdge := false })

theorem witness_waking :
    (sampling 8).pwr.alarmEdge = false ∧ (edged .carousel).pwr.alarmEdge = true ∧ (edged .carousel).pwr.wakeEn.getLsbD 3 = true ∧
      (edged .carousel).pwr.wakeEn.getLsbD 2 = false ∧ (edged .carousel).pwr.goal = none ∧ (edged .carousel).pwr.st = .carousel ∧
      (edged .hold).pwr.st = .hold ∧ (edged .idle).pwr.st = .idle ∧ (edged .hold (some (.carousel, none))).pwr.goal = some (.carousel, none) := by decide +kernel

theorem witness_unit_frame :
    completes (iw3 0x20 0) [] {} runZero ∧ completes (iw3 0x12 0) (window [desc 11 1024 1 4, desc 11 0 1 4 true]) {} runStore := by decide +kernel

/-- A full buffer that a product of two rows cannot add to. -/
def fullBuf : Lacc := { oneByOne with fmtA := 9, fmtB := 9, paired := true }
def arrArg
  : ArrOp := { fmt := 9, rows := 1, k := 2, els := [[.num false Q.one, .num false Q.one]], ss := [], rho := [0x3F800000], flags := 0, feeds := [] }
def fr : Int := match pairOf 9 9 with | some (f, _) => f | none => 0

theorem witness_product_count :
    acceptBuf {} 0 0 fr true false arrArg.rows arrArg.rows = .ok 0 ∧ (accumulate up 0 {} 0 0 fr true arrArg arrArg false).toOption.isSome ∧
      ({ oneByOne with kcount := 5 } : Lacc).data = true ∧ (importRec {} 0 0 { oneByOne with kcount := 5 }).toOption.isSome := by decide +kernel

def overFrame : LaccSet := { a0 := { fullBuf with frame := fr } }
def overState : State := started (iw3 0x21 0) (window [desc 9 1024 1 2, desc 9 1024 1 2]) overFrame
def accArg (k : Nat) : Res (Opnd × ArrOp × Bool) := let s := overState; let o := opOn s; arrOperand s v0 0 (unitView (vc0 s) o) false
  (if k = 1 then arg1 o else arg2 o)

theorem witness_product_count_limit :
    (let s := overState; let x := vc0 s; let o := opOn s; OpStarted s v0 x 0x21 o ∧ t3Of o = false ∧ zOf o = false ∧ (accArg 1).toOption.isSome ∧ (accArg 2).toOption.isSome ∧ (accArg 1).toOption.map (fun r => (r.2.1.fmt, r.2.1.rows, r.2.1.k)) = some (9, 1, 2) ∧ (accArg 2).toOption.map (fun r => (r.2.1.fmt, r.2.1.rows, r.2.1.k)) = some (9, 1, 2) ∧ pairOf 9 9 = some (fr, true) ∧ acceptBuf x.lacc (arrOf o) (bufOf o) fr true false 1 1 = .ok 0 ∧ ((accArg 1).toOption.bind (fun a => (accArg 2).toOption.bind (fun b => (captureScales (x.lacc.get 0) a.2.1.rho b.2.1.rho).toOption))).isSome = true)
      ∧ 1048576 < (overFrame.get 0).kcount + 2 := by decide +kernel

def overImport : State := started (iw3 0x25 0) (memPutAll [] 0
  (recBytes { data := true, m := 1, n := 1, kcount := 2, elems := [some 3], paired := true, frame := fr, fmtA := 9, fmtB := 9 })) overFrame
def impRec : Res (Lacc × Bool) := let s := overImport; readRecord s v0 0 (unitView (vc0 s) (opOn s)) (arg1 (opOn s))

theorem witness_import_limit :
    (let s := overImport; let x := vc0 s; let o := opOn s; OpStarted s v0 x 0x25 o ∧ t3Barred s x o = false ∧ zOf o = false ∧ impRec.toOption.isSome ∧ impRec.toOption.map (fun r => (r.1.data, r.1.t3, r.1.kcount)) = some (true, false, 2) ∧ impRec.toOption.map (fun r => (acceptBuf x.lacc (arrOf o) (bufOf o) r.1.frame r.1.paired r.1.t3 r.1.m r.1.n).toOption) = some (some 0) ∧ 1048576 < (x.lacc.get 0).kcount + 2) := by decide +kernel

/-- An FP32 word of a non-negative number. -/
def isMag (w : Word32) : Bool := match dec32 w with | .num false _ => true | _ => false

theorem witness_root_neighbours :
    ([1, 2
      ^ 96, 2 ^ 255]
      : List Nat).all
      (fun n => isMag (gnormOf (BitVec.ofNat 256 n)) && isMag (gnormOf (BitVec.ofNat 256 n) + 1) && isMag (gnormOf (BitVec.ofNat 256 n) - 1) && gnormOf (BitVec.ofNat 256 n) != 0)
      = true := by decide +kernel

theorem witness_clip_factor :
    FV.lt (.num false Q.zero) (dec32 0x3F800000) = true ∧ FV.lt (dec32 0x3F800000) (dec32 0x40000000) = true ∧
      FV.lt (.num false Q.zero) (dec32 0) = false ∧ FV.lt (dec32 0x40000000) (dec32 0x3F800000) = false := by decide +kernel

def lastLayer : State := up.modCmt 0 (fun c => { c with sel := 1#4096 <<< 4095, armed := 1#4096 <<< 4095 })

theorem witness_selector_table :
    lastLayer.pwr.st ≠ .carousel ∧ blockOf lastLayer 0 (0x10000 + 0x2000 + 8 * (4095 / 32)) = some (.part 0, 0x2000 + 8 * (4095 / 32)) ∧
      blockOf lastLayer 0 (0x10000 + 0x2000) = some (.part 0, 0x2000 + 8 * (0 / 32)) ∧
      blockOf State.reset 0 (0x10000 + 0x23F8) = some (.part 0, 0x23F8) ∧ 0x23F8 < 0x2400 := by decide +kernel

theorem witness_sound_state_steps :
    Rising (mem0 unissued 0 [7]).ctxs ∧ Rising (mem0 unissued 0 [7]).mem.region ∧ Memory.wf (mem0 unissued 0 [7]).mem.bytes = true ∧
      Memory.wf (mem0 unissued 0 [7]).host.bytes = true ∧ (match step (mem0 unissued 0 [7]) with | .next _ => true | _ => false) = true := by decide +kernel


end Sys2Proof.Tests
end

namespace Sys2Proof.Machine

open Sys2Proof

/-! SUPPORT. BAR0 by block, and BAR2 by outcome, with the two statements of the scope family at the end. -/

/-! ### Bytes of device memory -/

/-- Plain bytes are read one by one. -/
theorem memBytes_eq_map (m : List Host.Cell) (a n : Nat) : memBytes m a n = (List.range n).map (fun i => memGet m (a + i)) := by
  induction n generalizing a with
  | zero => rfl
  | succ n ih => simp [memBytes, ih, List.range_succ_eq_map, Nat.add_assoc, Nat.add_comm 1]

/-- Poison aside, a read of device memory gives its plain bytes (R297). -/
theorem devRead_map_fst (s : State) (da n : Nat) : (devRead s da n).map Prod.fst = devBytes s da n := by
  rw [devBytes, memBytes_eq_map]
  apply List.ext_getElem
  · simp [devRead, PMem.read]
  · intro i h₁ h₂
    simp only [devRead, List.getElem_map, List.getElem_mapIdx, PMem.read, List.getElem_range, State.pmem]
    split <;> rfl

/-- Where no symbol has failed, what a read leaves in the Pantry does not show in what is read (R280). -/
theorem devRead_demand {s : State} (h : s.mem.latent = []) (k : Option Nat) (da n a m : Nat) :
    devRead (demand s k da n) a m = devRead s a m := by
  obtain ⟨ls, e⟩ := demand_lines h k da n
  rw [e]
  rfl

/-! ### The runs of a write -/

/-- Single bytes that follow one another join into one run (R288). -/
theorem joinWrites_consecutive (f : Byte → PByte) (da : Nat) {bs : List Byte} (h : bs ≠ []) :
    joinWrites (bs.mapIdx (fun i b => (da + i, [f b]))) = [(da, bs.map f)] := by
  induction bs generalizing da with
  | nil => exact absurd rfl h
  | cons b bs ih =>
    cases bs with
    | nil => rfl
    | cons c bs =>
      have shift : (fun i b => (da + (i + 1), [f b])) = (fun i b => (da + 1 + i, [f b])) := by
        funext i b
        rw [Nat.add_assoc, Nat.add_comm 1]
      have tail := ih (da + 1) (List.cons_ne_nil c bs)
      rw [List.mapIdx_cons, shift, joinWrites, tail]
      simp

/-- A write of bytes that are all enabled is one run (R366). -/
theorem writeRuns_all_enabled (da : Nat) (ep : Bool) {bs : List Byte} (h : bs ≠ []) :
    writeRuns da (bs.map some) ep = [(da, bs.map (fun b => (b, if ep then some Policy.context else none)))] := by
  rw [writeRuns, ← joinWrites_consecutive _ da h]
  simp [List.mapIdx_eq_zipIdx_map, List.zipIdx_map, Function.comp_def]

/-! ### BAR2 (R365, R366) -/

section Bar2
variable {s : State} {fn off n code : Nat} {bs : List Byte} {ep : Bool}

/-- A refused host read answers all-ones and raises the event of its refusal at PF0 (R268). -/
theorem execBar2Access_read_refused (hd : (s.fn fn).d3 = false) (hp : s.pwr.st = .run ∨ s.pwr.st = .idle)
    (hr : barRefusal s fn (barDa s fn off) n = some code) :
    execBar2Access fn (.read off n) s = .next (reply (refuseHost s code (barDa s fn off)) (.data (List.replicate n 0xFF) false)) := by
  rcases hp with hp | hp <;> simp [execBar2Access, hd, hp, hr]

/-- A host read that is let through answers device memory, with event 0x2304 where it reaches poison (R292, R366). -/
theorem execBar2Access_read (hd : (s.fn fn).d3 = false) (hp : s.pwr.st = .run ∨ s.pwr.st = .idle)
    (hr : barRefusal s fn (barDa s fn off) n = none) (hw : accessWaits s (barDa s fn off) n = false) (hl : s.mem.latent = []) :
    execBar2Access fn (.read off n) s =
      (let da := barDa s fn off
       let bs := devRead s da n
       let t := reply (demand s none da n) (.data (devBytes s da n) (strongest bs).isSome)
       .next (if (strongest bs).isSome then raiseDev t 0x2304 (data2 (poisonedAt da bs) 0 (regionOf (poisonedAt da bs))) else t)) := by
  rcases hp with hp | hp <;> simp [execBar2Access, hd, hp, hr, hw, devRead_demand hl, devRead_map_fst]

/-- In HOLD a host read answers all-ones, without an event (R451). -/
theorem execBar2Access_read_hold (hd : (s.fn fn).d3 = false) (hp : s.pwr.st = .hold) :
    execBar2Access fn (.read off n) s = .next (reply s (.data (List.replicate n 0xFF) false)) := by
  simp [execBar2Access, hd, hp]

/-- A refused host write does nothing but raise the event of its refusal at PF0 (R268). -/
theorem execBar2Access_write_refused (hd : (s.fn fn).d3 = false) (hp : s.pwr.st = .run ∨ s.pwr.st = .idle)
    (hr : barRefusal s fn (barDa s fn off) bs.length = some code) :
    execBar2Access fn (.write off (bs.map some) ep) s = .next (refuseHost s code (barDa s fn off)) := by
  rcases hp with hp | hp <;> simp [execBar2Access, hd, hp, hr]

/-- A host write that is let through reaches device memory as one run, poisoned where the request was (R355, R366). -/
theorem execBar2Access_write (hd : (s.fn fn).d3 = false) (hp : s.pwr.st = .run ∨ s.pwr.st = .idle) (hb : bs ≠ [])
    (hr : barRefusal s fn (barDa s fn off) bs.length = none) (hw : accessWaits s (barDa s fn off) bs.length = false) :
    execBar2Access fn (.write off (bs.map some) ep) s =
      .next (devWrite s (barDa s fn off) (bs.map (fun b => (b, if ep then some Policy.context else none)))) := by
  rcases hp with hp | hp <;> simp [execBar2Access, hd, hp, hr, hw, writeRuns_all_enabled _ _ hb]

/-- In HOLD a host write is discarded (R451). -/
theorem execBar2Access_write_hold (hd : (s.fn fn).d3 = false) (hp : s.pwr.st = .hold) :
    execBar2Access fn (.write off (bs.map some) ep) s = .next s := by
  simp [execBar2Access, hd, hp]

/-- An AtomicOp request is unsupported (R355). -/
theorem execBar2Access_atomic (hd : (s.fn fn).d3 = false) (hp : s.pwr.st ≠ .off) :
    execBar2Access fn (.atomic off) s = .next (reply s .unsupported) := by
  simp [execBar2Access, hd, hp]

end Bar2

/-- A VF without a partition has every access refused, if not for its address then by 0x2001 (R358). -/
theorem barRefusal_of_no_partition {s : State} {fn : Nat} (hf : fn ≠ 0) (he : (s.part fn).exist = false) (da n : Nat) :
    barRefusal s fn da n ≠ none := by
  simp [barRefusal, hf, he]

/-! ### BAR0 by block (R361, R362) -/

theorem not_carousel_of_awake {s : State} (ha : awake s = true) : s.pwr.st ≠ .carousel := by
  simp_all [awake]

theorem not_off_of_awake {s : State} (ha : awake s = true) : s.pwr.st ≠ .off := by
  simp_all [awake]

/-- PF0 sees every register of every core (R361). -/
theorem blockOf_core (s : State) {n o : Nat} (hn : n < 256) (ho : o < 4096) :
    blockOf s 0 (0x100000 + 4096 * n + o) = some (.core n, o) := by
  have hq : (0x100000 + 4096 * n + o - 0x100000) / 4096 = n := by omega
  have hm : (0x100000 + 4096 * n + o) % 4096 = o := by omega
  have above : ∀ k ≤ 0x100000, ¬ 0x100000 + 4096 * n + o < k := fun k hk => by omega
  have below : 0x100000 + 4096 * n + o < 0x200000 := by omega
  simp [blockOf, above, below, hq, hm]

/-- The fabric block of PF0 (R361). -/
theorem blockOf_fab (s : State) {off : Nat} (hl : 0x210000 ≤ off) (hu : off < 0x220000) :
    blockOf s 0 off = some (.fab, off - 0x210000) := by
  have above : ∀ k ≤ 0x210000, ¬ off < k := fun k hk => by omega
  simp [blockOf, above, hu]

/-- Outside CAROUSEL a register of a core reads as the core's block gives it. -/
theorem readReg_core {s : State} (hc : s.pwr.st ≠ .carousel) {n o : Nat} (hn : n < 256) (ho : o < 4096) :
    readReg s 0 (0x100000 + 4096 * n + o) = readCore s n o := by
  simp [readReg, blockOf_core s hn ho, hc]

/-- An aligned read of 8 bytes in D0 answers its register (R362). -/
theorem readBar0_eight {s : State} {fn off : Nat} (hd : (s.fn fn).d3 = false) (h8 : off % 8 = 0) :
    readBar0 s fn off 8 = .data (natToBytes 8 (readReg s fn off).toNat) false := by
  have whole : off / 8 * 8 = off := by omega
  simp [readBar0, hd, h8, whole]

/-- An aligned write of 8 bytes reaches all bits of its register (R362). -/
theorem wrOf_eight {off : Nat} (h8 : off % 8 = 0) (value : Word64) : wrOf off 8 value = some (off, ⟨value, BitVec.allOnes 64⟩) := by
  simp [wrOf, h8]

section Write
variable {s : State} {fn off o : Nat} (hd : (s.fn fn).d3 = false) (ha : awake s = true) (h8 : off % 8 = 0) (value : Word64)

include hd ha h8

theorem writeReg_core {n : Nat} (hb : blockOf s fn off = some (.core n, o)) :
    writeReg s fn off 8 value = writeCore s fn n o ⟨value, BitVec.allOnes 64⟩ := by
  simp [writeReg, wrOf_eight h8, hb, hd, not_off_of_awake ha, not_carousel_of_awake ha]

theorem writeReg_mem (hb : blockOf s fn off = some (.mem, o)) :
    writeReg s fn off 8 value = if o = 0x20 ∧ value.getLsbD 63 = true then s.modMem (fun m => { m with ue := 0 }) else s := by
  simp [writeReg, wrOf_eight h8, hb, hd, not_off_of_awake ha, not_carousel_of_awake ha, Wr.one]

/-- The fabric block takes no write (R347). -/
theorem writeReg_fab (hb : blockOf s fn off = some (.fab, o)) : writeReg s fn off 8 value = s := by
  simp [writeReg, wrOf_eight h8, hb, hd, not_off_of_awake ha, not_carousel_of_awake ha]

end Write

/-! ### ISS_CTL, RNG_TOUT and SEL -/

/-- A write of PF0 to ISS_CTL replaces the fields of its low 24 bits (R262). -/
theorem writeCore_issCtl (s : State) (n : Nat) (value : Word64) :
    writeCore s 0 n 0x718 ⟨value, BitVec.allOnes 64⟩ =
      s.modCore n (fun r => { r with issCtl := (r.issCtl &&& ~~~0xFFFFFF#64) ||| (value &&& 0xFFFFFF#64) }) := by
  simp only [writeCore, maskWrite, BitVec.allOnes_and, if_true]

theorem readCore_issCtl (s : State) (n : Nat) : readCore s n 0x718 = (s.core n).issCtl := rfl

/-- The half of an evaluation that RNG_TOUT_LO or RNG_TOUT_HI shows. -/
theorem readCore_rngTout (s : State) (n : Nat) (hi : Bool) :
    readCore s n (0x640 + if hi then 8 else 0) = BitVec.ofNat 64 ((testMix (s.core n)).toNat / if hi then 2 ^ 64 else 1) := by
  cases hi
  · simp [readCore]
  · simp [readCore]

/-- A read of RNG_TOUT by PF0 answers a half of the mix of the core's test inputs (R210). -/
theorem execRngToutRead_awake {s : State} (hd : (s.fn 0).d3 = false) (ha : awake s = true) {n : Nat} (hn : n < 256) (hi : Bool) :
    execRngToutRead 0 n hi s =
      .next (reply s (.data (natToBytes 8 ((testMix (s.core n)).toNat / (if hi then 2 ^ 64 else 1) % 2 ^ 64)) false)) := by
  have inBlock : (0x640 + if hi then 8 else 0) < 4096 := by split <;> omega
  have aligned : (0x100000 + 4096 * n + (0x640 + if hi then 8 else 0)) % 8 = 0 := by split <;> omega
  have hs : (s.pwr.st == PState.off) = false := by simpa using not_off_of_awake ha
  rw [execRngToutRead, hs, Nat.add_assoc (0x100000 + 4096 * n), readBar0_eight hd aligned,
    readReg_core (not_carousel_of_awake ha) hn inBlock, readCore_rngTout, BitVec.toNat_ofNat]
  rfl

/-- Without OBS_EN a write to SEL leaves the pins at high impedance (R474, R479). -/
theorem setSel_of_disabled {s : State} (h : s.mgmt.obsEn = false) (sel : Word16) :
    setSel s sel false = s.modMgmt (fun m => { m with sel := sel, selSrc := false, obs := none }) := by
  simp [setSel, driveObs, h, State.modMgmt]

/-- SEL is written by PF0 alone (R479). -/
theorem execObsSelWrite_of_vf {s : State} {fn : Nat} (h : fn ≠ 0) (sel : Word16) : execObsSelWrite fn sel s = .next s := by
  simp [execObsSelWrite, h]

theorem execObsSelWrite_of_pf {s : State} (hd : (s.fn 0).d3 = false) (ha : awake s = true) (sel : Word16) :
    execObsSelWrite 0 sel s = .next (setSel s sel false) := by
  simp [execObsSelWrite, hd, ha]

/-! ### The statements -/

/-- Settles O43: BAR2 outcome by outcome, then the registers block by block. -/
theorem hostAccessesMeetMemoryAndRegisters : Obligations.HostAccessesMeetMemoryAndRegisters := by
  intro s fn hd
  refine ⟨?reads, ?writes, fun off hp => execBar2Access_atomic (off := off) hd hp, fun da n hf he => barRefusal_of_no_partition hf he da n,
    ?issCtl, ?fabric, ?memUe, ?rngTout, ?sel⟩
  case reads =>
    rintro off n da rfl
    refine ⟨fun hp => ⟨fun _ hr => execBar2Access_read_refused hd hp hr, fun hr hw hl => ⟨fun hs => ?_, ?_⟩⟩,
      fun hp => execBar2Access_read_hold hd hp⟩
    · exact (execBar2Access_read hd hp hr hw hl).trans (by simp [hs, reply])
    · rintro g hs rfl
      exact (execBar2Access_read hd hp hr hw hl).trans (by simp [Option.isSome_iff_ne_none.mpr hs, reply])
  case writes =>
    rintro off bs ep da rfl hb
    exact ⟨fun hp => ⟨fun _ hr => execBar2Access_write_refused hd hp hr, fun hr hw => execBar2Access_write hd hp hb hr hw⟩,
      fun hp => execBar2Access_write_hold hd hp⟩
  case issCtl =>
    rintro value rfl ha n hn
    have inBlock : 0x718 < 4096 := by decide
    have aligned : (0x100000 + 4096 * n + 0x718) % 8 = 0 := by omega
    have hw := (writeReg_core hd ha aligned value (blockOf_core s hn inBlock)).trans (writeCore_issCtl s n value)
    refine ⟨_, congrArg Host.Outcome.next hw, ?_, rfl, rfl, rfl, fun m hm => s.core_modCore_ne _ hm⟩
    exact (readReg_core (s := s.modCore n _) (not_carousel_of_awake ha) hn inBlock).trans (by rw [readCore_issCtl, State.core_modCore])
  case fabric =>
    rintro value off rfl ha hl hu h8
    exact congrArg Host.Outcome.next (writeReg_fab hd ha h8 value (blockOf_fab s hl hu))
  case memUe =>
    rintro value rfl ha h63
    exact congrArg Host.Outcome.next ((writeReg_mem hd ha rfl value rfl).trans (if_pos ⟨rfl, h63⟩))
  case rngTout =>
    rintro n hi rfl hn ha
    exact execRngToutRead_awake hd ha hn hi
  case sel =>
    intro sel ha ho
    refine ⟨?_, fun hf => execObsSelWrite_of_vf hf sel⟩
    rintro rfl
    exact (execObsSelWrite_of_pf hd ha sel).trans (congrArg Host.Outcome.next (setSel_of_disabled ho sel))

/-- After reset both byte memories, the contexts and the region table are empty, which the invariant admits. -/
theorem stateOk_reset : StateOk State.reset := ⟨⟨rfl, rfl⟩, Rising.nil, Rising.nil⟩

/-- The halves of the evaluation at the reset values of the test inputs, as R210 prints them. -/
theorem testMix_reset : testMix {} = 0x246AD0F63E4DAE1A492EA8E1A841830D := by decide +kernel

theorem readReg_reset_rngTout (hi : Bool) :
    readReg State.reset 0 (0x100640 + if hi then 8 else 0) = if hi then 0x246AD0F63E4DAE1A else 0x492EA8E1A841830D := by
  have inBlock : (0x640 + if hi then 8 else 0) < 4096 := by split <;> omega
  have read := (readReg_core (s := State.reset) (n := 0) (by decide) (by decide) inBlock).trans (readCore_rngTout State.reset 0 hi)
  have inputs : State.reset.core 0 = {} := rfl
  rw [inputs, testMix_reset] at read
  cases hi <;> exact read

/-- The exception flags of a core's converters read 0 after reset (R66). -/
theorem readReg_reset_cvtNf {n : Nat} (hn : n < 256) : readReg State.reset 0 (0x100000 + 4096 * n + 0x480) = 0 :=
  readReg_core (s := State.reset) (o := 0x480) (by decide) hn (by decide)

/-- Settles O59: the queue, the tables and the invariant, then the registers block by block, then configuration space. -/
theorem resetLeavesTheStatedValues : Obligations.ResetLeavesTheStatedValues := by
  refine ⟨rfl, rfl, rfl, rfl, rfl, stateOk_reset, fun _ => rfl, rfl,
    readReg_reset_rngTout false, readReg_reset_rngTout true, ?memCtl, fun _ hn => readReg_reset_cvtNf hn, ?relCtl, ?thermCtl,
    rfl, rfl, rfl, rfl, rfl, rfl, rfl⟩
  case memCtl => decide
  case relCtl => decide
  case thermCtl => decide

end Sys2Proof.Machine

namespace Sys2Proof.Machine

open Sys2Proof

/-! SUPPORT. How a mailbox command that runs is answered, what CTX_CREATE and CTX_RESTORE make of an image, and what the partition and
firmware commands do, with the two statements of the organisation family at the end. -/

/-! ### A mailbox command that runs (R371, R379) -/

section Run
variable {s t : State} {c : Cmd} {o : Origin} {e : Entry}

/-- A command that runs and answers at once is finished with its answer. -/
theorem runCmd_of_answer {st res : Nat} (h : CmdRuns s c o e)
    (hb : c.body (setRunning s o) o e (targetPart o e) = (t, some (st, res))) : runCmd c o e s = finish t o st res := by
  obtain ⟨⟨hop, hready⟩, hgate, hhost, hwait⟩ := h
  cases hh : c.host e <;> simp_all [runCmd]

/-- A command that runs on leaves what its body has done so far. -/
theorem runCmd_of_later (h : CmdRuns s c o e)
    (hb : c.body (setRunning s o) o e (targetPart o e) = (t, none)) : runCmd c o e s = t := by
  obtain ⟨⟨hop, hready⟩, hgate, hhost, hwait⟩ := h
  cases hh : c.host e <;> simp_all [runCmd]

/-- The entry of a command that runs bears its opcode. -/
theorem opcode_of_runs (h : CmdRuns s c o e) : fld e 15 0 = c.op := by
  obtain ⟨⟨hop, -⟩, -⟩ := h
  exact hop

/-- The outcome of a command that answers at once. -/
theorem next_of_answer {st res : Nat} (h : CmdRuns s c o e)
    (hb : c.body (setRunning s o) o e (targetPart o e) = (t, some (st, res))) :
    (.next (runCmd c o e s) : Host.Outcome State Fault Refusal) = .next (finish t o st res) :=
  congrArg Host.Outcome.next (runCmd_of_answer h hb)

/-- The outcome of a command that runs on. -/
theorem next_of_later (h : CmdRuns s c o e) (hb : c.body (setRunning s o) o e (targetPart o e) = (t, none)) :
    (.next (runCmd c o e s) : Host.Outcome State Fault Refusal) = .next t :=
  congrArg Host.Outcome.next (runCmd_of_later h hb)

end Run

/-- A condition on the clusters of a bit set, cluster by cluster. -/
theorem setOf_all {m : Nat} {p : Nat → Bool} : (setOf m).all p = true ↔ ∀ j < 32, bit m j = true → p j = true := by
  simp only [setOf, List.all_filter, List.all_eq_true, List.mem_range, Bool.or_eq_true, Bool.not_eq_true', ← Bool.not_eq_true, imp_iff_not_or]

/-! ### Virtual cores that move in their scratchpads (R214, R250) -/

/-- `y` is the virtual core `x`, but for its slot, the base of its window and a bank swap that is due. -/
def Vcore.Resettled (x y : Vcore) : Prop := y = { x with slot := y.slot, winBase := y.winBase, swapDue := y.swapDue }

theorem Vcore.Resettled.refl (x : Vcore) : x.Resettled x := rfl

theorem Vcore.Resettled.trans {x y z : Vcore} (h : x.Resettled y) (g : y.Resettled z) : x.Resettled z := by
  unfold Vcore.Resettled at *
  rw [g, h]

section Fields
variable {x y : Vcore} (h : x.Resettled y)

include h

theorem Vcore.Resettled.core_eq : y.core = x.core := by rw [h]
theorem Vcore.Resettled.bank_eq : y.bank = x.bank := by rw [h]
theorem Vcore.Resettled.p_eq : y.p = x.p := by rw [h]
theorem Vcore.Resettled.win_eq : y.win = x.win := by rw [h]
theorem Vcore.Resettled.lacc_eq : y.lacc = x.lacc := by rw [h]
theorem Vcore.Resettled.replay_eq : y.replay = x.replay := by rw [h]
theorem Vcore.Resettled.waitPatch_eq : y.waitPatch = x.waitPatch := by rw [h]

end Fields

/-- Virtual core `v` of the table `a` is in `b`, at most resettled. -/
def KeptAt (v : Nat) (a b : Tab Vcore) : Prop := ∀ x, tget a v = some x → ∃ y, tget b v = some y ∧ x.Resettled y

theorem KeptAt.refl (v : Nat) (a : Tab Vcore) : KeptAt v a a := fun x h => ⟨x, h, .refl x⟩

theorem KeptAt.trans {v : Nat} {a b c : Tab Vcore} (h : KeptAt v a b) (g : KeptAt v b c) : KeptAt v a c := by
  intro x hx
  obtain ⟨y, hy, hxy⟩ := h x hx
  obtain ⟨z, hz, hyz⟩ := g y hy
  exact ⟨z, hz, hxy.trans hyz⟩

theorem keptAt_tput_ne {v w : Nat} (h : v ≠ w) (a : Tab Vcore) (x : Vcore) : KeptAt v a (tput a w x) :=
  fun y hy => ⟨y, by rw [tget_tput_ne _ _ h, hy], .refl y⟩

theorem keptAt_tput_resettled {w : Nat} {a : Tab Vcore} {x y : Vcore} (hx : tget a w = some x) (h : x.Resettled y) (v : Nat) :
    KeptAt v a (tput a w y) := by
  by_cases hv : v = w
  · subst hv
    intro z hz
    obtain rfl : x = z := Option.some.inj (hx.symm.trans hz)
    exact ⟨y, tget_tput_same _ _ _, h⟩
  · exact keptAt_tput_ne hv _ _

/-- From `s` to `t` the host interface and the memory stay, and every context stays but for virtual cores that are resettled. -/
structure WindowsMove (s t : State) : Prop where
  host : t.host = s.host
  mem : t.mem = s.mem
  ctx : ∀ {k c}, s.ctx? k = some c → ∃ tab, t.ctx? k = some { c with vcs := tab } ∧ ∀ v, KeptAt v c.vcs tab

theorem WindowsMove.refl (s : State) : WindowsMove s s := ⟨rfl, rfl, fun {_ c} h => ⟨c.vcs, h, fun v => .refl v _⟩⟩

theorem WindowsMove.trans {s t u : State} (h : WindowsMove s t) (g : WindowsMove t u) : WindowsMove s u := by
  refine ⟨g.host.trans h.host, g.mem.trans h.mem, fun hc => ?_⟩
  obtain ⟨tab, ht, hk⟩ := h.ctx hc
  obtain ⟨tab', hu, hk'⟩ := g.ctx ht
  exact ⟨tab', hu, fun v => (hk v).trans (hk' v)⟩

theorem windowsMove_modVc (s : State) (w : VRef) {f : Vcore → Vcore} (hf : ∀ x : Vcore, x.Resettled (f x)) : WindowsMove s (s.modVc w f) := by
  refine ⟨s.modVc_host w f, s.modVc_mem w f, fun {k c} hc => ?_⟩
  by_cases hk : k = w.ctx
  · subst hk
    cases hx : tget c.vcs w.vc with
    | none => exact ⟨c.vcs, by simp [State.modVc, s.modCtx_of hc, hx], fun v => .refl v _⟩
    | some x => exact ⟨_, by rw [s.modVc_of hc hx, State.ctx?_putCtx], keptAt_tput_resettled hx (hf x)⟩
  · exact ⟨c.vcs, (s.ctx?_modCtx_ne _ hk).trans hc, fun v => .refl v _⟩

theorem windowsMove_packWindows (vs : List VRef) (s : State) (b : Nat) : WindowsMove s (packWindows s vs b).1 := by
  induction vs generalizing s b with
  | nil => exact .refl s
  | cons v vs ih => exact (windowsMove_modVc s v (f := fun x => { x with winBase := b }) (fun _ => rfl)).trans (ih _ _)

/-- A window is placed beside those of its core, or these are packed first (R214, log 10). -/
theorem windowsMove_placeWindow (s : State) (n size : Nat) : WindowsMove s (placeWindow s n size).1 := by
  simp only [placeWindow]
  split
  · exact .refl s
  · exact windowsMove_packWindows _ _ _

theorem windowsMove_reloadSwap (t : Site) (placed : List (Place × Nat × Bool)) (s : State) (d : Nat × Bool) :
    WindowsMove s (reloadSwap t placed s d) := by
  simp only [reloadSwap]
  split
  · exact foldl_any (P := WindowsMove s) (.refl s) fun u x hu => hu.trans (windowsMove_modVc u x.1 (fun _ => rfl))
  · exact .refl s

/-! ### Seating the virtual cores of a new context (R213, R249) -/

/-- Virtual core `x` of place `d` stands on the core and bank that were chosen for it. -/
def SeatedAt (tab : Tab Vcore) (x : Vcore) (d : Place × Nat × Bool) : Prop :=
  ∃ y, tget tab d.1.vc = some y ∧ Vcore.Resettled { x with core := d.2.1, bank := d.2.2 } y

theorem SeatedAt.kept {a b : Tab Vcore} {x : Vcore} {d : Place × Nat × Bool} (h : SeatedAt a x d) (hk : KeptAt d.1.vc a b) :
    SeatedAt b x d := by
  obtain ⟨y, hy, hxy⟩ := h
  obtain ⟨z, hz, hyz⟩ := hk y hy
  exact ⟨z, hz, hxy.trans hyz⟩

/-- A seat leaves the host interface and the memory, and of its context all but the virtual core that it seats. -/
theorem seat_ctx {s : State} {k : Nat} {c : Ctx} (hc : s.ctx? k = some c) (d : Place × Nat × Bool) (x : Vcore) :
    (seat k s d x).host = s.host ∧ (seat k s d x).mem = s.mem ∧
    ∃ tab, (seat k s d x).ctx? k = some { c with vcs := tab } ∧ SeatedAt tab x d ∧ ∀ v ≠ d.1.vc, KeptAt v c.vcs tab := by
  have moved := windowsMove_placeWindow s d.2.1 x.winSize
  obtain ⟨tab, ht, hk⟩ := moved.ctx hc
  refine ⟨by simp [seat, moved.host], by simp [seat, moved.mem], ?_⟩
  refine ⟨tput tab d.1.vc { x with core := d.2.1, slot := freeSlot s d.2.1, bank := d.2.2, winBase := (placeWindow s d.2.1 x.winSize).2 },
    ?_, ⟨_, tget_tput_same _ _ _, rfl⟩, fun v hv => (hk v).trans (keptAt_tput_ne hv _ _)⟩
  simp only [seat]
  rw [State.modCtx_of _ (c := { c with vcs := tab }) (by exact ht), State.ctx?_putCtx]

/-- Seats with different virtual cores leave each other's. -/
theorem seats_ctx {k : Nat} (vcs : Tab Vcore) {placed : List (Place × Nat × Bool)} (nodup : (placed.map (fun d => d.1.vc)).Nodup)
    {s : State} {c : Ctx} (hc : s.ctx? k = some c) :
    let t := placed.foldl (fun u d => seat k u d (tgetD vcs d.1.vc {})) s
    t.host = s.host ∧ t.mem = s.mem ∧
    ∃ tab, t.ctx? k = some { c with vcs := tab } ∧ (∀ d ∈ placed, SeatedAt tab (tgetD vcs d.1.vc {}) d) ∧
      ∀ v ∉ placed.map (fun d => d.1.vc), KeptAt v c.vcs tab := by
  induction placed generalizing s c with
  | nil => exact ⟨rfl, rfl, c.vcs, hc, by simp, fun v _ => .refl v _⟩
  | cons d placed ih =>
    obtain ⟨fresh, nodup⟩ := List.nodup_cons.mp nodup
    obtain ⟨hh, hm, tab, ht, hd, hk⟩ := seat_ctx hc d (tgetD vcs d.1.vc {})
    obtain ⟨hh', hm', tab', ht', hd', hk'⟩ := ih nodup ht
    refine ⟨hh'.trans hh, hm'.trans hm, tab', ht', ?_, fun v hv => ?_⟩
    · rintro d' (_ | ⟨_, hmem⟩)
      · exact hd.kept (hk' _ fresh)
      · exact hd' _ hmem
    · exact (hk v (List.ne_of_not_mem_cons hv)).trans (hk' v (List.not_mem_of_not_mem_cons hv))

/-- What is placed is what was to be placed, in its order. -/
theorem placeAll_places {t : Site} {reload : Bool} {ps : List Place} {done placed : List (Place × Nat × Bool)}
    (h : placeAll t reload ps done = some placed) : placed.map Prod.fst = done.map Prod.fst ++ ps := by
  induction ps generalizing done with
  | nil => simp_all [placeAll]
  | cons p ps ih =>
    obtain ⟨n, -, hn⟩ := List.exists_of_findSome?_eq_some h
    obtain ⟨b, -, hb⟩ := List.exists_of_findSome?_eq_some hn
    split at hb
    · simpa using ih hb
    · cases hb

theorem OnlyMem.ctxs_eq {s t : State} (h : OnlyMem s t) : t.ctxs = s.ctxs := by rw [h]

theorem OnlyMem.host_eq {s t : State} (h : OnlyMem s t) : t.host = s.host := by rw [h]

/-- From `s` to `t` nothing changes but the memory system, and there no byte. -/
def BytesStay (s t : State) : Prop := OnlyMem s t ∧ t.mem.bytes = s.mem.bytes

theorem bytesStay_putEntry {s t : State} (h : BytesStay s t) (r : Nat) (e : Word64) : BytesStay s (putEntry t r e) :=
  ⟨h.1.trans (putEntry_onlyMem t r e), h.2⟩

/-- The MAPS counts of regions are no part of the bytes of device memory. -/
theorem bytesStay_addMaps (s : State) (rs : List (Nat × Nat)) (up : Bool) : BytesStay s (addMaps s rs up) :=
  foldl_any (P := BytesStay s) ⟨.refl s, rfl⟩ fun _ _ ht => foldl_any (P := BytesStay s) ht fun _ _ hu => bytesStay_putEntry hu _ _

/-! ### Creating a context (R385) -/

/-- The clusters that a command names: those of its partition where it names none. -/
def chosenClusters (s : State) (q : Create) : Nat := if q.clusters = 0 then (clusterSet s q.part).toNat else q.clusters

/-- A command to create a context from host memory whose parameters are in range, in a power state that takes it (R385). -/
structure Create.Admitted (s : State) (q : Create) : Prop where
  power : s.pwr.st = .run ∨ s.pwr.st = .idle
  patch : q.patchBase % 16384 = 0
  slots : q.patchN ≠ 0
  maps : q.mapN ≤ 4096
  fromHost : q.fromDa = false
  clusters : ∀ j < 32, bit (chosenClusters s q) j = true → bit (clusterSet s q.part).toNat j = true

/-- The regions that a command lists are its partition's own (R385). -/
def Create.MapsOwn (s : State) (q : Create) : Prop :=
  ∀ g ∈ mapList s q, g < 524288 ∧ reValid (entry s g) = true ∧ reOwner (entry s g) = q.part

/-- Where the virtual cores of an image may be placed once it joins the routines that are resident (R249). -/
def siteFor (s s1 : State) (q : Create) (m : Image) : Site :=
  { s := s1, bodies := m.routines.foldl (fun t r => tput t r.1 r.2) (s.part q.part).routines,
    cores := (List.range 256).filter (fun c => bit (chosenClusters s q) (c / 8) && !(s1.map c).quar) }

/-- The virtual cores to place, with the code that the image gives them. -/
def placesOf (t : Site) (m : Image) (vcs : Tab Vcore) : List Place :=
  vcs.map (fun x => ⟨x.1, x.2.winSize, tgetD m.code x.1 [], callable t.bodies (tgetD m.code x.1 [])⟩)

/-- The context that a command creates, before its virtual cores are seated. -/
def newCtx (s : State) (q : Create) (m : Image) : Ctx :=
  { part := q.part, st := if q.start then .running else .loaded, job := BitVec.ofNat 16 q.job, image := m, patchBase := q.patchBase,
    patchN := q.patchN, clusters := BitVec.ofNat 32 (chosenClusters s q), regions := (mapList s q).map (fun r => (r, 1)), rcv := false }

/-- The state with a new context in it: its regions are mapped and its routines loaded. -/
def opened (t : Site) (k : Nat) (c : Ctx) : State :=
  (addMaps (t.s.putCtx k c) c.regions true).modPart c.part (fun p => { p with routines := t.bodies })

/-- The state once the virtual cores of a new context stand on the cores and banks that were chosen. -/
def seated (t : Site) (k : Nat) (c : Ctx) (vcs : Tab Vcore) (placed : List (Place × Nat × Bool)) : State :=
  placed.foldl (fun u d => seat k u d (tgetD vcs d.1.vc {})) (opened t k c)

/-- The state once the virtual cores beside those of a new context have taken up the banks that were written again. -/
def settled (t : Site) (k : Nat) (c : Ctx) (vcs : Tab Vcore) (placed : List (Place × Nat × Bool)) : State :=
  ((placed.map (fun d => d.2)).eraseDups).foldl (reloadSwap t placed) (seated t k c vcs placed)

theorem opened_ctx (t : Site) (k : Nat) (c : Ctx) :
    (opened t k c).host = t.s.host ∧ (opened t k c).mem.bytes = t.s.mem.bytes ∧ (opened t k c).ctx? k = some c := by
  obtain ⟨only, hb⟩ := bytesStay_addMaps (t.s.putCtx k c) c.regions true
  refine ⟨only.host_eq, hb, ?_⟩
  rw [State.ctx?, opened, State.modPart_ctxs, only.ctxs_eq, ← State.ctx?, State.ctx?_putCtx]

theorem windowsMove_settled (t : Site) (k : Nat) (c : Ctx) (vcs : Tab Vcore) (placed : List (Place × Nat × Bool)) :
    WindowsMove (seated t k c vcs placed) (settled t k c vcs placed) :=
  foldl_any (P := WindowsMove (seated t k c vcs placed)) (.refl _) fun u d hu => hu.trans (windowsMove_reloadSwap t placed u d)

/-- A new context has its virtual cores where they were placed; the host interface and the bytes of device memory stay. -/
theorem settled_ctx (t : Site) (k : Nat) (c : Ctx) (vcs : Tab Vcore) {placed : List (Place × Nat × Bool)}
    (nodup : (placed.map (fun d => d.1.vc)).Nodup) :
    (settled t k c vcs placed).host = t.s.host ∧ (settled t k c vcs placed).mem.bytes = t.s.mem.bytes ∧
    ∃ tab, (settled t k c vcs placed).ctx? k = some { c with vcs := tab } ∧ ∀ d ∈ placed, SeatedAt tab (tgetD vcs d.1.vc {}) d := by
  obtain ⟨host, bytes, ctx⟩ := opened_ctx t k c
  obtain ⟨host', mem', tab, ctx', seats, -⟩ := seats_ctx vcs nodup ctx
  have moved := windowsMove_settled t k c vcs placed
  obtain ⟨tab', ctx'', kept⟩ := moved.ctx ctx'
  exact ⟨moved.host.trans (host'.trans host), (congrArg MemSys.bytes (moved.mem.trans mem')).trans bytes, tab', ctx'',
    fun d hd => (seats d hd).kept (kept _)⟩

/-- No deep-tier region is needed where none is asked for. -/
theorem freeDeep_zero (t : Tab Word64) (fuel r : Nat) : freeDeep t fuel 0 r = some [] := by
  cases fuel <;> rfl

section MakeCtx
variable {s s1 : State} {q : Create} {restore rcv : Bool} {state : State → Image → Except Ans (State × Tab Vcore)} {p : Parsed}
  (ha : q.Admitted s)

include ha

theorem Create.Admitted.powered : (s.pwr.st != .run && s.pwr.st != .idle) = false := by
  rcases ha.power with h | h <;> simp [h]

theorem Create.Admitted.inRange : ¬ (q.patchBase % 16384 ≠ 0 ∨ q.patchN = 0 ∨ 4096 < q.mapN ∨
    !(setOf (if q.clusters = 0 then (clusterSet s q.part).toNat else q.clusters)).all (bit (clusterSet s q.part).toNat)) := by
  have inside := setOf_all.mpr ha.clusters
  rw [chosenClusters] at inside
  simp [ha.patch, ha.slots, ha.maps, inside]

theorem Create.Admitted.imageBytes : imageBytes s q = .ok (s, hostBytes s q.addr q.size) := by
  simp [Machine.imageBytes, ha.fromHost]

/-- An image that fails the checks of R253 is refused. -/
theorem makeCtx_of_badImage (hp : parseImage (hostBytes s q.addr q.size) = none) :
    makeCtx s q restore rcv state = progRefuse s q.part 0x7001 := by
  rw [makeCtx, ha.powered, if_neg Bool.false_ne_true, if_neg ha.inRange, ha.imageBytes]
  simp only [hp]

/-- An image whose routines cannot join those that are resident is refused (R246). -/
theorem makeCtx_of_routinesClash (hp : parseImage (hostBytes s q.addr q.size) = some p)
    (hr : routinesJoin p (s.part q.part).routines = false) :
    makeCtx s q restore rcv state = progRefuse s q.part 0x7007 := by
  rw [makeCtx, ha.powered, if_neg Bool.false_ne_true, if_neg ha.inRange, ha.imageBytes]
  simp [hp, hr]

variable (hp : parseImage (hostBytes s q.addr q.size) = some p) (hr : routinesJoin p (s.part q.part).routines = true)

include hp hr

/-- An image that fails translation is refused (R254). -/
theorem makeCtx_of_untranslated (ht : translates p (loadImage p) (s.part q.part).routines = false) :
    makeCtx s q restore rcv state = progRefuse s q.part 0x7002 := by
  rw [makeCtx, ha.powered, if_neg Bool.false_ne_true, if_neg ha.inRange, ha.imageBytes]
  simp [hp, hr, ht]

/-- An image that passes the checks and finds a place becomes a context, here without recovery saves. -/
theorem makeCtx_placed (ht : translates p (loadImage p) (s.part q.part).routines = true) (hm : q.MapsOwn s) {vcs : Tab Vcore}
    (hs : state s (loadImage p) = .ok (s1, vcs)) {placed : List (Place × Nat × Bool)} {k : Nat}
    (hpl : placeAll (siteFor s s1 q (loadImage p)) false (placesOf (siteFor s s1 q (loadImage p)) (loadImage p) vcs) [] = some placed)
    (hk : freeCtx s1 = some k) :
    makeCtx s q restore false state = ok (settled (siteFor s s1 q (loadImage p)) k (newCtx s q (loadImage p)) vcs placed) k := by
  have own : (mapList s q).all (fun r => r < 524288 && reValid (entry s r) && reOwner (entry s r) == q.part) = true := by
    simpa [Create.MapsOwn, and_assoc] using hm
  simp only [siteFor, placesOf, chosenClusters] at hpl
  rw [makeCtx, ha.powered, if_neg Bool.false_ne_true, if_neg ha.inRange, ha.imageBytes]
  simp only [hp, hr, ht, own, hs, hpl, hk, freeDeep_zero, Bool.not_true, Bool.false_eq_true, if_false]
  rfl

end MakeCtx

/-! ### What CTX_CREATE and CTX_RESTORE make of an image (R239, R258) -/

/-- The virtual cores that an answer lists, where it is no refusal. -/
def KeysAre (ks : List Nat) (a : Except Ans (State × Tab Vcore)) : Prop := ∀ y, a = .ok y → y.2.map Prod.fst = ks

theorem KeysAre.error {ks : List Nat} {x : Ans} : KeysAre ks (.error x) := by simp [KeysAre]

theorem KeysAre.ok {ks : List Nat} {s : State} {t : Tab Vcore} (h : t.map Prod.fst = ks) : KeysAre ks (.ok (s, t)) := by
  rintro _ ⟨⟩
  exact h

theorem KeysAre.foldl {f : Except Ans (State × Tab Vcore) → Nat → Except Ans (State × Tab Vcore)}
    (hf : ∀ ks a v, KeysAre ks a → KeysAre (ks ++ [v]) (f a v)) (l : List Nat) {ks : List Nat} {a : Except Ans (State × Tab Vcore)}
    (h : KeysAre ks a) : KeysAre (ks ++ l) (l.foldl f a) := by
  induction l generalizing ks a with
  | nil => simpa using h
  | cons v l ih => simpa using ih (hf ks a v h)

/-- The saves that are loaded are those of the image's virtual cores, in their order (R257). -/
theorem keysAre_loadSaves (n base : Nat) (s : State) (m : Image) : KeysAre (List.range m.nvc) (loadSaves n base s m) := by
  unfold loadSaves
  -- Which accesses are refused plays no part: left in place, `accessRefusal` would be evaluated at every `have` that goes.
  obtain ⟨refusal, hrefusal⟩ : ∃ f, f = accessRefusal := ⟨_, rfl⟩
  rw [← hrefusal]
  dsimp only
  split
  · exact .error
  refine iteInduction (fun _ => .error) (fun _ => ?_)
  refine KeysAre.foldl (ks := []) (fun ks a v h => ?_) _ (.ok rfl)
  split
  · exact .error
  next t saved =>
    have keys : saved.map Prod.fst = ks := h _ rfl
    split
    · exact .error
    refine iteInduction (fun _ => .error) (fun _ => iteInduction (fun _ => .error) (fun _ => ?_))
    split
    · exact .error
    exact iteInduction (fun _ => .error) (fun _ => .ok (by simp [keys]))

/-- What a command creates: context `k`, as the command and the image say, with its virtual cores where they were placed. -/
theorem makeCtx_creates {s s1 : State} {q : Create} {restore : Bool} {state : State → Image → Except Ans (State × Tab Vcore)} {p : Parsed}
    {vcs : Tab Vcore} {placed : List (Place × Nat × Bool)} {k : Nat}
    (ha : q.Admitted s) (hp : parseImage (hostBytes s q.addr q.size) = some p) (hr : routinesJoin p (s.part q.part).routines = true)
    (ht : translates p (loadImage p) (s.part q.part).routines = true) (hm : q.MapsOwn s)
    (hs : state s (loadImage p) = .ok (s1, vcs)) (keys : vcs.map Prod.fst = List.range (loadImage p).nvc)
    (hpl : placeAll (siteFor s s1 q (loadImage p)) false (placesOf (siteFor s s1 q (loadImage p)) (loadImage p) vcs) [] = some placed)
    (hk : freeCtx s1 = some k) :
    ∃ t tab, makeCtx s q restore false state = ok t k ∧ t.host = s1.host ∧ t.mem.bytes = s1.mem.bytes ∧
      t.ctx? k = some { newCtx s q (loadImage p) with vcs := tab } ∧
      ∀ d ∈ placed, d.1.vc < (loadImage p).nvc ∧ SeatedAt tab (tgetD vcs d.1.vc {}) d := by
  have numbers : placed.map (fun d => d.1.vc) = List.range (loadImage p).nvc := by
    have places := congrArg (List.map Place.vc) (placeAll_places hpl)
    rw [← keys]
    simpa [placesOf, Function.comp_def] using places
  obtain ⟨host, bytes, tab, ctx, seats⟩ := settled_ctx (siteFor s s1 q (loadImage p)) k (newCtx s q (loadImage p)) vcs
    (numbers ▸ List.nodup_range)
  refine ⟨_, tab, makeCtx_placed ha hp hr ht hm hs hpl hk, host, bytes, ctx, fun d hd => ⟨?_, seats d hd⟩⟩
  have := List.mem_map_of_mem (f := fun d : Place × Nat × Bool => d.1.vc) hd
  rwa [numbers, List.mem_range] at this

/-- The lowest free context id names no context (R28, log 10). -/
theorem ctx?_of_freeCtx {s : State} {k : Nat} (h : freeCtx s = some k) : s.ctx? k = none := by
  have free := List.find?_some h
  simp only [Bool.and_eq_true, Option.isNone_iff_eq_none] at free
  exact free.1

/-- The virtual cores of an image as CTX_CREATE makes them. -/
def freshVcs (m : Image) (seed : Word64) : Tab Vcore := (List.range m.nvc).map (fun v => (v, freshVc m v seed))

theorem freshVcs_keys (m : Image) (seed : Word64) : (freshVcs m seed).map Prod.fst = List.range m.nvc := by
  simp [freshVcs, Function.comp_def]

theorem tget_map_keys {α : Type} (f : Nat → α) {l : List Nat} {v : Nat} (h : v ∈ l) : tget (l.map (fun v => (v, f v))) v = some (f v) := by
  induction l with
  | nil => cases h
  | cons w l ih =>
    by_cases hw : w = v
    · simp [tget, hw]
    · simpa [tget, hw] using ih (List.mem_of_ne_of_mem (Ne.symm hw) h)

theorem tgetD_freshVcs {m : Image} {v : Nat} (h : v < m.nvc) (seed : Word64) : tgetD (freshVcs m seed) v {} = freshVc m v seed := by
  rw [tgetD, freshVcs, tget_map_keys _ (List.mem_range.mpr h)]
  rfl

theorem placesOf_freshVcs (t : Site) (m : Image) (seed : Word64) :
    placesOf t m (freshVcs m seed) =
      (List.range m.nvc).map (fun v => ⟨v, tgetD m.window v 0, tgetD m.code v [], callable t.bodies (tgetD m.code v [])⟩) := by
  simp [placesOf, freshVcs, freshVc]

section Answers
variable {s t r : State} {o : Origin} {e : Entry} {n st res : Nat} {q : Create}
  (hr : r = setRunning s o) (hn : n = targetPart o e) (hq : q = createOf e n)

include hr hn hq

theorem exec_ctxCreate_of_made (h : CmdRuns s cmdCtxCreate o e)
    (hm : makeCtx r q false ((r.part n).sn.rcvCtl.getLsbD 0) (fun s m => .ok (s, freshVcs m (BitVec.ofNat 64 (fld e 391 328)))) =
      (t, some (st, res))) :
    exec (.ctxCreate o e) s = .next (finish t o st res) := by
  subst hr hn hq
  exact next_of_answer h hm

theorem exec_ctxRestore_of_made (h : CmdRuns s cmdCtxRestore o e) (aligned : fld e 375 328 % 65536 = 0)
    (hm : makeCtx r q true ((r.part n).sn.rcvCtl.getLsbD 0) (loadSaves n (fld e 375 328)) = (t, some (st, res))) :
    exec (.ctxRestore o e) s = .next (finish t o st res) := by
  subst hr hn hq
  exact next_of_answer h ((if_neg (not_not.mpr aligned)).trans hm)

end Answers

/-! ### Partition commands (R380) -/

section Partitions
variable {s : State} {o : Origin} {e : Entry} {n : Nat}

/-- The number of a partition that a command may create, resize or remove, and a set of clusters for it (R26, R380). -/
def PartInRange (e : Entry) : Prop := 1 ≤ fld e 69 64 ∧ fld e 69 64 ≤ 32 ∧ fld e 127 96 ≠ 0

theorem PartInRange.not_bad (h : PartInRange e) : ¬ (fld e 69 64 = 0 ∨ 32 < fld e 69 64 ∨ fld e 127 96 = 0) := by
  obtain ⟨hl, hu, hm⟩ := h
  omega

theorem cmdPartCreate_of_exists (h : PartInRange e) (he : (s.part (fld e 69 64)).exist = true) :
    cmdPartCreate.body s o e n = bad s 7 := by
  simp only [cmdPartCreate, if_neg h.not_bad, he, if_true]

theorem cmdPartCreate_of_free (h : PartInRange e) (he : (s.part (fld e 69 64)).exist = false)
    (hf : ∀ j < 32, bit (fld e 127 96) j = true → holdsCluster s 0 j = true ∧ clusterUsed s j = false) :
    cmdPartCreate.body s o e n =
      ok (partEvent (s.modPart (fld e 69 64) (fun p => { p with exist := true, clusters := BitVec.ofNat 32 (fld e 127 96) })) e) 0 := by
  have free : (setOf (fld e 127 96)).all (fun k => holdsCluster s 0 k && !clusterUsed s k) = true := setOf_all.mpr (by simpa using hf)
  simp only [cmdPartCreate, if_neg h.not_bad, he, free, if_true, Bool.false_eq_true, if_false]

theorem cmdPartCreate_of_taken (h : PartInRange e) (he : (s.part (fld e 69 64)).exist = false)
    (hf : ∃ j < 32, bit (fld e 127 96) j = true ∧ (holdsCluster s 0 j = false ∨ clusterUsed s j = true)) :
    cmdPartCreate.body s o e n = bad s 4 := by
  have taken : ¬ (setOf (fld e 127 96)).all (fun k => holdsCluster s 0 k && !clusterUsed s k) = true := by
    obtain ⟨j, hj, hb, hu⟩ := hf
    intro all
    have := setOf_all.mp all j hj hb
    rcases hu with hu | hu <;> simp [hu] at this
  simp only [cmdPartCreate, if_neg h.not_bad, he, if_neg taken, Bool.false_eq_true, if_false]

/-- A cluster that a resize of partition `n` to the set `m` leaves, or moves between the partition and partition 0 while it holds no
context (R380). -/
def mayMove (s : State) (n m k : Nat) : Bool :=
  if holdsCluster s n k == bit m k then true else (holdsCluster s n k || holdsCluster s 0 k) && !clusterUsed s k

theorem cmdPartResize_of_exists (h : PartInRange e) (he : (s.part (fld e 69 64)).exist = true) :
    cmdPartResize.body s o e n =
      if (List.range 32).all (mayMove s (fld e 69 64) (fld e 127 96)) then
        ok (partEvent (s.modPart (fld e 69 64) (fun p => { p with clusters := BitVec.ofNat 32 (fld e 127 96) })) e) 0
      else bad s 4 := by
  simp only [cmdPartResize, if_neg h.not_bad, he, Bool.not_true, Bool.false_eq_true, if_false]
  rfl

theorem all_mayMove {k m : Nat} (hf : ∀ j < 32, holdsCluster s k j = bit m j ∨
    (holdsCluster s k j || holdsCluster s 0 j) = true ∧ clusterUsed s j = false) : (List.range 32).all (mayMove s k m) = true := by
  simp only [List.all_eq_true, List.mem_range]
  intro j hj
  rcases hf j hj with same | ⟨reach, unused⟩
  · simp [mayMove, same]
  · simp [mayMove, reach, unused]

theorem not_all_mayMove {k m : Nat} (hf : ∃ j < 32, holdsCluster s k j ≠ bit m j ∧ clusterUsed s j = true) :
    ¬ (List.range 32).all (mayMove s k m) = true := by
  obtain ⟨j, hj, changed, used⟩ := hf
  intro all
  have := List.all_eq_true.mp all j (List.mem_range.mpr hj)
  simp [mayMove, changed, used] at this

theorem cmdPartRemove_of_busy (hl : 1 ≤ fld e 69 64) (hu : fld e 69 64 ≤ 32) (he : (s.part (fld e 69 64)).exist = true)
    (hb : ownsRegion s (fld e 69 64) = true ∨ partCtxs s (fld e 69 64) ≠ []) : cmdPartRemove.body s o e n = bad s 4 := by
  have inRange : ¬ (fld e 69 64 = 0 ∨ 32 < fld e 69 64) := by omega
  have busy : (ownsRegion s (fld e 69 64) || !(partCtxs s (fld e 69 64)).isEmpty || (s.part (fld e 69 64)).swap.isSome) = true := by
    rcases hb with hb | hb <;> simp [hb]
  simp only [cmdPartRemove, if_neg inRange, he, busy, if_true, Bool.not_true, Bool.false_eq_true, if_false]

/-- The state without a partition: its registers at their reset values, its Pantry share and its groups gone (R380, log 10). -/
def withoutPart (s : State) (k : Nat) : State :=
  (pantryTrim ((s.modPart k (fun _ => {})).modMem (fun m => { m with share := tdel m.share k }))).modFab
    (fun f => { f with groups := f.groups.filter (fun g => g.2.owner != k) })

theorem part_withoutPart_same (s : State) (k : Nat) : (withoutPart s k).part k = {} := s.part_modPart k (fun _ => {})

theorem part_withoutPart_ne (s : State) {k q : Nat} (h : q ≠ k) : (withoutPart s k).part q = s.part q := s.part_modPart_ne (fun _ => {}) h

theorem cmdPartRemove_of_idle (hl : 1 ≤ fld e 69 64) (hu : fld e 69 64 ≤ 32) (he : (s.part (fld e 69 64)).exist = true)
    (hr : ownsRegion s (fld e 69 64) = false) (hc : partCtxs s (fld e 69 64) = []) (hs : (s.part (fld e 69 64)).swap = none) :
    cmdPartRemove.body s o e n = ok (partEvent (withoutPart s (fld e 69 64)) e) 0 := by
  have inRange : ¬ (fld e 69 64 = 0 ∨ 32 < fld e 69 64) := by omega
  simp only [cmdPartRemove, if_neg inRange, he, hr, hc, hs]
  rfl

end Partitions

/-! ### Firmware images (R387 to R390) -/

section Firmware
variable {s : State} {src : Origin} {off : Nat} {bs : List Byte}

/-- The first chunk opens the session and marks the slot that does not run empty (R389). -/
theorem stageChunk_first (h : s.mgmt.staging = none) :
    stageChunk s src off bs false = (s.modMgmt (fun q => { q with
      imgA := if q.slot then .empty else q.imgA, imgB := if q.slot then q.imgB else .empty, staging := some (src, memPutAll [] off bs) }), 0) := by
  cases hs : s.mgmt.slot <;> simp [stageChunk, h, setIdleSlot, State.modMgmt, hs]

/-- A later chunk of the session's source joins those before it (R389). -/
theorem stageChunk_next {cells : List Host.Cell} (h : s.mgmt.staging = some (src, cells)) :
    stageChunk s src off bs false = (s.modMgmt (fun q => { q with staging := some (src, memPutAll cells off bs) }), 0) := by
  simp [stageChunk, h]

/-- A session belongs to its source (R389). -/
theorem stageChunk_other {p : Origin × List Host.Cell} (h : s.mgmt.staging = some p) (hp : p.1 ≠ src) (last : Bool) :
    stageChunk s src off bs last = (s, 4) := by
  simp [stageChunk, h, hp]

section Last
variable {cells : List Host.Cell} (h : s.mgmt.staging = some (src, cells))

include h

theorem stageChunk_bad (hv : Config.imageVerifies (stagedBytes (memPutAll cells off bs)) = false) :
    stageChunk s src off bs true = (s.modMgmt (fun q => { q with staging := none }), 0x0D) := by
  simp [stageChunk, h, hv]

theorem stageChunk_old (hv : Config.imageVerifies (stagedBytes (memPutAll cells off bs)) = true)
    (hn : Config.imageSvn (stagedBytes (memPutAll cells off bs)) < s.mgmt.minSvn) :
    stageChunk s src off bs true = (s.modMgmt (fun q => { q with staging := none }), 0x0F) := by
  simp [stageChunk, h, hv, hn]

/-- An image that verifies and is not older than the module allows fills the slot that does not run (R389). -/
theorem stageChunk_verified (hv : Config.imageVerifies (stagedBytes (memPutAll cells off bs)) = true)
    (hn : s.mgmt.minSvn ≤ Config.imageSvn (stagedBytes (memPutAll cells off bs))) :
    stageChunk s src off bs true = (raiseDev (s.modMgmt (fun q => { q with
      staging := none, imgA := if q.slot then .staged (stagedBytes (memPutAll cells off bs)) else q.imgA,
      imgB := if q.slot then q.imgB else .staged (stagedBytes (memPutAll cells off bs)) })) 0x6401 0, 0) := by
  cases hs : s.mgmt.slot <;> simp [stageChunk, h, hv, hn, setIdleSlot, State.modMgmt, hs]

end Last

/-- FW_STAGE answers as its chunk does, where that is aligned, or the last, and within the slot (R387, R389). -/
theorem cmdFwStage_of_inRange {o : Origin} {e : Entry} {n : Nat} (hb : fld e 191 160 + fld e 159 128 ≤ 25165824)
    (ha : bit e.toNat 192 = true ∨ fld e 159 128 % 4096 = 0) {t : State} {st : Nat}
    (hc : stageChunk s (sourceOf o) (fld e 191 160) (memBytes s.host.bytes (fld e 127 64) (fld e 159 128)) (bit e.toNat 192) = (t, st)) :
    cmdFwStage.body s o e n = (t, some (st, 0)) := by
  have inSlot : ¬ imageSlotBytes < fld e 191 160 + fld e 159 128 := Nat.not_lt.mpr hb
  have inRange : ((!bit e.toNat 192 && fld e 159 128 % 4096 != 0) || decide (imageSlotBytes < fld e 191 160 + fld e 159 128)) = false := by
    rcases ha with ha | ha <;> simp [ha, inSlot]
  simp only [cmdFwStage, inRange, Bool.false_eq_true, if_false, hostBytes, hc]

theorem activateLive_of_checked {img : List Byte} {o : Option Origin} (hi : slotImage s (!s.mgmt.slot) = some img)
    (hs : s.mgmt.standbyOk = true) (hc : Config.imageSelfCheck img = true) (ho : othersRun s o = false) :
    activateLive s o = (raiseDev (s.modMgmt (fun q => { q with
      slot := !q.slot, rmcore := !q.rmcore, fwver := Config.imageVersion img })) 0x6404 0, 0) := by
  simp [activateLive, hi, hs, hc, ho, State.modMgmt]

theorem activateLive_of_unchecked {img : List Byte} {o : Option Origin} (hi : slotImage s (!s.mgmt.slot) = some img)
    (hs : s.mgmt.standbyOk = true) (hc : Config.imageSelfCheck img = false) : activateLive s o = (raiseDev s 0x6402 0, 0x0D) := by
  simp [activateLive, hi, hs, hc]

end Firmware

/-! ### The statements -/

/-- Settles O51: the refusals of the image one by one, then what a placed image becomes, created afresh or from a save. -/
theorem contextsAreCreatedAndRestored : Obligations.ContextsAreCreatedAndRestored := by
  intro s r o e n ks q bs hr hn hq power patch slots maps fromHost hks clusters hbs
  obtain rfl : q.part = n := by rw [hq]; rfl
  subst hks hbs
  have ha : q.Admitted r := ⟨power, patch, slots, maps, fromHost, clusters⟩
  refine ⟨fun runs => ⟨?badImage, fun p hp => ⟨?routines, ?translation, ?created⟩⟩, ?restored⟩
  case badImage => exact fun hp => exec_ctxCreate_of_made hr hn hq runs (makeCtx_of_badImage ha hp)
  case routines => exact fun hj => exec_ctxCreate_of_made hr hn hq runs (makeCtx_of_routinesClash ha hp hj)
  case translation => exact fun hj ht => exec_ctxCreate_of_made hr hn hq runs (makeCtx_of_untranslated ha hp hj ht)
  case created =>
    intro ps placed k hj ht hm hps hpl hk noSaves
    rw [hps.trans (placesOf_freshVcs (siteFor r r q (loadImage p)) _ (BitVec.ofNat 64 (fld e 391 328))).symm] at hpl
    obtain ⟨t, tab, made, host, bytes, ctx, seats⟩ := makeCtx_creates (restore := false)
      (state := fun s m => .ok (s, freshVcs m (BitVec.ofNat 64 (fld e 391 328)))) ha hp hj ht hm rfl (freshVcs_keys _ _) hpl hk
    refine ⟨t, _, exec_ctxCreate_of_made hr hn hq runs (noSaves ▸ made), ctx, ctx?_of_freeCtx hk, rfl, rfl, rfl, rfl, rfl, rfl, rfl,
      host, bytes, fun d hd => ?_⟩
    obtain ⟨inImage, y, hy, stays⟩ := seats d hd
    rw [tgetD_freshVcs inImage] at stays
    exact ⟨y, hy, stays.core_eq, stays.bank_eq, stays.waitPatch_eq, stays.p_eq, stays.win_eq⟩
  case restored =>
    intro runs aligned p r1 vcs ps placed k hp hj ht hm hs hps hpl hk noSaves
    subst hps
    obtain ⟨t, tab, made, -, -, ctx, seats⟩ := makeCtx_creates (restore := true) ha hp hj ht hm hs (keysAre_loadSaves _ _ _ _ _ hs) hpl hk
    refine ⟨t, _, exec_ctxRestore_of_made hr hn hq runs aligned (noSaves ▸ made), ctx, rfl, rfl, rfl, fun d hd => ?_⟩
    obtain ⟨-, y, hy, stays⟩ := seats d hd
    exact ⟨y, hy, stays.core_eq, stays.bank_eq, stays.p_eq, stays.win_eq, stays.lacc_eq, stays.replay_eq⟩

/-- Settles O47: the management, partition and configuration commands one by one, then those of firmware images. -/
theorem managementAndFirmwareCommands : Obligations.ManagementAndFirmwareCommands := by
  refine ⟨?management, ?firmware⟩
  case management =>
    rintro s r o e n k m rfl rfl rfl rfl
    refine ⟨fun h => next_of_answer h rfl, fun h => next_of_answer h rfl, ?create, ?resize, ?remove, ?query, ?swap,
      fun h => next_of_answer h rfl⟩
    case create =>
      intro h hl hu hm
      have inRange : PartInRange e := ⟨hl, hu, hm⟩
      refine ⟨fun he hf => (next_of_answer h (cmdPartCreate_of_free inRange he hf)).trans ?_,
        fun he => next_of_answer h (cmdPartCreate_of_exists inRange he), fun he hf => next_of_answer h (cmdPartCreate_of_taken inRange he hf)⟩
      rw [partEvent, opcode_of_runs h]
      rfl
    case resize =>
      intro h hl hu hm he
      have body := cmdPartResize_of_exists (o := o) (n := targetPart o e) ⟨hl, hu, hm⟩ he
      refine ⟨fun hf => (next_of_answer h (body.trans (if_pos (all_mayMove hf)))).trans ?_,
        fun hf => next_of_answer h (body.trans (if_neg (not_all_mayMove hf)))⟩
      rw [partEvent, opcode_of_runs h]
      rfl
    case remove =>
      intro h hl hu he
      refine ⟨fun hr hc hs => ⟨_, next_of_answer h (cmdPartRemove_of_idle hl hu he hr hc hs), ?_, fun q hq => ?_, rfl, rfl, rfl, rfl⟩,
        fun hb => next_of_answer h (cmdPartRemove_of_busy hl hu he hb)⟩
      · exact congrArg Part.exist (part_withoutPart_same _ _)
      · exact part_withoutPart_ne _ hq
    case query =>
      refine fun h => ⟨fun he => next_of_answer h ?_, fun he => next_of_answer h ?_⟩
      · simp [cmdPartQuery, ok, he]
      · simp [cmdPartQuery, ok, he]
    case swap =>
      refine fun h => ⟨fun hs hb => next_of_later h ?_, fun hs hb => next_of_answer h ?_, fun w hs => next_of_answer h ?_⟩
      · simp [cmdCfgSwap, later, hs, hb.not_gt]
      · simp [cmdCfgSwap, bad, hs, hb]
      · simp [cmdCfgSwap, bad, hs]
  case firmware =>
    rintro s r o e n off bs img rfl rfl rfl rfl
    refine ⟨?stage, ?activate, fun h => next_of_answer h rfl⟩
    case stage =>
      intro h hb
      refine ⟨fun hl ha hs => next_of_answer h (cmdFwStage_of_inRange hb (.inr ha) (hl ▸ stageChunk_first hs)),
        fun cells hl ha hs => next_of_answer h (cmdFwStage_of_inRange hb (.inr ha) (hl ▸ stageChunk_next hs)),
        fun p hs hp ha => next_of_answer h (cmdFwStage_of_inRange hb ha (stageChunk_other hs hp _)), fun cells hl hs hi => ?_⟩
      subst hi
      exact ⟨fun hv => next_of_answer h (cmdFwStage_of_inRange hb (.inl hl) (hl ▸ stageChunk_bad hs hv)),
        fun hv hn => next_of_answer h (cmdFwStage_of_inRange hb (.inl hl) (hl ▸ stageChunk_old hs hv hn)),
        fun hv hn => next_of_answer h (cmdFwStage_of_inRange hb (.inl hl) (hl ▸ stageChunk_verified hs hv hn))⟩
    case activate =>
      refine fun h => ⟨fun hl hs => next_of_answer h ?_, fun hl hs => next_of_answer h ?_, fun hl hi hs hc ho => next_of_answer h ?_,
        fun hl hi hs hc => next_of_answer h ?_⟩
      · simp [cmdFwActivate, ok, hl, slotGood, Option.isSome_iff_ne_none, hs]
      · simp [cmdFwActivate, bad, hl, slotGood, hs]
      · simp only [cmdFwActivate, hl, if_true, activateLive_of_checked hi hs hc ho]
      · simp only [cmdFwActivate, hl, if_true, activateLive_of_unchecked hi hs hc]

end Sys2Proof.Machine

namespace Sys2Proof.Machine

open Sys2Proof

/-! SUPPORT. What CONVERT, CVT and VWAIT answer once their control data and operands have been read, with the statement of the
number format family at the end. -/

/-! ### CONVERT (R93, R120, R137) -/

/-- CONVERT passes the exact values of a buffer whose groups have their verdicts, or zeros where it is empty, through its CVD. -/
theorem runConvert_of_pass {s s1 : State} {v : VRef} {x : Vcore} {n : Nat} {o : UOp} {c : BitVec 512} {dst : Opnd} {b : Lacc} {p : CvtOut}
    (ht : t3Barred s x o = false) (hc : readCvd x (arg2 o) = .ok c) (hk : checkCvd c true = .ok ())
    (hd : mkOpnd s n x (arg1 o) false o.ix (ixAxis o) = .ok dst) (hf : dst.fmtw = cvFmtw c) (hm : fmtwMxt (cvFmtw c) = 0)
    (hb : leavingBuf s n (enterLacc x o) o = .ok b) (hs : b.data = true → b.m = dst.rows ∧ b.n = dst.cols)
    (hp : passInto (putLacc s v (enterLacc x o)) v x n c dst
      (if b.data then bufferValues b else List.replicate dst.rows (List.replicate dst.cols (FV.num false Q.zero))) b.susp false =
        .ok (s1, p)) :
    runConvert s v x n o = .ok {
      st := cvtFlags s1 x.core v.ctx p.fl, d1 := some (bufTok (bufOf o)), outs := p.outs, feeds := p.feeds, groups := p.groups,
      hold := if c.getLsbD 46 then p.groups else [], susp := b.susp, resid := b.resid || o.resid,
      mism := recheck s x (enterLacc x o) (arrOf o) (bufOf o), aux := recBytes b ++ groupBytes s b.feeds,
      run := [v.vc, cvLayer c, dst.row0 / 128, dst.col0 / 128] } := by
  have shape : (!b.data || (b.m == dst.rows && b.n == dst.cols)) = true := by
    cases hdata : b.data
    · rfl
    · simp [hs hdata]
  simp [runConvert, ht, hc, hk, hd, hf, hm, hb, shape, hp]

/-! ### CVT (R62, R70, R71, R113) -/

/-- Where a rotation is asked for, the destination holds whole chunks of rotated columns, unless it ends its tensor's rows (R115). -/
abbrev RotationFits (c : BitVec 512) (dst : Opnd) : Prop :=
  cvRot c = 0 ∨ padCols dst % (8 * 2 ^ cvRot c) = 0 ∧ dst.col0 % (8 * 2 ^ cvRot c) = 0 ∧
    (dst.cols % (8 * 2 ^ cvRot c) = 0 ∨ dst.col0 + dst.cols = dst.tcols)

section Cvt
variable {s s1 : State} {v : VRef} {x : Vcore} {n : Nat} {o : UOp} {c : BitVec 512} {src dst : Opnd}
variable (hc : readCvd x (arg3 o) = .ok c) (hk : checkCvd c false = .ok ())
  (hsrc : mkOpnd s n x (arg1 o) false 0 false = .ok src) (hdst : mkOpnd s n x (arg2 o) false o.ix (ixAxis o) = .ok dst)
  (hf : dst.fmtw = cvFmtw c) (hr : src.rows = dst.rows) (hl : src.cols = dst.cols)
include hc hk hsrc hdst hf hr hl

/-- A format word with an MX type has CVT export or import the MX tensor, as its direction says (R70, R71). -/
theorem runCvt_of_mx {fl : Flags} (hm : fmtwMxt (cvFmtw c) ≠ 0) (hrot : cvRot c = 0)
    (hx : (if fmtwExport (cvFmtw c) then mxExportOp s v x n c src dst (rawSbase x (arg2 o))
      else mxImport s v x n c src dst (rawSbase x (arg1 o))) = .ok (s1, fl)) :
    runCvt s v x n o = .ok {
      st := cvtFlags s1 x.core v.ctx fl, d1 := some (dataTok (arg2 o)), outs := dst.outs, susp := o.susp, resid := o.resid } := by
  cases he : fmtwExport (cvFmtw c) with
  | false =>
    have imported : mxImport s v x n c src dst (rawSbase x (arg1 o)) = .ok (s1, fl) := by simpa [he] using hx
    simp [runCvt, hc, hk, hsrc, hdst, hf, hr, hl, hm, he, hrot, imported]
  | true =>
    have exported : mxExportOp s v x n c src dst (rawSbase x (arg2 o)) = .ok (s1, fl) := by simpa [he] using hx
    simp [runCvt, hc, hk, hsrc, hdst, hf, hr, hl, hm, he, hrot, exported]

/-- Without an MX type CVT passes the values of its source, rotated where its CVD asks for it, through the CVD (R113). -/
theorem runCvt_of_pass {nan : Bool} {p : CvtOut} (hm : fmtwMxt (cvFmtw c) = 0) (hdev : src.dev = false)
    (hn : src.narrow = true → dst.narrow = false ∧ cvRot c = 0) (hw : src.narrow = false → src.fmt = cvSfmt c)
    (hrot : RotationFits c dst) (hruns : checkRuns s n x false src.runs = .ok ())
    (hnan : consume (rdOf s x false) false src.runs = .ok nan)
    (hp : passInto s v x n c dst (((readMat (rdOf s x false) src).full.map (rotateRow c dst.col0)).map Prod.fst) o.susp nan =
      .ok (s1, p)) :
    runCvt s v x n o = .ok {
      st := cvtFlags s1 x.core v.ctx (p.fl |||
        orFlags (((readMat (rdOf s x false) src).full.map (rotateRow c dst.col0)).map Prod.snd) |||
        (readMat (rdOf s x false) src).flags ||| (if nan then fNV else 0#4)),
      d1 := some (dataTok (arg2 o)), outs := p.outs, feeds := p.feeds, groups := p.groups, susp := o.susp, resid := o.resid } := by
  have source : (if src.narrow then !dst.narrow && cvRot c == 0 else src.fmt == cvSfmt c) = true := by
    cases hsn : src.narrow
    · simp [hw hsn]
    · simp [hn hsn]
  have fits : (cvRot c == 0 || (padCols dst % (8 * 2 ^ cvRot c) == 0 && dst.col0 % (8 * 2 ^ cvRot c) == 0 &&
      (dst.cols % (8 * 2 ^ cvRot c) == 0 || dst.col0 + dst.cols == dst.tcols))) = true := by
    simpa [and_assoc] using hrot
  simp only [runCvt, hc, hk, hsrc, hdst, hf, hr, hl, hm, hdev, source, fits, hruns, hnan, hp, bne_self_eq_false, Bool.false_and,
    Bool.false_eq_true, if_false, Bool.not_false, beq_self_eq_true, Bool.and_self, need_true, Res.ok_bind, Res.pure_eq]

end Cvt

/-! ### VWAIT (R236) -/

/-- What VWAIT makes of the GSR record `g` under its CVD's STEP and ATTEMPT (R236). -/
def verdictAnswer (s : State) (c : BitVec 512) (g : Nat) : Res Ran :=
  if cvStep c * 65536 + cvAttempt c < bits g 63 0 * 65536 + bits g 79 64 then
    .ok { st := s, d1 := some { val := 512, kind := kVerdict } }
  else if bits g 63 0 * 65536 + bits g 79 64 = cvStep c * 65536 + cvAttempt c ∧ bit g 86 then
    .ok { st := s, d1 := some { kind := kVerdict, val := BitVec.ofNat 32 (
      bits g 89 87 + b2n (bit g 90) * 8 + bits g 82 80 * 16 + bits g 84 83 * 128) } }
  else .error .wait

/-- With its CVD and the GSR record read, VWAIT answers by the record's tag and verdict. -/
theorem runVwait_of_record {s : State} {v : VRef} {x : Vcore} {n ga g : Nat} {o : UOp} {c : BitVec 512}
    (hc : readCvd x (arg1 o) = .ok c) (ha : ga = cvGsr c + 64 * fld o.s2 31 0) (hk : checkRuns s n x true [(ga, 64)] = .ok ())
    (hg : readDevCtl (discoverRuns s (some v.ctx) true [(ga, 64)]) n x ga 64 = .ok g) :
    runVwait s v x n o = verdictAnswer (discoverRuns s (some v.ctx) true [(ga, 64)]) c g := by
  subst ha
  simp only [runVwait, hc, hk, hg, Res.ok_bind]
  rfl

section Verdict
variable {s : State} {c : BitVec 512} {g : Nat}

/-- A record with a later tag answers 512. -/
theorem verdictAnswer_of_later (h : cvStep c * 65536 + cvAttempt c < bits g 63 0 * 65536 + bits g 79 64) :
    verdictAnswer s c g = .ok { st := s, d1 := some { val := 512, kind := kVerdict } } := if_pos h

/-- A final verdict under the CVD's own tag is answered. -/
theorem verdictAnswer_of_final (hs : bits g 63 0 = cvStep c) (ha : bits g 79 64 = cvAttempt c) (hf : bit g 86 = true) :
    verdictAnswer s c g = .ok { st := s, d1 := some { kind := kVerdict, val := BitVec.ofNat 32 (
      bits g 89 87 + b2n (bit g 90) * 8 + bits g 82 80 * 16 + bits g 84 83 * 128) } } := by
  simp [verdictAnswer, hs, ha, hf]

/-- A verdict that is not final yet is waited for. -/
theorem verdictAnswer_of_open (hs : bits g 63 0 = cvStep c) (ha : bits g 79 64 = cvAttempt c) (hf : bit g 86 = false) :
    verdictAnswer s c g = .error .wait := by
  simp [verdictAnswer, hs, ha, hf]

/-- A record with an earlier tag is waited on. -/
theorem verdictAnswer_of_earlier (h : bits g 63 0 * 65536 + bits g 79 64 < cvStep c * 65536 + cvAttempt c) :
    verdictAnswer s c g = .error .wait := by
  simp [verdictAnswer, h.not_gt, h.ne]

end Verdict

/-! ### The statement -/

/-- Settles O17: each run is worked out from what has been read, and a started operation lands what its run answers. -/
theorem conversionAndVerdictWait : Obligations.ConversionAndVerdictWait := by
  refine ⟨fun s v x o n c dst hn hf => ⟨?convert, ?cvt⟩, ?vwait⟩
  case convert =>
    rintro l0 b vals s1 p h ht hc hk hd hm rfl hb hs rfl hp hr
    subst hn
    have run := runConvert_of_pass (x := unitView x o) ht hc hk hd hf hm hb hs hp
    exact congrArg Host.Outcome.next (perform_ok h hr run :)
  case cvt =>
    intro src h hc hk hsrc hdst hr hl
    subst hn
    refine ⟨fun s1 fl hm hrot hx => ?mx, ?pass⟩
    case mx => exact congrArg Host.Outcome.next (perform_ok h rfl (runCvt_of_mx hc hk hsrc hdst hf hr hl hm hrot hx))
    case pass =>
      rintro nan m rot s1 p hm hdev hnarrow hwide hrot hruns hnan rfl rfl hp
      exact congrArg Host.Outcome.next
        (perform_ok h rfl (runCvt_of_pass hc hk hsrc hdst hf hr hl hm hdev hnarrow hwide hrot hruns hnan hp))
  case vwait =>
    rintro s s1 v x o n ga g c h rfl hc ha hk rfl hg
    have run := runVwait_of_record hc ha hk hg
    refine ⟨fun later => ?_, fun hs hat hfin => ?_, fun hs hat hfin => ?_, fun earlier => ?_⟩
    · exact congrArg Host.Outcome.next (perform_ok h rfl (run.trans (verdictAnswer_of_later later)))
    · exact congrArg Host.Outcome.next (perform_ok h rfl (run.trans (verdictAnswer_of_final hs hat hfin)))
    · exact congrArg Host.Outcome.next (perform_wait h (run.trans (verdictAnswer_of_open hs hat hfin)))
    · exact congrArg Host.Outcome.next (perform_wait h (run.trans (verdictAnswer_of_earlier earlier)))

end Sys2Proof.Machine

namespace Sys2Proof.Machine

open Sys2Proof

/-! SUPPORT. The sums, records and counts of the arrays' buffers, what the array and DMA operations answer once their operands have
been read, and what becomes of mismatches, checks and stalls, with the statements of the matrix engine family. -/

/-! ### Two's complement and the sums of a buffer's elements (R83, R87, R89) -/

/-- An integer that fits `w` bits is read back from its code. -/
theorem toSigned_ofSigned {w : Nat} (hw : 0 < w) {k : Int} (hl : -(2 : Int) ^ (w - 1) ≤ k) (hu : k < 2 ^ (w - 1)) :
    toSigned w (ofSigned w k) = k := by
  obtain ⟨n, rfl⟩ := Nat.exists_eq_succ_of_ne_zero hw.ne'
  simp only [Nat.succ_eq_add_one, Nat.add_sub_cancel] at hl hu
  have double : (2 : Int) ^ (n + 1) = 2 * 2 ^ n := by rw [pow_succ]; ring
  have half : ((2 ^ n : Nat) : Int) = 2 ^ n := by push_cast; rfl
  simp only [toSigned, ofSigned, Nat.succ_eq_add_one, Nat.add_sub_cancel]
  rcases lt_or_ge k 0 with neg | pos
  · have code : k % 2 ^ (n + 1) = k + 2 ^ (n + 1) := by
      rw [← Int.add_emod_right, Int.emod_eq_of_lt (by omega) (by omega)]
    rw [code, if_neg (by omega)]
    omega
  · have code : k % 2 ^ (n + 1) = k := Int.emod_eq_of_lt pos (by omega)
    rw [code, if_pos (by omega)]
    omega

/-- An element of a buffer has bits (R81). -/
theorem elemBits_pos (paired : Bool) : 0 < 8 * elemBytes paired := by cases paired <;> decide

/-- Two elements whose sum fits add exactly (R83). -/
theorem addElem_of_fits {paired : Bool} {a t : Int} (h : (a + t).natAbs < 2 ^ (8 * elemBytes paired - 1)) :
    addElem paired (some a) (some t) = some (a + t) := by
  have bound : ((2 ^ (8 * elemBytes paired - 1) : Nat) : Int) = 2 ^ (8 * elemBytes paired - 1) := by push_cast; rfl
  exact congrArg some (toSigned_ofSigned (elemBits_pos paired) (by omega) (by omega))

/-- A NaN on either side makes the sum NaN (R87). -/
@[simp] theorem addElem_none (paired : Bool) (e : Option Int) : addElem paired e none = none := by
  cases e <;> rfl

/-- A NaN element stays NaN whatever enters it (R87). -/
theorem foldl_addElem_none (paired : Bool) (ts : List (Option Int)) : ts.foldl (addElem paired) none = none := by
  induction ts with
  | nil => rfl
  | cons t ts ih => exact ih

/-- A NaN among the entries makes the element NaN (R87). -/
theorem foldl_addElem_of_mem_none (paired : Bool) (e : Option Int) {ts : List (Option Int)} (h : none ∈ ts) :
    ts.foldl (addElem paired) e = none := by
  obtain ⟨before, after, rfl⟩ := List.append_of_mem h
  rw [List.foldl_append, List.foldl_cons, addElem_none, foldl_addElem_none]

/-- The sum of magnitudes only grows. -/
theorem le_foldl_natAbs (ts : List Int) (m : Nat) : m ≤ ts.foldl (fun a t => a + t.natAbs) m := by
  induction ts generalizing m with
  | nil => rfl
  | cons t ts ih => exact (Nat.le_add_right m _).trans (ih _)

/-- While the magnitudes fit the element, entries one after another give the integer sum (R83). -/
theorem foldl_addElem_of_fits {paired : Bool} (ts : List Int) {a : Int} {m : Nat} (ha : a.natAbs ≤ m)
    (h : ts.foldl (fun a t => a + t.natAbs) m < 2 ^ (8 * elemBytes paired - 1)) :
    ts.foldl (fun e t => addElem paired e (some t)) (some a) = some (a + ts.sum) := by
  induction ts generalizing a m with
  | nil => simp
  | cons t ts ih =>
    have grown : (a + t).natAbs ≤ m + t.natAbs := (Int.natAbs_add_le a t).trans (by omega)
    have fits := grown.trans_lt ((le_foldl_natAbs ts _).trans_lt h)
    rw [List.foldl_cons, addElem_of_fits fits, ih grown h, List.sum_cons, add_assoc]

/-- Settles O14: the fold gives the sum, which no order changes; a NaN among the entries absorbs the rest. -/
theorem accumulationIsExact : Obligations.AccumulationIsExact := by
  refine ⟨fun paired start ts us perm fits => ?_, fun paired e ts nan => ?_⟩
  · rw [foldl_addElem_of_fits ts (m := start.natAbs) le_rfl (by simpa using fits), perm.sum_eq]
  · rcases nan with rfl | mem
    · exact foldl_addElem_none paired ts
    · exact foldl_addElem_of_mem_none paired e mem

/-! ### Bytes of a record (R92) -/

@[simp] theorem natToBytes_length (n x : Nat) : (natToBytes n x).length = n := by
  induction n generalizing x with
  | zero => rfl
  | succ n ih => simp [natToBytes, ih]

/-- The bytes of a number that they can hold read back as the number. -/
theorem bytesToNat_natToBytes {n x : Nat} (h : x < 256 ^ n) : bytesToNat (natToBytes n x) = x := by
  induction n generalizing x with
  | zero => exact (Nat.lt_one_iff.mp h).symm
  | succ n ih =>
    have rest : x / 256 < 256 ^ n := Nat.div_lt_of_lt_mul (by rwa [← pow_succ'])
    rw [natToBytes, bytesToNat, ih rest, BitVec.toNat_ofNat]
    omega

/-- Chunk `i` of a list of equal chunks. -/
theorem chunk_flatMap {α β : Type} {f : α → List β} {w : Nat} (hf : ∀ a, (f a).length = w) (l : List α) {i : Nat} (hi : i < l.length) :
    ((l.flatMap f).drop (i * w)).take w = f l[i] := by
  induction l generalizing i with
  | nil => exact absurd hi (Nat.not_lt_zero i)
  | cons a l ih =>
    cases i with
    | zero => simp [← hf a]
    | succ i =>
      have skip : (i + 1) * w = (f a).length + i * w := by rw [hf]; ring
      rw [List.flatMap_cons, skip, List.drop_length_add_append, ih (by simpa using hi)]
      rfl

@[simp] theorem clean_map_fst (bs : List Byte) : (clean bs).map Prod.fst = bs := by
  simp [clean, Function.comp_def]

@[simp] theorem strongest_clean (bs : List Byte) : strongest (clean bs) = none := by
  rw [strongest, clean, List.foldl_map]
  induction bs with
  | nil => rfl
  | cons b bs ih => exact ih

/-! ### Elements of a record (R81) -/

/-- An element that a record can hold: NaN, or an integer between the ends of its range, whose lower end is the code of NaN. -/
abbrev ElemFits (paired : Bool) (e : Option Int) : Prop :=
  ∀ k, e = some k → -(2 : Int) ^ (8 * elemBytes paired - 1) < k ∧ k < 2 ^ (8 * elemBytes paired - 1)

/-- The code of an element fits its bytes. -/
theorem elemCode_lt (paired : Bool) (e : Option Int) : elemCode paired e < 256 ^ elemBytes paired := by
  have size : (256 : Nat) ^ elemBytes paired = 2 ^ (8 * elemBytes paired) := by rw [pow_mul]; rfl
  rw [size]
  cases e with
  | none => exact Nat.pow_lt_pow_right (by decide) (Nat.sub_lt (elemBits_pos paired) (by decide))
  | some k =>
    have positive : (0 : Int) < 2 ^ (8 * elemBytes paired) := by positivity
    have low := Int.emod_nonneg k positive.ne'
    have high := Int.emod_lt_of_pos k positive
    have cast : ((2 ^ (8 * elemBytes paired) : Nat) : Int) = 2 ^ (8 * elemBytes paired) := by push_cast; rfl
    simp only [elemCode, ofSigned]
    omega

/-- An element is read back from its code. -/
theorem elemOfCode_elemCode {paired : Bool} {e : Option Int} (h : ElemFits paired e) : elemOfCode paired (elemCode paired e) = e := by
  cases e with
  | none => simp [elemOfCode, elemCode]
  | some k =>
    obtain ⟨low, high⟩ := h k rfl
    have back := toSigned_ofSigned (elemBits_pos paired) low.le high
    have notNan : ofSigned (8 * elemBytes paired) k ≠ 2 ^ (8 * elemBytes paired - 1) := by
      intro nan
      have double : (2 : Int) ^ (8 * elemBytes paired) = 2 * 2 ^ (8 * elemBytes paired - 1) := by cases paired <;> rfl
      rw [nan, toSigned, if_neg (lt_irrefl _)] at back
      push_cast at back
      omega
    simp [elemOfCode, elemCode, notNan, back]

/-! ### The header of a record (R92) -/

/-- The fields of a header, of which each fits its bits, are read back from it. -/
theorem header_fields {h frame fa fb susp paired nan t3 closed k m n : Nat}
    (e : h = frame + fa * 2 ^ 16 + fb * 2 ^ 20 + susp * 2 ^ 24 + paired * 2 ^ 25 + nan * 2 ^ 26 + t3 * 2 ^ 27 + closed * 2 ^ 28 +
      k * 2 ^ 32 + m * 2 ^ 64 + n * 2 ^ 71)
    (hframe : frame < 2 ^ 16) (hfa : fa < 16) (hfb : fb < 16) (hsusp : susp < 2) (hpaired : paired < 2) (hnan : nan < 2) (ht3 : t3 < 2)
    (hclosed : closed < 2) (hk : k < 2 ^ 21) (hm : m < 2 ^ 7) (hn : n < 2 ^ 7) :
    h < 2 ^ 78 ∧ bits h 15 0 = frame ∧ bits h 19 16 = fa ∧ bits h 23 20 = fb ∧ bit h 24 = decide (susp = 1) ∧
    bit h 25 = decide (paired = 1) ∧ bit h 27 = decide (t3 = 1) ∧ bit h 28 = decide (closed = 1) ∧ bit h 29 = false ∧
    bits h 52 32 = k ∧ bits h 70 64 = m ∧ bits h 77 71 = n := by
  simp only [bits, bit, Nat.shiftRight_eq_div_pow, Nat.testBit_eq_decide_div_mod_eq]
  rw [decide_eq_decide, decide_eq_decide, decide_eq_decide, decide_eq_decide, decide_eq_false_iff_not]
  omega

/-- The header describes a buffer that holds data, field by field (R92). -/
structure HeaderDescribes (h : Nat) (b : Lacc) : Prop where
  size : h < 256 ^ 16
  frame : toSigned 16 (bits h 15 0) = b.frame
  fmtA : bits h 19 16 = b.fmtA
  fmtB : bits h 23 20 = b.fmtB
  susp : bit h 24 = b.susp
  paired : bit h 25 = b.paired
  t3 : bit h 27 = b.t3
  closed : bit h 28 = b.closed
  data : bit h 29 = false
  kcount : bits h 52 32 = b.kcount
  m : bits h 70 64 + 1 = b.m
  n : bits h 77 71 + 1 = b.n

theorem b2n_lt (x : Bool) : b2n x < 2 := by cases x <;> decide

@[simp] theorem decide_b2n (x : Bool) : decide (b2n x = 1) = x := by cases x <;> rfl

/-- A buffer of which every field fits the header is described by its header. -/
theorem headerDescribes_recHeader {b : Lacc} (data : b.data = true) (fl : -(2 : Int) ^ 15 ≤ b.frame) (fu : b.frame < 2 ^ 15)
    (ha : b.fmtA < 16) (hb : b.fmtB < 16) (hk : b.kcount ≤ 1048576) (ml : 1 ≤ b.m) (mu : b.m ≤ 128) (nl : 1 ≤ b.n) (nu : b.n ≤ 128) :
    HeaderDescribes (recHeader b) b := by
  have code : ofSigned 16 b.frame < 2 ^ 16 := by
    simp only [ofSigned]
    omega
  have header : recHeader b = ofSigned 16 b.frame + b.fmtA * 2 ^ 16 + b.fmtB * 2 ^ 20 + b2n b.susp * 2 ^ 24 + b2n b.paired * 2 ^ 25 +
      b2n (b.elems.any (laccNan b.t3)) * 2 ^ 26 + b2n b.t3 * 2 ^ 27 + b2n b.closed * 2 ^ 28 + b.kcount * 2 ^ 32 +
      (b.m - 1) * 2 ^ 64 + (b.n - 1) * 2 ^ 71 := by
    have kfits : b.kcount % 2 ^ 21 = b.kcount := Nat.mod_eq_of_lt (by omega)
    have mfits : (b.m - 1) % 2 ^ 7 = b.m - 1 := Nat.mod_eq_of_lt (by omega)
    have nfits : (b.n - 1) % 2 ^ 7 = b.n - 1 := Nat.mod_eq_of_lt (by omega)
    rw [recHeader, data, kfits, mfits, nfits, Nat.mod_eq_of_lt ha, Nat.mod_eq_of_lt hb]
    rfl
  obtain ⟨size, f, fa, fb, su, pa, t3, cl, da, k, m, n⟩ := header_fields header code ha hb (b2n_lt _) (b2n_lt _) (b2n_lt _) (b2n_lt _)
    (b2n_lt _) (by omega) (by omega) (by omega)
  simp only [decide_b2n] at su pa t3 cl
  exact ⟨size.trans (by norm_num), f ▸ toSigned_ofSigned (by decide) fl fu, fa, fb, su, pa, t3, cl, da, k, by omega, by omega⟩

/-! ### A record and its buffer -/

/-- The record of a buffer that holds data: its header, then its elements row by row. -/
theorem recBytes_of_data {b : Lacc} (data : b.data = true) :
    recBytes b = natToBytes 16 (recHeader b) ++ b.elems.flatMap (fun e => natToBytes (elemBytes b.paired) (elemCode b.paired e)) := by
  simp [recBytes, data]

/-- Element `i` of a record's body; NaN where its bytes are poisoned under NAN (R290). -/
def recElem (paired t3 : Bool) (body : List PByte) (i : Nat) : Option Int :=
  let bs := (body.drop (i * elemBytes paired)).take (elemBytes paired)
  if (strongest bs).isSome then (if t3 then some (fp32.qnan : Int) else none) else elemOfCode paired (bytesToNat (bs.map Prod.fst))

/-- The record of a buffer that holds data parses field by field and element by element. -/
theorem recParse_of_data {h : Nat} (data : bit h 29 = false) (body : List PByte) :
    recParse h body = setRes {
      data := true, frame := toSigned 16 (bits h 15 0), fmtA := bits h 19 16, fmtB := bits h 23 20, paired := bit h 25,
      t3 := bit h 27, closed := bit h 28, m := bits h 70 64 + 1, n := bits h 77 71 + 1, kcount := bits h 52 32, susp := bit h 24,
      elems := (List.range ((bits h 70 64 + 1) * (bits h 77 71 + 1))).map (recElem (bit h 25) (bit h 27) body) } := by
  rw [recParse, data]
  rfl

/-- The clean bytes of an element read back as the element. -/
theorem recElem_of_clean {paired : Bool} {es : List (Option Int)} (fits : ∀ e ∈ es, ElemFits paired e) (t3 : Bool) {i : Nat}
    (hi : i < es.length) :
    recElem paired t3 (clean (es.flatMap (fun e => natToBytes (elemBytes paired) (elemCode paired e)))) i = es[i] := by
  have chunk := chunk_flatMap (w := elemBytes paired) (fun e => natToBytes_length (elemBytes paired) (elemCode paired e)) es hi
  have bytes : ((clean (es.flatMap (fun e => natToBytes (elemBytes paired) (elemCode paired e)))).drop (i * elemBytes paired)).take
      (elemBytes paired) = clean (natToBytes (elemBytes paired) (elemCode paired es[i])) := by
    rw [clean, ← List.map_drop, ← List.map_take, chunk]
    rfl
  simp only [recElem, bytes, strongest_clean, clean_map_fst, Option.isSome_none, Bool.false_eq_true, if_false,
    bytesToNat_natToBytes (elemCode_lt _ _), elemOfCode_elemCode (fits _ (List.getElem_mem hi))]

/-- A header and the clean elements of a buffer describe the buffer (R92, R100). -/
theorem recParse_of_described {h : Nat} {b : Lacc} (described : HeaderDescribes h b) (data : b.data = true) (scales : b.scales = none)
    (resid : b.resid = false) (feeds : b.feeds = []) (res : setRes b = b) (shape : b.elems.length = b.m * b.n)
    (fits : ∀ e ∈ b.elems, ElemFits b.paired e) :
    recParse h (clean (b.elems.flatMap (fun e => natToBytes (elemBytes b.paired) (elemCode b.paired e)))) = b := by
  have elems : (List.range (b.m * b.n)).map (recElem b.paired b.t3
      (clean (b.elems.flatMap (fun e => natToBytes (elemBytes b.paired) (elemCode b.paired e))))) = b.elems :=
    List.ext_getElem (by simp [shape]) (fun i _ hi => by
      rw [List.getElem_map, List.getElem_range, recElem_of_clean fits b.t3 hi])
  obtain ⟨-, frame, fmtA, fmtB, susp, paired, t3, closed, noData, kcount, m, n⟩ := described
  rw [recParse_of_data noData, paired, m, n, frame, fmtA, fmtB, t3, closed, kcount, susp, elems]
  conv_rhs => rw [← res]
  simp [setRes, ← data, ← scales, ← resid, ← feeds]

theorem recBytes_length {b : Lacc} (data : b.data = true) : (recBytes b).length = 16 + b.elems.length * elemBytes b.paired := by
  simp [recBytes_of_data data]

/-- Settles O15: the header describes the buffer, and its elements follow one another in chunks of equal size. -/
theorem recordRoundTrip : Obligations.RecordRoundTrip := by
  intro b data t3 scales resid feeds res fl fu ha hb ml mu nl nu hk shape fits
  have described := headerDescribes_recHeader data fl fu ha hb hk ml mu nl nu
  have headerBytes := natToBytes_length 16 (recHeader b)
  refine ⟨?_, ?_, ?_⟩
  · rw [recBytes_of_data data, clean, ← List.map_drop, List.drop_left' headerBytes]
    exact recParse_of_described described data scales resid feeds res shape fits
  · rw [recLen, described.data, described.m, described.n, described.paired, recBytes_length data, shape]
    rfl
  · rw [recBytes_of_data data, List.take_left' headerBytes, bytesToNat_natToBytes described.size]

/-! ### The buffers of a set (R81, R86, R88) -/

@[simp] theorem LaccSet.get_set_same (l : LaccSet) (p : Nat) (b : Lacc) : (l.set p b).get p = b := by
  match p with
  | 0 | 1 | 2 | _ + 3 => rfl

theorem LaccSet.get_set_ne (l : LaccSet) {p q : Nat} (b : Lacc) (hp : p < 4) (hq : q < 4) (h : q ≠ p) : (l.set p b).get q = l.get q := by
  interval_cases p <;> interval_cases q <;> simp [LaccSet.get, LaccSet.set] at h ⊢

/-- A buffer that is accepted is one of the set's four. -/
theorem acceptBuf_lt {l : LaccSet} {arr i m n p : Nat} {frame : Int} {paired t3 : Bool} (ha : arr < 2) (hi : i < 2)
    (h : acceptBuf l arr i frame paired t3 m n = .ok p) : p < 4 := by
  unfold acceptBuf at h
  dsimp only at h
  split at h
  · split at h
    · cases h; omega
    · cases h
  · split at h
    · cases h
    · split at h
      · cases h; omega
      · cases h

/-- What follows a step that may be refused has its answer from what the step gave. -/
theorem Res.bind_eq_ok {α β : Type} {x : Res α} {f : α → Res β} {b : β} (h : (x >>= f) = .ok b) : ∃ a, x = .ok a ∧ f a = .ok b := by
  cases x with
  | error e => cases h
  | ok a => exact ⟨a, rfl, h⟩

@[simp] theorem Res.error_bind {α β : Type} (e : Stop) (f : α → Res β) : (Except.error e >>= f : Res β) = .error e := rfl

theorem countProducts_of_excess {b : Lacc} {k : Nat} (h : 1048576 < b.kcount + k) : countProducts b k = .error (.refuse 0x1004 0) :=
  if_pos h

theorem countProducts_ok {b : Lacc} {k r : Nat} (h : countProducts b k = .ok r) : r = b.kcount + k ∧ r ≤ 1048576 := by
  unfold countProducts at h
  split at h
  · cases h
  · cases h; omega

@[simp] theorem addTerms_kcount (b : Lacc) (frame : Int) (paired : Bool) (fa fb m n k : Nat) (terms : List (Option Int)) :
    (addTerms b frame paired fa fb m n k terms).kcount = k := by
  unfold addTerms
  split <;> rfl

/-- A step that counts `k` products: buffer `p` of the set has counted them, within the limit, and no other buffer changes. -/
abbrev CountsInto (l m : LaccSet) (p k : Nat) : Prop :=
  (m.get p).kcount = (l.get p).kcount + k ∧ (m.get p).kcount ≤ 1048576 ∧ ∀ q < 4, q ≠ p → m.get q = l.get q

theorem countsInto_set {l : LaccSet} {p k r : Nat} {b : Lacc} (hp : p < 4) (hr : countProducts (l.get p) k = .ok r) (hb : b.kcount = r) :
    CountsInto l (l.set p b) p k := by
  obtain ⟨sum, limit⟩ := countProducts_ok hr
  refine ⟨?_, ?_, fun q hq h => LaccSet.get_set_ne l b hp hq h⟩
  · rw [LaccSet.get_set_same, hb, sum]
  · rw [LaccSet.get_set_same, hb]; exact limit

theorem accumulate_countsInto {s : State} {n arr i p : Nat} {l m : LaccSet} {frame : Int} {paired susp : Bool} {a b : ArrOp} (ha : arr < 2)
    (hi : i < 2) (hp : acceptBuf l arr i frame paired false a.rows b.rows = .ok p)
    (h : accumulate s n l arr i frame paired a b susp = .ok m) : CountsInto l m p a.k := by
  simp only [accumulate, hp, Res.ok_bind] at h
  obtain ⟨sc, -, h⟩ := Res.bind_eq_ok h
  obtain ⟨k, hk, h⟩ := Res.bind_eq_ok h
  cases h
  exact countsInto_set (acceptBuf_lt ha hi hp) hk (addTerms_kcount ..)

/-- An accepted accumulation that would exceed the limit is refused (R86). -/
theorem accumulate_of_excess {s : State} {n arr i p : Nat} {l : LaccSet} {frame : Int} {paired susp : Bool} {a b : ArrOp}
    {sc : Option (List Word32 × List Word32)} (hp : acceptBuf l arr i frame paired false a.rows b.rows = .ok p)
    (hs : captureScales (l.get p) a.rho b.rho = .ok sc) (h : 1048576 < (l.get p).kcount + a.k) :
    accumulate s n l arr i frame paired a b susp = .error (.refuse 0x1004 0) := by
  simp only [accumulate, hp, Res.ok_bind, hs, countProducts_of_excess h, Res.error_bind]

theorem importRec_countsInto {arr i p : Nat} {l m : LaccSet} {r : Lacc} (ha : arr < 2) (hi : i < 2) (hd : r.data = true)
    (hp : acceptBuf l arr i r.frame r.paired r.t3 r.m r.n = .ok p) (h : importRec l arr i r = .ok m) : CountsInto l m p r.kcount := by
  simp only [importRec, hd, Bool.not_true, Bool.false_eq_true, if_false, hp, Res.ok_bind] at h
  obtain ⟨-, -, h⟩ := Res.bind_eq_ok h
  obtain ⟨k, hk, h⟩ := Res.bind_eq_ok h
  cases h
  refine countsInto_set (acceptBuf_lt ha hi hp) hk ?_
  split
  · rfl
  · exact addTerms_kcount ..

/-- An accepted import that would exceed the limit is refused (R86). -/
theorem importRec_of_excess {arr i p : Nat} {l : LaccSet} {r : Lacc} (hd : r.data = true)
    (hp : acceptBuf l arr i r.frame r.paired r.t3 r.m r.n = .ok p) (ht : r.t3 = false ∨ (l.get p).data = false)
    (h : 1048576 < (l.get p).kcount + r.kcount) : importRec l arr i r = .error (.refuse 0x1004 0) := by
  have free : (!(r.t3 && (l.get p).data)) = true := by rcases ht with ht | ht <;> simp [ht]
  simp only [importRec, hd, Bool.not_true, Bool.false_eq_true, if_false, hp, Res.ok_bind, free, need_true, countProducts_of_excess h,
    Res.error_bind]

/-! ### Refused operations (R222) -/

/-- A refused operation raises one event with its code. -/
theorem refuseEvent_raised (s : State) (v : VRef) (x : Vcore) (n code da : Nat) :
    ∃ e : Event, (refuseEvent s v x n code da).host.raised = s.host.raised ++ [e] ∧ e.code = BitVec.ofNat 16 code := by
  have keeps : (refusedAccess s n code).host = s.host := by
    unfold refusedAccess
    split <;> rfl
  exact ⟨_, by rw [refuseEvent, raiseCtx, raise_raised, keeps], rfl⟩

/-- The virtual cores stay through the event of a refusal. -/
theorem refuseEvent_vc? (s : State) (v w : VRef) (x : Vcore) (n code da : Nat) : (refuseEvent s v x n code da).vc? w = s.vc? w := by
  rw [refuseEvent, refusedAccess]
  split <;> rfl

/-- A refused operation raises its event, and its virtual core keeps its buffers. -/
theorem refuseOp_keeps_lacc {s : State} {v : VRef} {x : Vcore} (hx : s.vc? v = some x) (n : Nat) (o : UOp) (code da : Nat) :
    ∃ (y : Vcore) (e : Event), (refuseOp s v x n o code da).vc? v = some y ∧ y.lacc = x.lacc ∧
      (refuseOp s v x n o code da).host.raised = s.host.raised ++ [e] ∧ e.code = BitVec.ofNat 16 code := by
  obtain ⟨e, raised, coded⟩ := refuseEvent_raised s v x n code da
  refine ⟨_, e, State.vc?_modVc _ ((refuseEvent_vc? s v v x n code da).trans hx) _, rfl, ?_, coded⟩
  rw [refuseOp, modOp, State.modVc_host, raised]

/-! ### ACC and IMPORT once their operands are read -/

/-- Without Z an operation finds the buffers as they stand (R234). -/
theorem enterLacc_of_not_z {x : Vcore} {o : UOp} (h : zOf o = false) : enterLacc x o = x.lacc := by
  simp [enterLacc, h]

/-- A core that allows T3 mode bars no array operation (R104). -/
theorem t3Barred_of_enabled {s : State} {x : Vcore} (h : (s.core x.core).arrCtl.getLsbD 1 = true) (o : UOp) : t3Barred s x o = false := by
  simp [t3Barred, h]

section Acc
variable {s : State} {v : VRef} {x : Vcore} {n : Nat} {o : UOp} {oa ob : Opnd} {a b : ArrOp} {na nb : Bool}
variable (ha : arrOperand s v n x (t3Of o) (arg1 o) = .ok (oa, a, na)) (hb : arrOperand s v n x (t3Of o) (arg2 o) = .ok (ob, b, nb))
  (hk : a.k = b.k) (ra : a.rows ≤ 128) (rb : b.rows ≤ 128)
include ha hb hk ra rb

/-- Outside T3 mode ACC accumulates the exact products of its operands into the buffers that it finds (R83, R88). -/
theorem runAcc_of_pair {paired : Bool} {frame : Int} (ht : t3Of o = false) (hp : pairOf a.fmt b.fmt = some (frame, paired)) :
    runAcc s v x n o = (accumulate s n (enterLacc x o) (arrOf o) (bufOf o) frame paired a b o.susp).bind (fun l => .ok {
      st := nanConsumed (arrFlags (putLacc s v l) x.core v.ctx (a.flags ||| b.flags)) v (na || nb),
      d1 := some (bufTok (bufOf o)), d2 := some (dataTok (arg2 o)), susp := (l.get (bufIdx l (arrOf o) (bufOf o))).susp,
      mism := recheck s x (enterLacc x o) (arrOf o) (bufOf o) }) := by
  have shapes : (a.k == b.k && decide (a.rows ≤ 128) && decide (b.rows ≤ 128)) = true := by simp [hk, ra, rb]
  simp only [runAcc, ha, hb, Res.ok_bind, shapes, need_true, hp]
  rw [if_neg (by simp [ht])]
  rfl

/-- In T3 mode ACC adds the FP32 sums of its operands into the buffer that it finds (R103). -/
theorem runAcc_of_t3 {p k : Nat} {sc : Option (List Word32 × List Word32)} {out : Lacc} {fl : Flags} {l : LaccSet} (ht : t3Of o = true)
    (hf : a.fmt = b.fmt) (wide : a.fmt = 9 ∨ a.fmt = 10) (enabled : (s.core x.core).arrCtl.getLsbD 1 = true)
    (chunks : t3LastOf o = true ∨ a.k % 32 = 0)
    (isOpen : ((enterLacc x o).get (bufIdx (enterLacc x o) (arrOf o) (bufOf o))).closed = false)
    (hp : acceptBuf (enterLacc x o) (arrOf o) (bufOf o) 0 false true a.rows b.rows = .ok p)
    (hs : captureScales ((enterLacc x o).get p) a.rho b.rho = .ok sc) (hc : countProducts ((enterLacc x o).get p) a.k = .ok k)
    (hout : t3Accumulate ((enterLacc x o).get p) a b k (t3LastOf o) = (out, fl))
    (hl : l = (enterLacc x o).set p
      (fedBy s n { out with scales := sc, susp := ((enterLacc x o).get p).susp || o.susp } (a.feeds ++ b.feeds))) :
    runAcc s v x n o = .ok {
      st := nanConsumed (arrFlags (putLacc s v l) x.core v.ctx (a.flags ||| b.flags ||| fl)) v (na || nb),
      d1 := some (bufTok (bufOf o)), d2 := some (dataTok (arg2 o)), susp := (l.get p).susp } := by
  have shapes : (a.k == b.k && decide (a.rows ≤ 128) && decide (b.rows ≤ 128)) = true := by simp [hk, ra, rb]
  have formats : (a.fmt == b.fmt && (a.fmt == 9 || a.fmt == 10) && !t3Barred s x o) = true := by
    simpa [hf, t3Barred_of_enabled enabled] using hf ▸ wide
  have ready : ((t3LastOf o || a.k % 32 == 0) && !((enterLacc x o).get (bufIdx (enterLacc x o) (arrOf o) (bufOf o))).closed) = true := by
    simpa [isOpen] using chunks
  subst hl
  simp only [runAcc, ha, hb, Res.ok_bind, shapes, formats, ready, need_true, hp, hs, hc, hout, Res.pure_eq]
  rw [if_pos ht]

end Acc

/-- IMPORT adds the record that it reads into its buffer (R92). -/
theorem runImport_of_record {s : State} {v : VRef} {x : Vcore} {n : Nat} {o : UOp} {r : Lacc} {nan : Bool}
    (ht : t3Barred s x o = false) (hr : readRecord s v n x (arg1 o) = .ok (r, nan)) :
    runImport s v x n o = (importRec (enterLacc x o) (arrOf o) (bufOf o) { r with susp := r.susp || o.susp }).bind (fun l => .ok {
      st := nanConsumed (arrFlags (putLacc s v l) x.core v.ctx (if nan then fNV else 0#4)) v nan,
      d1 := some (bufTok (bufOf o)), d2 := some (dataTok (arg1 o)), susp := (l.get (bufIdx l (arrOf o) (bufOf o))).susp,
      mism := recheck s x (enterLacc x o) (arrOf o) (bufOf o) }) := by
  simp only [runImport, ht, Bool.not_false, need_true, Res.ok_bind, hr]
  rfl

/-- An operation refused for its count raises 0x1004, and its virtual core keeps its buffers (R86, R222). -/
theorem perform_excess {s : State} {v : VRef} {x : Vcore} {op : Nat} {o : UOp} {run : State → VRef → Vcore → Nat → UOp → Res Ran}
    (started : OpStarted s v x op o) (refused : run s v (unitView x o) (ctxPart s v.ctx) o = .error (.refuse 0x1004 0)) :
    ∃ (t : State) (y : Vcore) (e : Event), (.next (perform s v op run) : Host.Outcome State Fault Refusal) = .next t ∧
      t.vc? v = some y ∧ y.lacc = x.lacc ∧ t.host.raised = s.host.raised ++ [e] ∧ e.code = 0x1004 := by
  obtain ⟨y, e, hy, kept, raised, code⟩ := refuseOp_keeps_lacc started.1 (ctxPart s v.ctx) o 0x1004 0
  exact ⟨_, y, e, congrArg Host.Outcome.next (perform_refuse started refused), hy, kept, raised, code⟩

/-- Settles O16: the count of a buffer is what entered it, and an excess is refused before anything is written. -/
theorem productCountIsLimited : Obligations.ProductCountIsLimited := by
  refine ⟨fun l arr i _ _ => by rw [zeroBuf, LaccSet.get_set_same], fun s n l m arr i p frame paired susp a b ha hi hp h =>
    accumulate_countsInto ha hi hp h, fun l m arr i p r ha hi hd hp h => importRec_countsInto ha hi hd hp h, ?acc, ?imp⟩
  case acc =>
    intro s v x o oa ob a b na nb frame paired p sc started t3 z ha hb hk ra rb hpair hp hs excess
    have entered : enterLacc (unitView x o) o = x.lacc := enterLacc_of_not_z z
    refine perform_excess started ((runAcc_of_pair (t3 ▸ ha) (t3 ▸ hb) hk ra rb t3 hpair).trans ?_)
    rw [entered, accumulate_of_excess hp hs excess]
    rfl
  case imp =>
    intro s v x o r nan p started barred z hr hd ht hp excess
    have entered : enterLacc (unitView x o) o = x.lacc := enterLacc_of_not_z z
    have full := importRec_of_excess (r := { r with susp := r.susp || o.susp }) hd hp ht excess
    refine perform_excess started ((runImport_of_record (x := unitView x o) barred hr).trans ?_)
    rw [entered, full]
    rfl

/-! ### The other array operations once their operands are read -/

section
variable {s : State} {v : VRef} {x : Vcore} {n : Nat} {o : UOp}

/-- A run inside the window is let through (R290). -/
theorem checkRuns_window {off len : Nat} (h : off + len ≤ x.winSize) : checkRuns s n x false [(off, len)] = .ok () := by
  simp [checkRuns, h]

/-- Buffers and their residues are the virtual core's own, whatever its unit sees of the window. -/
theorem enterLacc_unitView (p q : UOp) : enterLacc (unitView x p) q = enterLacc x q := rfl

theorem recheck_unitView (p : UOp) (l : LaccSet) (arr i : Nat) : recheck s (unitView x p) l arr i = recheck s x l arr i := rfl

theorem runZero_of_free (ht : t3Barred s x o = false) :
    runZero s v x n o = .ok { st := putLacc s v (zeroBuf x.lacc (arrOf o) (bufOf o)) } := by
  simp only [runZero, ht, Bool.not_false, need_true, Res.ok_bind, Res.pure_eq]

/-- TWIN accumulates dY and W in array A, and X and the transposed dY in array B (R96, R97). -/
theorem runTwin_of_pairs {oy ow ox : Opnd} {dy w xt : ArrOp} {ny nw nx : Bool} {fa fb : Int} {l0 l1 l2 : LaccSet}
    (hy : arrOperand s v n x false (arg1 o) = .ok (oy, dy, ny)) (hw : arrOperand s v n x false (arg2 o) = .ok (ow, w, nw))
    (hx : arrOperand s v n x false (arg3 o) = .ok (ox, xt, nx)) (enabled : (s.core x.core).arrCtl.getLsbD 2 = true)
    (ht : t3Of o = false)
    (shapes : (oy.sq && oy.uni && w.k == dy.k && xt.k == dy.rows && dy.rows ≤ 128 && dy.k ≤ 128 && w.rows ≤ 128 && xt.rows ≤ 128) = true)
    (hl0 : l0 = if zOf o then zeroBuf (zeroBuf x.lacc 0 (immBits o.word 2 2)) 1 (immBits o.word 5 5) else x.lacc)
    (ra : recheck s x l0 0 (immBits o.word 2 2) = none) (rb : recheck s x l0 1 (immBits o.word 5 5) = none)
    (pa : pairOf dy.fmt w.fmt = some (fa, false)) (pb : pairOf xt.fmt dy.fmt = some (fb, false))
    (h1 : accumulate s n l0 0 (immBits o.word 2 2) fa false dy w o.susp = .ok l1)
    (h2 : accumulate s n l1 1 (immBits o.word 5 5) fb false xt dy.swap o.susp = .ok l2) :
    runTwin s v x n o = .ok {
      st := nanConsumed (arrFlags (putLacc s v l2) x.core v.ctx (dy.flags ||| w.flags ||| xt.flags)) v (ny || nw || nx),
      d1 := some { bufTok (immBits o.word 2 2) with susp := (l2.get (bufIdx l2 0 (immBits o.word 2 2))).susp },
      d2 := some { bufTok (immBits o.word 5 5) with susp := (l2.get (bufIdx l2 1 (immBits o.word 5 5))).susp } } := by
  subst hl0
  simp only [runTwin, hy, hw, hx, Res.ok_bind, enabled, need_true, shapes, ht, Bool.not_false, pa, pb, ra, rb, h1, h2, Res.pure_eq]

/-- EXPORT writes the record of the buffer that leaves (R92, R137). -/
theorem runExport_of_leaving {b : Lacc} (ht : t3Barred s x o = false) (hb : leavingBuf s n (enterLacc x o) o = .ok b)
    (hr : recheck s x (enterLacc x o) (arrOf o) (bufOf o) = none) {off : Nat} (hoff : off = arg1 o + o.ix * elemBytes b.paired)
    (fits : off + (recBytes b).length ≤ x.winSize) :
    runExport s v x n o = .ok {
      st := spWrite (putLacc s v (enterLacc x o)) v 0 false off (clean (recBytes b)), d1 := some (dataTok off),
      outs := [⟨false, off, (recBytes b).length⟩], susp := b.susp, resid := b.resid,
      feeds := feedsAt v false [(off, (recBytes b).length)] b.feeds, aux := groupBytes s b.feeds, run := [v.vc, off] } := by
  subst hoff
  simp only [runExport, ht, Bool.not_false, need_true, Res.ok_bind, hb, checkRuns_window fits, hr, Res.pure_eq]

end

/-! ### What an array operation leaves alone when it ends -/

section
variable {s : State}

@[simp] theorem nanConsumed_mem (v : VRef) (nan : Bool) : (nanConsumed s v nan).mem = s.mem := by
  unfold nanConsumed
  split <;> rfl

@[simp] theorem nanConsumed_cores (v : VRef) (nan : Bool) : (nanConsumed s v nan).cores = s.cores := by
  unfold nanConsumed
  split <;> rfl

/-- Flags of the arrays leave ARR_CTL as it is. -/
theorem arrFlags_arrCtl (n k m : Nat) (f : Flags) : ((arrFlags s n k f).core m).arrCtl = (s.core m).arrCtl := by
  by_cases h : m = n
  · rw [h, arrFlags, State.core_modCore]
  · rw [arrFlags, State.core_modCore_ne _ _ h]

theorem spWrite_window (v : VRef) (hint a : Nat) (bs : List PByte) :
    (spWrite s v hint false a bs).mem = s.mem ∧ (spWrite s v hint false a bs).cores = s.cores :=
  ⟨State.modVc_mem .., State.modVc_cores ..⟩

/-- The state that an array operation has left: buffers, flags and NaN events change neither memory nor ARR_CTL. -/
theorem arrayEnd_keeps (v : VRef) (l : LaccSet) (n : Nat) (f : Flags) (nan : Bool) (m : Nat) :
    (nanConsumed (arrFlags (putLacc s v l) n v.ctx f) v nan).mem = s.mem ∧
    ((nanConsumed (arrFlags (putLacc s v l) n v.ctx f) v nan).core m).arrCtl = (s.core m).arrCtl := by
  constructor
  · rw [nanConsumed_mem, arrFlags, State.modCore_mem, putLacc, State.modVc_mem]
  · rw [State.core, nanConsumed_cores]
    refine (arrFlags_arrCtl n v.ctx m f).trans ?_
    rw [State.core, putLacc, State.modVc_cores]
    rfl

theorem recheck_congr {t : State} {x : Vcore} (h : (t.core x.core).arrCtl = (s.core x.core).arrCtl) (l : LaccSet) (arr i : Nat) :
    recheck t x l arr i = recheck s x l arr i := by
  rw [recheck, h]
  rfl

theorem groupBytes_congr {t : State} (h : t.mem = s.mem) (gs : List Group) : groupBytes t gs = groupBytes s gs := by
  simp only [groupBytes, devBytes, h]

variable {v : VRef} {x : Vcore} {n : Nat} {o : UOp}

/-- SWAP writes the record of its buffer and loads the record that it has read as ZERO and IMPORT would (R92). -/
theorem runSwap_of_record {b r : Lacc} {nan : Bool} {l : LaccSet} (ht : t3Barred s x o = false)
    (hb : b = { (enterLacc x o).get (bufIdx (enterLacc x o) (arrOf o) (bufOf o)) with
      susp := ((enterLacc x o).get (bufIdx (enterLacc x o) (arrOf o) (bufOf o))).susp || o.susp })
    (fits : arg1 o + (recBytes b).length ≤ x.winSize) (hr : readRecord s v n x (arg2 o) = .ok (r, nan))
    (hl : importRec (zeroBuf x.lacc (arrOf o) (bufOf o)) (arrOf o) (bufOf o) { r with susp := r.susp || o.susp } = .ok l)
    (hc : recheck s x (enterLacc x o) (arrOf o) (bufOf o) = none) :
    runSwap s v x n o = .ok {
      st := nanConsumed (arrFlags (putLacc (spWrite s v 0 false (arg1 o) (clean (recBytes b))) v l) x.core v.ctx
        (if nan then fNV else 0#4)) v nan,
      d1 := some (dataTok (arg1 o)), d2 := some (dataTok (arg2 o)), outs := [⟨false, arg1 o, (recBytes b).length⟩],
      susp := b.susp, resid := b.resid, feeds := feedsAt v false [(arg1 o, (recBytes b).length)] b.feeds,
      aux := groupBytes s b.feeds, run := [v.vc, arg1 o] } := by
  obtain ⟨writtenMem, writtenCores⟩ := spWrite_window (s := s) v 0 (arg1 o) (clean (recBytes b))
  obtain ⟨mem, ctl⟩ := arrayEnd_keeps (s := spWrite s v 0 false (arg1 o) (clean (recBytes b))) v l x.core (if nan then fNV else 0#4) nan
    x.core
  have checked := recheck_congr (ctl.trans (congrArg (fun t => (tgetD t x.core {}).arrCtl) writtenCores)) (enterLacc x o) (arrOf o) (bufOf o)
  have compared := groupBytes_congr (mem.trans writtenMem) b.feeds
  rw [← compared, ← checked.trans hc]
  subst hb
  simp only [runSwap, ht, Bool.not_false, need_true, Res.ok_bind, checkRuns_window fits, hr, hl, Res.pure_eq]

end

/-- Settles O13: each run is worked out from what has been read, and a started operation lands what its run answers. -/
theorem arrayOperationsComplete : Obligations.ArrayOperationsComplete := by
  refine ⟨?zeroAcc, ?twin, ?records⟩
  case zeroAcc =>
    rintro s v x o n rfl
    refine ⟨fun h free => congrArg Host.Outcome.next (perform_ok h rfl (runZero_of_free (x := unitView x o) free)), ?_⟩
    rintro oa ob a b na nb l0 h ha hb hk ra rb rfl
    refine ⟨fun frame paired l ht hp hl hc => ?pair, fun p sc k out fl l ht hf wide enabled chunks isOpen hp hs hc hout hl => ?t3⟩
    case pair =>
      have run := runAcc_of_pair ha hb hk ra rb ht hp
      rw [enterLacc_unitView, hl, recheck_unitView, hc] at run
      exact congrArg Host.Outcome.next (perform_ok h rfl run)
    case t3 =>
      have run := runAcc_of_t3 ha hb hk ra rb ht hf wide enabled chunks isOpen hp hs hc hout hl
      exact congrArg Host.Outcome.next (perform_ok h rfl run)
  case twin =>
    rintro s v x o n i j oy ow ox dy w xt ny nw nx fa fb l0 l1 l2 h rfl rfl rfl hy hw hx enabled ht sq uni wk xk dr dk wr xr hl0 ra rb pa pb
      h1 h2
    have shapes : (oy.sq && oy.uni && w.k == dy.k && xt.k == dy.rows && decide (dy.rows ≤ 128) && decide (dy.k ≤ 128) &&
        decide (w.rows ≤ 128) && decide (xt.rows ≤ 128)) = true := by
      simp [sq, uni, wk, xk, dr, dk, wr, xr]
    exact congrArg Host.Outcome.next (perform_ok h rfl (runTwin_of_pairs hy hw hx enabled ht shapes hl0 ra rb pa pb h1 h2))
  case records =>
    rintro s v x o n l0 rfl free rfl hc
    refine ⟨fun b off h hb hoff fits => ?exp, fun r nan l h hr hl => ?imp, fun b r nan l h hb fits hr hl => ?swap⟩
    case exp =>
      exact congrArg Host.Outcome.next (perform_ok h rfl (runExport_of_leaving (x := unitView x o) free hb hc hoff fits))
    case imp =>
      have run := runImport_of_record (x := unitView x o) free hr
      rw [enterLacc_unitView, hl, recheck_unitView, hc] at run
      exact congrArg Host.Outcome.next (perform_ok h rfl run)
    case swap => exact congrArg Host.Outcome.next (perform_ok h rfl (runSwap_of_record (x := unitView x o) free hb fits hr hl hc))

/-! ### Moves (R76, R231) -/

section
variable {s : State} {v : VRef} {x : Vcore} {n : Nat} {o : UOp}

/-- A move of operands that it accepts (R231): its source is read, with the Pantry's part in it, and its bytes go to the destination. -/
theorem moveOp_of_ok {src dst : Opnd} {hint : Nat} {rs : List Run} {ps : List (Opnd × Opnd)} (h : MoveOk src dst)
    (hps : ps = moveParts s src dst) (hrs : rs = ps.flatMap (fun p => p.1.runs)) (hs : checkRuns s n x src.dev rs = .ok ())
    (hd : checkRuns s n x dst.dev dst.runs = .ok ()) {s1 : State}
    (hs1 : s1 = findRuns s (some v.ctx) src.dev (hintOf s hint % 2 == 0) rs) :
    moveOp s v x n hint src dst = .ok (spWriteAll (pantryRead s1 hint src.dev false rs) v hint dst.dev
        (ps.flatMap (fun p => if src.trans then transposeRuns (rdOf s1 x src.dev) p.1 p.2 else moveRuns (rdOf s1 x src.dev) p.1 p.2)),
      ps.flatMap (fun p => feedsAt v dst.dev p.2.runs (feedsOn s v src.dev p.1.runs))) := by
  obtain ⟨fmt, sq, uni, transposed, plain⟩ := h
  have format : (src.fmt == dst.fmt && src.sq == dst.sq && src.uni == dst.uni) = true := by simp [fmt, sq, uni]
  have shape : (if src.trans then dst.rows == src.cols && dst.cols == src.rows else dst.rows == src.rows && dst.cols == src.cols) = true := by
    cases ht : src.trans
    · simp [plain ht]
    · simp [transposed ht]
  have blocks : (!src.trans || !src.narrow || (src.sq && src.uni)) = true := by
    cases ht : src.trans
    · rfl
    · cases hn : src.narrow
      · rfl
      · simp [(transposed ht).2.2 hn]
  subst hps hrs hs1
  simp only [moveOp, format, shape, blocks, need_true, Res.ok_bind, hs, hd, Res.pure_eq]

theorem runLoad_of_moved {src dst : Opnd} {t : State} {fs : List Feed} (hsrc : mkOpnd s n x (arg1 o) true o.ix (ixAxis o) = .ok src)
    (hdst : mkOpnd s n x (arg2 o) false 0 false = .ok dst) (moved : moveOp s v x n (immBits o.word 1 0) src dst = .ok (t, fs)) :
    runLoad s v x n o = .ok { st := t, d1 := some (dataTok (arg2 o)), outs := dst.outs, feeds := fs } := by
  simp only [runLoad, hsrc, hdst, Res.ok_bind, moved, Res.pure_eq]

theorem runStore_of_moved {src dst : Opnd} {t : State} {fs : List Feed} (hsrc : mkOpnd s n x (arg1 o) false 0 false = .ok src)
    (hdst : mkOpnd s n x (arg2 o) false o.ix (ixAxis o) = .ok dst) (moved : moveOp s v x n (immBits o.word 1 0) src dst = .ok (t, fs)) :
    runStore s v x n o = .ok {
      st := t, d1 := some (dataTok (arg2 o)), d2 := some (dataTok (arg1 o)), outs := dst.outs, feeds := fs } := by
  simp only [runStore, hsrc, hdst, Res.ok_bind, moved, Res.pure_eq]

end

/-! ### GATHER (R234, R275) -/
section
variable {s s1 s2 s3 : State} {v : VRef} {x : Vcore} {n k cnt hint : Nat} {o : UOp} {list table dst : Opnd} {words rows : List Run}
  {idx : List Nat}

theorem runGather_of_clean (hk : k = immBits o.word 7 2) (k0 : k ≠ 0) (hh : hint = immBits o.word 1 0)
    (hlist : mkOpnd s n x (arg1 o) false 0 false = .ok list) (htable : mkOpnd s n x (arg2 o) false o.ix (ixAxis o) = .ok table)
    (hdst : mkOpnd s n x (arg3 o) false 0 false = .ok dst) (fmt : table.fmt = dst.fmt) (sq : table.sq = dst.sq) (uni : table.uni = dst.uni)
    (hcnt : cnt = list.rows * list.cols) (hwords : words = (List.range cnt).map (fun i => (wordAddr list i, 4)))
    (cl : checkRuns s n x list.dev words = .ok ()) (hs1 : s1 = discoverRuns s (some v.ctx) list.dev words)
    (clean : runsPoison (rdOf s1 x list.dev) words = none) (hidx : idx = words.map (fun r => rdNat (rdOf s1 x list.dev) r.1 4))
    (inTable : ∀ i ∈ idx, i < table.rows) (hrows : rows = idx.map (fun i => (table.data + i * k * 32, k * 32)))
    (ct : checkRuns s n x table.dev rows = .ok ()) (cd : checkRuns s n x dst.dev [(dst.data, cnt * k * 32)] = .ok ())
    (hs2 : s2 = findRuns s1 (some v.ctx) table.dev false rows) (hs3 : s3 = pantryRead s2 hint table.dev true rows) :
    runGather s v x n o = .ok {
      st := spWrite (if table.dev then countNarrow s3 n (cnt * k) else s3) v hint dst.dev dst.data
        (rows.flatMap (fun r => rdRun (rdOf s2 x table.dev) r.1 r.2)),
      d1 := some (dataTok (arg3 o)), outs := [⟨dst.dev, dst.data, cnt * k * 32⟩],
      feeds := feedsAt v dst.dev [(dst.data, cnt * k * 32)] (feedsOn s v table.dev rows) } := by
  have format : (k != 0 && table.fmt == dst.fmt && table.sq == dst.sq && table.uni == dst.uni) = true := by simp [k0, fmt, sq, uni]
  have indices : idx.all (fun i => decide (i < table.rows)) = true := by simpa using inTable
  subst hk hh hcnt hs3 hs2 hrows hidx hs1 hwords
  simp only [runGather, hlist, htable, hdst, format, need_true, Res.ok_bind, cl, clean, indices, ct, cd, Res.pure_eq]

end

/-! ### SEND (R234, R334) -/

theorem discoverRuns_onlyMemHost (s : State) (k : Option Nat) (dev : Bool) (rs : List Run) : OnlyMemHost s (discoverRuns s k dev rs) := by
  unfold discoverRuns
  split
  · exact OnlyMemHost.foldl (fun t (r : Run) => demand t k r.1 r.2) (fun t r => demand_onlyMemHost t k r.1 r.2) rs s
  · exact OnlyMemHost.refl s

theorem OnlyMemHost.ctxs_eq {s t : State} (h : OnlyMemHost s t) : t.ctxs = s.ctxs := by rw [h]
theorem OnlyMemHost.fab_eq {s t : State} (h : OnlyMemHost s t) : t.fab = s.fab := by rw [h]
theorem OnlyMemHost.time_eq {s t : State} (h : OnlyMemHost s t) : t.time = s.time := by rw [h]

theorem runSend_of_read {s s1 : State} {v : VRef} {c : Ctx} {x : Vcore} {o : UOp} {n dst : Nat} {src : Opnd} {bs : List PByte} {m : SendMsg}
    (hc : s.ctx? v.ctx = some c) (hsrc : mkOpnd s n x (arg1 o) false 0 false = .ok src)
    (hk : checkRuns s n x src.dev (sendRuns src) = .ok ()) (hs1 : s1 = discoverRuns s (some v.ctx) src.dev (sendRuns src))
    (hbs : bs = (sendRuns src).flatMap (fun r => rdRun (rdOf s1 x src.dev) r.1 r.2)) (hdst : dst = fld o.s2 11 0)
    (hm : m = { src := s.devId, vch := immBits o.word 1 0, ctx := fld o.s2 17 12, vc := fld o.s2 25 18, job := c.job.toNat,
                addr := fld o.s2 57 26, tag := immBits o.word 23 8, msgid := s.fab.nextMsg.toNat, data := bs.map Prod.fst,
                poison := msgPoison bs }) :
    runSend s v x n o = .ok {
      st := sendMessage (s1.modFab (fun f => { f with
        nextMsg := s.fab.nextMsg + 1, sends := f.sends ++ [⟨s.fab.nextMsg.toNat, v, o.id, s.now, dst⟩] })) dst m bs,
      d1 := some (dataTok (arg1 o)), held := true, msg := s.fab.nextMsg.toNat } := by
  have read : OnlyMemHost s s1 := hs1 ▸ discoverRuns_onlyMemHost s _ _ _
  have ctx : s1.ctx? v.ctx = some c := by rw [State.ctx?, read.ctxs_eq]; exact hc
  have dev : s1.devId = s.devId := by rw [State.devId, read.fab_eq]; rfl
  have now : s1.now = s.now := by rw [State.now, read.time_eq]; rfl
  rw [hm, hdst, ← dev, ← now, ← read.fab_eq]
  subst hbs hs1
  simp only [runSend, hsrc, hk, Res.ok_bind, Res.pure_eq, ctx]

/-- Settles O12: each run is worked out from what has been read, and a started operation lands what its run answers. -/
theorem dmaOperationsComplete : Obligations.DmaOperationsComplete := by
  refine ⟨?moves, ?gather, ?send⟩
  case moves =>
    rintro s s1 v x o n hint src dst ps rs fs rfl rfl ok hps hrs hs hd hs1 rfl
    refine ⟨fun h hsrc hdst => ?load, fun h hsrc hdst plain => ?store, fun one => by simp [hrs, one]⟩
    case load =>
      have moved := moveOp_of_ok (v := v) (x := unitView x o) ok hps hrs hs hd hs1
      exact congrArg Host.Outcome.next (perform_ok h rfl (runLoad_of_moved hsrc hdst moved))
    case store =>
      have moved := moveOp_of_ok (v := v) (x := unitView x o) ok hps hrs hs hd hs1
      simp only [plain, Bool.false_eq_true, if_false] at moved
      exact congrArg Host.Outcome.next (perform_ok h rfl (runStore_of_moved hsrc hdst moved))
  case gather =>
    rintro s s1 s2 s3 v x o n k cnt hint list table dst words rows idx h rfl hk k0 hh hlist htable hdst fmt sq uni hcnt hwords cl hs1 clean
      hidx inTable hrows ct cd hs2 hs3
    have run := runGather_of_clean (x := unitView x o) hk k0 hh hlist htable hdst fmt sq uni hcnt hwords cl hs1 clean hidx inTable hrows
      ct cd hs2 hs3
    exact congrArg Host.Outcome.next (perform_ok h rfl run)
  case send =>
    rintro s s1 v c x o n dst src bs m hc h rfl hsrc hk hs1 hbs hdst hm
    have landed := perform_ok h rfl (runSend_of_read (x := unitView x o) hc hsrc hk hs1 hbs hdst hm)
    exact congrArg Host.Outcome.next (congrArg settle landed)

/-! ### Mismatches (R101, R104, R107, R398) -/

section
variable {s : State} {n : Nat} {v : VRef} {x : Vcore} {o : UOp}

/-- A mismatch of an array is latched and marks the oldest operation in flight that it fits (R101, R107). -/
theorem execResidueCheckpoint_array {arrB bufB lockstep twin : Bool} (hx : s.vc? v = some x) (hn : x.core = n)
    (reported : (s.core n).arrCtl.getLsbD 0 = true ∨ lockstep = true)
    (found : x.ops.find? (fun o => o.phase != .queued && (inUnit (if arrB then .arrb else .arra) o.word && (opOf o.word == 0x22) == twin &&
      (!lockstep || t3Of o))) = some o) :
    execResidueCheckpoint n (.array v arrB bufB lockstep twin) s = .next (mismatchOp (s.modCore n (fun r => { r with
      resErr := latchResErr r.resErr arrB bufB lockstep v.ctx })) v x o) := by
  subst hn
  have asked : ((s.core x.core).arrCtl.getLsbD 0 || lockstep) = true := by simpa using reported
  simp only [execResidueCheckpoint, hx, asked, and_self, if_true, inFlight, found, mismatchArr]

/-- A mismatch of the vector unit marks its oldest operation in flight (R101). -/
theorem execResidueCheckpoint_vector (hx : s.vc? v = some x) (hn : x.core = n)
    (found : x.ops.find? (fun o => o.phase != .queued && inUnit .vec o.word) = some o) :
    execResidueCheckpoint n (.vector v) s = .next (mismatchOp s v x o) := by
  simp only [execResidueCheckpoint, hx, if_pos hn, inFlight, found]

theorem execResidueCheckpoint_conversion (hx : s.vc? v = some x) (hn : x.core = n)
    (found : x.ops.find? (fun o => o.phase != .queued && inUnit .cvt o.word) = some o) :
    execResidueCheckpoint n (.conversion v) s = .next (mismatchOp s v x o) := by
  simp only [execResidueCheckpoint, hx, if_pos hn, inFlight, found]

/-- With no operation in flight a mismatch of the vector unit is not reported. -/
theorem execResidueCheckpoint_vector_idle (hx : s.vc? v = some x) (ho : x.ops = []) :
    execResidueCheckpoint n (.vector v) s = .next s := by
  by_cases hn : x.core = n
  · simp [execResidueCheckpoint, hx, hn, inFlight, ho]
  · simp [execResidueCheckpoint, hx, hn]

/-- A mismatch of an update engine queues a check of a layer that its open attempt has passed (R398). -/
theorem execResidueCheckpoint_engine {k layer : Nat} (hp : (s.att (clusterPart s k)).passed.contains layer = true)
    (hr : (s.att (clusterPart s k)).readySent = false) :
    execResidueCheckpoint n (.engine k layer) s =
      .next (queueLayerCheck (raise s 0x4101 (some (clusterPart s k)) none (data4 0xFF k 0 (curStep s (clusterPart s k)))) (clusterPart s k) k
        layer (ludAt s (clusterPart s k) layer) (!(s.cmt (clusterPart s k)).sel.getLsbD layer) true) := by
  simp only [execResidueCheckpoint, hp, hr, Bool.not_false, Bool.and_self, if_true]

theorem execResidueCheckpoint_engine_idle {k layer : Nat}
    (h : (s.att (clusterPart s k)).passed.contains layer = false ∨ (s.att (clusterPart s k)).readySent = true) :
    execResidueCheckpoint n (.engine k layer) s = .next s := by
  have idle : ((s.att (clusterPart s k)).passed.contains layer && !(s.att (clusterPart s k)).readySent) = false := by
    rcases h with h | h
    · rw [h, Bool.false_and]
    · rw [h, Bool.not_true, Bool.and_false]
  simp only [execResidueCheckpoint, idle, Bool.false_eq_true, if_false]

/-- An operation is found by its id where no other has it. -/
theorem find?_id_of_unique {ops : List UOp} (ho : o ∈ ops) (unique : ∀ p ∈ ops, p.id = o.id → p = o) :
    ops.find? (fun p => p.id == o.id) = some o := by
  cases h : ops.find? (fun p => p.id == o.id) with
  | none => exact absurd (beq_self_eq_true o.id) (List.find?_eq_none.mp h o ho)
  | some p => rw [unique p (List.mem_of_find?_eq_some h) (by simpa using List.find?_some h)]

/-- An operation that has not made its effect yet is marked, and nothing else (R101). -/
theorem suspectOp_of_started {t : State} (hx : t.vc? v = some x) (found : x.ops.find? (fun p => p.id == o.id) = some o)
    (hp : o.phase = .started) (resid : Bool) :
    suspectOp t v o.id resid = modOp t v o.id (fun p => { p with susp := true, resid := p.resid || resid }) := by
  have early : (o.phase != .performed || o.err.isSome) = true := by simp [hp]
  simp only [suspectOp, hx, found, early, if_true]

/-- A mismatch raises 0x4101 and marks its operation suspect for its residue (R101). -/
theorem mismatchOp_of_started (hx : s.vc? v = some x) (ho : o ∈ x.ops) (unique : ∀ p ∈ x.ops, p.id = o.id → p = o)
    (hp : o.phase = .started) :
    mismatchOp s v x o = modOp (raiseCtx s 0x4101 v.ctx (data4 x.core (x.core / 8) 0 (curStep s (ctxPart s v.ctx)))) v o.id
      (fun p => { p with susp := true, resid := p.resid || true }) :=
  suspectOp_of_started (t := raiseCtx s 0x4101 v.ctx (data4 x.core (x.core / 8) 0 (curStep s (ctxPart s v.ctx)))) hx
    (find?_id_of_unique ho unique) hp true

theorem modOp_vc? {t : State} (hx : t.vc? v = some x) (id : Nat) (f : UOp → UOp) :
    (modOp t v id f).vc? v = some { x with ops := x.ops.map (fun o => if o.id = id then f o else o) } := t.vc?_modVc hx _

end

/-! ### ARR_RESERR (R107) -/

section
variable (r : Word32) (arrB bufB lockstep : Bool) {k : Nat}

/-- The count of mismatches that ARR_RESERR shows after another (R107). -/
def resErrCount (r : Word32) : Nat := min (fld r 31 16 + 1) 65535

theorem resErrCount_lt : resErrCount r < 2 ^ 16 := by
  unfold resErrCount
  omega

/-- After the first mismatch the next only advances the count. -/
theorem latchResErr_of_later (h : r.getLsbD 0 = true) :
    (latchResErr r arrB bufB lockstep k).toNat = r.toNat % 2 ^ 16 + resErrCount r * 2 ^ 16 := by
  have count := resErrCount_lt r
  have whole := r.isLt
  have latched : latchResErr r arrB bufB lockstep k = setFld r 31 16 (resErrCount r) := if_pos h
  simp only [latched, setFld, setBits, bits, BitVec.toNat_ofNat, Nat.shiftRight_eq_div_pow]
  omega

/-- The first mismatch records its array, its buffer, whether the arrays ran in lock step, and its context. -/
theorem latchResErr_of_first (h : r.getLsbD 0 = false) (hk : k < 64) :
    (latchResErr r arrB bufB lockstep k).toNat =
      1 + b2n arrB * 2 + b2n bufB * 4 + b2n lockstep * 8 + k * 2 ^ 8 + 2 ^ 14 + resErrCount r * 2 ^ 16 := by
  have count := resErrCount_lt r
  have latched : latchResErr r arrB bufB lockstep k = BitVec.ofNat 32
      (1 + b2n arrB * 2 + b2n bufB * 4 + b2n lockstep * 8 + k % 64 * 2 ^ 8 + 2 ^ 14 + resErrCount r * 2 ^ 16) :=
    if_neg (by rw [h]; exact Bool.false_ne_true)
  have bounds := And.intro (b2n_lt arrB) (And.intro (b2n_lt bufB) (b2n_lt lockstep))
  rw [latched, Nat.mod_eq_of_lt hk, BitVec.toNat_ofNat, Nat.mod_eq_of_lt (by omega)]

/-- Bit `i` of a word, by its number. -/
theorem getLsbD_eq_decide {w : Nat} (y : BitVec w) (i : Nat) : y.getLsbD i = decide (y.toNat / 2 ^ i % 2 = 1) :=
  Nat.testBit_eq_decide_div_mod_eq

theorem fld_eq_div {w : Nat} (y : BitVec w) (hi lo : Nat) : fld y hi lo = y.toNat / 2 ^ lo % 2 ^ (hi + 1 - lo) := by
  rw [fld, bits, Nat.shiftRight_eq_div_pow]

/-- What ARR_RESERR shows after it has latched a mismatch of context `k`: of a first one its cause, and the count of all. -/
theorem latchResErr_reads (hk : k < 64) :
    (latchResErr r arrB bufB lockstep k).getLsbD 0 = true ∧
    (r.getLsbD 0 = true → fld (latchResErr r arrB bufB lockstep k) 15 1 = fld r 15 1) ∧
    (r.getLsbD 0 = false → (latchResErr r arrB bufB lockstep k).getLsbD 1 = arrB ∧ (latchResErr r arrB bufB lockstep k).getLsbD 2 = bufB ∧
      (latchResErr r arrB bufB lockstep k).getLsbD 3 = lockstep ∧ fld (latchResErr r arrB bufB lockstep k) 13 8 = k) ∧
    fld (latchResErr r arrB bufB lockstep k) 31 16 = resErrCount r := by
  have count := resErrCount_lt r
  cases h : r.getLsbD 0 with
  | true =>
    have set : r.toNat / 2 ^ 0 % 2 = 1 := by simpa only [getLsbD_eq_decide, decide_eq_true_eq] using h
    simp only [fld_eq_div, getLsbD_eq_decide, latchResErr_of_later r arrB bufB lockstep h, decide_eq_true_eq]
    exact ⟨by omega, fun _ => by omega, nofun, by omega⟩
  | false =>
    obtain ⟨hA, hB, hL⟩ := And.intro (b2n_lt arrB) (And.intro (b2n_lt bufB) (b2n_lt lockstep))
    have value := latchResErr_of_first r arrB bufB lockstep h hk
    have flag : ∀ (b : Bool) (m : Nat), m = b2n b → decide (m = 1) = b := fun b m e => e ▸ decide_b2n b
    simp only [fld_eq_div, getLsbD_eq_decide, value, decide_eq_true_eq]
    exact ⟨by omega, nofun, fun _ => ⟨flag _ _ (by omega), flag _ _ (by omega), flag _ _ (by omega), by omega⟩, by omega⟩

end

/-! ### Faults of a core and the reset they ask for (R398, R409, R410) -/

section
variable {s : State} {n : Nat} {v : VRef}

/-- A reset of a core or of a cluster, asked for while none waits. -/
theorem requestReset_of_narrow (hq : s.rel.rstQueue = []) {scope : Nat} (hs : scope < 2) (target : Nat) :
    requestReset s scope target none = s.modRel (fun r => { r with rstQueue := [(scope, target, none)], rstBusy := true }) := by
  have notPart : scope ≠ 2 := by omega
  have notWide : ¬ 3 ≤ scope := by omega
  simp only [requestReset, if_neg notPart, if_neg notWide, State.modRel, hq, List.nil_append]

/-- Where no other reset waits, a fault of a core asks for the core's own (R410). -/
theorem faultScope_core (hq : s.rel.rstQueue = []) : faultScope s n false = (0, n) := by
  simp [faultScope, hq]

theorem faultScope_engine (hq : s.rel.rstQueue = []) (k : Nat) : faultScope s (8 * k) true = (1, k) := by
  simp [faultScope, hq]

/-- A fault of a core under a named context raises its event and asks for the core's reset (R410). -/
theorem coreFault_of_named (hq : s.rel.rstQueue = []) (code k : Nat) :
    coreFault s code n (some k) =
      requestReset (raise s code (some (ctxPart s k)) (some k) (data4 n (n / 8) 0 (curStep s (ctxPart s k)))) 0 n none := by
  have scope := faultScope_core (s := coreEvent s code n (some k)) (n := n) hq
  simp only [coreFault, Option.isNone_some, Bool.false_eq_true, if_false, scope]
  rfl

theorem namedOn_slot {slot : Nat} (h : tget (s.core n).slots slot = some v) : namedOn s n (some slot) = some v.ctx := by
  simp [namedOn, h]

theorem namedOn_issuing {i : Nat} (hi : (s.core n).issuing = some i) (h : tget (s.core n).slots i = some v) :
    namedOn s n none = some v.ctx := by
  simp [namedOn, hi, h]

theorem coreStopped_of_running (hd : dieStopped s (n / 64) = false) (hq : s.rel.rstQueue = []) : coreStopped s n = false := by
  simp [coreStopped, coreInReset, hd, hq]

/-- A first parity error of a core in a slot (R398): it is recorded with its source and context, and the core's reset is asked for. -/
theorem execParityError_of_slot {source slot : Nat} (hp : (s.core n).parErr = false) (hv : tget (s.core n).slots slot = some v)
    (hq : s.rel.rstQueue = []) :
    execParityError n source (some slot) s = .next (requestReset (raise (s.modCore n (fun r => { r with
        parErr := true, parSrc := BitVec.ofNat 3 source, parCtx := some v.ctx }))
      0x4102 (some (ctxPart s v.ctx)) (some v.ctx) (data4 n (n / 8) 0 (curStep s (ctxPart s v.ctx)))) 0 n none) := by
  have recorded : s.modCore n (fun r => if r.parErr then r else { r with
      parErr := true, parSrc := BitVec.ofNat 3 source, parCtx := some v.ctx }) =
      s.modCore n (fun r => { r with parErr := true, parSrc := BitVec.ofNat 3 source, parCtx := some v.ctx }) := by
    have unrecorded : (tgetD s.cores n {}).parErr = false := hp
    simp only [State.modCore, tmod, unrecorded, Bool.false_eq_true, if_false]
  simp only [execParityError, namedOn_slot hv, recorded]
  exact congrArg Host.Outcome.next (coreFault_of_named (s := s.modCore n _) hq 0x4102 v.ctx)

/-- A core that has stalled is reported under its issuing context, and its reset is asked for (R409). -/
theorem execWatchdogExpiry_core {i : Nat} (hb : fld s.rel.ctl 3 0 ≤ (s.core n).stallb.toNat) (hd : dieStopped s (n / 64) = false)
    (hq : s.rel.rstQueue = []) (hi : (s.core n).issuing = some i) (hv : tget (s.core n).slots i = some v) :
    execWatchdogExpiry (.core n) s = .next (requestReset (raise s 0x4301 (some (ctxPart s v.ctx)) (some v.ctx)
      (data4 n (n / 8) 0 (curStep s (ctxPart s v.ctx)))) 0 n none) := by
  simp only [execWatchdogExpiry, hb.not_gt, decide_false, Bool.false_or, coreStopped_of_running hd hq, Bool.false_eq_true, if_false,
    namedOn_issuing hi hv, coreFault_of_named hq]

theorem execWatchdogExpiry_core_idle (hb : (s.core n).stallb.toNat < fld s.rel.ctl 3 0) : execWatchdogExpiry (.core n) s = .next s := by
  simp [execWatchdogExpiry, hb]

/-- An update engine that has stalled is reported for its partition, whose contexts are its suspects, and its cluster's reset is asked for
(R409, R416). -/
theorem execWatchdogExpiry_engine {k : Nat} (hb : fld s.rel.ctl 3 0 ≤ (s.cluster k).stallb.toNat) (hd : dieStopped s (k / 8) = false)
    (hq : s.rel.rstQueue = []) :
    execWatchdogExpiry (.engine k) s = .next (requestReset ((raise s 0x4301 (some (clusterPart s k)) none
      (data4 0xFF k 0 (curStep s (clusterPart s k)))).modRel (fun r => { r with
        suspects := tput r.suspects (256 + k) (partCtxs s (clusterPart s k)) })) 1 k none) := by
  have die : 8 * k / 64 = k / 8 := by omega
  have running : coreStopped s (8 * k) = false := coreStopped_of_running (die ▸ hd) hq
  simp only [execWatchdogExpiry, hb.not_gt, decide_false, Bool.false_or, running, Bool.false_eq_true, if_false]
  rw [faultScope_engine]
  · rfl
  · exact hq

theorem execWatchdogExpiry_engine_idle {k : Nat} (hb : (s.cluster k).stallb.toNat < fld s.rel.ctl 3 0) :
    execWatchdogExpiry (.engine k) s = .next s := by
  simp [execWatchdogExpiry, hb]

/-! ### The Ringmaster's failover (R408) -/

theorem addRepair_of_room {t : State} (h : t.rel.repair.length < 4096) (kind action logical physical cause : Nat) :
    addRepair t kind action logical physical cause = t.modRel (fun r => { r with
      repair := r.repair ++ [⟨kind, action, logical, physical, BitVec.ofNat 16 cause, lifeSeconds t⟩] }) := by
  simp only [addRepair, addEntry, State.modRel, if_pos h]

/-- Three marks without a heartbeat, with a standby (R408): the marks and the failover are counted, the standby takes over with its
entry in the repair record, and 0x4302 and 0x4303 are raised. -/
theorem execRingmasterFailover_of_standby (ha : awake s = true) (hr : s.mgmt.bootrom = false) (hs : s.mgmt.standbyOk = true)
    (hl : s.rel.repair.length < 4096) :
    execRingmasterFailover s = .next (raiseDev ((raiseDev (s.modRel (fun r => { r with
        missed := satInc r.missed 3, failovers := satInc r.failovers,
        repair := r.repair ++ [⟨5, 0, b2n s.mgmt.rmcore, b2n s.mgmt.rmcore, 0x4302, lifeSeconds s⟩] })) 0x4302
      (data4 0 0 0 0)).modMgmt (fun m => { m with rmcore := !m.rmcore, standbyOk := false })) 0x4303 (data4 0 0 0 0)) := by
  simp only [execRingmasterFailover, ha, hr, Bool.not_true, Bool.false_or, Bool.false_eq_true, if_false, State.modRel_mgmt, hs]
  rw [addRepair_of_room]
  · rfl
  · exact hl

/-- Without a standby only the missed marks count (R408). -/
theorem execRingmasterFailover_alone (ha : awake s = true) (hr : s.mgmt.bootrom = false) (hs : s.mgmt.standbyOk = false) :
    execRingmasterFailover s = .next (s.modRel (fun r => { r with missed := satInc r.missed 3 })) := by
  simp only [execRingmasterFailover, ha, hr, Bool.not_true, Bool.false_or, Bool.false_eq_true, if_false, State.modRel_mgmt, hs,
    Bool.not_false, if_true]

end

/-! ### Checks (R404 to R406, R430) -/

section
variable {s : State} {c : Check} {i : Nat}

@[simp] theorem State.part_modRel (s : State) (f : Rel → Rel) (n : Nat) : (s.modRel f).part n = s.part n := rfl

theorem execCheckStart_unready (h : s.mgmt.fwstate ≠ 2) : execCheckStart s = .next s := by
  rw [execCheckStart, if_pos h]

/-- With one check alone, replacing it leaves the replacement. -/
theorem putCheck_of_alone {t : State} {d : Check} (h : t.rel.checks = [c]) (hid : d.id = c.id) :
    (putCheck t d).rel.checks = [d] := by
  simp [putCheck, h, hid]

/-- What CHECK_START asks of a check before it starts (R404). -/
theorem execCheckStart_of_alone (hf : s.mgmt.fwstate = 2) (hc : s.rel.checks = [c]) (hs : c.started = false) (hcl : c.closing = false)
    (ha : areaOk s c.part = true) (hp : pickFor s c = some i) :
    execCheckStart s = .next (if groupsPending s c.part (c.waits.map Prod.fst) then s
      else s.modRel (fun r => { r with checks := [{ c with started := true, on := some i }] })) := by
  cases hg : groupsPending s c.part (c.waits.map Prod.fst) with
  | true => simp [execCheckStart, hf, hc, hg]
  | false => simp [execCheckStart, hf, hc, hs, hcl, ha, hp, hg, putCheck, State.modRel]

/-- What the end of a computation at place `i` does with its check (R405, R406, R430). -/
def endCheck (s : State) (c : Check) (i : Nat) : CheckEnd → State
  | .result bs => compareCheck s c i bs
  | .mismatch => putCheck (if c.layer.isSome then s else markCheckCore s i 0x4101)
      { c with started := false, on := none, avoid := i :: c.avoid }
  | .poison p => conclude (checkPoison s c p) c

/-- CHECK_COMPARE of the one check there is, which runs on a check core whose die has not stopped. -/
theorem execCheckCompare_of_alone (hc : s.rel.checks = [c]) (hs : c.started = true) (ho : c.on = some i) (hi : i < 256)
    (hd : dieStopped s (i / 8) = false) (r : CheckEnd) : execCheckCompare c.id r s = .next (endCheck s c i r) := by
  have found : s.rel.checks.find? (fun d => d.id == c.id && d.started) = some c := by simp [hc, hs]
  cases r <;> simp only [execCheckCompare, found, ho, if_pos hi, hd, Bool.false_eq_true, if_false, endCheck]

theorem execCheckCompare_of_none (h : s.rel.checks = []) (id : Nat) (r : CheckEnd) : execCheckCompare id r s = .next s := by
  simp [execCheckCompare, h]

/-- A check of no held operation concludes: it is counted, and leaves the list and its partition's pending checks (R406). -/
theorem conclude_of_free (hv : c.vref = none) :
    conclude s c = (s.modRel (fun r => { r with checks := r.checks.filter (fun d => d.id != c.id), checksN := satInc r.checksN })).modPart
      c.part (fun p => { p with sn := { p.sn with pending := p.sn.pending - 1, checks := satInc p.sn.checks } }) := by
  simp only [conclude, hv]

/-- An event of a check of a unit's operation names the original core. -/
theorem checkEvent_of_core (hl : c.layer = none) (code : Nat) :
    checkEvent s c code = raise s code (some c.part) c.ctx (data4 c.core (c.core / 8) 0 (curStep s c.part)) := by
  simp [checkEvent, hl]

/-- A second computation that agrees concludes its check (R405). -/
theorem compareCheck_of_agreement (hb : c.b = none) (hr : c.resid = false) : compareCheck s c i c.a = conclude s c := by
  simp [compareCheck, hb, hr]

/-- A second computation that disagrees raises 0x4201 and asks for a third (R405). -/
theorem compareCheck_of_disagreement {bs : List Byte} (hl : c.layer = none) (hb : c.b = none) (hne : bs ≠ c.a)
    (third : thirdExists s { c with bOn := some i } = true) :
    compareCheck s c i bs = putCheck (raise (s.modRel (fun r => { r with disagree := satInc r.disagree })) 0x4201 (some c.part) c.ctx
      (data4 c.core (c.core / 8) 0 (curStep s c.part))) { c with b := some bs, bOn := some i, started := false, on := none } := by
  have place : thirdExists (raise (s.modRel (fun r => { r with disagree := satInc r.disagree })) 0x4201 (some c.part) c.ctx
      (data4 c.core (c.core / 8) 0 (curStep s c.part))) { c with b := some bs, bOn := some i, started := false, on := none } = true :=
    third
  simp only [compareCheck, hb, if_neg hne, checkEvent_of_core hl]
  exact if_pos place

/-- A third computation that agrees with the original marks the place of B (R405). -/
theorem compareCheck_of_original {b : List Byte} {j : Nat} (hl : c.layer = none) (hb : c.b = some b) (hj : c.bOn = some j) :
    compareCheck s c i c.a = conclude (markCheckCore (raise (s.modRel (fun r => { r with majority := satInc r.majority })) 0x4202
      (some c.part) c.ctx (data4 c.core (c.core / 8) 0 (curStep s c.part))) j 0x4202) c := by
  simp only [compareCheck, hb, if_true, checkEvent_of_core hl, hj, markPlace, hl, Option.isSome_none, Bool.false_eq_true, if_false]
  rfl

/-- A third computation that agrees with B, of an output that nothing holds, marks the original and abandons the attempt (R405). -/
theorem compareCheck_of_second {b : List Byte} (hl : c.layer = none) (hb : c.b = some b) (hne : b ≠ c.a) (hv : c.vref = none) :
    compareCheck s c i b = conclude (causeAbandon (markCore (raise (s.modRel (fun r => { r with majority := satInc r.majority })) 0x4202
      (some c.part) c.ctx (data4 c.core (c.core / 8) 0 (curStep s c.part))) c.core 0x4202) c.part 4) c := by
  simp only [compareCheck, hb, if_neg hne, if_true, checkEvent_of_core hl, markPlace, hl, hv, Option.isSome_none, Bool.false_or,
    Bool.false_eq_true, if_false]
  rfl

/-- Three results that all differ put their places into quarantine and abandon the attempt (R405). -/
theorem compareCheck_of_three {b bs : List Byte} (hl : c.layer = none) (hb : c.b = some b) (hs : bs ≠ b) (hne : bs ≠ c.a) :
    compareCheck s c i bs = checkAbandons (quarantineAll (raise (s.modRel (fun r => { r with threeway := satInc r.threeway })) 0x4203
      (some c.part) c.ctx (data4 c.core (c.core / 8) 0 (curStep s c.part))) c i) c := by
  simp only [compareCheck, hb, if_neg hne, if_neg hs, checkEvent_of_core hl]
  rfl

/-- An entry of the repair record leaves the checks and memory as they are. -/
theorem addRepair_keeps (t : State) (kind action logical physical cause : Nat) :
    (addRepair t kind action logical physical cause).rel.checks = t.rel.checks ∧
    (addRepair t kind action logical physical cause).mem = t.mem := by
  refine ⟨?_, rfl⟩
  simp only [addRepair, addEntry, State.modRel_rel]
  split
  · rfl
  · split <;> rfl

/-- A suspect mark on a check core leaves the checks and memory as they are. -/
theorem markCheckCore_keeps (t : State) (j cause : Nat) :
    (markCheckCore t j cause).rel.checks = t.rel.checks ∧ (markCheckCore t j cause).mem = t.mem := by
  simp only [markCheckCore]
  split <;> simp only [addRepair_keeps, State.modRel_rel, State.modRel_mem, and_self]

end

/-- Settles O54: mismatches and parity, then checks by the result of a computation, then failover and watchdogs. -/
theorem faultsAreReportedAndChecked : Obligations.FaultsAreReportedAndChecked := by
  refine ⟨fun s n => ⟨?array, ?vector, ?conversion, ?marked, ?latched, ?engine, ?idle, ?parity⟩,
    fun s => ⟨execCheckStart_unready, ?start, ?compare, fun id r h => execCheckCompare_of_none h id r⟩,
    fun s ha hr => ⟨?failover, execRingmasterFailover_alone ha hr, fun n v i hb hd hq hi hv => execWatchdogExpiry_core hb hd hq hi hv,
      fun n hb => execWatchdogExpiry_core_idle hb, fun k hb hd hq => execWatchdogExpiry_engine hb hd hq,
      fun k hb => execWatchdogExpiry_engine_idle hb⟩⟩
  case array => exact fun v x o arrB bufB lockstep twin hx hn reported found => execResidueCheckpoint_array hx hn reported found
  case vector => exact fun v x o hx hn found => execResidueCheckpoint_vector hx hn found
  case conversion => exact fun v x o hx hn found => execResidueCheckpoint_conversion hx hn found
  case marked =>
    intro v x o hx ho unique hp
    let reported := raiseCtx s 0x4101 v.ctx (data4 x.core (x.core / 8) 0 (curStep s (ctxPart s v.ctx)))
    rw [mismatchOp_of_started hx ho unique hp]
    refine ⟨_, _, rfl, modOp_vc? (t := reported) hx _ _, fun p hm hid => ?_, State.modVc_mem reported _ _,
      congrArg HostIf.raised (State.modVc_host reported _ _)⟩
    obtain ⟨q, -, rfl⟩ := List.mem_map.mp hm
    by_cases same : q.id = o.id
    · simp [same]
    · exact absurd (by rwa [if_neg same] at hid) same
  case latched =>
    rintro r arrB bufB lockstep k rfl hk
    exact latchResErr_reads (s.core n).resErr arrB bufB lockstep hk
  case engine =>
    rintro k layer p rfl
    exact ⟨execResidueCheckpoint_engine (n := n), execResidueCheckpoint_engine_idle (n := n)⟩
  case idle => exact fun v x hx ho => execResidueCheckpoint_vector_idle hx ho
  case parity =>
    intro source slot v hp hsrc hv hq
    have recorded := s.core_modCore n (fun r => { r with parErr := true, parSrc := BitVec.ofNat 3 source, parCtx := some v.ctx })
    have named : (BitVec.ofNat 3 source).toNat = source := by rw [BitVec.toNat_ofNat, Nat.mod_eq_of_lt hsrc]
    refine ⟨_, execParityError_of_slot hp hv hq, ?_⟩
    rw [requestReset_of_narrow (by exact hq) (by decide)]
    exact ⟨congrArg Core.parErr recorded, (congrArg (fun r => r.parSrc.toNat) recorded).trans named, congrArg Core.parCtx recorded, rfl, rfl,
      rfl, rfl, rfl⟩
  case start =>
    intro c i hf hc hs hcl ha hp
    have run := execCheckStart_of_alone hf hc hs hcl ha hp
    exact ⟨fun pending => run.trans (by rw [if_pos pending]), fun final => run.trans (by simp [final])⟩
  case compare =>
    intro c i hc hs ho hi hd hl
    have run : ∀ {r : CheckEnd} {t : State}, endCheck s c i r = t → exec (.checkCompare c.id r) s = .next t :=
      fun e => (execCheckCompare_of_alone hc hs ho hi hd _).trans (congrArg Host.Outcome.next e)
    refine ⟨fun hb hr hv => ?agrees, fun bs hne hb third => ?disagrees, fun b j hb hj => run (compareCheck_of_original hl hb hj),
      fun b hb hne hv => run (compareCheck_of_second hl hb hne hv), fun b bs hb hbs hne => run (compareCheck_of_three hl hb hbs hne),
      ?discarded, fun p => run rfl⟩
    case agrees =>
      refine ⟨_, run ((compareCheck_of_agreement hb hr).trans (conclude_of_free hv)), ?_⟩
      simp [hc]
    case disagrees =>
      exact ⟨_, run (compareCheck_of_disagreement hl hb hne third), putCheck_of_alone hc rfl, rfl, rfl, rfl⟩
    case discarded =>
      obtain ⟨checks, mem⟩ := markCheckCore_keeps s i 0x4101
      have place : endCheck s c i .mismatch = putCheck (markCheckCore s i 0x4101)
          { c with started := false, on := none, avoid := i :: c.avoid } := by
        simp [endCheck, hl]
      exact ⟨_, run place, putCheck_of_alone (checks.trans hc) rfl, mem⟩
  case failover =>
    intro hs hl
    refine ⟨_, execRingmasterFailover_of_standby ha hr hs hl, ?_⟩
    simp [raiseDev]

end Sys2Proof.Machine

namespace Sys2Proof.Machine

open Sys2Proof

/-! SUPPORT. What becomes of a contribution that lands, of a closed group that is judged, and of an accumulator entry that is flushed,
with the three statements of the scaling family. -/

/-! ### Contributions that land (R122, R127) -/

theorem OnlyMemHost.gsrq_eq {s t : State} (h : OnlyMemHost s t) : t.gsrq = s.gsrq := by rw [h]
theorem OnlyMemHost.verdicts_eq {s t : State} (h : OnlyMemHost s t) : t.verdicts = s.verdicts := by rw [h]
theorem OnlyMemHost.cores_eq {s t : State} (h : OnlyMemHost s t) : t.cores = s.cores := by rw [h]

/-- A record of a later tag does not open for a contribution (R127). -/
theorem gsrOpen_of_later {g : Nat} {c : BitVec 512} (h : cvKey c < gsrKey g) (thr : Word64) : gsrOpen g c thr = none := by
  rw [gsrOpen, if_neg (Nat.lt_asymm h), if_neg (Nat.ne_of_gt h)]

section Gsr
variable {s s1 : State} {m : GsrMsg} {g : Nat} (hd : s1 = demand s (some m.v.ctx) m.gsr 64)
include hd

theorem landGsr_of_later (h : cvKey m.cvd < gsrKey (devNat s1 m.gsr 64)) : landGsr s m = s1 := by
  subst hd
  simp only [landGsr, gsrOpen_of_later h, ite_self]

theorem landGsr_of_oldLevel (h : oldLevel s1 m.cvd = true) : landGsr s m = s1 := by
  subst hd
  simp only [landGsr, h, if_true]

theorem landGsr_of_short (hl : oldLevel s1 m.cvd = false) (hg : gsrOpen (devNat s1 m.gsr 64) m.cvd m.thr = some g)
    (short : bits (gsrAdd g m) 159 128 < m.total) : landGsr s m = homeWrite s1 m.gsr (natToBytes 64 (gsrAdd g m)) := by
  subst hd
  simp [landGsr, hl, hg, Nat.not_le_of_lt short]

/-- The contribution that completes its group closes the record, counts the group in its tensor's header, and asks for the verdict. -/
theorem landGsr_of_complete (hl : oldLevel s1 m.cvd = false) (hg : gsrOpen (devNat s1 m.gsr 64) m.cvd m.thr = some g)
    (complete : m.total ≤ bits (gsrAdd g m) 159 128) (stillOpen : bit (gsrAdd g m) 85 = false) :
    ∃ u, OnlyMemHost s u ∧ (cvHasTsr m.cvd = false → u = homeWrite s1 m.gsr (natToBytes 64 (setBits (gsrAdd g m) 85 85 1))) ∧
      landGsr s m = { u with
        verdicts := u.verdicts ++ [{ v := m.v, gsr := m.gsr, cvd := m.cvd, group := m.group, cap := m.cap }] } := by
  subst hd
  have closed : OnlyMemHost s (homeWrite (demand s (some m.v.ctx) m.gsr 64) m.gsr (natToBytes 64 (setBits (gsrAdd g m) 85 85 1))) :=
    (demand_onlyMemHost ..).trans (homeWrite_onlyMemHost ..)
  simp only [landGsr, hl, hg, complete, stillOpen, Bool.false_eq_true, if_false, decide_true, Bool.not_false, Bool.and_self, if_true]
  refine ⟨_, ?_, ?_, rfl⟩
  · split
    · exact closed.trans (homeWrite_onlyMemHost ..)
    · exact closed
  · intro noTsr
    simp [noTsr]

end Gsr

theorem exec_gsrTaggedUpdate_of_find {s : State} {m : GsrMsg}
    (h : s.gsrq.find? (fun m => !passOpen s m && !accessWaits s m.gsr 64) = some m) :
    exec .gsrTaggedUpdate s = .next (landGsr { s with gsrq := s.gsrq.erase m } m) := by
  change execGsrTaggedUpdate s = _
  simp only [execGsrTaggedUpdate, h]

theorem exec_tsrTaggedMax_of_find {s : State} {m : TsrMsg} (h : s.tsrq.find? (fun m => !accessWaits s m.tsr 320) = some m) :
    exec .tsrTaggedMax s = .next (landTsr { s with tsrq := s.tsrq.erase m } m) := by
  change execTsrTaggedMax s = _
  simp only [execTsrTaggedMax, h]

section Tsr
variable {s s1 : State} {m : TsrMsg} {a : Nat} (ha : a = m.tsr + 64 + 16 * (m.step.toNat % 16))
  (hd : s1 = demand s (some m.v.ctx) a 16)
include ha hd

/-- Under the slot's own tag the larger maximum stands (R122). -/
theorem landTsr_of_tag (hs : bits (devNat s1 a 16) 63 0 = m.step.toNat) (hat : bits (devNat s1 a 16) 111 96 = m.attempt.toNat) :
    landTsr s m = homeWrite s1 a (natToBytes 16 (setBits (setBits (setBits (devNat s1 a 16) 63 0 m.step.toNat) 95 64
      (maxNan (bits (devNat s1 a 16) 95 64) m.gmax.toNat)) 111 96 m.attempt.toNat)) := by
  subst hd ha
  simp [landTsr, hs, hat]

/-- Under another tag the slot starts afresh (R122). -/
theorem landTsr_of_other_tag (h : bits (devNat s1 a 16) 63 0 ≠ m.step.toNat ∨ bits (devNat s1 a 16) 111 96 ≠ m.attempt.toNat) :
    landTsr s m = homeWrite s1 a (natToBytes 16 (setBits (setBits (setBits (devNat s1 a 16) 63 0 m.step.toNat) 95 64
      m.gmax.toNat) 111 96 m.attempt.toNat)) := by
  subst hd ha
  have fresh := Bool.or_eq_true_iff.2 (h.imp bne_iff_ne.2 bne_iff_ne.2)
  simp only [landTsr, fresh, if_true]

end Tsr

/-- Settles O22: the oldest contribution that may land is worked out by its record's tag and its coverage, a maximum by its slot's tag. -/
theorem contributionsLandUnderTheirTag : Obligations.ContributionsLandUnderTheirTag := by
  refine ⟨fun s s1 m hf hd => ?counts, fun s s1 m a x hf ha hd => ?maximum, fun s h => ?noCounts, fun s h => ?noMaxima⟩
  case counts =>
    have run := exec_gsrTaggedUpdate_of_find hf
    refine ⟨fun h => by rw [run, landGsr_of_later hd h], fun h => by rw [run, landGsr_of_oldLevel hd h],
      fun g hl hg short => by rw [run, landGsr_of_short hd hl hg short], fun g hl hg complete stillOpen => ?closes⟩
    obtain ⟨u, frame, plain, land⟩ := landGsr_of_complete hd hl hg complete stillOpen
    refine ⟨_, run.trans (congrArg Host.Outcome.next land), frame.gsrq_eq, ?_, fun noTsr => ?_⟩
    · exact congrArg (· ++ _) frame.verdicts_eq
    · rw [plain noTsr]
  case maximum =>
    have run := exec_tsrTaggedMax_of_find hf
    exact ⟨fun hs hat hx => by rw [run, landTsr_of_tag ha hd hs hat, hx], fun h => by rw [run, landTsr_of_other_tag ha hd h]⟩
  case noCounts =>
    change execGsrTaggedUpdate s = _
    simp [execGsrTaggedUpdate, h]
  case noMaxima =>
    change execTsrTaggedMax s = _
    simp [execTsrTaggedMax, h]

/-! ### The procedure of R133 -/

section Procedure
variable {g t cap : Nat} {c : BitVec 512} {rb : Bool}

/-- A widening ends as WIDEN_GROUP, WIDEN_TENSOR or CEILING (R133). -/
theorem widen_mem (pos : Nat) : widen c rb pos ∈ [3, 4, 5] := by
  unfold widen
  split
  · decide
  · split <;> decide

theorem not_quiet_of_trigger (fired : (clips g || vanishes g) = true) : (!clips g && !vanishes g) = false := by
  rw [← Bool.not_or, fired, Bool.not_true]

section NoOverflow
variable (room : bits g 415 384 ≤ cap) (noNan : bits g 383 352 = 0)
include room noNan

/-- Without a NaN block and without Sideshow overflow the two share triggers decide (R133). -/
theorem verdictEvents_of_triggers :
    verdictEvents g cap = (if clips g then [0x1101] else []) ++ (if vanishes g then [0x1102] else []) := by
  simp [verdictEvents, noNan, Nat.not_lt.2 room]

theorem verdictOf_of_quiet (hc : clips g = false) (hv : vanishes g = false) : verdictOf g t c rb cap = some (0, []) := by
  simp [verdictOf, verdictEvents_of_triggers room noNan, noNan, Nat.not_lt.2 room, hc, hv]

/-- With rebaking off a trigger ends as CEILING (R130, R139). -/
theorem verdictOf_of_rebake_off (fired : (clips g || vanishes g) = true) :
    verdictOf g t c false cap = some (5, verdictEvents g cap) := by
  simp [verdictOf, noNan, Nat.not_lt.2 room, not_quiet_of_trigger fired]

/-- Clipping alone under a first delayed scale rescales the group (R133). -/
theorem verdictOf_of_clip (hc : clips g = true) (hv : vanishes g = false) (source : c.getLsbD 47 = false)
    (delayed : cvDelayed c = true) (unscaled : bits g 84 83 = 0) (first : cvFirst c = true) :
    verdictOf g t c true cap = some (1, [0x1101]) := by
  simp only [verdictOf, verdictEvents_of_triggers room noNan, noNan, Nat.not_lt.2 room, hc, hv, source, delayed, unscaled, first,
    Nat.lt_irrefl, if_false, if_true, Bool.not_true, Bool.not_false, Bool.false_and, Bool.or_self, Bool.and_self, beq_self_eq_true,
    Bool.false_eq_true, List.append_nil]

/-- A trigger leads to a verdict other than ACCEPT (R133). -/
theorem verdictOf_mem_of_trigger (fired : (clips g || vanishes g) = true) {v : Verdict} {ev : List Nat}
    (h : verdictOf g t c rb cap = some (v, ev)) : v ∈ [1, 2, 3, 4, 5] := by
  have widened : ∀ pos, widen c rb pos ∈ [1, 2, 3, 4, 5] := fun pos => List.mem_cons_of_mem _ (List.mem_cons_of_mem _ (widen_mem pos))
  simp only [verdictOf, noNan, Nat.not_lt.2 room, not_quiet_of_trigger fired, Nat.lt_irrefl, Bool.false_eq_true, if_false] at h
  split at h
  case isTrue => cases h; decide
  split at h
  case isTrue => cases h; decide
  split at h
  case isFalse => cases h; exact widened _
  split at h
  case isTrue => cases h
  split at h
  · cases h; decide
  · cases h; exact widened _

end NoOverflow
end Procedure

/-! ### What a final verdict changes (R133, R134, R138, R140) -/

/-- Reading device memory without a hint changes no byte of it (R280, R287). -/
theorem demand_bytes (s : State) (k : Option Nat) (da n : Nat) : (demand s k da n).mem.bytes = s.mem.bytes := by
  have fill : (discoverFill s k da n).mem.bytes = s.mem.bytes := by
    unfold discoverFill
    split
    · rfl
    · refine foldl_any (P := fun u : State => u.mem.bytes = s.mem.bytes) rfl fun u l hu => ?_
      split <;> exact (discover_keep ..).1.trans hu
  refine foldl_any (P := fun u : State => u.mem.bytes = s.mem.bytes) fill fun u l hu => ?_
  obtain ⟨ls, e⟩ := pantryRead1_lines u l
  rw [e]
  exact hu

theorem discoverRuns_bytes (s : State) (k : Option Nat) (dev : Bool) (rs : List Run) :
    (discoverRuns s k dev rs).mem.bytes = s.mem.bytes := by
  unfold discoverRuns
  split
  · exact foldl_any (P := fun u : State => u.mem.bytes = s.mem.bytes) rfl fun u r hu => (demand_bytes ..).trans hu
  · rfl

@[simp] theorem devNat_discoverRuns (s : State) (k : Option Nat) (dev : Bool) (rs : List Run) (da n : Nat) :
    devNat (discoverRuns s k dev rs) da n = devNat s da n := by
  simp only [devNat, devBytes, discoverRuns_bytes]

theorem verdictTsr_onlyMemHost (s : State) (c : BitVec 512) (t g cap : Nat) (v : Verdict) : OnlyMemHost s (verdictTsr s c t g cap v) := by
  unfold verdictTsr
  dsimp only
  split
  · exact OnlyMemHost.refl s
  · split
    · exact homeWrite_onlyMemHost ..
    · split
      · exact homeWrite_onlyMemHost ..
      · exact OnlyMemHost.refl s

/-- The accumulator is a matter of memory, of the partition and of events alone (R140). -/
theorem telAdd_keeps (s : State) (n layer fmt : Nat) (ks : List Nat) :
    (telAdd s n layer fmt ks).cores = s.cores ∧ (telAdd s n layer fmt ks).ctxs = s.ctxs ∧ (telAdd s n layer fmt ks).fab = s.fab := by
  unfold telAdd
  dsimp only
  split
  · split <;> exact ⟨rfl, rfl, rfl⟩
  · exact ⟨(homeWrite_onlyMemHost ..).cores_eq, (homeWrite_onlyMemHost ..).ctxs_eq, (homeWrite_onlyMemHost ..).fab_eq⟩

@[simp] theorem telAdd_cores (s : State) (n layer fmt : Nat) (ks : List Nat) : (telAdd s n layer fmt ks).cores = s.cores :=
  (telAdd_keeps s n layer fmt ks).1
@[simp] theorem telAdd_ctxs (s : State) (n layer fmt : Nat) (ks : List Nat) : (telAdd s n layer fmt ks).ctxs = s.ctxs :=
  (telAdd_keeps s n layer fmt ks).2.1
@[simp] theorem telAdd_fab (s : State) (n layer fmt : Nat) (ks : List Nat) : (telAdd s n layer fmt ks).fab = s.fab :=
  (telAdd_keeps s n layer fmt ks).2.2

/-- The record of a group with its final verdict (R126, R133). -/
def verdictRecord (g : Nat) (v : Verdict) : Nat := setBits (setBits (setBits g 89 87 v) 86 86 1) 90 90 (max (bits g 90 90) (b2n (v == 5)))

/-- A final verdict is written into its records and reported, its passes are due, what a suspect group feeds is marked, and the verdict is
counted for its core and in the accumulator (R133, R134, R138, R140). -/
theorem finalVerdict_eq (s : State) (m : VerdictMsg) (x : Vcore) (v : Verdict) (ev : List Nat) :
    ∃ u due ovf counts, OnlyMemHost s u ∧ finalVerdict s m x v ev =
      telAdd ((if bit (verdictRecord (devNat s m.gsr 64) v) 90 then suspectFed { u with rebakes := due } (cvGroup m.cvd m.gsr)
          else { u with rebakes := due }).modCore x.core (fun r => countVerdict r v ovf))
        (ctxPart s m.v.ctx) (cvLayer m.cvd) (cvFmt m.cvd) counts := by
  have reported : ∀ (l : List Nat) (d : Nat) (u : State), OnlyMemHost u (l.foldl (fun u e => raiseCtx u e m.v.ctx d) u) :=
    fun l d u => OnlyMemHost.foldl _ (fun u e => raise_onlyMemHost u e _ _ d) l u
  refine ⟨_, _, _, _, ?_, rfl⟩
  exact ((homeWrite_onlyMemHost ..).trans (reported ..)).trans (verdictTsr_onlyMemHost ..)

theorem finalVerdict_lastv (s : State) (m : VerdictMsg) (x : Vcore) (v : Verdict) (ev : List Nat) :
    ((finalVerdict s m x v ev).core x.core).lastv = some (BitVec.ofNat 3 v) := by
  obtain ⟨u, due, ovf, counts, -, e⟩ := finalVerdict_eq s m x v ev
  rw [e, State.core, telAdd_cores]
  exact congrArg Core.lastv (State.core_modCore _ x.core _)

theorem finalVerdict_fab (s : State) (m : VerdictMsg) (x : Vcore) (v : Verdict) (ev : List Nat) :
    (finalVerdict s m x v ev).fab = s.fab := by
  obtain ⟨u, due, ovf, counts, frame, e⟩ := finalVerdict_eq s m x v ev
  rw [e, telAdd_fab, State.modCore_fab]
  split <;> exact frame.fab_eq

/-- A bit that is set to 0 reads as 0. -/
theorem bit_setBits_zero (x i : Nat) : bit (setBits x i i 0) i = false := by
  have one : i + 1 - i = 1 := Nat.add_sub_cancel_left i 1
  have even : (x / 2 ^ i - x / 2 ^ i % 2) % 2 = 0 := by omega
  rw [bit, Nat.testBit_eq_decide_div_mod_eq, setBits, bits, Nat.shiftRight_eq_div_pow, one, Nat.zero_mod, Nat.zero_mul, Nat.add_zero,
    Nat.mul_comm, pow_one, Nat.sub_mul_div, even]
  rfl

/-- A group that is not yet suspect becomes so by CEILING alone (R126). -/
theorem verdictRecord_not_suspect {g : Nat} {v : Verdict} (hv : v ≠ 5) (hg : bit g 90 = false) : bit (verdictRecord g v) 90 = false := by
  have clear : bits g 90 90 = 0 := by
    rw [bit, Nat.testBit_eq_decide_div_mod_eq, decide_eq_false_iff_not] at hg
    simp only [bits, Nat.shiftRight_eq_div_pow]
    omega
  have kept : max (bits g 90 90) (b2n (v == 5)) = 0 := by simp [clear, hv, b2n]
  rw [verdictRecord, kept]
  exact bit_setBits_zero _ 90

/-- A verdict that makes nothing suspect leaves the contexts as they are (R138). -/
theorem finalVerdict_ctxs {s : State} {m : VerdictMsg} {v : Verdict} (hv : v ≠ 5) (hg : bit (devNat s m.gsr 64) 90 = false) (x : Vcore)
    (ev : List Nat) : (finalVerdict s m x v ev).ctxs = s.ctxs := by
  obtain ⟨u, due, ovf, counts, frame, e⟩ := finalVerdict_eq s m x v ev
  rw [e, telAdd_ctxs, State.modCore_ctxs, verdictRecord_not_suspect hv hg]
  exact frame.ctxs_eq

/-! ### The group that is judged (R133, R271) -/

/-- Nothing holds up accesses of which none waits (R271). -/
theorem any_accessWaits_eq_false {s : State} {rs : List Run} (ready : ∀ a ∈ rs, accessWaits s a.1 a.2 = false) :
    rs.any (fun a => accessWaits s a.1 a.2) = false := by
  simpa using ready

section Judge
variable {s s1 t : State} {m : VerdictMsg} {x : Vcore}

theorem judge_of_superseded (hx : s.vc? m.v = some x) (h : gsrKey (devNat s m.gsr 64) ≠ cvKey m.cvd) : judge s m = some s := by
  simp [judge, hx, h]

section Current
variable (hx : s.vc? m.v = some x) (current : gsrKey (devNat s m.gsr 64) = cvKey m.cvd) (unjudged : bit (devNat s m.gsr 64) 86 = false)
  (hs1 : s1 = discoverRuns s (some m.v.ctx) true (verdictRuns m.cvd m.gsr))
include hx current unjudged hs1

theorem judge_of_poison {p : Policy} (h : runsPoison (rdOf s1 x true) (verdictRuns m.cvd m.gsr) = some p) :
    judge s m = some (poisonCtx s1 m.v.ctx (if p = .nan then .context else p)
      (firstPoison (rdOf s1 x true) (verdictRuns m.cvd m.gsr))) := by
  subst hs1
  simp [judge, hx, current, unjudged, h]

variable (healthy : runsPoison (rdOf s1 x true) (verdictRuns m.cvd m.gsr) = none)
include healthy

/-- A verdict that can be formed is final, RESCALE_TENSOR once no maximum of its tensor is still on its way (R133). -/
theorem judge_of_verdict {v : Verdict} {ev : List Nat}
    (h : verdictOf (devNat s m.gsr 64) (devNat s1 (cvTsr m.cvd) 320) m.cvd
      ((s1.part (ctxPart s m.v.ctx)).active.numThr.getLsbD 48) m.cap = some (v, ev))
    (landed : v ≠ 2 ∨ ∀ t ∈ s1.tsrq, t.tsr = cvTsr m.cvd → t.step.toNat ≠ cvStep m.cvd) :
    judge s m = some (finalVerdict s1 m x v ev) := by
  subst hs1
  have noneLeft : ¬(v = 2 ∧ (discoverRuns s (some m.v.ctx) true (verdictRuns m.cvd m.gsr)).tsrq.any
      (fun t => t.tsr == cvTsr m.cvd && t.step.toNat == cvStep m.cvd) = true) := by
    rintro ⟨rescale, left⟩
    obtain ⟨t, ht, same⟩ := List.any_eq_true.1 left
    obtain ⟨tsr, step⟩ := Bool.and_eq_true_iff.1 same
    exact landed.elim (· rescale) fun absent => absent t ht (beq_iff_eq.1 tsr) (beq_iff_eq.1 step)
  simp only [judge, hx, current, unjudged, healthy, h, noneLeft, ne_eq, not_true, Bool.false_eq_true, or_self, if_false]

theorem judge_of_waiting
    (h : verdictOf (devNat s m.gsr 64) (devNat s1 (cvTsr m.cvd) 320) m.cvd
      ((s1.part (ctxPart s m.v.ctx)).active.numThr.getLsbD 48) m.cap = none) : judge s m = none := by
  subst hs1
  simp only [judge, hx, current, unjudged, healthy, h, ne_eq, not_true, Bool.false_eq_true, or_self, if_false]

end Current

section First
variable {r : List VerdictMsg} (hq : s.verdicts = m :: r)
  (ready : ∀ a ∈ ((s.part (ctxPart s m.v.ctx)).tel.accBase.toNat + 64 * (16 * cvLayer m.cvd + cvFmt m.cvd), 64) ::
    verdictRuns m.cvd m.gsr, accessWaits s a.1 a.2 = false)
include hq ready

theorem exec_groupVerdict_of_judged (h : judge s m = some t) : exec .groupVerdict s = .next { t with verdicts := r } := by
  change execGroupVerdict s = _
  rw [execGroupVerdict, hq, judgeFirst]
  simp only [any_accessWaits_eq_false ready, Bool.false_eq_true, if_false, h, List.nil_append]

/-- A group that has to wait for its tensor reports its triggers at once, and keeps its place (R133). -/
theorem exec_groupVerdict_of_waiting (h : judge s m = none) (quiet : m.raised = false) :
    exec .groupVerdict s = .next { raiseEarly s m with verdicts := { m with raised := true } :: r } := by
  change execGroupVerdict s = _
  rw [execGroupVerdict, hq, judgeFirst]
  simp only [any_accessWaits_eq_false ready, Bool.false_eq_true, if_false, h, quiet, List.nil_append]

end First
end Judge

/-- Settles O23: the first closed group that nothing holds up is judged by its record's tag, by poison, and then by R133. -/
theorem groupVerdictsBecomeFinal : Obligations.GroupVerdictsBecomeFinal := by
  refine ⟨?judged, ?procedure⟩
  case judged =>
    rintro s s1 m r x n acc hq hx rfl rfl hacc hruns hs1
    have ready : ∀ a ∈ ((s.part (ctxPart s m.v.ctx)).tel.accBase.toNat + 64 * (16 * cvLayer m.cvd + cvFmt m.cvd), 64) ::
        verdictRuns m.cvd m.gsr, accessWaits s a.1 a.2 = false :=
      List.forall_mem_cons.2 ⟨hacc, hruns⟩
    have judged := fun {t} (h : judge s m = some t) => exec_groupVerdict_of_judged hq ready h
    refine ⟨fun h => judged (judge_of_superseded hx h), fun current unjudged =>
      ⟨fun p h => judged (judge_of_poison hx current unjudged hs1 h), fun healthy =>
        ⟨fun v ev h landed => ?final, fun h quiet => ?waits⟩⟩⟩
    case final =>
      have frame : OnlyMemHost s s1 := hs1 ▸ discoverRuns_onlyMemHost ..
      have record : devNat s1 m.gsr 64 = devNat s m.gsr 64 := hs1 ▸ devNat_discoverRuns ..
      exact ⟨judged (judge_of_verdict hx current unjudged hs1 healthy h landed), finalVerdict_lastv s1 m x v ev,
        fun hv hg => (finalVerdict_ctxs hv (by rw [record, hg]) x ev).trans frame.ctxs_eq,
        (finalVerdict_fab s1 m x v ev).trans frame.fab_eq⟩
    case waits => exact exec_groupVerdict_of_waiting hq ready (judge_of_waiting hx current unjudged hs1 healthy h) quiet
  case procedure =>
    rintro g t c rb cap clip van room noNan hclip hvan
    replace hclip : clip = clips g := hclip
    replace hvan : van = vanishes g := hvan
    subst hclip hvan
    refine ⟨verdictOf_of_quiet room noNan, ?_, ?_, fun v ev h fired => verdictOf_mem_of_trigger room noNan fired h⟩
    · rintro fired rfl
      rw [verdictOf_of_rebake_off room noNan fired, verdictEvents_of_triggers room noNan]
    · rintro hc hv rfl source delayed unscaled first
      exact verdictOf_of_clip room noNan hc hv source delayed unscaled first

/-! ### Telemetry records (R140, R143) -/

/-- Records that the ring still holds lie at other places than its head (R143). -/
theorem ringPlace_ne_head {head tail : Word32} {log2 : BitVec 5} {j : Nat} (hj : j < (head - tail).toNat)
    (room : (head - tail).toNat < 2 ^ log2.toNat) :
    (tail + BitVec.ofNat 32 j).toNat % 2 ^ log2.toNat ≠ head.toNat % 2 ^ log2.toNat := by
  intro same
  have wraps : 2 ^ log2.toNat ∣ 2 ^ 32 := pow_dvd_pow 2 (by omega)
  have held : head.toNat % 2 ^ log2.toNat = (tail.toNat + (head - tail).toNat) % 2 ^ log2.toNat := by
    conv_lhs => rw [show head = tail + (head - tail) by bv_omega, BitVec.toNat_add, Nat.mod_mod_of_dvd _ wraps]
  have place : (tail + BitVec.ofNat 32 j).toNat % 2 ^ log2.toNat = (tail.toNat + j) % 2 ^ log2.toNat := by
    rw [BitVec.toNat_add, BitVec.toNat_ofNat, Nat.mod_mod_of_dvd _ wraps, Nat.add_mod, Nat.mod_mod_of_dvd _ wraps, ← Nat.add_mod]
  have offsets : j ≡ (head - tail).toNat [MOD 2 ^ log2.toNat] :=
    Nat.ModEq.add_left_cancel' tail.toNat (place.symm.trans (same.trans held))
  exact Nat.ne_of_lt hj (offsets.eq_of_lt_of_lt (hj.trans room) room)

/-- An entry with a count is not blank (R140). -/
theorem telFields_all_zero_eq_false {e : Nat} (counted : ∃ f ∈ telFields, bits e f.1 f.2 ≠ 0) :
    telFields.all (fun f => bits e f.1 f.2 == 0) = false := by
  simpa using counted

section Flush
variable {s s1 s2 : State} {n i da ra : Nat} {step : Word64} {attempt : Word16} {dropped wrote lost : Bool}
  (hda : da = (s.part n).tel.accBase.toNat + 64 * i) (allowed : accessRefusal s .fw da 64 = none) (hs1 : s1 = demand s none da 64)
  (healthy : strongest (devRead s1 da 64) = none) (hs2 : s2 = devWrite s1 da (clean (List.replicate 64 0)))
include hda allowed hs1 healthy hs2

/-- With TEL_EN 0 an entry is cleared and not written (R143). -/
theorem flushEntry_of_disabled (off : (s.part n).active.numThr.getLsbD 49 = false) :
    flushEntry n step attempt dropped (s, wrote, lost) i = (s2, wrote, lost) := by
  subst hs2 hs1 hda
  simp only [flushEntry, allowed, healthy, off, Option.isSome_none, Bool.false_eq_true, if_false, Bool.not_false, Bool.true_or, if_true]

variable (on : (s.part n).active.numThr.getLsbD 49 = true) (counted : ∃ f ∈ telFields, bits (devNat s1 da 64) f.1 f.2 ≠ 0)
include on counted

/-- Where the ring is full, the record is lost and counted (R143). -/
theorem flushEntry_of_full (full : 2 ^ (s.part n).tel.log2.toNat ≤ ((s.part n).tel.head - (s.part n).tel.tail).toNat) :
    flushEntry n step attempt dropped (s, wrote, lost) i =
      (s2.modPart n (fun p => { p with tel := { p.tel with lost := satInc p.tel.lost } }), wrote, true) := by
  subst hs2 hs1 hda
  simp only [flushEntry, allowed, healthy, on, telFields_all_zero_eq_false counted, full, Option.isSome_none, Bool.false_eq_true,
    if_false, Bool.not_true, Bool.or_self, if_true]

/-- Where the ring has room, the record goes to its head (R143). -/
theorem flushEntry_of_room (room : ((s.part n).tel.head - (s.part n).tel.tail).toNat < 2 ^ (s.part n).tel.log2.toNat)
    (hra : ra = (s.part n).tel.base.toNat + 64 * ((s.part n).tel.head.toNat % 2 ^ (s.part n).tel.log2.toNat))
    (writable : accessRefusal s2 .fw ra 64 = none) :
    flushEntry n step attempt dropped (s, wrote, lost) i =
      ((devWrite s2 ra (clean (natToBytes 64 (telRecord (devNat s1 da 64) i step attempt dropped)))).modPart n
        (fun p => { p with tel := { p.tel with head := p.tel.head + 1 } }), true, lost) := by
  subst hra hs2 hs1 hda
  simp only [flushEntry, allowed, healthy, on, telFields_all_zero_eq_false counted, Nat.not_le_of_lt room, writable,
    Option.isSome_none, Bool.false_eq_true, if_false, Bool.not_true, Bool.or_self]

end Flush

/-- A partition whose entries are flushed: nothing is due, and the sticky flags are copied beside the ring (R67, R140; log 41). -/
def flushedPart (flags : Word64 × Tab Word32) (dropped : Bool) (p : Part) : Part :=
  { p with tel := { p.tel with due := none, touched := [], dropped := [], flags := flags, ev2001 := dropped && p.tel.ev2001 } }

/-- The state after a flush that signals nothing: lost records raise one event for the step (R143). -/
def flushed (t : State) (n : Nat) (step : Word64) (flags : Word64 × Tab Word32) (dropped lost : Bool) : State :=
  if lost then raise (t.modPart n (flushedPart flags dropped)) 0x1106 (some n) none (data1 0 0 0 0 step)
  else t.modPart n (flushedPart flags dropped)

section Flushed
variable (t : State) (n : Nat) (step : Word64) (flags : Word64 × Tab Word32) (dropped lost : Bool)

theorem flushed_part : (flushed t n step flags dropped lost).part n = flushedPart flags dropped (t.part n) := by
  unfold flushed
  split <;> exact State.part_modPart t n _

theorem flushed_mem : (flushed t n step flags dropped lost).mem = t.mem := by
  unfold flushed
  split <;> rfl

/-- A flush leaves the channel to which a partition's telemetry interrupts go (R378). -/
theorem flushed_channel :
    (flushed t n step flags dropped lost).chan (partChan (flushed t n step flags dropped lost) n).1
      (partChan (flushed t n step flags dropped lost) n).2 = t.chan (partChan t n).1 (partChan t n).2 := by
  unfold flushed
  split <;> rfl

end Flushed

/-- A flush for which no region has to be waited and which nothing signals (R140, R271, R378). -/
theorem exec_telemetryFlush_of_due {s t : State} {n : Nat} {step : Word64} {attempt : Word16} {dropped wrote lost : Bool}
    (due : (s.part n).tel.due = some (step, attempt, dropped))
    (entries : ∀ i ∈ (s.part n).tel.touched, accessWaits s ((s.part n).tel.accBase.toNat + 64 * i) 64 = false)
    (ring : accessWaits s (s.part n).tel.base.toNat (64 * 2 ^ (s.part n).tel.log2.toNat) = false)
    (fold : (s.part n).tel.touched.foldl (flushEntry n step attempt dropped) (s, false, false) = (t, wrote, lost))
    (silent : (t.chan (partChan t n).1 (partChan t n).2).tien = false ∨ wrote = false) :
    ∃ flags, exec (.telemetryFlush n) s = .next (flushed t n step flags dropped lost) := by
  have go : (s.part n).tel.touched.any (fun i => accessWaits s ((s.part n).tel.accBase.toNat + 64 * i) 64) = false := by
    simpa using entries
  let flags := if (t.part n).active.numThr.getLsbD 49 then (step, partFlags t n) else (s.part n).tel.flags
  have unsignalled : (wrote && ((flushed t n step flags dropped lost).chan (partChan (flushed t n step flags dropped lost) n).1
      (partChan (flushed t n step flags dropped lost) n).2).tien) = false := by
    rw [flushed_channel]
    rcases silent with h | h <;> simp [h]
  refine ⟨flags, ?_⟩
  change execTelemetryFlush n s = _
  simp only [execTelemetryFlush, due, go, ring, fold, Bool.or_self, Bool.false_eq_true, if_false]
  exact congrArg Host.Outcome.next (if_neg (Bool.eq_false_iff.1 unsignalled))

/-- Settles O24: the flush clears what was due, and each entry's record is written, lost or not wanted. -/
theorem telemetryFlushWritesRecords : Obligations.TelemetryFlushWritesRecords := by
  refine ⟨?flush, ?entry⟩
  case flush =>
    intro s t n step attempt dropped wrote lost due entries ring fold silent
    obtain ⟨flags, run⟩ := exec_telemetryFlush_of_due due entries ring fold silent
    have part := flushed_part t n step flags dropped lost
    refine ⟨_, run, congrArg (·.tel.due) part, congrArg (·.tel.touched) part, flushed_mem .., congrArg (·.tel.head) part,
      congrArg (·.tel.lost) part, ?kept, ?reported⟩
    case kept =>
      rintro rfl
      rfl
    case reported =>
      rintro rfl
      rfl
  case entry =>
    rintro s s1 s2 n i da ra step attempt dropped wrote lost q rfl hda allowed hs1 healthy hs2
    refine ⟨fun on counted => ⟨flushEntry_of_full hda allowed hs1 healthy hs2 on counted, fun room hra writable => ?_⟩,
      flushEntry_of_disabled hda allowed hs1 healthy hs2⟩
    exact ⟨flushEntry_of_room hda allowed hs1 healthy hs2 on counted room hra writable, fun j hj => ringPlace_ne_head hj room⟩

end Sys2Proof.Machine

namespace Sys2Proof.Machine

open Sys2Proof

/-! SUPPORT. The norm gate's clip factor, and the commit selector table. -/

/-! ### The clip factor (R172) -/

/-- Refutes O27: with GCLIP 0 the clip factor is 1.0 (R172), but its code decodes to the pair 2²³ / 2²³, equal to 1 / 1 as a number and not the
same pair, where the statement asks for the pair 1 / 1 itself. -/
theorem not_normIsTheNearestRoot : ¬ Obligations.NormIsTheNearestRoot := by
  rintro ⟨-, -, -, clip⟩
  have off : FV.lt (.num false Q.zero) (dec32 0#32) = false := by decide
  have read : dec32 (clipOf 0#32 0#32) = .num false ⟨2 ^ 23, 2 ^ 23⟩ := by decide
  have one : dec32 (clipOf 0#32 0#32) = .num false Q.one := (clip 0 0).2 (.inl off)
  exact absurd (read.symm.trans one) (by decide)

/-! ### The commit selector table (R188) -/

/-- The fields of the first `m` layers of a word of the table. -/
def selFields (p q : Nat → Bool) (m : Nat) : List (Nat × Nat) :=
  (List.range m).flatMap (fun j => [(2 * j, b2n (p j)), (2 * j + 1, b2n (q j))])

theorem readSel_eq_pack (c : Commit) (i : Nat) :
    readSel c i = pack (selFields (fun j => c.sel.getLsbD (32 * i + j)) (fun j => c.armed.getLsbD (32 * i + j)) 32) := rfl

/-- The number that the fields make. -/
def selNat (p q : Nat → Bool) (m : Nat) : Nat := (selFields p q m).foldl (fun a f => a + f.2 * 2 ^ f.1) 0

theorem selNat_succ (p q : Nat → Bool) (m : Nat) :
    selNat p q (m + 1) = 2 ^ (2 * m) * (b2n (p m) + 2 * b2n (q m)) + selNat p q m := by
  simp only [selNat, selFields, List.range_succ, List.flatMap_append, List.flatMap_singleton, List.foldl_append, List.foldl_cons,
    List.foldl_nil]
  ring

theorem selNat_lt (p q : Nat → Bool) (m : Nat) : selNat p q m < 2 ^ (2 * m) := by
  induction m with
  | zero => simp [selNat, selFields]
  | succ m ih =>
    have pair : b2n (p m) + 2 * b2n (q m) ≤ 3 := by cases p m <;> cases q m <;> decide
    calc selNat p q (m + 1) = 2 ^ (2 * m) * (b2n (p m) + 2 * b2n (q m)) + selNat p q m := selNat_succ p q m
      _ < 2 ^ (2 * m) * 3 + 2 ^ (2 * m) := Nat.add_lt_add_of_le_of_lt (Nat.mul_le_mul_left _ pair) ih
      _ = 2 ^ (2 * (m + 1)) := by ring

/-- Bit 2j is the first predicate of layer j, and bit 2j + 1 the second. -/
theorem testBit_selNat (p q : Nat → Bool) {m j : Nat} (h : j < m) :
    (selNat p q m).testBit (2 * j) = p j ∧ (selNat p q m).testBit (2 * j + 1) = q j := by
  induction m with
  | zero => omega
  | succ m ih =>
    rw [selNat_succ, Nat.testBit_two_pow_mul_add _ (selNat_lt p q m), Nat.testBit_two_pow_mul_add _ (selNat_lt p q m)]
    obtain below | rfl := Nat.lt_succ_iff_lt_or_eq.mp h
    · rw [if_pos (by omega), if_pos (by omega)]
      exact ih below
    · rw [if_neg (by omega), if_neg (by omega), Nat.sub_self, Nat.add_sub_cancel_left]
      cases p j <;> cases q j <;> decide

theorem getLsbD_readSel (c : Commit) (i : Nat) {j : Nat} (h : j < 32) :
    (readSel c i).getLsbD (2 * j) = c.sel.getLsbD (32 * i + j) ∧ (readSel c i).getLsbD (2 * j + 1) = c.armed.getLsbD (32 * i + j) := by
  have even : 2 * j < 64 := by omega
  have odd : 2 * j + 1 < 64 := by omega
  obtain ⟨sel, armed⟩ := testBit_selNat (fun k => c.sel.getLsbD (32 * i + k)) (fun k => c.armed.getLsbD (32 * i + k)) h
  simp only [readSel_eq_pack, pack, BitVec.getLsbD_ofNat, even, odd, decide_true, Bool.true_and]
  exact ⟨sel, armed⟩

theorem readSel_of_clear {c : Commit} (sel : c.sel = 0) (armed : c.armed = 0) (i : Nat) : readSel c i = 0 := by
  simp only [readSel, sel, armed, BitVec.ofNat_eq_ofNat, BitVec.getLsbD_zero]
  rfl

/-- The table's part of a partition's block (R188). -/
theorem readPart_sel (s : State) (n : Nat) {o : Nat} (lo : 0x2000 ≤ o) (hi : o < 0x2400) :
    readPart s n o = readSel (s.cmt n) ((o - 0x2000) / 8) := by
  unfold readPart
  dsimp only
  split
  case h_28 => exact if_pos ⟨lo, hi⟩
  all_goals omega

theorem readReg_part {s : State} {fn off n o : Nat} (hc : s.pwr.st ≠ .carousel) (hb : blockOf s fn off = some (.part n, o)) :
    readReg s fn off = readPart s n o := by
  simp [readReg, hb, hc]

/-- A write into the table changes no register of the partition (R188). -/
theorem writePart_sel (s : State) (n : Nat) {o : Nat} (lo : 0x2000 ≤ o) (w : Wr) : writePart s n o w = s.modPart n id := by
  unfold writePart
  split
  case h_10 =>
    unfold writeJob
    split
    case h_8 => rfl
    all_goals omega
  all_goals omega

theorem wrOf_fst {off size : Nat} {value : Word64} {a : Nat} {w : Wr} (h : wrOf off size value = some (a, w)) : a = off / 8 * 8 := by
  unfold wrOf at h
  split at h
  next whole =>
    cases h
    omega
  next =>
    split at h
    · cases h
      rfl
    · cases h

/-- A write to a partition's block is discarded, or meets its register (R361, R362). -/
theorem writeReg_part {s : State} {fn off n o : Nat} (hb : blockOf s fn (off / 8 * 8) = some (.part n, o)) (size : Nat) (value : Word64) :
    writeReg s fn off size value = s ∨ ∃ w, writeReg s fn off size value = writePart s n o w := by
  unfold writeReg
  split
  · exact .inl rfl
  next a w found =>
    rw [wrOf_fst found, hb]
    dsimp only
    split
    · exact .inl rfl
    · split
      · exact .inl rfl
      · exact .inr ⟨w, rfl⟩

theorem State.cmt_modPart_id (s : State) (n p : Nat) : (s.modPart n id).cmt p = s.cmt p := by
  by_cases h : p = n
  · rw [h, State.cmt, State.part_modPart]
    rfl
  · rw [State.cmt, State.part_modPart_ne s _ h]
    rfl

/-- Settles O44: a word of the table bit by bit, a write into it, and the word of a partition with no layer selected or armed. -/
theorem selectorTableReads : Obligations.SelectorTableReads := by
  refine ⟨?reads, ?writes, ?reset⟩
  case reads =>
    intro s fn off n layer hl hc hb
    have lo : 0x2000 ≤ 0x2000 + 8 * (layer / 32) := by omega
    have hi : 0x2000 + 8 * (layer / 32) < 0x2400 := by omega
    have word : (0x2000 + 8 * (layer / 32) - 0x2000) / 8 = layer / 32 := by omega
    have place : 32 * (layer / 32) + layer % 32 = layer := by omega
    rw [readReg_part hc hb, readPart_sel s n lo hi, word]
    have bits := getLsbD_readSel (s.cmt n) (layer / 32) (Nat.mod_lt layer (by omega : 0 < 32))
    rwa [place] at bits
  case writes =>
    intro s fn off size n o value hb lo _
    obtain same | ⟨w, met⟩ := writeReg_part hb size value
    · exact ⟨s, congrArg Host.Outcome.next same, fun _ => rfl, rfl⟩
    · exact ⟨_, congrArg Host.Outcome.next (met.trans (writePart_sel s n lo w)), s.cmt_modPart_id n, rfl⟩
  case reset =>
    intro fn off n o hb lo hi
    rw [readReg_part (by decide) hb, readPart_sel State.reset n lo hi]
    exact readSel_of_clear rfl rfl _

end Sys2Proof.Machine

namespace Sys2Proof.Machine

open Sys2Proof

/-! SUPPORT. What the vector operations answer once their descriptor and operands have been read. -/

/-- A choice between two computations that go on alike. -/
theorem Res.ite_bind {α β : Type} {c : Prop} [Decidable c] (p q : Res α) (f : α → Res β) :
    (if c then p >>= f else q >>= f) = (if c then p else q) >>= f := by
  split <;> rfl

section Vector
variable {s : State} {v : VRef} {x : Vcore} {n f : Nat} {o : UOp} {j : BitVec 512} {a b d : VecOp} {out : Opnd}

variable (hj : readVjd x (arg1 o) = .ok j) (hf : f = immBits o.word 7 0)
include hj hf

/-- RAND writes the words of the mix bit for bit (R238). -/
theorem runVop_of_rand (random : vopArity f = some 0) (hout : mkOpnd s n x (fld j 127 96) false 0 false = .ok out) (fmt : out.fmt = 11)
    (hk : checkRuns s n x out.dev out.runs = .ok ()) :
    runVop s v x n o = .ok (vecDone (countEvals (spWriteAll s v 0 out.dev
        ((List.range out.rows).map (fun r => (out.data + ((out.pr + r) * out.scols + out.pc) * 4, clean ((List.range out.cols).flatMap (fun c =>
          natToBytes 4 (mixWord (vecMix x j (out.index r c / 4)) (out.index r c % 4)).toNat)))))) x (evalsOf out 4)) v x j o out.outs 0#4 false) := by
  subst hf
  have wide : (out.fmt == 11) = true := by simp [fmt]
  simp only [runVop, hj, Res.ok_bind, random, vopRand, hout, wide, need_true, hk, Res.pure_eq]

/-- An elementwise function of its one, two or three operands (R238): an operand that the function does not read stands for the one before. -/
theorem runVop_of_operands {k : Nat} (reads : vopArity f = some k) (k0 : k ≠ 0) (ha : vecOperand s v n x (fld j 31 0) = .ok a)
    (hb : (if 2 ≤ k then vecOperand a.st v n x (fld j 63 32) else pure { a with flags := 0#4, nan := false }) = .ok b)
    (hd : (if 3 ≤ k then vecOperand b.st v n x (fld j 95 64) else pure { b with flags := 0#4, nan := false }) = .ok d)
    (br : b.o.rows = a.o.rows) (bc : b.o.cols = a.o.cols) (dr : d.o.rows = a.o.rows) (dc : d.o.cols = a.o.cols)
    (hout : vecOut d.st n x j a.o.rows a.o.cols = .ok out) {res : List (List R32)}
    (hres : res = (List.range a.o.rows).map (fun r => (List.range a.o.cols).map (fun c =>
        vopFn f (BitVec.ofNat 32 (fld j 191 160)) (BitVec.ofNat 32 (fld j 223 192)) (a.at r c) (b.at r c) (d.at r c)))) :
    runVop s v x n o = .ok (vecDone (vecWrite d.st v x j out (res.map (fun r => r.map Prod.fst))).1
        v x j o out.outs ((vecWrite d.st v x j out (res.map (fun r => r.map Prod.fst))).2 ||| a.flags ||| b.flags ||| d.flags |||
          orFlags (res.map (fun r => orFlags (r.map Prod.snd)))) (a.nan || b.nan || d.nan)) := by
  subst hf hres
  obtain ⟨i, rfl⟩ := Nat.exists_eq_succ_of_ne_zero k0
  have shapes : (b.o.rows == a.o.rows && b.o.cols == a.o.cols && d.o.rows == a.o.rows && d.o.cols == a.o.cols) = true := by
    simp [br, bc, dr, dc]
  simp only [runVop, hj, Res.ok_bind, reads, ha]
  simp only [Res.ite_bind, hb, Res.ok_bind, hd, shapes, need_true, hout]
  rfl

theorem runVred_of_rows (known : f < 4) (ha : vecOperand s v n x (fld j 31 0) = .ok a) (rows : j.getLsbD 233 = false)
    (hout : vecOut a.st n x j a.o.rows 1 = .ok out) {res : List (List R32)} (hres : res = a.els.map (fun r => [reduce f r])) :
    runVred s v x n o = .ok (vecDone (vecWrite a.st v x j out (res.map (fun r => r.map Prod.fst))).1
        v x j o out.outs ((vecWrite a.st v x j out (res.map (fun r => r.map Prod.fst))).2 ||| a.flags |||
          orFlags (res.map (fun r => orFlags (r.map Prod.snd)))) a.nan) := by
  subst hf hres
  have code : decide (immBits o.word 7 0 < 4) = true := by simp [known]
  simp only [runVred, hj, Res.ok_bind, code, need_true, ha, rows, Bool.false_eq_true, if_false, hout, Res.pure_eq]

theorem runVred_of_columns (known : f < 4) (ha : vecOperand s v n x (fld j 31 0) = .ok a) (columns : j.getLsbD 233 = true)
    (hout : vecOut a.st n x j 1 a.o.cols = .ok out) {res : List (List R32)}
    (hres : res = [(List.range a.o.cols).map (fun c => reduce f ((List.range a.o.rows).map (fun r => a.at r c)))]) :
    runVred s v x n o = .ok (vecDone (vecWrite a.st v x j out (res.map (fun r => r.map Prod.fst))).1
        v x j o out.outs ((vecWrite a.st v x j out (res.map (fun r => r.map Prod.fst))).2 ||| a.flags |||
          orFlags (res.map (fun r => orFlags (r.map Prod.snd)))) a.nan) := by
  subst hf hres
  have code : decide (immBits o.word 7 0 < 4) = true := by simp [known]
  simp only [runVred, hj, Res.ok_bind, code, need_true, ha, columns, if_true, hout, Res.pure_eq]

theorem runVmm_of_operands (product : f = 0) (ha : vecOperand s v n x (fld j 31 0) = .ok a)
    (hb : vecOperand a.st v n x (fld j 63 32) = .ok b) (inner : a.o.cols = b.o.rows) (short : a.o.cols ≤ 256)
    (hout : vecOut b.st n x j a.o.rows b.o.cols = .ok out) {res : List (List R32)}
    (hres : res = (List.range a.o.rows).map (fun r => (List.range b.o.cols).map (fun c => (List.range a.o.cols).foldl (fun (acc : R32) k =>
        ((fp32Fma (a.at r k) (b.at k c) acc.1).1, acc.2 ||| (fp32Fma (a.at r k) (b.at k c) acc.1).2)) (0#32, 0#4)))) :
    runVmm s v x n o = .ok (vecDone (vecWrite b.st v x j out (res.map (fun r => r.map Prod.fst))).1
        v x j o out.outs ((vecWrite b.st v x j out (res.map (fun r => r.map Prod.fst))).2 ||| a.flags ||| b.flags |||
          orFlags (res.map (fun r => orFlags (r.map Prod.snd)))) (a.nan || b.nan)) := by
  subst hres
  have code : (immBits o.word 7 0 == 0) = true := by simp [← hf, product]
  have shapes : (a.o.cols == b.o.rows && decide (a.o.cols ≤ 256)) = true := by simpa [inner] using inner ▸ short
  simp only [runVmm, hj, Res.ok_bind, code, need_true, ha, hb, shapes, hout, Res.pure_eq]

theorem runVnorm_of_operand (norm : f = 0) (ha : vecOperand s v n x (fld j 31 0) = .ok a) :
    runVnorm s v x n o = .ok (vecDone
        (a.st.modCmt n (fun c => (a.els.flatten.map (fun w => fp32Mul w (gmOf s n (fld j 249 234)).1)).foldl
          (fun c g => normTerm c (dec32 g.1)) c))
        v x j o [] (a.flags ||| (gmOf s n (fld j 249 234)).2 |||
          orFlags ((a.els.flatten.map (fun w => fp32Mul w (gmOf s n (fld j 249 234)).1)).map Prod.snd)) a.nan) := by
  have code : (immBits o.word 7 0 == 0) = true := by simp [← hf, norm]
  simp only [runVnorm, hj, Res.ok_bind, code, need_true, ha, Res.pure_eq]

end Vector

/-- Settles O18: each run is worked out from what has been read, and a started operation lands what its run answers. -/
theorem vectorOperationsComplete : Obligations.VectorOperationsComplete := by
  refine ⟨?vop, ?others⟩
  case vop =>
    rintro s v x o n f j a b d out res h rfl hj hf
    refine ⟨fun random hout fmt hk => ?rand, fun k reads k0 ha hb hb1 hd hd1 br bc dr dc hout hres => ?operands⟩
    case rand => exact congrArg Host.Outcome.next (perform_ok h rfl (runVop_of_rand hj hf random hout fmt hk))
    case operands =>
      have second : (if 2 ≤ k then vecOperand a.st v (ctxPart s v.ctx) (unitView x o) (fld j 63 32)
          else pure { a with flags := 0#4, nan := false }) = .ok b := by
        split
        next two => exact hb two
        next one => rw [hb1 (Nat.lt_of_not_le one)]; rfl
      have third : (if 3 ≤ k then vecOperand b.st v (ctxPart s v.ctx) (unitView x o) (fld j 95 64)
          else pure { b with flags := 0#4, nan := false }) = .ok d := by
        split
        next three => exact hd three
        next two => rw [hd1 (Nat.lt_of_not_le two)]; rfl
      exact congrArg Host.Outcome.next (perform_ok h rfl (runVop_of_operands hj hf reads k0 ha second third br bc dr dc hout hres))
  case others =>
    rintro s v x o n f j a rfl hj hf ha
    refine ⟨fun out res h known rows hout hres => ?rows, fun out res h known columns hout hres => ?columns,
      fun b out res h product hb inner short hout hres => ?product, fun h norm => ?norm⟩
    case rows => exact congrArg Host.Outcome.next (perform_ok h rfl (runVred_of_rows hj hf known ha rows hout hres))
    case columns => exact congrArg Host.Outcome.next (perform_ok h rfl (runVred_of_columns hj hf known ha columns hout hres))
    case product => exact congrArg Host.Outcome.next (perform_ok h rfl (runVmm_of_operands hj hf product ha hb inner short hout hres))
    case norm => exact congrArg Host.Outcome.next (perform_ok h rfl (runVnorm_of_operand hj hf norm ha))

end Sys2Proof.Machine

namespace Sys2Proof.Machine

open Sys2Proof

/-! SUPPORT. The update pass outcome by outcome, the arithmetic of a record, the norm gate, and the preconditioner's refresh. -/

/-! ### UPDATE_PASS (R155, R167, R174, R291) -/

/-- The engine of cluster `k` takes up its next layer (R155): its die runs, it is free or waits for a refresh, and its partition's gate is open. -/
structure TakesLayer (s : State) (k n layer : Nat) : Prop where
  part : n = clusterPart s k
  die : dieStopped s (k / 8) = false
  free : (s.cluster k).busy = none ∨ (s.cluster k).waitpc = true
  gate : (s.att n).gate = some true
  going : (s.att n).abortSent = false
  next : nextLayer s n k = some layer

section Pass
variable {s s1 : State} {k n layer : Nat} {l : BitVec 1024} {act : Bool} {due : Option Refresh} {ins : List Run}

/-- What holds an engine back does not. -/
theorem TakesLayer.unheld (h : TakesLayer s k n layer) :
    (dieStopped s (k / 8) || ((s.cluster k).busy.isSome && !(s.cluster k).waitpc) || (s.att n).gate != some true || (s.att n).abortSent) =
      false := by
  have busy : ((s.cluster k).busy.isSome && !(s.cluster k).waitpc) = false := by
    rcases h.free with free | waits
    · simp [free]
    · simp [waits]
  simp [h.die, busy, h.gate, h.going]

variable (h : TakesLayer s k n layer) (hl : l = ludAt s n layer) (hact : act = (s.cmt n).sel.getLsbD layer)
include h hl hact

/-- A frozen shadow set refuses the layer (R174). -/
theorem exec_updatePass_of_frozen (frozen : ∃ r ∈ setRuns l (!act), ∃ g ∈ regionsOf r.1 r.2, reFrozen (entry s g) = true) :
    exec (.updatePass k) s = .next ((layerEvent s n 0x1207 layer).modCmt n (fun c => { c with
      frozenRef := satInc c.frozenRef, att := { c.att with refused := c.att.refused ++ [layer] } })) := by
  have some_frozen : (setRuns l (!act)).any (fun r => (regionsOf r.1 r.2).any (fun g => reFrozen (entry s g))) = true := by
    simpa using frozen
  subst hl hact
  obtain rfl := h.part
  change execUpdatePass k s = _
  simp only [execUpdatePass, h.unheld, h.next, some_frozen, Bool.false_eq_true, if_false, if_true]

variable (thawed : ∀ r ∈ setRuns l (!act), ∀ g ∈ regionsOf r.1 r.2, reFrozen (entry s g) = false)
  (hins : ins = layerInputs s n layer l act) (allowed : updAccess s n (ins ++ setRuns l (!act)) = none)
  (ready : ∀ r ∈ ins ++ setRuns l (!act), accessWaits s r.1 r.2 = false) (hdue : due = dueRefresh s n layer l)
include thawed hins allowed ready hdue

/-- A refresh that is not done holds the layer, with event 0x1206 once (R167). -/
theorem exec_updatePass_of_waiting {r : Refresh} (isDue : due = some r) (undone : r.done = false) :
    exec (.updatePass k) s = .next (
      let t := s.modCluster k (fun c => { c with waitpc := true, busy := some layer })
      if r.late then t else (layerEvent t n 0x1206 layer).modPart n (fun p => { p with
        refreshes := p.refreshes.map (fun r => if r.layer = layer then { r with late := true } else r) })) := by
  have none_frozen : (setRuns l (!act)).any (fun r => (regionsOf r.1 r.2).any (fun g => reFrozen (entry s g))) = false := by
    simpa using thawed
  have none_waits := any_accessWaits_eq_false ready
  rw [hdue] at isDue
  subst hl hact hins hdue
  obtain rfl := h.part
  change execUpdatePass k s = _
  simp only [execUpdatePass, h.unheld, h.next, none_frozen, allowed, none_waits, isDue, undone, Bool.false_eq_true, if_false, Bool.not_false,
    if_true]

/-- With no refresh to wait for, the pass reads its inputs: poison among them ends it, else it is made (R155, R291). -/
theorem exec_updatePass_of_ready (refreshed : ∀ r, due = some r → r.done = true)
    (hs1 : s1 = discoverRuns (s.modCluster k (fun c => { c with waitpc := false })) none true ins) :
    exec (.updatePass k) s =
      .next ((ins.find? (fun r => (strongest (devRead s1 r.1 r.2)).isSome)).elim (layerPass s1 n k layer l due) (poisonPass s1 n k)) := by
  have none_frozen : (setRuns l (!act)).any (fun r => (regionsOf r.1 r.2).any (fun g => reFrozen (entry s g))) = false := by
    simpa using thawed
  have none_waits := any_accessWaits_eq_false ready
  subst hl hact hins hs1
  obtain rfl := h.part
  change execUpdatePass k s = _
  simp only [execUpdatePass, h.unheld, h.next, none_frozen, allowed, none_waits, ← hdue, Bool.false_eq_true, if_false]
  cases due with
  | none =>
    simp only [Bool.false_eq_true, if_false]
    cases List.find? _ _ <;> rfl
  | some r =>
    simp only [refreshed r rfl, Bool.not_true, Bool.false_eq_true, if_false]
    cases List.find? _ _ <;> rfl

end Pass

/-! ### The arithmetic of a record (R156) -/

section Record
variable (u : UpdCtx) (x : RecIn) {e : Nat} (he : e < 16)
include he

theorem newM_of_momentum (hr : ludRule u.lud = 0) :
    (newM u x).1[e]? = some (fp32Fma (ludF32 u.lud 159) (wAt x.m1 e) (wAt x.g e)).1 := by
  simp [newM, hr, he]

theorem newM_of_adamW (hr : ludRule u.lud = 1) :
    (newM u x).1[e]? = some (fp32Fma (ludF32 u.lud 159) (wAt x.m1 e) (fp32Mul u.ob1 (wAt x.g e)).1).1 := by
  simp [newM, hr, he]

theorem newV_elem :
    (newV u x).1[e]? = some (fp32Fma (ludF32 u.lud 191) (wAt x.m2 e) (fp32Mul u.ob2 (fp32Mul (wAt x.g e) (wAt x.g e)).1).1).1 := by
  simp [newV, he]

theorem plainDir_of_adamW (hr : ludRule u.lud = 1) (m v : List Word32) :
    (plainDir u m v).1[e]? = some (fp32Div (fp32Mul (wAt m e) u.bc1).1
      (fp32Add (fp32Sqrt (fp32Mul (wAt v e) u.bc2).1).1 (ludF32 u.lud 223)).1).1 := by
  simp [plainDir, hr, he]

theorem finishRec_elem (m v d : Vals) :
    (finishRec u x m v d).d[e]? = some (fp32Fma (ludF32 u.lud 255) (wAt x.p e) (wAt d.1 e)).1 ∧
    (finishRec u x m v d).y[e]? = some (fp32Fma u.nlr (fp32Fma (ludF32 u.lud 255) (wAt x.p e) (wAt d.1 e)).1 (wAt x.r e)).1 ∧
    (finishRec u x m v d).x[e]? = some (fp32Add (wAt x.p e) (fp32Ldexp (fp32Fma u.nlr
      (fp32Fma (ludF32 u.lud 255) (wAt x.p e) (wAt d.1 e)).1 (wAt x.r e)).1 u.fr).1).1 := by
  simp [finishRec, he]

end Record

theorem plainDir_of_momentum {u : UpdCtx} (hr : ludRule u.lud = 0) (m v : List Word32) : plainDir u m v = (m, 0#4) := by
  simp [plainDir, hr]

/-- Settles O25: the pass outcome by outcome, then each element of a record under the momentum and the AdamW rule. -/
theorem updatePassAndItsArithmetic : Obligations.UpdatePassAndItsArithmetic := by
  refine ⟨?pass, ?arithmetic⟩
  case pass =>
    intro s s1 k n layer l act due ins part die free gate going next hl hact hdue hins hs1
    have takes : TakesLayer s k n layer := ⟨part, die, free, gate, going, next⟩
    refine ⟨fun frozen => exec_updatePass_of_frozen takes hl hact frozen,
      fun thawed allowed ready => ⟨fun refreshed => ?made, fun r isDue undone => ?held⟩⟩
    case made =>
      have run := exec_updatePass_of_ready takes hl hact thawed hins allowed ready hdue refreshed hs1
      refine ⟨fun clean => ?_, fun r found => ?_⟩
      · have none_found : ins.find? (fun r => (strongest (devRead s1 r.1 r.2)).isSome) = none := by
          simpa using clean
        rw [run, none_found, Option.elim_none]
      · rw [run, found, Option.elim_some]
    case held =>
      have run := exec_updatePass_of_waiting takes hl hact thawed hins allowed ready hdue isDue undone
      refine ⟨fun late => ?_, fun first => ?_⟩
      · exact run.trans (congrArg Host.Outcome.next (if_pos late))
      · exact run.trans (congrArg Host.Outcome.next (if_neg (by simp [first])))
  case arithmetic =>
    intro u x e he
    exact ⟨fun hr => ⟨newM_of_momentum u x he hr, plainDir_of_momentum hr⟩,
      fun hr => ⟨newM_of_adamW u x he hr, newV_elem u x he, plainDir_of_adamW u he hr⟩, finishRec_elem u x he⟩

end Sys2Proof.Machine

namespace Sys2Proof.Machine

open Sys2Proof

/-! SUPPORT. The norm gate, the arming of layers, and the snapshot and refresh of a preconditioner. -/

/-! ### Partitions through operations that leave them alone -/

theorem State.part_congr {s t : State} (h : t.parts = s.parts) (n : Nat) : t.part n = s.part n := by rw [State.part, h]; rfl
theorem State.cmt_congr {s t : State} (h : t.parts = s.parts) (n : Nat) : t.cmt n = s.cmt n := congrArg Part.cmt (State.part_congr h n)
theorem State.att_congr {s t : State} (h : t.parts = s.parts) (n : Nat) : t.att n = s.att n := congrArg Commit.att (State.cmt_congr h n)
theorem curStep_congr {s t : State} (h : t.parts = s.parts) (n : Nat) : curStep t n = curStep s n :=
  congrArg (fun c => c.stepC + 1) (State.cmt_congr h n)

theorem OnlyMemHost.parts_eq {s t : State} (h : OnlyMemHost s t) : t.parts = s.parts := by rw [h]

/-! ### NORM_GATE (R172, R173) -/

/-- No layer is counted as armed before the engines start. -/
def disarmClusters (s : State) (n : Nat) : State :=
  (List.range 32).foldl (fun t k => if holdsCluster t n k then t.modCluster k (fun q => { q with armedCnt := 0 }) else t) s

@[simp] theorem disarmClusters_parts (s : State) (n : Nat) : (disarmClusters s n).parts = s.parts := by
  unfold disarmClusters
  refine foldl_any (P := fun t : State => t.parts = s.parts) rfl (fun t k kept => ?_)
  split
  · exact kept
  · exact kept

/-- The gate with its total evaluated: GNORM and CLIPF follow the total, and it closes on one that is not finite or overran. -/
def gated (s : State) (n : Nat) : State :=
  disarmClusters (s.modCmt n (fun d => { d with
    gnorm := gnormOf (s.cmt n).totT, gnV := true, clipf := clipOf (s.part n).active.gclip (gnormOf (s.cmt n).totT),
    att := { d.att with gate := some (!((s.cmt n).nonfin || (s.cmt n).ovr)) } })) n

theorem gated_cmt (s : State) (n : Nat) : (gated s n).cmt n = { s.cmt n with
    gnorm := gnormOf (s.cmt n).totT, gnV := true, clipf := clipOf (s.part n).active.gclip (gnormOf (s.cmt n).totT),
    att := { s.att n with gate := some (!((s.cmt n).nonfin || (s.cmt n).ovr)) } } := by
  rw [gated, State.cmt_congr (disarmClusters_parts _ n), State.cmt_modCmt]
  rfl

theorem curStep_gated (s : State) (n : Nat) : curStep (gated s n) n = curStep s n := by
  rw [curStep, gated_cmt]
  rfl

/-- A gate that is not evaluated yet evaluates the total of its open attempt. -/
theorem exec_normGate_of_total {s : State} {n : Nat} (isOpen : (s.att n).isOpen = true) (total : (s.att n).normIn = true)
    (fresh : (s.att n).gate = none) :
    exec (.normGate n) s = .next (if (s.cmt n).nonfin || (s.cmt n).ovr then
      causeAbandon (raise (gated s n) 0x1201 (some n) none (data1 0 0 0 0 (curStep s n))) n 1 else checkLayers (gated s n) n) := by
  rw [← curStep_gated]
  change execNormGate n s = _
  simp only [execNormGate, isOpen, total, fresh, Bool.not_true, Option.isSome_none, Bool.or_self, Bool.false_eq_true, if_false]
  rfl

/-! ### LAYER_ARM (R159) -/

theorem exec_layerArm_of_passed {s : State} {n layer : Nat} (passed : layer ∈ (s.att n).passed)
    (unarmed : (s.cmt n).armed.getLsbD layer = false) (gate : (s.att n).gate = some true) :
    exec (.layerArm n layer) s = .next ((s.modCmt n (fun c => { c with armed := c.armed ||| (1#4096 <<< layer) })).modCluster
      (ludUe (ludAt s n layer)) (fun c => { c with busy := none, armedCnt := c.armedCnt + 1 })) := by
  have arms : ((s.att n).passed.contains layer && !(s.cmt n).armed.getLsbD layer && (s.att n).gate == some true) = true := by
    simp [passed, unarmed, gate]
  change execLayerArm n layer s = _
  simp only [execLayerArm, arms, if_true]

/-! ### PC_SNAPSHOT (R167) and PC_REFRESH_SLICE (R168) -/

/-- The snapshot's moves, one after another. -/
def moveAll (s : State) (ms : List (Run × Run)) : State := ms.foldl (fun w m => devWrite w m.2.1 (devRead w m.1.1 m.1.2)) s

theorem moveAll_onlyMemHost (s : State) (ms : List (Run × Run)) : OnlyMemHost s (moveAll s ms) :=
  OnlyMemHost.foldl _ (fun w (m : Run × Run) => devWrite_onlyMemHost w m.2.1 (devRead w m.1.1 m.1.2)) ms s

/-- A snapshot is due for a layer with a preconditioner, at its period, where none is known of this step and no refresh is under way. -/
structure SnapshotDue (s : State) (n layer : Nat) (l : BitVec 1024) : Prop where
  lud : l = ludAt s n layer
  inTable : layer < (s.part n).active.nlayers.toNat
  enabled : ludEn l = true
  blocks : ludPcb l ≠ 0
  period : fld l 703 688 ≠ 0
  committed : (s.cmt n).stepC ≠ 0
  onPeriod : (s.cmt n).stepC.toNat % fld l 703 688 = 0
  unknown : ∀ r ∈ (s.part n).refreshes, r.layer = layer → r.step ≠ (s.cmt n).stepC ∧ r.done = true

theorem SnapshotDue.unheld {s : State} {n layer : Nat} {l : BitVec 1024} (h : SnapshotDue s n layer l) :
    (decide ((s.part n).active.nlayers.toNat ≤ layer) || !ludEn l || ludPcb l == 0 || fld l 703 688 == 0 || (s.cmt n).stepC == 0 ||
      (s.cmt n).stepC.toNat % fld l 703 688 != 0 ||
      (s.part n).refreshes.any (fun r => r.layer == layer && (r.step == (s.cmt n).stepC || !r.done))) = false := by
  have known : (s.part n).refreshes.any (fun r => r.layer == layer && (r.step == (s.cmt n).stepC || !r.done)) = false := by
    rw [List.any_eq_false]
    intro r hr
    by_cases same : r.layer = layer
    · obtain ⟨step, done⟩ := h.unknown r hr same
      simp [step, done]
    · simp [same]
  have inTable := h.inTable.not_ge
  have committed : ((s.cmt n).stepC == 0) = false := by simpa using h.committed
  simp only [inTable, h.enabled, h.onPeriod, known, committed, beq_eq_false_iff_ne.mpr h.blocks, beq_eq_false_iff_ne.mpr h.period,
    decide_false, Bool.not_true, bne_self_eq_false, Bool.or_self]

theorem exec_pcSnapshot_of_due {s s1 : State} {n layer : Nat} {l : BitVec 1024} {ms : List (Run × Run)} (h : SnapshotDue s n layer l)
    (hms : ms = snapMoves l ((s.cmt n).sel.getLsbD layer)) (allowed : updAccess s n (ms.flatMap (fun m => [m.1, m.2])) = none)
    (ready : ∀ m ∈ ms, accessWaits s m.1.1 m.1.2 = false ∧ accessWaits s m.2.1 m.2.2 = false)
    (hs1 : s1 = discoverRuns s none true (ms.map Prod.fst)) :
    exec (.pcSnapshot n layer) s = .next ((moveAll s1 ms).modPart n (fun p => { p with
      refreshes := p.refreshes ++ [{ layer := layer, step := (s.cmt n).stepC, snapped := true }] })) := by
  have none_waits : ms.any (fun m => accessWaits s m.1.1 m.1.2 || accessWaits s m.2.1 m.2.2) = false := by
    simpa using ready
  have unheld := h.unheld
  obtain rfl := h.lud
  subst hms hs1
  change execPcSnapshot n layer s = _
  simp only [execPcSnapshot, unheld, allowed, none_waits, Bool.false_eq_true, if_false]
  rfl

theorem exec_pcRefreshSlice_of_clean {s s1 : State} {n layer a : Nat} {l : BitVec 1024} {r : Refresh} (hl : l = ludAt s n layer)
    (hr : (s.part n).refreshes.find? (fun r => r.layer == layer && !r.done) = some r)
    (ha : a = pcSnap l + r.nextBlock * ludPcb l * ludPcb l * 4) (allowed : updAccess s n [(a, ludPcb l * ludPcb l * 4)] = none)
    (ready : accessWaits s a (ludPcb l * ludPcb l * 4) = false) (hs1 : s1 = discoverRuns s none true [(a, ludPcb l * ludPcb l * 4)])
    (clean : strongest (devRead s1 a (ludPcb l * ludPcb l * 4)) = none) :
    exec (.pcRefreshSlice n layer) s =
      (let q := refreshQ (ludPcb l) (fld l 711 708 + 4) (l.getLsbD 48) (ludF32 l 223) (readMatrix s1 a (ludPcb l))
       .next (landBlock (s1.modCore (refreshCore s1 n layer r.nextBlock) (fun c => { c with vecNf := setFlags c.vecNf q.2 none })) n layer l r
         q.1)) := by
  subst hl ha hs1
  change execPcRefreshSlice n layer s = _
  simp only [execPcRefreshSlice, hr, allowed, ready, clean, Option.isSome_none, Bool.false_eq_true, if_false]

/-- Settles O26: the gate with its total evaluated, then the arming of a layer, then the snapshot and the refresh from it. -/
theorem normGateArmAndRefresh : Obligations.NormGateArmAndRefresh := by
  refine ⟨?gate, fun s n layer l hl => ⟨?arm, ?snapshot, ?refresh⟩⟩
  case gate =>
    rintro s s1 n g isOpen total fresh rfl (hs1 : s1 = gated s n)
    subst hs1
    have run := exec_normGate_of_total isOpen total fresh
    refine ⟨fun bad => ?_, fun finite fits => ⟨?_, ?_, ?_⟩⟩
    · exact run.trans (congrArg Host.Outcome.next (if_pos (by simpa using bad)))
    · exact run.trans (congrArg Host.Outcome.next (if_neg (by simp [finite, fits])))
    · rw [State.att, gated_cmt, finite, fits]
      rfl
    · rw [gated_cmt]
  case arm =>
    intro passed unarmed gate
    exact hl ▸ exec_layerArm_of_passed passed unarmed gate
  case snapshot =>
    intro ms s1 inTable enabled blocks period committed onPeriod unknown hms allowed ready hs1
    have due : SnapshotDue s n layer l := ⟨hl, inTable, enabled, blocks, period, committed, onPeriod, unknown⟩
    refine ⟨_, exec_pcSnapshot_of_due due hms allowed ready hs1, ?_, rfl⟩
    have moved : OnlyMemHost s (moveAll s1 ms) := (hs1 ▸ discoverRuns_onlyMemHost s none true _).trans (moveAll_onlyMemHost s1 ms)
    rw [State.part_modPart, State.part_congr moved.parts_eq]
  case refresh =>
    rintro r a q s1 hr ha allowed ready hs1 clean rfl
    refine ⟨exec_pcRefreshSlice_of_clean hl hr ha allowed ready hs1 clean, fun z hz => ?_⟩
    simp only [landBlock, hz, Option.isNone_some, Option.getD_some, Bool.false_eq_true, if_false]

end Sys2Proof.Machine

namespace Sys2Proof.Machine

open Sys2Proof

/-! SUPPORT. Commit groups: who is a member, READY and COMMIT, ABORT and the leader's deadline. -/

/-! ### What the attempt's own bookkeeping leaves alone -/

section Attempt
variable (s : State) (n : Nat) (f : Attempt → Attempt)

/-- A change of one attempt changes no other part of any partition. -/
theorem State.part_modAtt_keeps (p : Nat) :
    ((s.modAtt n f).part p).exist = (s.part p).exist ∧ ((s.modAtt n f).part p).active = (s.part p).active ∧
    ((s.modAtt n f).cmt p).peers = (s.cmt p).peers := by
  by_cases h : p = n
  · subst h
    simp only [State.modAtt, State.modCmt, State.cmt, State.part_modPart, and_self]
  · simp only [State.modAtt, State.modCmt, State.cmt, State.part_modPart_ne s _ h, and_self]

@[simp] theorem State.part_modAtt_active (p : Nat) : ((s.modAtt n f).part p).active = (s.part p).active := (s.part_modAtt_keeps n f p).2.1
@[simp] theorem State.part_modAtt_exist (p : Nat) : ((s.modAtt n f).part p).exist = (s.part p).exist := (s.part_modAtt_keeps n f p).1
@[simp] theorem State.cmt_modAtt_peers (p : Nat) : ((s.modAtt n f).cmt p).peers = (s.cmt p).peers := (s.part_modAtt_keeps n f p).2.2
@[simp] theorem State.cmt_modAtt_same : (s.modAtt n f).cmt n = { s.cmt n with att := f (s.att n) } := s.cmt_modCmt n _
@[simp] theorem curStep_modAtt : curStep (s.modAtt n f) n = curStep s n := by simp [curStep]
@[simp] theorem isMember_modAtt (p : Nat) : isMember (s.modAtt n f) p = isMember s p := by simp [isMember]
@[simp] theorem cgidOf_modAtt (p : Nat) : cgidOf (s.modAtt n f) p = cgidOf s p := by simp [cgidOf]
@[simp] theorem farMembers_modAtt (p : Nat) : farMembers (s.modAtt n f) p = farMembers s p := by
  simp only [farMembers, cgidOf_modAtt, State.cmt_modAtt_peers]
  rfl
@[simp] theorem membersFor_modAtt (p : Nat) : membersFor (s.modAtt n f) p = membersFor s p := by
  simp only [membersFor, isMember_modAtt, cgidOf_modAtt, farMembers_modAtt]
  rfl

end Attempt

@[simp] theorem State.att_emit (s : State) (m : OutMsg) (n : Nat) : (s.emit m).att n = s.att n := rfl

/-- A member put into a list is there, with those that were. -/
theorem mem_addMember {l : List Member} {m x : Member} : x ∈ addMember l m ↔ x = m ∨ x ∈ l := by
  unfold addMember
  split
  next listed =>
    have listed : m ∈ l := by simpa using listed
    exact ⟨.inr, fun h => h.elim (fun e => e ▸ listed) id⟩
  next => rw [List.mem_append, List.mem_singleton, or_comm]

/-- Whether every member of the group has been heard, with the message of `m`. -/
theorem all_heard_iff {ms l : List Member} {m : Member} :
    ms.all (fun x => (addMember l m).contains x) = true ↔ ∀ x ∈ ms, x = m ∨ x ∈ l := by
  simp [mem_addMember]

theorem current_self (s : State) (n : Nat) : current s n (curStep s n) (s.cmt n).attempt = true := by simp [current]

/-! ### READY (R175) and COMMIT (R176) -/

theorem exec_memberReady_of_armed {s : State} {n : Nat} (member : isMember s n = true) (isOpen : (s.att n).isOpen = true)
    (gate : (s.att n).gate = some true) (unsent : (s.att n).readySent = false) (going : (s.att n).abortSent = false)
    (unhit : (s.att n).resetHit = false) (armed : allArmed s n = true) (checked : (s.part n).sn.pending = 0)
    (running : (s.part n).inReset = false) :
    exec (.memberReady n) s = .next ((s.emit (.ready (s.self n) (curStep s n) (s.cmt n).attempt)).modAtt n
      (fun a => { a with readySent := true })) := by
  have ready : (isMember s n && (s.att n).isOpen && (s.att n).gate == some true && !(s.att n).readySent && !(s.att n).abortSent &&
      !(s.att n).resetHit && allArmed s n && (s.part n).sn.pending == 0 && !(s.part n).inReset) = true := by
    simp [member, isOpen, gate, unsent, going, unhit, armed, checked, running]
  change execMemberReady n s = _
  simp only [execMemberReady, ready, if_true]

section Leader
variable {r s : State} {n : Nat} {m : Member} (hs : s = hear r n m) (leads : isLeader s n = true) (undecided : (s.att n).decided = false)
include hs leads undecided

/-- The leader that holds every READY sends COMMIT; else it counts the one that came (R176). -/
theorem exec_readyReceive_of_leader :
    exec (.readyReceive n m (curStep s n) (s.cmt n).attempt) r = .next (
      let t := s.modAtt n (fun a => { a with ready := addMember a.ready m })
      if (membersFor s n).all (fun x => (addMember (s.att n).ready m).contains x) then
        (t.emit (.commit (cgidOf s n) (curStep s n) (s.cmt n).attempt (BitVec.ofNat 64 (commitInstant s n s.now)))).modAtt n
          (fun a => { a with decided := true })
      else t) := by
  have leads' : (!isLeader s n || !current s n (curStep s n) (s.cmt n).attempt || (s.att n).decided) = false := by
    simp [leads, undecided, current_self]
  change execReadyReceive n m _ _ r = _
  simp only [execReadyReceive, ← hs, leads', Bool.false_eq_true, if_false, membersFor_modAtt, State.att_modAtt, cgidOf_modAtt]
  simp only [commitInstant, State.part_modAtt_active]
  rfl

/-- Before its decision the leader turns ABORT into ABANDON (R178). -/
theorem exec_abortReceive_of_undecided (reason : Nat) :
    exec (.abortReceive n m (curStep s n) (s.cmt n).attempt reason) r =
      .next ((s.emit (.abandon (cgidOf s n) (curStep s n) (s.cmt n).attempt reason)).modAtt n (fun a => { a with decided := true })) := by
  have leads' : (!isLeader s n || !current s n (curStep s n) (s.cmt n).attempt || (s.att n).decided) = false := by
    simp [leads, undecided, current_self]
  change execAbortReceive n m _ _ reason r = _
  simp only [execAbortReceive, ← hs, leads', Bool.false_eq_true, if_false]

end Leader

/-- After its decision the leader ignores ABORT (R178). -/
theorem exec_abortReceive_of_decided {r s : State} {n : Nat} {m : Member} (hs : s = hear r n m) (decided : (s.att n).decided = true)
    (step : Word64) (attempt : Word16) (reason : Nat) : exec (.abortReceive n m step attempt reason) r = .next s := by
  change execAbortReceive n m step attempt reason r = _
  simp only [execAbortReceive, ← hs, decided, Bool.or_true, if_true]

/-! ### The leader's deadline (R178) -/

/-- Events of some items, one after another, on a state that they leave alone but for themselves. -/
theorem raise_foldl {α : Type} (code : Nat) (part : Option Nat) (data : α → Nat) (l : List α) (s : State) :
    l.foldl (fun t a => raise t code part none (data a)) s = s.modHost (fun h => { h with raised := h.raised ++ l.map (fun a => {
      code := BitVec.ofNat 16 code, part := part, ctx := none, data := BitVec.ofNat 128 (data a), ptv := s.time.valid,
      pt := if s.time.valid then s.time.pt else s.time.up }) }) := by
  induction l generalizing s with
  | nil => simp [State.modHost]
  | cons a l ih =>
    rw [List.foldl_cons, ih]
    simp only [raise, State.modHost, List.map_cons, List.append_assoc, List.singleton_append]
    rfl

theorem exec_commitTimeout_of_late {s : State} {n : Nat} (member : isMember s n = true) (isOpen : (s.att n).isOpen = true)
    (leads : isLeader s n = true) (undecided : (s.att n).decided = false)
    (late : (s.att n).openAt + (s.part n).active.gradDl.toNat + fld (s.part n).active.cmtCtl 47 32 * s.time.beatPeriod.toNat ≤ s.now) :
    exec (.commitTimeout n) s = .next (
      let t := ((membersFor s n).filter (fun m => !(s.att n).ready.contains m)).foldl
        (fun t m => raise t 0x3203 (some n) none (data3 0 m.dev (curStep s n).toNat)) s
      (t.emit (.abandon (cgidOf t n) (curStep s n) (t.cmt n).attempt 6)).modAtt n (fun a => { a with decided := true })) := by
  have acts : (!isMember s n || !(s.att n).isOpen || !isLeader s n || (s.att n).decided ||
      decide (s.now < (s.att n).openAt + (s.part n).active.gradDl.toNat + fld (s.part n).active.cmtCtl 47 32 * s.time.beatPeriod.toNat)) =
      false := by
    simp [member, isOpen, leads, undecided, late]
  change execCommitTimeout n s = _
  simp only [execCommitTimeout, acts, Bool.false_eq_true, if_false]

/-- Settles O28: READY, then what the leader makes of it, then ABORT before and after its decision, then its deadline. -/
theorem readyCommitAndLeader : Obligations.ReadyCommitAndLeader := by
  refine ⟨⟨fun s n member isOpen gate unsent going unhit armed checked running =>
    exec_memberReady_of_armed member isOpen gate unsent going unhit armed checked running, ?ready⟩, fun s n leads => ⟨?abort, ?deadline⟩⟩
  case ready =>
    rintro r s n m step attempt hs leads rfl rfl undecided
    have run := exec_readyReceive_of_leader hs leads undecided
    refine ⟨fun heard => ?_, fun x hx other unheard => ?_⟩
    · refine ⟨_, run.trans (congrArg Host.Outcome.next (if_pos (all_heard_iff.mpr heard))), ?_, ?_, rfl, rfl, rfl⟩
      · rw [State.att_modAtt]
      · rw [State.att_modAtt, State.att_emit, State.att_modAtt]
        exact mem_addMember.mpr (.inl rfl)
    · exact run.trans (congrArg Host.Outcome.next (if_neg (fun all => (all_heard_iff.mp all x hx).elim other unheard)))
  case abort =>
    rintro r m step attempt reason hs rfl rfl
    exact ⟨fun undecided => exec_abortReceive_of_undecided hs leads undecided reason,
      fun decided => exec_abortReceive_of_decided hs decided _ _ reason⟩
  case deadline =>
    intro member isOpen undecided late
    refine ⟨_, exec_commitTimeout_of_late member isOpen leads undecided late, ?_, ?_, ?_⟩
    · rw [State.att_modAtt]
    · rw [raise_foldl]
      rfl
    · rw [raise_foldl]
      rfl

end Sys2Proof.Machine

namespace Sys2Proof.Machine

open Sys2Proof

/-! SUPPORT. What messages and tokens leave alone, and the commit, the abandonment and the reopening of an attempt. -/

/-! ### A state that differs in contexts, the fabric and the host interface alone -/

/-- `t` differs from `s` in the contexts, the fabric and the host interface alone. -/
def OnlyMsg (s t : State) : Prop := t = { s with ctxs := t.ctxs, fab := t.fab, host := t.host }

section OnlyMsg
variable {s t : State}

theorem OnlyMsg.refl (s : State) : OnlyMsg s s := rfl
theorem OnlyMsg.trans {u : State} (h : OnlyMsg s t) (g : OnlyMsg t u) : OnlyMsg s u := by
  unfold OnlyMsg at *
  rw [g, h]
theorem OnlyMsg.foldl {α : Type} {f : State → α → State} (h : ∀ s a, OnlyMsg s (f s a)) (l : List α) (s : State) : OnlyMsg s (l.foldl f s) :=
  foldl_any (P := OnlyMsg s) (OnlyMsg.refl s) (fun t a ht => ht.trans (h t a))

theorem OnlyMsg.ite {u : State} {c : Prop} [Decidable c] (h : OnlyMsg s t) (g : OnlyMsg s u) : OnlyMsg s (if c then t else u) := by
  split
  · exact h
  · exact g

theorem OnlyMsg.parts_eq (h : OnlyMsg s t) : t.parts = s.parts := by rw [h]
theorem OnlyMsg.mem_eq (h : OnlyMsg s t) : t.mem = s.mem := by rw [h]
theorem OnlyMsg.mgmt_eq (h : OnlyMsg s t) : t.mgmt = s.mgmt := by rw [h]
theorem OnlyMsg.rel_eq (h : OnlyMsg s t) : t.rel = s.rel := by rw [h]
theorem OnlyMsg.time_eq (h : OnlyMsg s t) : t.time = s.time := by rw [h]

theorem modCtx_onlyMsg (s : State) (k : Nat) (f : Ctx → Ctx) : OnlyMsg s (s.modCtx k f) := by
  unfold State.modCtx
  split <;> rfl
theorem modVc_onlyMsg (s : State) (v : VRef) (f : Vcore → Vcore) : OnlyMsg s (s.modVc v f) := modCtx_onlyMsg s v.ctx _
theorem raise_onlyMsg (s : State) (code : Nat) (p k : Option Nat) (d : Nat) : OnlyMsg s (raise s code p k d) := rfl
theorem raiseVc_onlyMsg (s : State) (v : VRef) (code fault idx : Nat) : OnlyMsg s (raiseVc s v code fault idx) := by
  unfold raiseVc
  split <;> rfl
theorem modFab_onlyMsg (s : State) (f : Fabric → Fabric) : OnlyMsg s (s.modFab f) := rfl
theorem modHost_onlyMsg (s : State) (f : HostIf → HostIf) : OnlyMsg s (s.modHost f) := rfl
theorem emit_onlyMsg (s : State) (m : OutMsg) : OnlyMsg s (s.emit m) := rfl
theorem releaseOp_onlyMsg (s : State) (v : VRef) (id : Nat) (err : Option Nat) : OnlyMsg s (releaseOp s v id err) := modVc_onlyMsg ..

/-! Control tokens (R220). -/

theorem pushCtl_onlyMsg (s : State) (v : VRef) (val : Nat) (step : Word64) : OnlyMsg s (pushCtl s v val step) := by
  unfold pushCtl
  split
  · exact OnlyMsg.refl s
  · dsimp only
    split
    · exact (modVc_onlyMsg ..).trans (modVc_onlyMsg ..)
    · refine OnlyMsg.trans ?_ (modVc_onlyMsg ..)
      split
      · exact modVc_onlyMsg ..
      · exact (modVc_onlyMsg ..).trans (raiseVc_onlyMsg ..)

theorem sendCtl_onlyMsg (s : State) (n val : Nat) (step : Word64) : OnlyMsg s (sendCtl s n val step) := by
  refine OnlyMsg.foldl (fun t k => ?_) _ s
  split
  · exact OnlyMsg.foldl (fun u p => pushCtl_onlyMsg ..) _ t
  · exact OnlyMsg.refl t

/-! Flits (R311 to R317). -/

theorem freeBuffer_onlyMsg (s : State) (came : Option Nat) (vc : Nat) : OnlyMsg s (freeBuffer s came vc) := by
  cases came <;> rfl
theorem txFlit_onlyMsg (s : State) (n : Nat) (e : Option Nat × BitVec 2048) : OnlyMsg s (txFlit s n e) :=
  OnlyMsg.trans (rfl : OnlyMsg s ((s.modLink n _).emit _)) (freeBuffer_onlyMsg ..)
theorem pump_onlyMsg (k n : Nat) (s : State) : OnlyMsg s (pump k n s) := by
  induction k generalizing s with
  | zero => exact OnlyMsg.refl s
  | succ k ih =>
    unfold pump
    split
    · exact (txFlit_onlyMsg ..).trans (ih _)
    · exact OnlyMsg.refl s
theorem sendFlit_onlyMsg (s : State) (n : Nat) (came : Option Nat) (f : BitVec 2048) : OnlyMsg s (sendFlit s n came f) :=
  OnlyMsg.trans (rfl : OnlyMsg s (s.modLink n _)) (pump_onlyMsg ..)
theorem deliver_onlyMsg (s : State) (came : Option Nat) (f : BitVec 2048) : OnlyMsg s (deliver s came f) := rfl
theorem unroutable_onlyMsg (s : State) (dst : Nat) : OnlyMsg s (unroutable s dst) := rfl
theorem routeFlit_onlyMsg (s : State) (came : Option Nat) (f : BitVec 2048) : OnlyMsg s (routeFlit s came f) := by
  unfold routeFlit
  dsimp only
  split
  · refine OnlyMsg.trans (OnlyMsg.trans ?copies (OnlyMsg.ite (freeBuffer_onlyMsg ..) (OnlyMsg.refl _)))
      (OnlyMsg.foldl (fun t l => sendFlit_onlyMsg ..) _ _)
    exact OnlyMsg.ite (unroutable_onlyMsg ..) (OnlyMsg.ite (deliver_onlyMsg ..) (OnlyMsg.refl s))
  · split
    · exact (unroutable_onlyMsg ..).trans (freeBuffer_onlyMsg ..)
    · exact deliver_onlyMsg ..
    · exact sendFlit_onlyMsg ..
theorem routeMessage_onlyMsg (s : State) (fs : List (BitVec 2048)) : OnlyMsg s (routeMessage s fs) := by
  unfold routeMessage
  split
  · exact OnlyMsg.refl s
  · dsimp only
    split
    · exact unroutable_onlyMsg ..
    · exact OnlyMsg.foldl (fun t g => routeFlit_onlyMsg ..) _ s
theorem launch_onlyMsg (s : State) (h : FlitHead) (runs : List (Nat × List PByte)) : OnlyMsg s (launch s h runs) := by
  unfold launch
  split
  · exact OnlyMsg.foldl (fun t f => deliver_onlyMsg ..) _ s
  · split
    · exact unroutable_onlyMsg ..
    · exact (modFab_onlyMsg ..).trans (routeMessage_onlyMsg ..)

/-! Completions (R370). -/

theorem finish_onlyMsg (s : State) (o : Origin) (status result : Nat) : OnlyMsg s (finish s o status result) := by
  cases o <;> rfl
theorem groupDone_onlyMsg (s : State) (g : Nat) : OnlyMsg s (groupDone s g) := by
  unfold groupDone
  split
  · split
    · split
      · exact OnlyMsg.refl s
      · exact (modFab_onlyMsg ..).trans (finish_onlyMsg ..)
    · exact OnlyMsg.refl s
  · exact OnlyMsg.refl s
theorem groupsDone_onlyMsg (s : State) : OnlyMsg s (groupsDone s) := OnlyMsg.foldl (fun _ _ => groupDone_onlyMsg ..) _ s
theorem endSave_onlyMsg (s : State) (k status : Nat) : OnlyMsg s (endSave s k status) := by
  unfold endSave
  split
  · split
    · exact (modCtx_onlyMsg ..).trans (finish_onlyMsg ..)
    · exact OnlyMsg.refl s
  · exact OnlyMsg.refl s

end OnlyMsg

/-! ### The mirror at a commit (R343, R345) -/

/-- What a commit instant's mirror keeps of a state: every partition's commit state and telemetry, and the bytes of device memory. -/
structure KeepsCommits (s t : State) : Prop where
  cmt : ∀ p, t.cmt p = s.cmt p
  tel : ∀ p, (t.part p).tel = (s.part p).tel
  bytes : t.mem.bytes = s.mem.bytes

section KeepsCommits
variable {s t : State}

theorem KeepsCommits.trans {u : State} (h : KeepsCommits s t) (g : KeepsCommits t u) : KeepsCommits s u :=
  ⟨fun p => (g.cmt p).trans (h.cmt p), fun p => (g.tel p).trans (h.tel p), g.bytes.trans h.bytes⟩
theorem KeepsCommits.of_parts (parts : t.parts = s.parts) (bytes : t.mem.bytes = s.mem.bytes) : KeepsCommits s t :=
  ⟨State.cmt_congr parts, fun p => congrArg Part.tel (State.part_congr parts p), bytes⟩
theorem KeepsCommits.refl (s : State) : KeepsCommits s s := .of_parts rfl rfl
theorem OnlyMsg.keepsCommits (h : OnlyMsg s t) : KeepsCommits s t := .of_parts h.parts_eq (congrArg MemSys.bytes h.mem_eq)
/-- A change of a partition that keeps a part of it keeps that part of every partition. -/
theorem State.part_modPart_of {β : Type} (g : Part → β) (s : State) (n : Nat) {f : Part → Part} (h : ∀ q, g (f q) = g q) (p : Nat) :
    g ((s.modPart n f).part p) = g (s.part p) := by
  by_cases same : p = n
  · rw [same, State.part_modPart, h]
  · rw [State.part_modPart_ne _ _ same]
theorem modPart_keepsCommits (s : State) (n : Nat) {f : Part → Part} (cmt : ∀ q, (f q).cmt = q.cmt) (tel : ∀ q, (f q).tel = q.tel) :
    KeepsCommits s (s.modPart n f) :=
  ⟨State.part_modPart_of Part.cmt s n cmt, State.part_modPart_of Part.tel s n tel, rfl⟩

theorem KeepsCommits.foldl {α : Type} {f : State → α → State} (h : ∀ s a, KeepsCommits s (f s a)) (l : List α) (s : State) :
    KeepsCommits s (l.foldl f s) :=
  foldl_any (P := KeepsCommits s) (KeepsCommits.refl s) (fun t a ht => ht.trans (h t a))

theorem countRefused_keepsCommits (s : State) (n : Nat) : KeepsCommits s (countRefused s n) :=
  modPart_keepsCommits s n (fun _ => rfl) (fun _ => rfl)
theorem sampleNext_keepsCommits (s : State) (n : Nat) : KeepsCommits s (sampleNext s n) :=
  modPart_keepsCommits s n (fun _ => rfl) (fun _ => rfl)

theorem demand_keepsCommits (s : State) (k : Option Nat) (da n : Nat) : KeepsCommits s (demand s k da n) :=
  .of_parts (demand_onlyMemHost s k da n).parts_eq (demand_bytes s k da n)

theorem sendMirror_keepsCommits (s : State) (n : Nat) : KeepsCommits s (sendMirror s n) := by
  unfold sendMirror
  dsimp only
  split
  · exact (raise_onlyMsg ..).keepsCommits.trans (countRefused_keepsCommits ..)
  · split
    · exact KeepsCommits.refl s
    · have read : KeepsCommits s ((mirrorRuns s n).foldl (fun t r => demand t none r.1 r.2) s) :=
        KeepsCommits.foldl (fun t r => demand_keepsCommits ..) _ s
      exact read.trans (OnlyMsg.keepsCommits
        ((OnlyMsg.trans (OnlyMsg.foldl (fun t p => emit_onlyMsg ..) _ _) (modFab_onlyMsg ..)).trans (launch_onlyMsg ..)))

theorem mirrorAtCommit_keepsCommits (s : State) (n : Nat) : KeepsCommits s (mirrorAtCommit s n) := by
  unfold mirrorAtCommit
  extract_lets +lift adopted settings settled noted
  have adopts : OnlyMsg s adopted := by
    unfold adopted
    split <;> rfl
  have settles : OnlyMsg s settled := adopts.trans (OnlyMsg.ite rfl (OnlyMsg.refl adopted))
  have notes : OnlyMsg s noted := settles.trans (OnlyMsg.ite (OnlyMsg.refl settled) (raise_onlyMsg ..))
  split
  · exact settles.keepsCommits
  · split
    · exact (settles.trans (modFab_onlyMsg ..)).keepsCommits.trans (sendMirror_keepsCommits ..)
    · exact (notes.trans (modFab_onlyMsg ..)).keepsCommits

end KeepsCommits

/-! ### The flip (R176, R178) -/

@[simp] theorem clearArmed_parts (s : State) (n : Nat) : (clearArmed s n).parts = s.parts := by
  unfold clearArmed
  refine foldl_any (P := fun t : State => t.parts = s.parts) rfl (fun t k kept => ?_)
  split <;> exact kept
@[simp] theorem clearArmed_mem (s : State) (n : Nat) : (clearArmed s n).mem = s.mem := by
  unfold clearArmed
  refine foldl_any (P := fun t : State => t.mem = s.mem) rfl (fun t k kept => ?_)
  split <;> exact kept

/-- The commit state after a flip at `tc`: the armed layers' other sets are selected, and the attempt of the next step is open. -/
def flippedCmt (c : Commit) (tc : Nat) : Commit := { c with
  sel := c.sel ^^^ c.armed, armed := 0, stepC := c.stepC + 1, lastAtt := c.attempt, attempt := 0, tLast := BitVec.ofNat 64 tc,
  accT := 0, accNf := false, accOv := false, partials := [], gnV := false, clipf := 0x3F800000, contrib := 0, contribB := [],
  held := c.held.filter (fun h => decide ((c.stepC + 1).toNat ≤ h.step.toNat)), att := { isOpen := true, openAt := tc } }

section Flip
variable (s : State) (n tc : Nat)

/-- The tokens and the mirror come last in a flip; before them the member's own state has changed. -/
theorem flip_keeps : (∀ p, (flip s n tc).cmt p = if p = n then flippedCmt (s.cmt n) tc else s.cmt p) ∧
    ((flip s n tc).part n).tel = { (s.part n).tel with due := some (curStep s n, (s.cmt n).attempt, false) } ∧
    (flip s n tc).mem.bytes = s.mem.bytes := by
  unfold flip
  extract_lets +lift c step committed cleared reported sampled swept disarmed saved
  have parts : disarmed.parts = swept.parts := clearArmed_parts swept n
  have mem : disarmed.mem = swept.mem := clearArmed_mem swept n
  clear_value disarmed
  have told : KeepsCommits disarmed (mirrorAtCommit (sendCtl saved n 1 step) n) :=
    (KeepsCommits.of_parts rfl rfl : KeepsCommits disarmed saved).trans
      ((sendCtl_onlyMsg saved n 1 step).keepsCommits.trans (mirrorAtCommit_keepsCommits _ n))
  have samples : KeepsCommits reported disarmed :=
    (sampleNext_keepsCommits reported n).trans (.of_parts parts (congrArg MemSys.bytes mem))
  have keeps := samples.trans told
  have cmt : ∀ p, reported.cmt p = committed.cmt p := State.part_modPart_of Part.cmt cleared n (fun _ => rfl)
  have tel : (reported.part n).tel = { (committed.part n).tel with due := some (step, c.attempt, false) } :=
    congrArg Part.tel (cleared.part_modPart n _)
  refine ⟨fun p => (keeps.cmt p).trans ((cmt p).trans ?_), (keeps.tel n).trans (tel.trans ?_), keeps.bytes⟩
  · split
    next own =>
      rw [own]
      exact s.cmt_modCmt n _
    next other => exact s.cmt_modCmt_ne _ other
  · rw [show committed.part n = _ from s.part_modPart n _]

end Flip

/-! ### COMMIT and the instant (R178) -/

section Commit
variable {s : State} {n : Nat} {tc : Word64}

section Receive
variable (member : isMember s n = true) (isOpen : (s.att n).isOpen = true) (undecided : (s.att n).commit = none)
include member isOpen undecided

theorem exec_commitReceive_of_open : exec (.commitReceive n (curStep s n) (s.cmt n).attempt tc) s = .next (
    if tc.toNat < s.now then flip (raise s 0x3204 (some n) none (data3 0 0 (curStep s n).toNat)) n tc.toNat
    else s.modAtt n (fun a => { a with commit := some tc.toNat })) := by
  have takes : (!isMember s n || !(s.att n).isOpen || !current s n (curStep s n) (s.cmt n).attempt || (s.att n).commit.isSome) = false := by
    simp [member, isOpen, undecided, current_self]
  change execCommitReceive n _ _ tc s = _
  simp only [execCommitReceive, takes, Bool.false_eq_true, if_false]

end Receive

theorem exec_commitFlip_of_commit {tc : Nat} (commit : (s.att n).commit = some tc) :
    exec (.commitFlip n) s = .next (if tc ≤ s.now then flip s n tc else s) := by
  change execCommitFlip n s = _
  simp only [execCommitFlip, commit]

end Commit

/-- Settles O29: COMMIT in time and after T_c, the instant, and the member's own state after the flip. -/
theorem commitFlipsSelAtTheInstant : Obligations.CommitFlipsSelAtTheInstant := by
  refine fun s n => ⟨?receive, fun tc commit => ⟨fun due => ?_, fun early => ?_⟩, fun tc => ?flip⟩
  case receive =>
    rintro step attempt tc member isOpen rfl rfl undecided
    have run := exec_commitReceive_of_open (tc := tc) member isOpen undecided
    exact ⟨fun inTime => run.trans (congrArg _ (if_neg inTime.not_gt)), fun late => run.trans (congrArg _ (if_pos late))⟩
  · exact (exec_commitFlip_of_commit commit).trans (congrArg _ (if_pos due))
  · exact (exec_commitFlip_of_commit commit).trans (congrArg _ (if_neg early.not_ge))
  case flip =>
    obtain ⟨cmt, tel, bytes⟩ := flip_keeps s n tc
    have own : (flip s n tc).cmt n = flippedCmt (s.cmt n) tc := (cmt n).trans (if_pos rfl)
    have ownAtt : (flip s n tc).att n = (flippedCmt (s.cmt n) tc).att := congrArg Commit.att own
    rw [own, ownAtt, tel]
    exact ⟨rfl, rfl, rfl, rfl, rfl, rfl, rfl, rfl, rfl, rfl, rfl, bytes, fun p other => (cmt p).trans (if_neg other)⟩

end Sys2Proof.Machine

namespace Sys2Proof.Machine

open Sys2Proof

/-! SUPPORT. The abandonment of an attempt, RESUME, and the opening of the next attempt. -/

/-! ### Abandonment (R178, R180) -/

section Abandon
variable (s : State) (n : Nat)

/-- The state in which a partition's checks have concluded and their operations have yet to complete. -/
def checksGone : State :=
  (s.modRel (fun r => { r with
    checks := r.checks.filter (fun c => c.part != n),
    checksN := satInc r.checksN (s.rel.checks.filter (fun c => c.part == n)).length })).modPart n (fun p => { p with
      sn := { p.sn with
        pending := 0, checks := satInc p.sn.checks (s.rel.checks.filter (fun c => c.part == n)).length } })

theorem dropChecks_onlyMsg : OnlyMsg (checksGone s n) (dropChecks s n) := by
  unfold dropChecks
  extract_lets cs gone counted
  refine OnlyMsg.foldl (fun t c => ?_) cs (checksGone s n)
  split
  · exact releaseOp_onlyMsg ..
  · exact OnlyMsg.refl t
@[simp] theorem dropChecks_mem : (dropChecks s n).mem = s.mem := (dropChecks_onlyMsg s n).mem_eq
@[simp] theorem dropChecks_mgmt : (dropChecks s n).mgmt = s.mgmt := (dropChecks_onlyMsg s n).mgmt_eq
theorem dropChecks_keepsCommits : KeepsCommits s (dropChecks s n) :=
  have gone : KeepsCommits (s.modRel _) (checksGone s n) := modPart_keepsCommits _ n (fun _ => rfl) (fun _ => rfl)
  KeepsCommits.trans ⟨gone.cmt, gone.tel, gone.bytes⟩ (dropChecks_onlyMsg s n).keepsCommits

/-- The commit state after an abandonment for `reason` whose contexts receive the token `tok`. -/
def abandonedCmt (c : Commit) (reason tok : Nat) : Commit := { c with
  held := c.held.filter (fun h => h.step != c.stepC + 1),
  armed := 0, attempt := c.attempt + 1, abandons := satInc c.abandons, why := BitVec.ofNat 4 reason, halted := tok == 2,
  accT := 0, accNf := false, accOv := false, partials := [], gnV := false, clipf := 0x3F800000, contrib := 0, contribB := [],
  att := { consec := if tok = 2 then 0 else c.att.consec + 1, resume := c.att.resume, resumeDue := true, folded := c.att.folded,
           dropped := c.att.dropped } }

/-- An abandonment's own change stands when its checks, tokens and RESUME are out; RESUME only marks that it was sent. -/
theorem abandonAttempt_keeps (reason : Nat) : (abandonAttempt s n reason).mem = s.mem ∧
    ∃ tok due, (abandonAttempt s n reason).cmt n =
      { abandonedCmt (s.cmt n) reason tok with att := { (abandonedCmt (s.cmt n) reason tok).att with resumeDue := due } } := by
  unfold abandonAttempt
  extract_lets +lift c step consec tok ended cleared reported disarmed told
  have mem : told.mem = s.mem := (sendCtl_onlyMsg ..).mem_eq.trans ((dropChecks_mem ..).trans (clearArmed_mem ..))
  have keeps : KeepsCommits reported told :=
    (KeepsCommits.of_parts (clearArmed_parts ..) (congrArg MemSys.bytes (clearArmed_mem ..))).trans
      ((dropChecks_keepsCommits disarmed n).trans (sendCtl_onlyMsg ..).keepsCommits)
  have own : ended.cmt n = abandonedCmt (s.cmt n) reason tok := (leaveColls s n).cmt_modCmt n _
  have reports : ∀ p, reported.cmt p = ended.cmt p := State.part_modPart_of Part.cmt cleared n (fun _ => rfl)
  have cmt : told.cmt n = abandonedCmt (s.cmt n) reason tok := (keeps.cmt n).trans ((reports n).trans own)
  clear_value told
  split
  · exact ⟨mem, tok, true, cmt⟩
  · refine ⟨mem, tok, false, ?_⟩
    rw [sendResume, State.cmt_modAtt_same]
    change { told.cmt n with att := { (told.cmt n).att with resumeDue := false } } = _
    rw [cmt]

end Abandon

theorem exec_attemptAbandon_of_commit {s : State} {n : Nat} (decided : (s.att n).commit.isSome = true) (reason : Nat) :
    exec (.attemptAbandon n reason) s = .next s := by
  change execAttemptAbandon n reason s = _
  simp only [execAttemptAbandon, decided, Bool.or_true, if_true]

theorem exec_attemptAbandon_of_open {s : State} {n : Nat} (member : isMember s n = true) (isOpen : (s.att n).isOpen = true)
    (undecided : (s.att n).commit = none) (cause : s.abandons.find? (fun a => a.part == n) = none) (reason : Nat) :
    exec (.attemptAbandon n reason) s = .next (abandonAttempt s n reason) := by
  change execAttemptAbandon n reason s = _
  simp [execAttemptAbandon, member, isOpen, undecided, cause]

/-! ### RESUME and OPEN (R420) -/

section Resume
variable {s : State} {n : Nat}

theorem exec_resumeReceive_of_last {r : State} {m : Member} (hs : s = hear r n m) (leads : isLeader s n = true)
    (closed : (s.att n).isOpen = false) (last : ∀ x ∈ membersFor s n, x = m ∨ x ∈ (s.att n).resume) :
    exec (.resumeReceive n m (curStep s n) (s.cmt n).attempt) r = .next (
      ((s.modAtt n (fun a => { a with resume := addMember a.resume m })).emit
        (.open_ (cgidOf s n) (curStep s n) (s.cmt n).attempt (BitVec.ofNat 64 (markAt s.time (s.now + 1000000))))).modAtt n
        (fun a => { a with resume := [] })) := by
  have leads' : (!isLeader s n || curStep s n != curStep s n || !((s.cmt n).attempt == (s.cmt n).attempt ||
      (s.cmt n).attempt == (s.cmt n).attempt + 1)) = false := by
    simp [leads]
  have opens : ((s.cmt n).attempt == (s.cmt n).attempt && !(s.cmt n).att.isOpen &&
      (membersFor s n).all (fun x => (addMember (s.att n).resume m).contains x)) = true := by
    rw [all_heard_iff.mpr last, show (s.cmt n).att.isOpen = false from closed]
    simp
  change execResumeReceive n m _ _ r = _
  simp only [execResumeReceive, ← hs, leads', Bool.false_eq_true, if_false, membersFor_modAtt, State.att_modAtt, cgidOf_modAtt, opens,
    if_true]
  rfl

theorem exec_openReceive_of_closed (member : isMember s n = true) (closed : (s.att n).isOpen = false) (topen : Word64) :
    exec (.openReceive n (curStep s n) (s.cmt n).attempt topen) s =
      .next (s.modAtt n (fun a => { a with openMsg := some topen.toNat })) := by
  change execOpenReceive n _ _ topen s = _
  simp [execOpenReceive, member, closed, current_self]

theorem exec_attemptOpen_of_openMsg {t : Nat} (openMsg : (s.att n).openMsg = some t) (going : (s.cmt n).halted = false) :
    exec (.attemptOpen n) s = .next (
      if t ≤ s.now then s.modAtt n (fun a => { a with isOpen := true, openAt := t, openMsg := none }) else s) := by
  change execAttemptOpen n s = _
  simp [execAttemptOpen, openMsg, going]

end Resume

/-- Settles O30: the abandonment and what forbids it, then RESUME, OPEN and the instant. -/
theorem abandonmentAndResumption : Obligations.AbandonmentAndResumption := by
  refine ⟨fun s n reason member => ⟨fun decided => exec_attemptAbandon_of_commit decided reason, ?abandon⟩, ?resume⟩
  case abandon =>
    intro isOpen undecided cause small
    obtain ⟨mem, tok, due, cmt⟩ := abandonAttempt_keeps s n reason
    have att : (abandonAttempt s n reason).att n = _ := congrArg Commit.att cmt
    refine ⟨_, exec_attemptAbandon_of_open member isOpen undecided cause reason, ?_⟩
    rw [cmt, att]
    exact ⟨rfl, rfl, rfl, rfl, rfl, Nat.mod_eq_of_lt small, rfl, rfl, mem⟩
  case resume =>
    rintro s n step attempt rfl rfl
    refine ⟨fun r m hs leads closed last => ?_, fun topen member closed => exec_openReceive_of_closed member closed topen,
      fun t openMsg going => ⟨fun due => ?_, fun early => ?_⟩⟩
    · refine ⟨_, exec_resumeReceive_of_last hs leads closed last, ?_, rfl, rfl, rfl⟩
      rw [State.att_modAtt]
    · exact (exec_attemptOpen_of_openMsg openMsg going).trans (congrArg _ (if_pos due))
    · exact (exec_attemptOpen_of_openMsg openMsg going).trans (congrArg _ (if_neg early.not_ge))

end Sys2Proof.Machine

namespace Sys2Proof.Machine

open Sys2Proof

/-! SUPPORT. Collectives: what lands at one, how a norm collective ends, and the deadline of the gradient stream. -/

/-! ### What lands (R339, R340) -/

section Lands
variable {s : State} {v : VRef} (takes : absorbs s v = false)
include takes

/-- A message that belongs to a collective and is in time enters it. -/
theorem exec_collArrival_of_found {m : CollMsg} {c : Coll}
    (found : s.fab.colls.find? (fun c => matchesColl v m c && !c.done && (m.gathered || !(tget c.contrib m.rank).isSome)) = some c)
    (inTime : m.gathered = true ∨ 2 ≤ clOp c.desc ∨ (c.closed = false ∧ (clGradb c.desc = false ∨
      (staleTag s (ctxPart s v.ctx) m.step m.attempt = false ∧ pastDue s (ctxPart s v.ctx) c = false)))) :
    exec (.collArrival v m) s = .next (driveColl (modColl s v c.op (fun d => takeMsg d m)) v c.op) := by
  have lands : landMsg s v (ctxPart s v.ctx) m c = driveColl (modColl s v c.op (fun d => takeMsg d m)) v c.op := by
    unfold landMsg
    obtain gathered | high | ⟨isOpen, ungraded | ⟨fresh, early⟩⟩ := inTime
    · simp [gathered]
    · simp [high.not_gt]
    · simp [isOpen, ungraded]
    · simp [isOpen, fresh, early]
  change execCollArrival v m s = _
  simp only [execCollArrival, takes, Bool.false_eq_true, if_false, found, lands]

section Early
variable (noColls : s.fab.colls = []) (there : (s.vc? v).isSome = true)
include noColls there

/-- A contribution whose COLL has not been issued waits, unless its attempt is over. -/
theorem exec_collArrival_of_early (m : CollMsg) : exec (.collArrival v m) s = .next (
    if staleTag s (ctxPart s v.ctx) m.step m.attempt then s else s.modFab (fun b => { b with early := b.early ++ [(v, m, s.now)] })) := by
  change execCollArrival v m s = _
  simp [execCollArrival, takes, noColls, Option.isNone_eq_false_iff.mpr there]

/-- So does a norm partial. -/
theorem exec_normsumPartial_of_early (m : NormMsg) : exec (.normsumPartial v m.toNormTag m.t m.nonfin m.ovr) s = .next (
    if staleTag s (ctxPart s v.ctx) m.step m.attempt then s else s.modFab (fun b => { b with earlySums := b.earlySums ++ [(v, m)] })) := by
  change execNormsumPartial v m.toNormTag m.t m.nonfin m.ovr s = _
  simp [execNormsumPartial, takes, noColls, Option.isNone_eq_false_iff.mpr there]

end Early
end Lands

/-! ### A norm collective (R170, R341) -/

theorem endColl_onlyMsg (s : State) (c : Coll) (err : Option Nat) : OnlyMsg s (endColl s c err) :=
  ((modFab_onlyMsg ..).trans (releaseOp_onlyMsg ..)).trans (groupDone_onlyMsg ..)

theorem reduceOwn_of_norm {c : Coll} (norm : clOp c.desc = 4) (s : State) : reduceOwn s c = s := by
  simp [reduceOwn, norm]

/-- A norm collective ends with the last rank's partial. -/
theorem finishColl_of_norm {c : Coll} (norm : clOp c.desc = 4) (going : c.done = false) (agree : c.differ = false) (s : State) :
    finishColl s c = if (membersOf s c.group).length ≤ c.sums.length then
      endColl (if openNow s (ctxPart s c.v.ctx) c then normTotal s (ctxPart s c.v.ctx) c.sums else s) c none else s := by
  simp [finishColl, norm, going, agree]

theorem driveColl_of_norm {s : State} {v : VRef} {op : Nat} {c : Coll} (found : collOf s v op = some c) (norm : clOp c.desc = 4) :
    driveColl s v op = finishColl s c := by
  simp only [driveColl, found, reduceOwn_of_norm norm]

/-- A norm collective with the partial of one more rank. -/
def takePartial (m : NormMsg) (d : Coll) : Coll := { d with sums := tput d.sums m.rank (m.t, m.nonfin, m.ovr) }

section Norm
variable {s : State} {v : VRef} {c : Coll} {m : NormMsg}

/-- The only collective of the fabric, with a partial taken. -/
theorem collOf_modColl_of_only (only : s.fab.colls = [c]) (own : c.v = v) {f : Coll → Coll} (fv : (f c).v = c.v) (fop : (f c).op = c.op) :
    collOf (modColl s v c.op f) v c.op = some (f c) := by
  simp [collOf, modColl, State.modFab, only, own, fv, fop]

theorem exec_normsumPartial_of_only (takes : absorbs s v = false) (only : s.fab.colls = [c]) (here : matchesNorm v m c = true)
    (agree : c.differ = false) : exec (.normsumPartial v m.toNormTag m.t m.nonfin m.ovr) s = .next (
      let t := modColl s v c.op (takePartial m)
      let d := takePartial m c
      if (membersOf s c.group).length ≤ d.sums.length then
        endColl (if openNow s (ctxPart s v.ctx) c then normTotal t (ctxPart s v.ctx) d.sums else t) d none
      else t) := by
  have fits := here
  simp only [matchesNorm, Bool.and_eq_true, beq_iff_eq, Bool.not_eq_true'] at fits
  obtain ⟨⟨⟨⟨⟨⟨own, norm⟩, -⟩, -⟩, -⟩, going⟩, -⟩ := fits
  subst own
  change execNormsumPartial c.v m.toNormTag m.t m.nonfin m.ovr s = _
  simp only [execNormsumPartial, takes, Bool.false_eq_true, if_false, only, List.find?_cons, here]
  have found : collOf (modColl s c.v c.op (takePartial m)) c.v c.op = some (takePartial m c) := collOf_modColl_of_only only rfl rfl rfl
  exact congrArg Host.Outcome.next ((driveColl_of_norm found norm).trans
    (finishColl_of_norm (c := takePartial m c) norm going agree _))

/-- What the total of the open attempt is when a norm collective ends. -/
theorem endColl_normTotal (t : State) (n : Nat) (sums : Tab (BitVec 256 × Bool × Bool)) (d : Coll) (err : Option Nat) :
    (endColl (normTotal t n sums) d err).cmt n = { t.cmt n with
      totT := sums.foldl (fun a p => a + p.2.1) (0 : BitVec 256), nonfin := sums.any (fun p => p.2.2.1), ovr := sums.any (fun p => p.2.2.2),
      partials := sums.map Prod.fst, att := { (t.cmt n).att with normIn := true } } :=
  (State.cmt_congr (endColl_onlyMsg ..).parts_eq n).trans (t.cmt_modCmt n _)

end Norm

/-! ### The gradient deadline (R182, R340) -/

section Deadline
variable {s : State} {n dl : Nat} (hdl : dl = (s.part n).active.gradDl.toNat) (set : dl ≠ 0) (isOpen : (s.att n).isOpen = true)

theorem deadlineOf_gradClosed (s : State) (n : Nat) (c : Coll) :
    deadlineOf (s.modAtt n (fun a => { a with gradClosed := true })) n c = deadlineOf s n c := by
  simp only [deadlineOf, State.part_modAtt_active, State.att_modAtt, openNow, curStep_modAtt, State.cmt_modAtt_same]
  rfl

include hdl set isOpen

theorem exec_gradDeadline_of_none (noColls : s.fab.colls = []) : exec (.gradDeadline n) s = .next (
    if (s.att n).openAt + dl ≤ s.now then s.modAtt n (fun a => { a with gradClosed := true }) else s) := by
  subst hdl
  change execGradDeadline n s = _
  by_cases due : (s.att n).openAt + (s.part n).active.gradDl.toNat ≤ s.now
  · simp [execGradDeadline, set, isOpen, due, State.modAtt, State.modCmt, State.modPart, noColls]
  · simp [execGradDeadline, due, noColls]

theorem exec_gradDeadline_of_only {c : Coll} {t : Nat} (only : s.fab.colls = [c]) (own : ctxPart s c.v.ctx = n) (unclosed : c.closed = false)
    (going : c.done = false) (deadline : deadlineOf s n c = some t) (due : (s.att n).openAt + dl ≤ s.now) :
    exec (.gradDeadline n) s = .next (
      let u := s.modAtt n (fun a => { a with gradClosed := true })
      if t ≤ s.now then closeColl u n c else u) := by
  subst hdl
  have closes : ((s.part n).active.gradDl.toNat != 0 && (s.att n).isOpen &&
      decide ((s.att n).openAt + (s.part n).active.gradDl.toNat ≤ s.now)) = true := by
    simp [set, isOpen, due]
  change execGradDeadline n s = _
  simp only [execGradDeadline, closes, if_true]
  rw [show (s.modAtt n fun a => { a with gradClosed := true }).fab.colls = [c] from only]
  by_cases late : t ≤ s.now
  · rw [List.filter_cons_of_pos, if_pos late]
    · rfl
    · simp [deadlineOf_gradClosed, deadline, unclosed, going]
      exact ⟨own, late⟩
  · rw [List.filter_cons_of_neg, if_neg late]
    · rfl
    · simp [deadlineOf_gradClosed, deadline, unclosed, going]
      exact fun _ => Nat.lt_of_not_le late

end Deadline

section Count
variable {s : State} {n k : Nat} (late : 0 < k)
include late

/-- Stragglers that are folded are counted; the first of a step raises the event. -/
theorem countLate_fold (unfolded : (s.att n).folded = false) :
    ((countLate s n k true).cmt n).folded = satInc (s.cmt n).folded k ∧ ((countLate s n k true).cmt n).dropped = (s.cmt n).dropped ∧
    (countLate s n k true).host.raised = s.host.raised ++ [{
      code := 0x3201, part := some n, ctx := none, data := BitVec.ofNat 128 (data3 0 0 (curStep s n).toNat), ptv := s.time.valid,
      pt := if s.time.valid then s.time.pt else s.time.up }] := by
  simp only [countLate, late.ne', if_false, if_true, unfolded, Bool.false_eq_true]
  refine ⟨?_, ?_, rfl⟩
  · rw [State.cmt_congr (raise_onlyMsg ..).parts_eq, s.cmt_modCmt n _]
  · rw [State.cmt_congr (raise_onlyMsg ..).parts_eq, s.cmt_modCmt n _]

/-- Later ones that are dropped are counted without an event. -/
theorem countLate_drop (dropped : (s.att n).dropped = true) :
    ((countLate s n k false).cmt n).dropped = satInc (s.cmt n).dropped k ∧ (countLate s n k false).host = s.host := by
  simp only [countLate, late.ne', if_false, if_true, dropped, Bool.false_eq_true]
  refine ⟨?_, rfl⟩
  rw [s.cmt_modCmt n _]

end Count

/-- Settles O39: contributions and norm partials, those that wait, then the deadline and the count of stragglers. -/
theorem collectiveContributionsAndDeadlines : Obligations.CollectiveContributionsAndDeadlines := by
  refine ⟨?lands, ?deadline⟩
  case lands =>
    rintro s v n takes rfl
    refine ⟨fun m c found inTime => exec_collArrival_of_found takes found inTime, fun m noColls there => ?early, ?norm,
      fun m noColls there => ?earlyNorm⟩
    case early =>
      have run := exec_collArrival_of_early takes noColls there m
      exact ⟨fun fresh => run.trans (by rw [fresh]; rfl), fun stale => run.trans (by rw [stale]; rfl)⟩
    case earlyNorm =>
      have run := exec_normsumPartial_of_early takes noColls there m
      exact ⟨fun fresh => run.trans (by rw [fresh]; rfl), fun stale => run.trans (by rw [stale]; rfl)⟩
    case norm =>
      rintro m c sums only here agree rfl
      have run := exec_normsumPartial_of_only takes only here agree
      refine ⟨fun more => run.trans (congrArg _ (if_neg more.not_ge)), fun last now => ⟨_, run.trans (congrArg _ (if_pos last)), ?_⟩⟩
      rw [if_pos now]
      rw [State.att, endColl_normTotal]
      exact ⟨rfl, List.any_eq_true, List.any_eq_true, rfl⟩
  case deadline =>
    intro s n dl hdl set isOpen
    refine ⟨fun noColls due => ?_, fun noColls early => ?_, fun c t only own unclosed going deadline due => ?_, fun k late unfolded => ?_,
      fun k late dropped => ?_⟩
    · exact (exec_gradDeadline_of_none hdl set isOpen noColls).trans (congrArg _ (if_pos due))
    · exact (exec_gradDeadline_of_none hdl set isOpen noColls).trans (congrArg _ (if_neg early.not_ge))
    · have run := exec_gradDeadline_of_only hdl set isOpen only own unclosed going deadline due
      exact ⟨fun late => run.trans (congrArg _ (if_pos late)), fun early => run.trans (congrArg _ (if_neg early.not_ge))⟩
    · exact ⟨_, rfl, countLate_fold late unfolded⟩
    · exact ⟨_, rfl, countLate_drop late dropped⟩

end Sys2Proof.Machine

namespace Sys2Proof.Machine

open Sys2Proof

/-! SUPPORT. COLL: what a rank's entry sends and keeps, and that its collective is the only one of its virtual core. -/

/-! ### Which operations have a collective -/

/-- The virtual core and the operation of every collective. -/
def collKeys (s : State) : List (VRef × Nat) := s.fab.colls.map (fun c => (c.v, c.op))

section Keys
variable (s : State)

theorem OnlyMemHost.collKeys_eq {s t : State} (h : OnlyMemHost s t) : collKeys t = collKeys s := by
  rw [collKeys, h.fab_eq]
  rfl

theorem collKeys_modColl (v : VRef) (op : Nat) {f : Coll → Coll} (key : ∀ c, ((f c).v, (f c).op) = (c.v, c.op)) :
    collKeys (modColl s v op f) = collKeys s := by
  simp only [collKeys, modColl, State.modFab, List.map_map]
  refine List.map_congr_left (fun c _ => ?_)
  simp only [Function.comp]
  split
  · exact key c
  · rfl

theorem collKeys_sendRanks (ms : List (Nat × Nat × Nat)) (own : Nat) (who : Nat → Bool) (m : Nat → CollMsg) :
    collKeys (sendRanks s ms own who m) = collKeys s := by
  refine foldl_any (P := fun t : State => collKeys t = collKeys s) rfl (fun t r kept => ?_)
  split
  · exact kept
  · split <;> exact kept

theorem collKeys_countLate (n k : Nat) (fold : Bool) : collKeys (countLate s n k fold) = collKeys s := by
  unfold countLate
  split
  · rfl
  · dsimp only
    split <;> split <;> rfl

theorem collKeys_shutColl (n : Nat) (c : Coll) : collKeys (shutColl s n c) = collKeys s := by
  unfold shutColl
  dsimp only
  split
  · exact (collKeys_countLate ..).trans (collKeys_modColl s _ _ (fun _ => rfl))
  · exact collKeys_modColl s _ _ (fun _ => rfl)

theorem collKeys_lateMsg (v : VRef) (m : CollMsg) : collKeys (lateMsg s v m) = collKeys s := by
  unfold lateMsg
  dsimp only
  split
  · rfl
  · split
    · rfl
    · split
      · split
        · exact collKeys_countLate ..
        · rfl
      · rfl

theorem takeMsg_key (c : Coll) (m : CollMsg) : ((takeMsg c m).v, (takeMsg c m).op) = (c.v, c.op) := by
  unfold takeMsg
  split
  · rfl
  · split <;> rfl

/-- The collective that takes its early contributions is the last. -/
theorem collKeys_takeEarly (n : Nat) (c : Coll) : collKeys (takeEarly s n c) = collKeys s ++ [(c.v, c.op)] := by
  unfold takeEarly
  extract_lets here
  split
  next now late _ =>
    extract_lets taken entered
    have key : (taken.v, taken.op) = (c.v, c.op) :=
      foldl_any (P := fun d : Coll => (d.v, d.op) = (c.v, c.op)) rfl (fun d e kept => (takeMsg_key d e.2.1).trans kept)
    have enters : collKeys entered = collKeys s ++ [(c.v, c.op)] := by
      rw [← key]
      exact List.map_append
    split
    · exact enters
    · exact foldl_any (P := fun t : State => collKeys t = collKeys s ++ [(c.v, c.op)]) ((collKeys_shutColl ..).trans enters)
        (fun t e kept => (collKeys_lateMsg ..).trans kept)

end Keys

/-! ### COLL makes its collective go on -/

section Coll
variable {s : State} {v : VRef} {x : Vcore} {o : UOp} {n : Nat}

/-- COLL ends no run, so that nothing of it is checked (R400). -/
theorem landOp_coll_fab (r : Ran) : (landOp s v x n 0x14 o r).fab = r.st.fab := by
  simp [landOp, endsRun, landFeeds, modOp, touch]

/-- Where a virtual core has one collective, driving its collectives drives that one. -/
theorem driveColls_of_key {t : State} {op : Nat} (keys : (collKeys t).filter (fun k => k.1 == v) = [(v, op)]) :
    (t.fab.colls.filter (fun c => c.v == v)).foldl (fun u c => driveColl u c.v c.op) t = driveColl t v op := by
  have own : (t.fab.colls.filter (fun c => c.v == v)).map (fun c => (c.v, c.op)) = [(v, op)] := by
    rw [← keys, collKeys, List.filter_map]
    rfl
  calc _ = ((t.fab.colls.filter (fun c => c.v == v)).map (fun c => (c.v, c.op))).foldl (fun u k => driveColl u k.1 k.2) t := by
        rw [List.foldl_map]
    _ = driveColl t v op := by
        rw [own]
        rfl

/-- A COLL that enters `c` in the state `t` makes that collective go on. -/
theorem exec_coll_of_run {t : State} {c : Coll} {tok : Option Token} (h : OpStarted s v x 0x14 o) (hn : n = ctxPart s v.ctx)
    (other : ∀ c ∈ s.fab.colls, c.v ≠ v) (cv : c.v = v) (cop : c.op = o.id) (kept : collKeys t = collKeys s)
    (run : runColl s v (unitView x o) n o = .ok { st := takeEarly t n c, d1 := tok, held := true }) :
    exec (.coll v) s = .next (driveColl (landOp s v x n 0x14 o { st := takeEarly t n c, d1 := tok, held := true }) v o.id) := by
  subst hn
  have lands := perform_ok h rfl run
  have keys : collKeys (landOp s v x (ctxPart s v.ctx) 0x14 o { st := takeEarly t (ctxPart s v.ctx) c, d1 := tok, held := true }) =
      collKeys s ++ [(v, o.id)] := by
    rw [collKeys, landOp_coll_fab]
    exact (collKeys_takeEarly t _ c).trans (by rw [kept, cv, cop])
  have noOther : (collKeys s).filter (fun k => k.1 == v) = [] := by
    simpa [collKeys] using other
  change execColl v s = _
  simp only [execColl, lands]
  exact congrArg _ (driveColls_of_key (by rw [keys, List.filter_append, noOther]; simp))

/-- What is entered is what the rank's part of its kind of collective leaves. -/
theorem runColl_of_rank {dn rank : Nat} {d : BitVec 512} {g : CGroup} (hdn : readCtl x (arg1 o) 64 = .ok dn)
    (hd : d = BitVec.ofNat 512 dn) (hg : tget s.fab.groups (clGroup d) = some g) (hrank : rankOf g s.devId v = some rank)
    (good : collBad d g.members.length = false) (settled : g.clearing = none) {c : Coll}
    (hc : c = { v := v, op := o.id, group := clGroup d, desc := d, step := curStep s n, attempt := (s.cmt n).attempt, rank := rank,
                size := (match clDt d with | 0 => 4 | 1 => 2 | _ => 1) }) :
    runColl s v x n o = ((if clOp d = 4 then pure (enterNorm s n g.members c) else enterData s x n g.members c) >>= fun p =>
      .ok { st := takeEarly p.1 n p.2, d1 := some (dataTok (clDst d)), held := true }) := by
  subst hd hc
  simp only [runColl, hdn, Res.ok_bind, hg, hrank, good, settled, Option.isNone_none, Bool.not_false, Bool.and_true, need_true]
  simp only [Res.ite_bind]
  rfl

/-- The norm collective's entry, where nothing has landed early (R170, R341). -/
theorem enterNorm_of_two {ms : List (Nat × Nat × Nat)} {c : Coll} {q : BitVec 256 × Bool × Bool} (two : 2 ≤ ms.length)
    (noEarly : s.fab.earlySums = [])
    (hq : q = (if ∀ m ∈ ms.take c.rank, m.1 = s.devId → ctxPart s m.2.1 ≠ n
      then ((s.cmt n).accT, (s.cmt n).accNf || lossBad s n, (s.cmt n).accOv) else (0, false, false))) :
    enterNorm s n ms c = (s.emit (.normsum {
      group := c.group, rank := c.rank, step := c.step, attempt := c.attempt, t := q.1, nonfin := q.2.1, ovr := q.2.2 }),
      { c with sums := [(c.rank, q)] }) := by
  have first : (ms.take c.rank).all (fun m => !(m.1 == s.devId && ctxPart s m.2.1 == n)) =
      decide (∀ m ∈ ms.take c.rank, m.1 = s.devId → ctxPart s m.2.1 ≠ n) := by
    rw [Bool.eq_iff_iff]
    simp [imp_iff_not_or]
  have others : ¬ ms.length ≤ 1 := by omega
  simp only [enterNorm, first, decide_eq_true_eq, ← hq, sendNorm, others, if_false]
  refine Prod.ext ?_ ?_
  · simp [State.emit, State.modFab, noEarly]
  · simp [State.emit, State.modFab, noEarly, tput]

/-- A check that is made in one case only, and passes there. -/
theorem Res.guard_bind {β : Type} {p : Prop} [Decidable p] {check : Res Unit} (passes : p → check = .ok ()) (r : Res β) :
    (if p then check >>= fun _ => r else r) = r := by
  split
  next asked => rw [passes asked, Res.ok_bind]
  next => rfl

/-- Elements of a source from `lo` on, read in the state `s` and packed for a message. -/
def packRuns (s : State) (x : Vcore) (src : Opnd) (runs : List Run) (lo k : Nat) : List Byte × List (Nat × Policy) :=
  packMsg (((runs.drop lo).take k).flatMap (fun r => rdRun (rdOf s x src.dev) r.1 r.2))

/-- What a rank's entry sends and keeps once its operands have been read, its elements packed by `msg` from an element on (R338, R339). -/
def enterChecked (s : State) (n : Nat) (ms : List (Nat × Nat × Nat)) (c : Coll)
    (msg : Nat → Nat → List Byte × List (Nat × Policy)) : State × Coll :=
  let seg := segRange ms.length (clCount c.desc)
  if clOp c.desc < 2 then
    let t := sendRanks s ms c.rank (fun r => (seg r).2 != 0) (fun r => collMsg c r false (msg (seg r).1 (seg r).2))
    let own := collMsg c c.rank false (msg (seg c.rank).1 (seg c.rank).2)
    if inTime t n c t.now then (t, takeMsg c own) else (lateMsg t c.v own, c)
  else if clOp c.desc != 3 || c.rank == clRoot c.desc then
    (sendRanks s ms c.rank (fun _ => true) (fun _ => collMsg c c.rank true (msg 0 (clCount c.desc))),
      { c with segs := tput [] c.rank (msg 0 (clCount c.desc)) })
  else (s, c)

section Data
variable {ms : List (Nat × Nat × Nat)} {c : Coll} {src dst : Opnd} {runs : List Run} {w : Nat} {s1 : State}
  (hdst : mkOpnd s n x (clDst c.desc) false 0 false = .ok dst) (hsrc : mkOpnd s n x (clSrc c.desc) false 0 false = .ok src)
  (head : clDt c.desc = 2 → checkRuns s n x src.dev [(src.data, 16)] = .ok ())
  (hw : w = (if clDt c.desc = 2 then recLen (rdNat (rdOf s x src.dev) src.data 16) else c.size))
  (hruns : runs = collRuns src (clDt c.desc) w 0 (clCount c.desc))
  (reads : clOp c.desc ≠ 3 ∨ c.rank = clRoot c.desc →
    checkRuns s n x src.dev runs = .ok () ∧ s1 = discoverRuns s (some c.v.ctx) src.dev runs)
  (idle : clOp c.desc = 3 → c.rank ≠ clRoot c.desc → s1 = s)
  (agree : clDt c.desc = 2 → recordsAgree (runs.map (fun r => rdNat (rdOf s1 x src.dev) r.1 16)) = true)
  (fits : checkRuns s1 n x dst.dev (collRuns dst (clDt c.desc) w 0
    (if clOp c.desc = 2 then ms.length * clCount c.desc else if clOp c.desc = 1 then (segRange ms.length (clCount c.desc) c.rank).2
      else clCount c.desc)) = .ok ())
include hdst hsrc head hw hruns reads idle agree fits

theorem enterData_of_operands : enterData s x n ms c =
    .ok (enterChecked s1 n ms { c with size := w } (packRuns s1 x src runs)) := by
  have alike : (clDt c.desc != 2 || recordsAgree (runs.map (fun r => rdNat (rdOf s1 x src.dev) r.1 16))) = true := by
    by_cases exact_ : clDt c.desc = 2
    · simp [agree exact_]
    · simp [exact_]
  simp only [← beq_iff_eq (a := clDt c.desc)] at hw head
  simp only [enterData, hdst, hsrc, Res.ok_bind, ← hw, ← hruns]
  rw [Res.guard_bind head, enterChecked]
  by_cases sends : clOp c.desc ≠ 3 ∨ c.rank = clRoot c.desc
  · obtain ⟨readable, rfl⟩ := reads sends
    have sender : (clOp c.desc != 3 || c.rank == clRoot c.desc) = true := by simpa using sends
    simp only [sender, if_true, readable, Res.ok_bind, alike, need_true, fits]
    split <;> rfl
  · have sender : (clOp c.desc != 3 || c.rank == clRoot c.desc) = false := by simpa using sends
    have gather : clOp c.desc = 3 := by simpa using (not_or.mp sends).1
    have kept : s1 = s := idle gather (not_or.mp sends).2
    subst kept
    have high : ¬ clOp c.desc < 2 := by omega
    simp only [sender, Bool.false_eq_true, if_false, alike, need_true, Res.ok_bind, fits, high]
    rfl

end Data

/-- Entering makes no collective of its own: it sends, and counts or holds what is late. -/
theorem enterChecked_keys (s : State) (n : Nat) (ms : List (Nat × Nat × Nat)) (c : Coll) (msg : Nat → Nat → List Byte × List (Nat × Policy)) :
    collKeys (enterChecked s n ms c msg).1 = collKeys s ∧
    ((enterChecked s n ms c msg).2.v, (enterChecked s n ms c msg).2.op) = (c.v, c.op) := by
  unfold enterChecked
  dsimp only
  split
  · split
    · exact ⟨collKeys_sendRanks .., takeMsg_key ..⟩
    · exact ⟨(collKeys_lateMsg ..).trans (collKeys_sendRanks ..), rfl⟩
  · split
    · exact ⟨collKeys_sendRanks .., rfl⟩
    · exact ⟨rfl, rfl⟩

/-- The three kinds of entry: a reduction's pieces go to their owners, a sender's elements to every rank, and another rank sends nothing. -/
theorem enterChecked_of_reduce {ms : List (Nat × Nat × Nat)} {c : Coll} {msg : Nat → Nat → List Byte × List (Nat × Policy)} {t : State}
    (reduces : clOp c.desc < 2) (empty : c.contrib = [])
    (ht : t = sendRanks s ms c.rank (fun r => (segRange ms.length (clCount c.desc) r).2 != 0)
      (fun r => collMsg c r false (msg (segRange ms.length (clCount c.desc) r).1 (segRange ms.length (clCount c.desc) r).2))) :
    enterChecked s n ms c msg =
      let own := msg (segRange ms.length (clCount c.desc) c.rank).1 (segRange ms.length (clCount c.desc) c.rank).2
      if inTime t n c t.now then (t, { c with contrib := [(c.rank, own)] }) else (lateMsg t c.v (collMsg c c.rank false own), c) := by
  have takes : ∀ own, takeMsg c (collMsg c c.rank false own) = { c with contrib := [(c.rank, own)] } := by
    intro own
    simp [takeMsg, collMsg, reduces.not_ge, empty, tput]
  simp only [enterChecked, reduces, if_true, ← ht, takes]

theorem enterChecked_of_sender (s : State) (n : Nat) {ms : List (Nat × Nat × Nat)} {c : Coll}
    {msg : Nat → Nat → List Byte × List (Nat × Policy)}
    (sends : clOp c.desc = 2 ∨ clOp c.desc = 3 ∧ c.rank = clRoot c.desc) :
    enterChecked s n ms c msg = (sendRanks s ms c.rank (fun _ => true) (fun _ => collMsg c c.rank true (msg 0 (clCount c.desc))),
      { c with segs := [(c.rank, msg 0 (clCount c.desc))] }) := by
  have high : ¬ clOp c.desc < 2 := by omega
  have sender : (clOp c.desc != 3 || c.rank == clRoot c.desc) = true := by
    rcases sends with gather | ⟨broadcast, root⟩
    · simp [gather]
    · simp [root]
  simp only [enterChecked, high, if_false, sender, if_true, tput]

theorem enterChecked_of_receiver (s : State) (n : Nat) {ms : List (Nat × Nat × Nat)} {c : Coll}
    {msg : Nat → Nat → List Byte × List (Nat × Policy)}
    (broadcast : clOp c.desc = 3) (other : c.rank ≠ clRoot c.desc) : enterChecked s n ms c msg = (s, c) := by
  simp [enterChecked, broadcast, other]

theorem sendRanks_time (s : State) (ms : List (Nat × Nat × Nat)) (own : Nat) (who : Nat → Bool) (m : Nat → CollMsg) :
    (sendRanks s ms own who m).time = s.time := by
  refine foldl_any (P := fun t : State => t.time = s.time) rfl (fun t r kept => ?_)
  split
  · exact kept
  · split <;> exact kept

end Coll

/-- Settles O21: a norm collective's entry, then the entry of the others by their kind. -/
theorem collEntersItsCollective : Obligations.CollEntersItsCollective := by
  rintro s v x o n dn rank w d g c0 c1 h hn hdn hd hg hrank good settled other hc0
  have run := runColl_of_rank hdn hd hg hrank good settled hc0
  refine ⟨fun q norm two noEarly hq => ?norm, ?data⟩
  case norm =>
    have enters := enterNorm_of_two (q := q) (c := c0) two noEarly (by rw [hc0]; exact hq)
    rw [if_pos norm, enters, Res.pure_eq, Res.ok_bind] at run
    subst hc0
    exact exec_coll_of_run h hn other rfl rfl rfl run
  case data =>
    intro src dst runs s1 s2 seg bytes high hdst hsrc head hw hc1 hruns reads idle agree hseg hbytes fits
    subst hc1 hseg hbytes
    have enters : enterData s (unitView x o) n g.members c0 =
        .ok (enterChecked s1 n g.members { c0 with size := w } (packRuns s1 (unitView x o) src runs)) := by
      rw [hc0] at hw ⊢
      exact enterData_of_operands hdst hsrc head hw hruns reads idle agree fits
    rw [if_neg high, enters, Res.ok_bind] at run
    have read : OnlyMemHost s s1 := by
      by_cases sends : clOp d ≠ 3 ∨ rank = clRoot d
      · rw [(reads sends).2]
        exact discoverRuns_onlyMemHost ..
      · rw [idle (by simpa using (not_or.mp sends).1) (not_or.mp sends).2]
        exact OnlyMemHost.refl s
    obtain ⟨kept, key⟩ := enterChecked_keys s1 n g.members { c0 with size := w } (packRuns s1 (unitView x o) src runs)
    rw [Prod.mk.injEq] at key
    have goes := exec_coll_of_run h hn other (key.1.trans (by rw [hc0])) (key.2.trans (by rw [hc0])) (kept.trans read.collKeys_eq) run
    subst hc0
    refine ⟨fun reduces hs2 => ?_, fun sends => ?_, fun broadcast notRoot => ?_⟩
    · have same : s2.now = s.now := by
        rw [hs2, State.now, sendRanks_time, read.time_eq]
        rfl
      rw [enterChecked_of_reduce reduces rfl hs2, same] at goes
      refine ⟨fun early => ?_, fun late => ?_⟩
      · rwa [if_pos early] at goes
      · rwa [if_neg (by simp [late])] at goes
    · rwa [enterChecked_of_sender s1 n sends] at goes
    · rwa [enterChecked_of_receiver s1 n broadcast notRoot, idle broadcast notRoot] at goes

end Sys2Proof.Machine

namespace Sys2Proof.Machine

open Sys2Proof

/-! SUPPORT. Discovery, the leader's tables, the loss of a member, and the return of a restored shard. -/

/-! ### Tables -/

/-- What a table holds once every value has been changed. -/
theorem tget_tmap {α : Type} (t : Tab α) (f : Nat → α → α) (a : Nat) : tget (tmap t f) a = (tget t a).map (f a) := by
  induction t with
  | nil => rfl
  | cons p t ih =>
    obtain ⟨k, v⟩ := p
    simp only [tmap, List.map_cons, tget]
    split
    next same => rw [same, Option.map_some]
    next => exact ih

/-! ### Serial numbers (R323) -/

/-- Hearing of a module changes neither this module's own id nor whether the pod is up. -/
theorem excludeDev_keeps (s : State) (d : Nat) : (excludeDev s d).fab.podup = s.fab.podup ∧ (excludeDev s d).devId = s.devId := by
  unfold excludeDev
  split <;> exact ⟨rfl, rfl⟩
theorem hearSerial_keeps (s : State) (dev serial : Nat) :
    (hearSerial s dev serial).fab.podup = s.fab.podup ∧ (hearSerial s dev serial).devId = s.devId := by
  unfold hearSerial
  split
  · split
    · exact ⟨rfl, rfl⟩
    · exact excludeDev_keeps s dev
  · split
    · split
      · exact ⟨rfl, rfl⟩
      · exact excludeDev_keeps s dev
    · exact ⟨rfl, rfl⟩
@[simp] theorem hearSerial_podup (s : State) (dev serial : Nat) : (hearSerial s dev serial).fab.podup = s.fab.podup := (hearSerial_keeps ..).1
@[simp] theorem hearSerial_devId (s : State) (dev serial : Nat) : (hearSerial s dev serial).devId = s.devId := (hearSerial_keeps ..).2

/-! ### Link lists (R322, R324) -/

section LinkList
variable {s s0 s1 s2 : State} {dev serial : Nat} {ls : List LinkEnd}

theorem exec_linkListReceive_of_otherPod (other : dev / 64 ≠ s.fab.pod.toNat) : exec (.linkListReceive dev ⟨serial, ls⟩) s = .next s := by
  change execLinkListReceive dev ⟨serial, ls⟩ s = _
  simp [execLinkListReceive, other]

/-- A list of another module of the pod that nothing excludes is kept, and flooded on where it is new. -/
theorem exec_linkListReceive_of_kept (heard : dev ∉ s.fab.excluded) (other : dev ≠ s.devId) (pod : dev / 64 = s.fab.pod.toNat)
    (hs0 : s0 = (ls.filter (fun e => e.peer != s.devId)).foldl (fun t e => hearSerial t e.peer e.peerSerial) (hearSerial s dev serial))
    (stays : dev ∉ s0.fab.excluded) (hs1 : s1 = s0.modFab (fun b => { b with topo := tput b.topo dev ls })) (agree : clashes s1.fab.topo = [])
    (hs2 : s2 = (if tget s0.fab.topo dev = some ls then s1 else s1.emit (.linkList dev serial ls))) :
    exec (.linkListReceive dev ⟨serial, ls⟩) s = .next (
      if !s.fab.podup then s2.modFab (fun b => { b with leader := BitVec.ofNat 12 (lowestHeard s1) })
      else if tget s0.fab.topo dev = some ls then s2
      else sendRoutes (if s0.fab.memberList.contains dev || s0.fab.joining.contains dev then s2
        else s2.modFab (fun b => { b with joining := b.joining ++ [dev] })) []) := by
  have podup : s0.fab.podup = s.fab.podup := by
    rw [hs0]
    exact foldl_any (P := fun t : State => t.fab.podup = s.fab.podup) (hearSerial_podup s dev serial)
      (fun t e kept => (hearSerial_podup t e.peer e.peerSerial).trans kept)
  have passes : (s.fab.excluded.contains dev || dev / 64 != s.fab.pod.toNat) = false := by simp [heard, pod]
  have stays' : s0.fab.excluded.contains dev = false := by simpa using stays
  change execLinkListReceive dev ⟨serial, ls⟩ s = _
  simp only [execLinkListReceive, passes, Bool.false_eq_true, if_false, other, hearSerial_devId, ← hs0, stays', ← hs1]
  by_cases known : tget s0.fab.topo dev = some ls
  · have same : s2 = s1 := hs2.trans (if_pos known)
    have up : s1.fab.podup = s.fab.podup := by rw [hs1]; exact podup
    simp only [known, ne_eq, not_true_eq_false, decide_false, Bool.false_eq_true, if_false, agree, List.foldl_nil, up, same, Bool.not_false,
      if_true]
  · have sent : s2 = s1.emit (.linkList dev serial ls) := hs2.trans (if_neg known)
    have up : s2.fab.podup = s.fab.podup := by rw [sent, hs1]; exact podup
    have agree' : clashes s2.fab.topo = [] := by rw [sent]; exact agree
    have lowest : lowestHeard s2 = lowestHeard s1 := by rw [sent]; rfl
    have lists : s2.fab.memberList = s0.fab.memberList ∧ s2.fab.joining = s0.fab.joining ∧ s2.fab.excluded = s0.fab.excluded := by
      rw [sent, hs1]
      exact ⟨rfl, rfl, rfl⟩
    obtain ⟨members, joining, excluded⟩ := lists
    simp only [known, ne_eq, not_false_eq_true, decide_true, if_true, ← sent, agree', List.foldl_nil, up, lowest, members, joining, excluded,
      stays', Bool.or_false, Bool.not_true, Bool.false_eq_true, if_false]

end LinkList

/-! ### Tables of the leader (R322) -/

/-- `t` differs from `s` in the messages that leave alone. -/
def OnlyOut (s t : State) : Prop := t = { s with fab := { s.fab with out := t.fab.out } }

section OnlyOut
variable {s t : State}

theorem OnlyOut.refl (s : State) : OnlyOut s s := rfl
theorem OnlyOut.trans {u : State} (h : OnlyOut s t) (g : OnlyOut t u) : OnlyOut s u := by
  unfold OnlyOut at *
  rw [g, h]
theorem OnlyOut.host_eq (h : OnlyOut s t) : t.host = s.host := by rw [h]
/-- What a function of the fabric without its messages reads stays. -/
theorem OnlyOut.fab_eq {β : Type} (h : OnlyOut s t) (g : Fabric → β) (blind : ∀ b out, g { b with out := out } = g b) : g t.fab = g s.fab := by
  rw [h]
  exact blind ..
theorem OnlyOut.emits {α : Type} (m : State → α → OutMsg) (l : List α) (s : State) : OnlyOut s (l.foldl (fun t a => t.emit (m t a)) s) :=
  foldl_any (P := OnlyOut s) (OnlyOut.refl s) (fun t a kept => kept.trans (rfl : OnlyOut t (t.emit (m t a))))

theorem sendRoutes_onlyOut (s : State) (gone : List Nat) : OnlyOut s (sendRoutes s gone) := by
  unfold sendRoutes
  split
  · exact OnlyOut.emits (fun _ d => _) _ s
  · exact OnlyOut.refl s

end OnlyOut

/-- What the election of a time master leaves alone in the fabric. -/
theorem setMaster_fab (s : State) (tm : Nat) : (setMaster s tm).fab = { s.fab with tm := BitVec.ofNat 12 tm, tmKnown := true } := by
  unfold setMaster
  dsimp only
  split <;> split <;> rfl

theorem setMaster_isTm (s : State) (tm : Nat) : (setMaster s tm).time.isTm = (tm == s.devId) := by
  unfold setMaster
  dsimp only
  split <;> split <;> rfl

theorem electMaster_memberList (s : State) (refOnly : Bool) (gone : List Nat) : (electMaster s refOnly gone).fab.memberList = s.fab.memberList := by
  unfold electMaster
  split
  · rfl
  · split
    · exact ((sendRoutes_onlyOut ..).fab_eq Fabric.memberList (fun _ _ => rfl)).trans (by rw [setMaster_fab])
    · exact (sendRoutes_onlyOut ..).fab_eq Fabric.memberList (fun _ _ => rfl)

theorem exec_leaderElect_of_included {s : State} (heard : s.devId ∉ s.fab.excluded) : exec .leaderElect s = .next (electMaster
    (s.modFab (fun b => { b with leader := BitVec.ofNat 12 (lowestHeard s), topo := tput b.topo s.devId (ownLinks s) })) false []) := by
  change execLeaderElect s = _
  simp [execLeaderElect, heard]

theorem OnlyOut.ite {s t u : State} {c : Prop} [Decidable c] (h : OnlyOut s t) (g : OnlyOut s u) : OnlyOut s (if c then t else u) := by
  split
  · exact h
  · exact g

/-- POD_UP sets the fields of the pod and raises its event; the rest is messages (R322). -/
theorem exec_podUp (s : State) (members : List Nat) (pt : Word64) : ∃ t, exec (.podUp members pt) s = .next t ∧
    OnlyOut (raiseDev (s.modFab (fun b => { b with
      podup := true, members := BitVec.ofNat 7 members.length, memberList := members, joining := [], missed := [] }))
      0x3401 (data3 0 s.fab.leader.toNat members.length)) t := by
  refine ⟨_, rfl, ?_⟩
  extract_lets +lift lead joined sent up raised routed
  have sends : OnlyOut (raiseDev (s.modFab (fun b => { b with
      podup := true, members := BitVec.ofNat 7 members.length, memberList := members, joining := [], missed := [] }))
      0x3401 (data3 0 s.fab.leader.toNat members.length)) raised := by
    unfold raised up sent
    split <;> rfl
  have routes : OnlyOut raised routed := (sendRoutes_onlyOut ..).ite (OnlyOut.refl _)
  exact (sends.trans routes).trans ((OnlyOut.emits (fun _ l => _) _ _).ite (OnlyOut.refl _))

theorem exec_discoveryTimeout (s : State) : exec .discoveryTimeout s =
    .next (if s.fab.podup then s else raiseDev s 0x3403 (data3 0 s.fab.leader.toNat 0)) := rfl

theorem exec_routesInstall (s : State) (rs : List (Nat × Word32)) (ms : List (Nat × BitVec 128)) (p : TimePlace) :
    exec (.routesInstall rs ms p) s =
      .next ((setMaster ((installRoutes s rs ms).modFab (fun b => { b with upstream := p.upstream })) p.tm).emit (.routesAck s.fab.leader.toNat)) :=
  rfl

/-! ### The loss of a member (R325) -/

section Loss
variable {s : State} {dev : Nat} {held : List (Word16 × Word64)} (member : dev ∈ s.fab.memberList) (other : dev ≠ s.devId)
include member other

theorem exec_memberLost_of_present (present : isLost s dev = false) : exec (.memberLost ⟨dev, held⟩) s = .next s := by
  change execMemberLost ⟨dev, held⟩ s = _
  simp [execMemberLost, member, other, present]

theorem exec_memberLost_of_lost (lost : isLost s dev = true) {groups : List Nat}
    (hg : groups = (List.range 33).filter (fun n => isMember s n && (farMembers s n).any (fun m => m.dev == dev))) :
    exec (.memberLost ⟨dev, held⟩) s = .next (startRecovery (groups.foldl (fun t n => loseGroupMember (forget t n dev) n held)
      (loseColls (dropMember (raiseDev s 0x3404 (data3 0 dev 0)) dev) dev)) dev groups) := by
  have goes : (!s.fab.memberList.contains dev || dev = s.devId || !isLost s dev) = false := by simp [member, other, lost]
  subst hg
  change execMemberLost ⟨dev, held⟩ s = _
  simp only [execMemberLost, goes, Bool.false_eq_true, if_false]

end Loss

/-- A lost device is a member no more. -/
theorem dropMember_memberList (s : State) (dev : Nat) : (dropMember s dev).fab.memberList = s.fab.memberList.filter (· != dev) := by
  unfold dropMember
  extract_lets +lift was dropped led
  have leads : led.fab.memberList = s.fab.memberList.filter (· != dev) := by
    unfold led
    split <;> rfl
  split
  · exact (electMaster_memberList ..).trans leads
  · exact ((sendRoutes_onlyOut ..).fab_eq Fabric.memberList (fun _ _ => rfl)).trans leads

/-! ### Devices behind a trunk (R326) -/

/-- A route that is written, or removed where it is none, is what is read back; the others stay. -/
theorem tgetD_installRoute (t : Tab Word32) (a d : Nat) (e : Word32) :
    tgetD (if e = 0 then tdel t a else tput t a e) d 0 = if d = a then e else tgetD t d 0 := by
  by_cases same : d = a
  · subst same
    split
    next none => rw [tgetD, tget_tdel_same, none, if_pos rfl]; rfl
    next => rw [tgetD_tput_same, if_pos rfl]
  · rw [if_neg same]
    split
    · rw [tgetD, tget_tdel_ne _ same, ← tgetD]
    · rw [tgetD_tput_ne _ _ _ same]

/-- One entry for several destinations, installed for each. -/
theorem tgetD_installRoutes (e : Word32) (ds : List Nat) (t : Tab Word32) {d : Nat} (h : d ∈ ds ∨ tgetD t d 0 = e) :
    tgetD ((ds.map (fun d => (d, e))).foldl (fun t r => if r.2 = 0 then tdel t r.1 else tput t r.1 r.2) t) d 0 = e := by
  induction ds generalizing t with
  | nil => exact h.resolve_left List.not_mem_nil
  | cons a ds ih =>
    refine ih _ ?_
    rw [tgetD_installRoute]
    by_cases same : d = a
    · exact .inr (if_pos same)
    · rw [if_neg same]
      exact h.imp_left (fun listed => (List.mem_cons.mp listed).resolve_left same)

theorem exec_routeSummaryReceive_of_other {s : State} (other : s.fab.leader.toNat ≠ s.devId) (pod : Nat) (trunk : Trunk) (devices : List Nat) :
    exec (.routeSummaryReceive pod trunk devices) s = .next s := by
  change execRouteSummaryReceive pod trunk devices s = _
  simp [execRouteSummaryReceive, other]

/-- The leader keeps what lies behind a trunk and routes to it by the trunk's module; the other members get their own tables. -/
theorem exec_routeSummaryReceive_of_leader {s : State} (leads : s.fab.leader.toNat = s.devId) (pod : Nat) (trunk : Trunk) (devices : List Nat)
    {ds : List Nat} (hds : ds = devices.filter (fun d => d / 64 == pod && pod != s.fab.pod.toNat)) :
    ∃ t, exec (.routeSummaryReceive pod trunk devices) s = .next t ∧
      OnlyOut (installRoutes (s.modFab (fun b => { b with summaries := tput b.summaries pod ds })) (ds.map (fun d => (d,
        if s.devId = trunk.via then routeEntry [trunk.link] else routeOf s.fab.topo s.fab.joining s.fab.leader.toNat s.devId trunk.via))) []) t := by
  subst hds
  refine ⟨_, congrArg Host.Outcome.next (if_neg (not_not_intro leads)), ?_⟩
  exact OnlyOut.emits (fun t m => _) _ _

/-! ### A restored shard (R427) -/

/-- The commit state with a commit record's step and selection. -/
def restoredCmt (rec_ : CommitRecord) (c : Commit) : Commit := { c with
  stepC := rec_.step, sel := rec_.sel, armed := 0, halted := false, accT := 0, accNf := false, accOv := false, gnV := false,
  clipf := 0x3F800000, held := [], att := {} }

/-- A context of partition `n` that waits to start runs. -/
def startLoaded (n : Nat) (c : Ctx) : Ctx := if c.part == n && c.st == .loaded then { c with st := .running } else c

/-- The state with the record's values, its event and the contexts started, before RESUME goes out. -/
def shardRestored (s : State) (n : Nat) (rec_ : CommitRecord) : State :=
  let s := raiseDev (s.modCmt n (restoredCmt rec_)) 0x4603 (data4 0 0 0 rec_.step)
  let s := { s with ctxs := tmap s.ctxs (fun _ c => startLoaded n c) }
  let mib := ((mirrorRuns s n).foldl (fun a r => a + r.2) 0) / 1048576
  s.modRel (fun r => { r with phase := 4, mib := BitVec.ofNat 32 mib, ctl := if r.aliasV then setFld r.ctl 32 32 0 else r.ctl })

section Restored
variable (s : State) (n : Nat) (rec_ : CommitRecord)

theorem exec_starterRestoreLanded : exec (.starterRestoreLanded n rec_) s = .next (sendResume (shardRestored s n rec_) n) := rfl
theorem shardRestored_cmt : (shardRestored s n rec_).cmt n = restoredCmt rec_ (s.cmt n) := s.cmt_modCmt n (restoredCmt rec_)
theorem sendResume_cmt : (sendResume s n).cmt n = { s.cmt n with att := { s.att n with resumeDue := false } } := State.cmt_modAtt_same ..
theorem shardRestored_ctx? (k : Nat) : (shardRestored s n rec_).ctx? k = (s.ctx? k).map (startLoaded n) :=
  tget_tmap s.ctxs (fun _ c => startLoaded n c) k

end Restored

/-- Settles O36: link lists, the leader's choice, tables, POD_UP and its timeout, then lost members, devices behind a trunk, and a restored
shard. -/
theorem discoveryAndMembership : Obligations.DiscoveryAndMembership := by
  refine ⟨fun s => ⟨?lists, fun dev serial ls other => exec_linkListReceive_of_otherPod other, fun heard => exec_leaderElect_of_included heard,
    ?routes, ?up, fun up => ?_, fun down => ?_⟩, fun s => ⟨?lost, ?behind, ?restored⟩⟩
  case lists =>
    intro dev serial ls s0 s1 s2 heard other pod hs0 stays hs1 agree hs2
    have run := exec_linkListReceive_of_kept heard other pod hs0 stays hs1 agree hs2
    refine ⟨fun down => run.trans ?_, fun up fresh stranger alone => run.trans ?_⟩
    · simp [down]
    · simp [up, fresh, stranger, alone]
  case routes =>
    intro rs ms up tm
    have fab := setMaster_fab ((installRoutes s rs ms).modFab (fun b => { b with upstream := up })) tm
    refine ⟨_, exec_routesInstall s rs ms ⟨up, tm⟩, congrArg Fabric.upstream fab, congrArg Fabric.tm fab, ?_,
      congrArg (fun b : Fabric => b.out ++ [.routesAck s.fab.leader.toNat]) fab, congrArg Fabric.route fab, congrArg Fabric.mcast fab⟩
    change (setMaster _ tm).time.isTm = true ↔ _
    rw [setMaster_isTm]
    exact beq_iff_eq
  case up =>
    intro members pt
    obtain ⟨t, run, keeps⟩ := exec_podUp s members pt
    exact ⟨t, run, keeps.fab_eq Fabric.podup (fun _ _ => rfl), keeps.fab_eq Fabric.memberList (fun _ _ => rfl),
      keeps.fab_eq Fabric.joining (fun _ _ => rfl), keeps.fab_eq Fabric.members (fun _ _ => rfl), congrArg HostIf.raised keeps.host_eq⟩
  · exact (exec_discoveryTimeout s).trans (congrArg _ (if_pos up))
  · exact (exec_discoveryTimeout s).trans (congrArg _ (if_neg (by simp [down])))
  case lost =>
    intro dev held groups member other hg
    refine ⟨fun present => exec_memberLost_of_present member other present,
      fun lost => ⟨exec_memberLost_of_lost member other lost hg, ?_⟩⟩
    rw [dropMember_memberList]
    simp
  case behind =>
    intro pod via trunk devices ds hds
    refine ⟨fun other => exec_routeSummaryReceive_of_other other pod ⟨via, trunk⟩ devices, fun leads => ?_⟩
    obtain ⟨t, run, keeps⟩ := exec_routeSummaryReceive_of_leader leads pod ⟨via, trunk⟩ devices hds
    refine ⟨t, run, ?_, fun d hd => ?_⟩
    · rw [keeps.fab_eq Fabric.summaries (fun _ _ => rfl)]
      exact tget_tput_same ..
    · rw [keeps.fab_eq Fabric.route (fun _ _ => rfl)]
      exact tgetD_installRoutes _ ds _ (.inl hd)
  case restored =>
    intro n rec_
    refine ⟨_, exec_starterRestoreLanded s n rec_, ?_⟩
    rw [sendResume_cmt, shardRestored_cmt]
    refine ⟨rfl, rfl, rfl, rfl, rfl, ?_, rfl, rfl, rfl, fun k c hc => ?_⟩
    · change s.fab.out ++ [.resume (s.self n) (((shardRestored s n rec_).cmt n).stepC + 1) ((shardRestored s n rec_).cmt n).attempt] = _
      rw [shardRestored_cmt]
      rfl
    · refine (shardRestored_ctx? s n rec_ k).trans ?_
      rw [hc, Option.map_some, startLoaded]
      simp

end Sys2Proof.Machine

namespace Sys2Proof.Machine

open Sys2Proof

/-! SUPPORT. Function resets: what a reset leaves of the management state, the functions and the contexts; RELEASE and ABANDON. -/

/-! ### A reset leaves the management state alone -/

section Mgmt
variable (s : State)

/-- Steps that keep the management state keep it together. -/
theorem foldl_mgmt {α : Type} {f : State → α → State} (h : ∀ t a, (f t a).mgmt = t.mgmt) (l : List α) (s : State) :
    (l.foldl f s).mgmt = s.mgmt :=
  foldl_any (P := fun t : State => t.mgmt = s.mgmt) rfl (fun t a kept => (h t a).trans kept)

/-! Members and contexts -/

@[simp] theorem sendResume_mgmt (n : Nat) : (sendResume s n).mgmt = s.mgmt := rfl
@[simp] theorem causeAbandon_mgmt (n reason : Nat) : (causeAbandon s n reason).mgmt = s.mgmt := by
  unfold causeAbandon
  split
  · dsimp only
    split <;> rfl
  · rfl
@[simp] theorem hitMember_mgmt (n : Nat) : (hitMember s n).mgmt = s.mgmt := causeAbandon_mgmt s n 5
@[simp] theorem resumeMember_mgmt (n : Nat) : (resumeMember s n).mgmt = s.mgmt := by
  unfold resumeMember
  split <;> rfl
@[simp] theorem finish_mgmt (o : Origin) (status result : Nat) : (finish s o status result).mgmt = s.mgmt := (finish_onlyMsg ..).mgmt_eq
@[simp] theorem endSave_mgmt (k status : Nat) : (endSave s k status).mgmt = s.mgmt := (endSave_onlyMsg ..).mgmt_eq
@[simp] theorem groupsDone_mgmt : (groupsDone s).mgmt = s.mgmt := (groupsDone_onlyMsg s).mgmt_eq
@[simp] theorem addMaps_mgmt (rs : List (Nat × Nat)) (up : Bool) : (addMaps s rs up).mgmt = s.mgmt :=
  foldl_mgmt (fun t _ => foldl_mgmt (fun _ _ => putEntry_mgmt ..) _ t) _ s
@[simp] theorem removeCtx_mgmt (k : Nat) : (removeCtx s k).mgmt = s.mgmt := by
  unfold removeCtx
  split
  · rfl
  next c _ =>
    simpa [keepRoutines] using (foldl_mgmt (fun t r => putEntry_mgmt (s := t) r 0) c.rcvRegions _).trans (addMaps_mgmt s c.regions false)
@[simp] theorem endCtx_mgmt (k : Nat) : (endCtx s k).mgmt = s.mgmt := by
  unfold endCtx
  split <;> simp

/-! Cores, spares and suspects -/

@[simp] theorem addRepair_mgmt (kind action logical physical cause : Nat) : (addRepair s kind action logical physical cause).mgmt = s.mgmt := rfl
@[simp] theorem remapEvent_mgmt (kind logical physical cause core cluster : Nat) :
    (remapEvent s kind logical physical cause core cluster).mgmt = s.mgmt := rfl
@[simp] theorem failBeyond_mgmt (kind logical physical cause core cluster : Nat) :
    (failBeyond s kind logical physical cause core cluster).mgmt = s.mgmt := rfl
@[simp] theorem takeSample_mgmt (n : Nat) : (takeSample s n).mgmt = s.mgmt := rfl
@[simp] theorem resetCtx_mgmt (inScope : Nat → Bool) (k : Nat) (c : Ctx) : (resetCtx s inScope k c).mgmt = s.mgmt := by
  unfold resetCtx
  dsimp only
  split <;> simp
@[simp] theorem resetCores_mgmt (inScope : Nat → Bool) : (resetCores s inScope).mgmt = s.mgmt := by
  simp [resetCores, foldl_mgmt takeSample_mgmt, foldl_mgmt]
@[simp] theorem retireCore_mgmt (n cause : Nat) : (retireCore s n cause).mgmt = s.mgmt := by
  unfold retireCore
  split <;> simp
@[simp] theorem retireEngine_mgmt (k cause : Nat) : (retireEngine s k cause).mgmt = s.mgmt := by
  unfold retireEngine
  dsimp only
  split <;> simp
@[simp] theorem remapScope_mgmt (inScope : Nat → Bool) (engines : Bool) (failed : List Nat) :
    (remapScope s inScope engines failed).mgmt = s.mgmt := by
  unfold remapScope
  dsimp only
  split <;> simp [foldl_mgmt]
@[simp] theorem giveTurn_mgmt (n : Nat) (k : Option Nat) : (giveTurn s n k).mgmt = s.mgmt := by
  unfold giveTurn
  dsimp only
  split <;> split <;> rfl
@[simp] theorem startIsolation_mgmt (inScope : Nat → Bool) : (startIsolation s inScope).mgmt = s.mgmt :=
  foldl_mgmt (fun _ _ => giveTurn_mgmt ..) _ s
@[simp] theorem resetDone_mgmt (scope target : Nat) : (resetDone s scope target).mgmt = s.mgmt := rfl

/-- A partition's reset (R412) leaves the management state alone. -/
@[simp] theorem doScopeReset_mgmt_of_part (n : Nat) (failed : List Nat) : (doScopeReset s 2 n failed).mgmt = s.mgmt := by
  simp [doScopeReset, foldl_mgmt, flushPart]

/-- So do function-level resets. -/
@[simp] theorem doFlr_mgmt (fn : Nat) : (doFlr s fn).mgmt = s.mgmt := by
  unfold doFlr
  dsimp only
  split <;> simp [foldl_mgmt]
@[simp] theorem flrVfs_mgmt : (flrVfs s).mgmt = s.mgmt := foldl_mgmt (fun _ _ => doFlr_mgmt ..) _ s

end Mgmt

/-! ### Function-level resets (R359) -/

/-- What is left of a ring is its command that runs, without a completion to post; what is left of a channel is its rings. -/
theorem freshFn_channel {f : Fn} {ch : Nat} {c : Chan} (found : tget (freshFn f).chans ch = some c) : c = { rings := c.rings } ∧
    ∀ r x, tget c.rings r = some x → x = {} ∨ x = { fetched := x.fetched, running := true, drop := 1 } := by
  rw [freshFn, tget_tmap] at found
  obtain ⟨d, -, rfl⟩ := Option.map_eq_some_iff.mp found
  refine ⟨rfl, fun r x ring => ?_⟩
  rw [tget_tmap] at ring
  obtain ⟨y, -, rfl⟩ := Option.map_eq_some_iff.mp ring
  split
  · exact .inr rfl
  · exact .inl rfl

section Flr
variable {s : State} {fn : Nat}

theorem exec_flr_of_noPart (noPart : (s.part fn).exist = false) (vf : fn ≠ 0) :
    exec (.flr fn) s = .next (raiseDev (s.modFn fn freshFn) 0x6502 0) := by
  have absent : ((s.modFn fn freshFn).part (fnPart fn)).exist = false := noPart
  have own : ¬ fnPart fn = 0 := vf
  refine congrArg (fun t => Host.Outcome.next (raiseDev t 0x6502 0)) (if_neg ?_)
  simp [absent, own]

/-- What a table holds after a change of one value: that value, or what it held. -/
theorem eq_or_mem_of_mem_tput {α : Type} {t : Tab α} {a : Nat} {v : α} {p : Nat × α} (h : p ∈ tput t a v) : p = (a, v) ∨ p ∈ t := by
  induction t with
  | nil => exact .inl (List.mem_singleton.mp h)
  | cons q t ih =>
    rw [tput] at h
    split at h
    · exact List.mem_cons.mp h
    · split at h
      · exact (List.mem_cons.mp h).imp_right (List.mem_cons_of_mem q)
      · obtain rfl | later := List.mem_cons.mp h
        · exact .inr List.mem_cons_self
        · exact (ih later).imp_right (List.mem_cons_of_mem q)

theorem mem_of_tget {α : Type} {t : Tab α} {a : Nat} {v : α} (h : tget t a = some v) : (a, v) ∈ t := by
  induction t with
  | nil => cases h
  | cons q t ih =>
    rw [tget] at h
    split at h
    next same => exact List.mem_cons.mpr (.inl (by rw [← same, ← Option.some.inj h]))
    next => exact List.mem_cons_of_mem q (ih h)

theorem partCtxs_eq_nil_iff {n : Nat} : partCtxs s n = [] ↔ ∀ p ∈ s.ctxs, p.2.part ≠ n := by
  simp [partCtxs]

/-- A change of a virtual core leaves a partition without contexts without them. -/
theorem partCtxs_modVc_of_nil {n : Nat} (noCtxs : partCtxs s n = []) (v : VRef) (f : Vcore → Vcore) : partCtxs (s.modVc v f) n = [] := by
  rw [partCtxs_eq_nil_iff] at noCtxs ⊢
  intro p hp
  unfold State.modVc State.modCtx at hp
  split at hp
  next c found =>
    obtain rfl | kept := eq_or_mem_of_mem_tput hp
    · have own := noCtxs _ (mem_of_tget found)
      dsimp only
      split <;> exact own
    · exact noCtxs p kept
  next => exact noCtxs p hp

theorem partCtxs_dropChecks_of_nil {n : Nat} (noCtxs : partCtxs s n = []) : partCtxs (dropChecks s n) n = [] := by
  unfold dropChecks
  extract_lets +lift cs gone counted
  refine foldl_any (P := fun t : State => partCtxs t n = []) noCtxs (fun t c kept => ?_)
  split
  · exact partCtxs_modVc_of_nil kept _ _
  · exact kept

theorem exec_flr_of_part (there : fn = 0 ∨ (s.part fn).exist = true) (noCtxs : partCtxs s fn = []) :
    exec (.flr fn) s = .next (raiseDev (doScopeReset (dropChecks (s.modFn fn freshFn) fn) 2 fn []) 0x6502 0) := by
  have here : fnPart fn = 0 ∨ ((s.modFn fn freshFn).part (fnPart fn)).exist = true := there
  have gone : partCtxs (dropChecks (s.modFn fn freshFn) (fnPart fn)) (fnPart fn) = [] := partCtxs_dropChecks_of_nil noCtxs
  refine congrArg (fun t => Host.Outcome.next (raiseDev t 0x6502 0)) ((if_pos ?_).trans ?_)
  · simpa using here
  · simp only [gone, List.foldl_nil]
    rfl

end Flr

/-! ### PERST and hot reset (R360) -/

section Conventional
variable {s : State} (perst : Bool)

/-- The state once PERST has closed the configuration space. -/
def perstSeen (s : State) (perst : Bool) : State :=
  if perst then s.modHost (fun h => { h with perst := true, cfgReady := false, training := false }) else s

@[simp] theorem perstSeen_pwr : (perstSeen s perst).pwr = s.pwr := by
  unfold perstSeen
  split <;> rfl
@[simp] theorem perstSeen_mgmt : (perstSeen s perst).mgmt = s.mgmt := by
  unfold perstSeen
  split <;> rfl

theorem exec_perst_of_carousel (waits : s.pwr.st = .carousel) :
    exec (.perstOrHotReset perst) s = .next ((perstSeen s perst).modHost (fun h => { h with resetDue := true })) := by
  have waits' : ((perstSeen s perst).pwr.st == .carousel) = true := by rw [perstSeen_pwr, waits]; rfl
  exact congrArg Host.Outcome.next (if_pos waits')

theorem exec_perst_of_awake (up : awake s = true) : exec (.perstOrHotReset perst) s = .next (conventionalReset (perstSeen s perst)) := by
  have up' : ¬ ((perstSeen s perst).pwr.st == .carousel) = true ∧ ¬ ((perstSeen s perst).pwr.st == .off) = true := by
    simpa [awake] using up
  exact congrArg Host.Outcome.next ((if_neg up'.1).trans (if_neg up'.2))

/-- A request for a device reset changes the reset engine's state and the partitions alone. -/
theorem requestReset_device (s : State) : (requestReset s 4 0 none).host = s.host ∧
    (requestReset s 4 0 none).rel = { s.rel with rstQueue := s.rel.rstQueue ++ [(4, 0, none)], rstBusy := true } := by
  unfold requestReset
  refine foldl_any (P := fun t : State => t.host = s.host ∧ t.rel = _) ⟨rfl, rfl⟩ (fun t n kept => ?_)
  split <;> exact kept

theorem conventionalReset_host (s : State) : (conventionalReset s).host.resetDue = false ∧
    ∀ p ∈ (conventionalReset s).host.fns, ∃ f, p.2 = { freshFn f with enabled := false } := by
  unfold conventionalReset
  extract_lets +lift reset cleared
  have host : (if cleared.mgmt.rstOnPerst then requestReset cleared 4 0 none else cleared).host = cleared.host := by
    split
    · exact (requestReset_device cleared).1
    · rfl
  rw [host]
  refine ⟨rfl, fun p hp => ?_⟩
  obtain ⟨q, -, rfl⟩ := List.mem_map.mp hp
  exact ⟨q.2, rfl⟩

theorem conventionalReset_rel (asked : s.mgmt.rstOnPerst = true) :
    (conventionalReset s).rel.rstBusy = true ∧ (4, 0, none) ∈ (conventionalReset s).rel.rstQueue := by
  unfold conventionalReset
  extract_lets +lift reset cleared
  have mgmt : reset.mgmt = s.mgmt := (doFlr_mgmt (flrVfs s) 0).trans (flrVfs_mgmt s)
  clear_value reset
  replace mgmt : cleared.mgmt = s.mgmt := mgmt
  rw [if_pos (by rw [mgmt]; exact asked), (requestReset_device cleared).2]
  exact ⟨rfl, by simp⟩

end Conventional

/-! ### Enabling, mastering and power states of functions (R355, R356, R360) -/

/-- VF Enable cleared disables every VF. -/
theorem exec_vfEnableClear_disables (s : State) :
    ∃ t, exec .vfEnableClear s = .next t ∧ ∀ fn, fn ≠ 0 → (t.fn fn).enabled = false := by
  refine ⟨_, rfl, fun fn vf => ?_⟩
  simp only [State.fn, State.modHost, tgetD, tget_tmap]
  cases tget (flrVfs s).host.fns fn with
  | none => rfl
  | some f => simp [vf]

/-- Nothing is sent where no vector that may be sent is pending. -/
theorem sendPending_of_none {s : State} {fn : Nat} (quiet : ∀ v ∈ (s.fn fn).vecs, v.2.pend = false ∨ v.2.masked = true) :
    sendPending s fn = s := by
  have empty : (s.fn fn).vecs.filter (fun v => v.2.pend && !v.2.masked) = [] := by
    refine List.filter_eq_nil_iff.mpr (fun v hv => ?_)
    obtain idle | masked := quiet v hv
    · simp [idle]
    · simp [masked]
  rw [sendPending, empty, List.foldl_nil]

/-! ### RELEASE and ABANDON (R187) -/

@[simp] theorem raiseVc_fab (s : State) (v : VRef) (code fault idx : Nat) : (raiseVc s v code fault idx).fab = s.fab := by
  unfold raiseVc
  split <;> rfl
@[simp] theorem pushCtl_fab (s : State) (v : VRef) (val : Nat) (step : Word64) : (pushCtl s v val step).fab = s.fab := by
  unfold pushCtl
  split
  · rfl
  · dsimp only
    split
    · simp
    · split <;> simp
/-- Control tokens stay on the module. -/
@[simp] theorem sendCtl_fab (s : State) (n val : Nat) (step : Word64) : (sendCtl s n val step).fab = s.fab := by
  refine foldl_any (P := fun t : State => t.fab = s.fab) rfl (fun t k kept => ?_)
  split
  · exact foldl_any (P := fun t : State => t.fab = s.fab) kept (fun u p kept => (pushCtl_fab ..).trans kept)
  · exact kept

section Release
variable {s : State} {fn n : Nat}

theorem exec_release_of_member (own : fn = 0 ∨ fn = n) (powered : (s.fn fn).d3 = false) (up : awake s = true) :
    exec (.release fn n) s = .next (releaseMember s n) := by
  change execRelease fn n s = _
  simp [execRelease, seesPart, own, powered, up]

theorem exec_abandon_of_member (own : fn = 0 ∨ fn = n) (powered : (s.fn fn).d3 = false) (up : awake s = true) :
    exec (.abandon fn n) s = .next (abandonMember s n) := by
  change execAbandon fn n s = _
  simp [execAbandon, seesPart, own, powered, up]

/-- A halted member goes on: its contexts get the token, and RESUME leaves. -/
theorem releaseMember_of_halted (halted : (s.cmt n).halted = true) : ((releaseMember s n).cmt n).halted = false ∧
    ((releaseMember s n).cmt n).stepC = (s.cmt n).stepC ∧
    (releaseMember s n).fab.out = s.fab.out ++ [.resume (s.self n) (curStep s n) (s.cmt n).attempt] := by
  have told : (sendCtl (s.modCmt n (fun c => { c with halted := false })) n 5 (curStep s n)).cmt n = { s.cmt n with halted := false } :=
    (State.cmt_congr (sendCtl_onlyMsg ..).parts_eq n).trans (s.cmt_modCmt n _)
  have kept : (sendCtl (s.modCmt n (fun c => { c with halted := false })) n 5 (curStep s n)).fab = s.fab := sendCtl_fab ..
  rw [releaseMember, if_pos halted]
  generalize sendCtl _ n 5 (curStep s n) = t at told kept ⊢
  rw [sendResume_cmt, told]
  refine ⟨rfl, rfl, ?_⟩
  simp only [sendResume, State.modAtt_fab, State.emit, State.modFab_fab, State.self, State.devId, curStep, told, kept]

end Release

/-- Settles O45: function-level resets, the conventional reset, enabling and mastering, and the two commit commands. -/
theorem functionsResetMasterAndRelease : Obligations.FunctionsResetMasterAndRelease := by
  refine fun s => ⟨fun fn noPart vf => ⟨_, exec_flr_of_noPart noPart vf, rfl⟩, fun f => ⟨rfl, fun ch c found => freshFn_channel found⟩,
    fun fn _ there noCtxs => exec_flr_of_part there noCtxs, fun perst waits => ?carousel, fun perst up => ?awake, rfl,
    exec_vfEnableClear_disables s, fun fn quiet => ⟨?_, ?_⟩, fun fn => rfl, fun fn n own powered up => ?member, fun fn n vf other => ?stranger⟩
  case carousel =>
    refine ⟨_, exec_perst_of_carousel perst waits, rfl, ?_⟩
    cases perst <;> exact ⟨rfl, by simp [perstSeen], rfl, rfl⟩
  case awake =>
    obtain ⟨due, fns⟩ := conventionalReset_host (perstSeen s perst)
    exact ⟨_, exec_perst_of_awake perst up, due, fns, fun asked => conventionalReset_rel (by rw [perstSeen_mgmt]; exact asked)⟩
  case member =>
    have release := exec_release_of_member own powered up
    have abandon := exec_abandon_of_member own powered up
    refine ⟨fun halted => ⟨_, release, releaseMember_of_halted halted⟩, fun going => release.trans ?_, fun isOpen => abandon.trans ?_,
      fun closed => abandon.trans ?_⟩
    · simp [releaseMember, going]
    · simp [abandonMember, isOpen]
    · simp [abandonMember, closed]
  case stranger =>
    have unseen : seesPart fn n = false := by simp [seesPart, vf, other]
    refine ⟨?_, ?_⟩
    · change execRelease fn n s = _
      simp [execRelease, unseen]
    · change execAbandon fn n s = _
      simp [execAbandon, unseen]
  all_goals
    refine congrArg Host.Outcome.next (sendPending_of_none ?_)
    rw [State.fn_modFn]
    exact quiet

end Sys2Proof.Machine

namespace Sys2Proof.Machine

open Sys2Proof

/-! SUPPORT. The model's exact numbers read as Mathlib's rationals, and what FP32 holds exactly (R45, R485). -/

section Exact

/-- The rational that an exact number stands for. -/
def Q.val (a : Q) : ℚ := a.n / a.d

variable {a b q : Q} {r : Rnd} {neg : Bool} {m : Nat} {e k : Int}

theorem Q.le_iff_val (ha : 0 < a.d) (hb : 0 < b.d) : a.le b = true ↔ a.val ≤ b.val := by
  have da : (0 : ℚ) < a.d := by exact_mod_cast ha
  have db : (0 : ℚ) < b.d := by exact_mod_cast hb
  rw [Q.val, Q.val, div_le_div_iff₀ da db, Q.le, decide_eq_true_iff]
  exact_mod_cast Iff.rfl

theorem Q.eq_iff_val (ha : 0 < a.d) (hb : 0 < b.d) : a.eq b = true ↔ a.val = b.val := by
  have da : (a.d : ℚ) ≠ 0 := by exact_mod_cast ha.ne'
  have db : (b.d : ℚ) ≠ 0 := by exact_mod_cast hb.ne'
  rw [Q.val, Q.val, div_eq_div_iff da db, Q.eq, decide_eq_true_iff]
  exact_mod_cast Iff.rfl

theorem Q.isZero_iff_val (ha : 0 < a.d) : a.isZero = true ↔ a.val = 0 := by
  simp [Q.isZero, Q.val, ha.ne']

theorem Q.floor_eq_val (a : Q) : a.floor = ⌊a.val⌋ := (Rat.floor_intCast_div_natCast a.n a.d).symm

@[simp] theorem Q.val_ofInt (x : Int) : (Q.ofInt x).val = x := by simp [Q.ofInt, Q.val]

theorem Q.add_d_pos (ha : 0 < a.d) (hb : 0 < b.d) : 0 < (a.add b).d := by
  unfold Q.add
  split
  · exact ha
  · exact Nat.mul_pos ha hb

theorem Q.val_add (ha : 0 < a.d) (hb : 0 < b.d) : (a.add b).val = a.val + b.val := by
  have da : (a.d : ℚ) ≠ 0 := by exact_mod_cast ha.ne'
  have db : (b.d : ℚ) ≠ 0 := by exact_mod_cast hb.ne'
  unfold Q.add
  split
  next same => simp [Q.val, same, add_div]
  next => simp only [Q.val]; push_cast; field_simp

@[simp] theorem Q.val_neg (a : Q) : a.neg.val = -a.val := by simp [Q.neg, Q.val, neg_div]

theorem Q.val_sub (ha : 0 < a.d) (hb : 0 < b.d) : (a.sub b).val = a.val - b.val := by
  have add : (a.add b.neg).val = a.val + b.neg.val := Q.val_add ha hb
  rw [Q.sub, add, Q.val_neg, sub_eq_add_neg]

theorem Q.sub_isZero_iff_val (ha : 0 < a.d) (hb : 0 < b.d) : (a.sub b).isZero = true ↔ a.val = b.val := by
  have hd : 0 < (a.sub b).d := Q.add_d_pos ha hb
  rw [Q.isZero_iff_val hd, Q.val_sub ha hb, sub_eq_zero]

theorem Q.abs_of_nonneg (h : 0 ≤ a.n) : a.abs = a := by
  simp [Q.abs, abs_eq_self.mpr h]

theorem Q.n_pos_of_val (pos : 0 < a.val) : 0 < a.n := by
  by_contra neg
  have low : (a.n : ℚ) ≤ 0 := by exact_mod_cast not_lt.mp neg
  exact absurd pos (not_lt.mpr (div_nonpos_of_nonpos_of_nonneg low (Nat.cast_nonneg _)))

theorem FV.ofQ_of_pos (pos : 0 < q.val) : FV.ofQ q = .num false q := by
  have hn := Q.n_pos_of_val pos
  rw [FV.ofQ, Q.abs_of_nonneg hn.le, Q.isNeg, decide_eq_false hn.not_gt]

theorem pow2_d_pos (e : Int) : 0 < (pow2 e).d := by
  unfold pow2
  split <;> simp

@[simp] theorem pow2_val (e : Int) : (pow2 e).val = 2 ^ e := by
  obtain ⟨n, rfl | rfl⟩ := e.eq_nat_or_neg
  · simp [pow2, Q.val]
  · rcases n.eq_zero_or_pos with rfl | pos
    · simp [pow2, Q.val]
    · simp [pow2, Q.val, pos.ne']

theorem Q.scale_d_pos (ha : 0 < a.d) (e : Int) : 0 < (a.scale e).d := by
  unfold Q.scale
  split
  · exact ha
  · exact Nat.mul_pos ha (Nat.two_pow_pos _)

@[simp] theorem Q.val_scale (a : Q) (e : Int) : (a.scale e).val = a.val * 2 ^ e := by
  obtain ⟨n, rfl | rfl⟩ := e.eq_nat_or_neg
  · simp [Q.scale, Q.val, div_mul_eq_mul_div]
  · rcases n.eq_zero_or_pos with rfl | pos
    · simp [Q.scale, Q.val]
    · simp [Q.scale, Q.val, pos.ne', div_eq_mul_inv, mul_assoc, mul_comm]

theorem two_zpow_log2_le {n : Nat} (pos : 0 < n) : (2 : ℚ) ^ (Nat.log2 n : Int) ≤ n := by
  exact_mod_cast Nat.log2_self_le pos.ne'

theorem lt_two_zpow_log2 (n : Nat) : (n : ℚ) < 2 ^ ((Nat.log2 n : Int) + 1) := by
  exact_mod_cast Nat.lt_log2_self

/-- The difference of the parts' exponents, from which `Q.ilog2` starts, is the binade of the value or the next. -/
theorem Q.log2_sub_log2_of_val (hd : 0 < a.d) (lo : (2 : ℚ) ^ k ≤ a.val) (hi : a.val < 2 ^ (k + 1)) :
    k ≤ (Nat.log2 a.n.natAbs : Int) - Nat.log2 a.d ∧ (Nat.log2 a.n.natAbs : Int) - Nat.log2 a.d ≤ k + 1 := by
  have vpos : 0 < a.val := (zpow_pos two_pos k).trans_le lo
  have npos := Q.n_pos_of_val vpos
  have dpos : (0 : ℚ) < a.d := by exact_mod_cast hd
  have value : a.val * a.d = a.n.natAbs := by
    rw [Q.val, div_mul_cancel₀ _ dpos.ne', ← Int.cast_natCast, Int.natAbs_of_nonneg npos.le]
  have above : (2 : ℚ) ^ (k + Nat.log2 a.d) < 2 ^ ((Nat.log2 a.n.natAbs : Int) + 1) := calc
    (2 : ℚ) ^ (k + Nat.log2 a.d) = 2 ^ k * 2 ^ (Nat.log2 a.d : Int) := zpow_add₀ two_ne_zero _ _
    _ ≤ a.val * a.d := mul_le_mul lo (two_zpow_log2_le hd) (by positivity) vpos.le
    _ < 2 ^ ((Nat.log2 a.n.natAbs : Int) + 1) := value ▸ lt_two_zpow_log2 _
  have below : (2 : ℚ) ^ (Nat.log2 a.n.natAbs : Int) < 2 ^ (k + 1 + (Nat.log2 a.d + 1)) := calc
    (2 : ℚ) ^ (Nat.log2 a.n.natAbs : Int) ≤ a.val * a.d := value ▸ two_zpow_log2_le (by omega)
    _ < 2 ^ (k + 1) * 2 ^ ((Nat.log2 a.d : Int) + 1) := mul_lt_mul'' hi (lt_two_zpow_log2 _) vpos.le dpos.le
    _ = 2 ^ (k + 1 + (Nat.log2 a.d + 1)) := (zpow_add₀ two_ne_zero _ _).symm
  rw [zpow_lt_zpow_iff_right₀ one_lt_two] at above below
  omega

/-- The binary exponent is the one whose binade the value lies in. -/
theorem Q.ilog2_eq_of_val (hd : 0 < a.d) (lo : (2 : ℚ) ^ k ≤ a.val) (hi : a.val < 2 ^ (k + 1)) : a.ilog2 = k := by
  have npos := Q.n_pos_of_val ((zpow_pos two_pos k).trans_le lo)
  obtain ⟨above, below⟩ := Q.log2_sub_log2_of_val hd lo hi
  unfold Q.ilog2
  generalize (Nat.log2 a.n.natAbs : Int) - Nat.log2 a.d = first at above below
  have test : (pow2 first).le a.abs = true ↔ (2 : ℚ) ^ first ≤ a.val := by
    rw [Q.abs_of_nonneg npos.le, Q.le_iff_val (pow2_d_pos _) hd, pow2_val]
  simp only [test]
  obtain rfl | rfl : first = k ∨ first = k + 1 := by omega
  · exact if_pos lo
  · rw [if_neg hi.not_ge, add_sub_cancel_right]

/-- A value on the grid is its own multiple, without rounding. -/
theorem roundGrid_of_val (hq : 0 < q.d) (h : q.val = m * 2 ^ e) : roundGrid r neg q e = (m, true) := by
  have hd := Q.scale_d_pos hq (-e)
  have hv : (q.scale (-e)).val = m := by
    rw [Q.val_scale, h, mul_assoc, ← zpow_add₀ two_ne_zero, add_neg_cancel, zpow_zero, mul_one]
  have floor : (q.scale (-e)).floor.toNat = m := by rw [Q.floor_eq_val, hv, Int.floor_natCast, Int.toNat_natCast]
  have zero : ((q.scale (-e)).sub (Q.ofInt m)).isZero = true := by
    rw [Q.sub_isZero_iff_val hd Nat.one_pos, hv, Q.val_ofInt, Int.cast_natCast]
  simp only [roundGrid, floor, zero, if_true]

section Normal
variable {f : FpFmt}

/-- A significand of mb + 1 bits lies below the next binade. -/
theorem val_lt_of_significand (mhi : m < 2 ^ (f.mb + 1)) (h : q.val = m * 2 ^ (k - f.mb)) : q.val < 2 ^ (k + 1) := calc
  q.val < 2 ^ (f.mb + 1) * 2 ^ (k - f.mb) := by rw [h]; gcongr; exact_mod_cast mhi
  _ = (2 : ℚ) ^ (k + 1) := by rw [← zpow_natCast, ← zpow_add₀ two_ne_zero]; congr 1; omega

/-- The code of the normal number m × 2^(k − mb) with a significand of mb + 1 bits (R45). -/
def normalCode (f : FpFmt) (m : Nat) (k : Int) : Nat := (k + f.bias).toNat * 2 ^ f.mb + (m - 2 ^ f.mb)

/-- The exponent field of a normal number is neither all zeros nor all ones. -/
theorem biasedExponent_range (klo : f.emin ≤ k) (khi : k ≤ f.emax) :
    0 < (k + f.bias).toNat ∧ (k + f.bias).toNat < 2 ^ f.eb - 1 := by
  have field : (2 : Int) ^ f.eb = 2 * 2 ^ (f.eb - 1) := by
    rw [← pow_succ']
    congr 1
    by_contra none
    have : f.eb = 0 := by omega
    simp only [FpFmt.emin, FpFmt.emax, FpFmt.bias, this] at klo khi
    omega
  have ones : ((2 ^ f.eb : Nat) : Int) = 2 ^ f.eb := by push_cast; rfl
  simp only [FpFmt.emin, FpFmt.emax, FpFmt.bias] at *
  omega

variable (mlo : 2 ^ f.mb ≤ m) (mhi : m < 2 ^ (f.mb + 1))
include mlo mhi

/-- A significand of mb + 1 bits puts its number in binade k. -/
theorem ilog2_of_significand (hq : 0 < q.d) (h : q.val = m * 2 ^ (k - f.mb)) : q.ilog2 = k := by
  refine Q.ilog2_eq_of_val hq ?_ (val_lt_of_significand mhi h)
  calc (2 : ℚ) ^ k = 2 ^ f.mb * 2 ^ (k - f.mb) := by rw [← zpow_natCast, ← zpow_add₀ two_ne_zero]; congr 1; omega
    _ ≤ q.val := by rw [h]; gcongr; exact_mod_cast mlo

variable (klo : f.emin ≤ k) (khi : k ≤ f.emax)
include klo khi

/-- A number that the format holds is encoded as it is, without a flag. -/
theorem fpEncode_of_significand (hq : 0 < q.d) (h : q.val = m * 2 ^ (k - f.mb)) (r : Rnd) :
    fpEncode f r (.num false q) = (normalCode f m k, 0#4) := by
  have m0 : (0 : ℚ) < m := by exact_mod_cast (Nat.two_pow_pos f.mb).trans_le mlo
  have nonzero : q.isZero = false := by
    rw [Bool.eq_false_iff, ne_eq, Q.isZero_iff_val hq, h]
    positivity
  have exponent : q.ilog2 = k := ilog2_of_significand mlo mhi hq h
  have grid : roundGrid r false q (k - f.mb) = (m, true) := roundGrid_of_val hq h
  have vd : 0 < ((Q.ofInt m).scale (k - f.mb)).d := Q.scale_d_pos Nat.one_pos _
  have value : ((Q.ofInt m).scale (k - f.mb)).val = m * 2 ^ (k - f.mb) := by simp
  have vexponent : ((Q.ofInt m).scale (k - f.mb)).ilog2 = k := ilog2_of_significand mlo mhi vd value
  have finite : (pow2 (f.emax + 1)).le ((Q.ofInt m).scale (k - f.mb)) = false := by
    rw [Bool.eq_false_iff, ne_eq, Q.le_iff_val (pow2_d_pos _) vd, pow2_val, not_le]
    exact (val_lt_of_significand mhi value).trans_le (zpow_le_zpow_right₀ one_le_two (by omega))
  have mantissa : (((Q.ofInt m).scale (k - f.mb)).scale (f.mb - k)).floor.toNat = m := by
    rw [Q.floor_eq_val, Q.val_scale, value, mul_assoc, ← zpow_add₀ two_ne_zero]
    simp
  simp only [fpEncode, nonzero, exponent, khi.not_gt, klo.not_gt, grid, finite, mlo.not_gt, vexponent, mantissa, if_false, if_true,
    Bool.false_eq_true, Nat.zero_add, normalCode]

/-- The fields of a normal code: no sign, the biased exponent, the significand without its leading one. -/
theorem normalCode_fields : normalCode f m k < 2 ^ (f.eb + f.mb) ∧ normalCode f m k / 2 ^ f.mb = (k + f.bias).toNat ∧
    normalCode f m k % 2 ^ f.mb = m - 2 ^ f.mb := by
  obtain ⟨-, ones⟩ := biasedExponent_range klo khi
  have short : m - 2 ^ f.mb < 2 ^ f.mb := by rw [pow_succ] at mhi; omega
  refine ⟨?_, ?_, ?_⟩
  · rw [Nat.pow_add]
    calc normalCode f m k < (k + f.bias).toNat * 2 ^ f.mb + 2 ^ f.mb := Nat.add_lt_add_left short _
      _ = ((k + f.bias).toNat + 1) * 2 ^ f.mb := (Nat.succ_mul ..).symm
      _ ≤ 2 ^ f.eb * 2 ^ f.mb := Nat.mul_le_mul_right _ (by omega)
  · rw [normalCode, Nat.mul_comm, Nat.mul_add_div (Nat.two_pow_pos _), Nat.div_eq_of_lt short, Nat.add_zero]
  · rw [normalCode, Nat.mul_comm, Nat.mul_add_mod, Nat.mod_eq_of_lt short]

/-- The decode of a normal code reads its exponent and its fraction back. -/
theorem fpDecode_normalCode (fraction : 0 < f.mb) :
    fpDecode f (normalCode f m k) = .num false ((Q.ofInt m).scale (k - f.mb)) := by
  obtain ⟨zeros, ones⟩ := biasedExponent_range klo khi
  obtain ⟨width, high, low⟩ := normalCode_fields mlo mhi klo khi
  have sign : bit (normalCode f m k) (f.eb + f.mb) = false := Nat.testBit_lt_two_pow width
  have exponent : bits (normalCode f m k) (f.eb + f.mb - 1) f.mb = (k + f.bias).toNat := by
    have count : f.eb + f.mb - 1 + 1 - f.mb = f.eb := by omega
    rw [bits, Nat.shiftRight_eq_div_pow, high, count, Nat.mod_eq_of_lt (by omega)]
  have rest : bits (normalCode f m k) (f.mb - 1) 0 = m - 2 ^ f.mb := by
    have count : f.mb - 1 + 1 - 0 = f.mb := by omega
    rw [bits, Nat.shiftRight_zero, count, low]
  have whole : 2 ^ f.mb + (m - 2 ^ f.mb) = m := Nat.add_sub_of_le mlo
  have place : ((k + f.bias).toNat : Int) - f.bias - f.mb = k - f.mb := by omega
  simp only [fpDecode, sign, exponent, rest, ones.ne, zeros.ne', if_false, whole, place]

end Normal

/-- FP32 holds a number with a significand of 24 bits exactly. -/
theorem dec32_enc32_of_significand (mlo : 2 ^ 23 ≤ m) (mhi : m < 2 ^ 24) (klo : -126 ≤ k) (khi : k ≤ 127) (hq : 0 < q.d)
    (h : q.val = m * 2 ^ (k - 23)) : dec32 (enc32 (.num false q)).1 = .num false ((Q.ofInt m).scale (k - 23)) := by
  have encode := fpEncode_of_significand (f := fp32) mlo mhi klo khi hq h .rne
  have decode := fpDecode_normalCode (f := fp32) mlo mhi klo khi (by decide)
  obtain ⟨short, -, -⟩ := normalCode_fields (f := fp32) mlo mhi klo khi
  have word : (BitVec.ofNat 32 (normalCode fp32 m k)).toNat = normalCode fp32 m k := by
    rw [BitVec.toNat_ofNat]
    exact Nat.mod_eq_of_lt (short.trans (by decide))
  simp only [dec32, enc32, encode, word, decode]
  rfl

/-- A number of at most 24 bits over 2²⁴, shifted up to a significand of 24 bits. -/
theorem exists_significand {n : Nat} (pos : 0 < n) (short : n < 2 ^ 24) : ∃ (m : Nat) (k : Int),
    2 ^ 23 ≤ m ∧ m < 2 ^ 24 ∧ -126 ≤ k ∧ k ≤ 127 ∧ (n : ℚ) / 2 ^ 24 = m * 2 ^ (k - 23) := by
  have low := Nat.log2_self_le pos.ne'
  have high := Nat.lt_log2_self (n := n)
  have top : n.log2 < 24 := (Nat.log2_lt pos.ne').mpr short
  obtain ⟨t, up⟩ := Nat.exists_eq_add_of_le (Nat.le_of_lt_succ top)
  refine ⟨n * 2 ^ t, -(t + 1), ?_, ?_, by omega, by omega, ?_⟩
  · rw [up, pow_add]
    exact Nat.mul_le_mul_right _ low
  · calc n * 2 ^ t < 2 ^ (n.log2 + 1) * 2 ^ t := Nat.mul_lt_mul_of_pos_right high (Nat.two_pow_pos t)
      _ = 2 ^ 24 := by rw [← pow_add]; congr 1; omega
  · have : (-(t + 1) - 23 : Int) = -(t : Int) - 24 := by omega
    rw [this, zpow_sub₀ two_ne_zero, zpow_neg, zpow_natCast]
    push_cast
    field_simp
    ring

end Exact

section Variate

/-- The number of which the variate of a word is the FP32 code (R203). -/
def exactVariate (w : Word32) : Q := ((Q.ofInt ((w.toNat / 512 : Nat) : Int)).add ⟨1, 2⟩).scale (-23)

variable (w : Word32)

theorem exactVariate_d_pos : 0 < (exactVariate w).d := Q.scale_d_pos (Q.add_d_pos Nat.one_pos Nat.two_pos) _

theorem exactVariate_val : (exactVariate w).val = ((2 * (w.toNat / 512) + 1 : Nat) : ℚ) / 2 ^ 24 := by
  have half : Q.val ⟨1, 2⟩ = 1 / 2 := by simp [Q.val]
  rw [exactVariate, Q.val_scale, Q.val_add Nat.one_pos Nat.two_pos, half, Q.val_ofInt, Int.cast_natCast]
  push_cast
  norm_num
  ring

/-- The significand 2⌊w/2⁹⌋ + 1 has at most 24 bits, so that nothing is rounded. -/
theorem exists_dec32_variate : ∃ m : Q, dec32 (variate w) = .num false m ∧ 0 < m.d ∧ m.val = (exactVariate w).val := by
  have value := exactVariate_val w
  have pos : 0 < (exactVariate w).val := by rw [value]; positivity
  obtain ⟨m, k, mlo, mhi, klo, khi, significand⟩ := exists_significand (n := 2 * (w.toNat / 512) + 1) (by omega) (by omega)
  have decoded := dec32_enc32_of_significand mlo mhi klo khi (exactVariate_d_pos w) (value.trans significand)
  rw [← FV.ofQ_of_pos pos] at decoded
  refine ⟨_, decoded, Q.scale_d_pos Nat.one_pos _, ?_⟩
  rw [Q.val_scale, Q.val_ofInt, Int.cast_natCast, value, significand]

end Variate

theorem mixNibble_lt (e : BitVec 128) (n : Nat) : mixNibble e n < 16 := by
  have width : 4 * n + 3 + 1 - 4 * n = 4 := by omega
  rw [mixNibble, bits, width]
  exact Nat.mod_lt _ (by decide)

theorem bits_three_one_of_nibble {u : Nat} (h : u < 16) : bits u 3 1 = u / 2 := by
  rw [bits, Nat.shiftRight_eq_div_pow]
  omega

/-- Settles O20: the variate is its exact number, whose bounds are those of 2⌊w/2⁹⌋ + 1 over 2²⁴; SR3 draws the nibble without its lowest bit. -/
theorem randomPartsAndVariate : Obligations.RandomPartsAndVariate := by
  refine ⟨fun w => ?variate, fun seed step stream i => ?draws⟩
  case variate =>
    obtain ⟨m, decoded, hd, value⟩ := exists_dec32_variate w
    have fraction := value.trans (exactVariate_val w)
    have hi : ((2 * (w.toNat / 512) + 1 : Nat) : ℚ) ≤ 2 ^ 24 - 1 := by
      have : 2 * (w.toNat / 512) + 1 + 1 ≤ 2 ^ 24 := by omega
      rw [le_sub_iff_add_le]
      exact_mod_cast this
    have lo : (1 : ℚ) ≤ ((2 * (w.toNat / 512) + 1 : Nat) : ℚ) := by exact_mod_cast Nat.le_add_left ..
    refine ⟨m, decoded, (Q.eq_iff_val hd (exactVariate_d_pos w)).mpr value, (Q.le_iff_val (pow2_d_pos _) hd).mpr ?_,
      (Q.le_iff_val hd (by decide)).mpr ?_⟩
    · rw [pow2_val, fraction]
      calc (2 : ℚ) ^ (-24 : Int) = 1 / 2 ^ 24 := by norm_num
        _ ≤ _ := by gcongr
    · rw [Q.val_sub Nat.one_pos (pow2_d_pos _), pow2_val, fraction]
      calc _ ≤ ((2 : ℚ) ^ 24 - 1) / 2 ^ 24 := by gcongr
        _ = Q.one.val - 2 ^ (-24 : Int) := by norm_num [Q.one, Q.val]
  case draws =>
    have nibble := mixNibble_lt (mix seed stream (BitVec.ofNat 64 (i / 32)) step) (i % 32)
    have high := bits_three_one_of_nibble nibble
    exact ⟨rfl, by rw [high]; rfl, nibble, high.symm⟩

end Sys2Proof.Machine

namespace Sys2Proof.Machine

open Sys2Proof

/-! SUPPORT. What DROP, INIT and SAMPLE answer once their descriptor and operands have been read. -/

theorem orFlags_of_clear {l : List Flags} (clear : ∀ f ∈ l, f = 0#4) : orFlags l = 0#4 := by
  rw [List.eq_replicate_of_mem clear, orFlags]
  generalize l.length = k
  induction k with
  | zero => rfl
  | succ k ih => exact ih

/-- An element of DROP (R202): a NaN, and everything where D is 0, stays as it is. -/
def dropElem (x : Vcore) (j : BitVec 512) (fmt : FpFmt) (d : Nat) (ks w : Word32) (i : Nat) : R32 :=
  if (dec32 w).isNan || d = 0 then (w, 0#4)
  else if mixByte (vecMix x j (i / 16)) (i % 16) < d then (0#32, 0#4)
  else ((enc32 (fpDecode fmt (fpEncode fmt .rne ((dec32 w).mul (dec32 ks)).1).1)).1, (fpEncode fmt .rne ((dec32 w).mul (dec32 ks)).1).2)

/-- The factor 256 / (256 − D) of DROP (R202). -/
def dropScale (d : Nat) : Word32 := (fp32Div 0x43800000#32 (enc32 (FV.ofQ (Q.ofInt ((256 - d : Nat) : Int)))).1).1

/-- What SAMPLE answers when it has chosen its tokens (R208, R209). -/
def sampled (v : VRef) (x : Vcore) (n : Nat) (o : UOp) (j : BitVec 512) (a : VecOp) (dev : Bool) (base : Nat) (toks : List (Option Nat)) (k : Nat)
    (fl : Flags) : Ran :=
  vecDone (countEvals (toks.foldl (fun t k => if k.isNone then raiseCtx t 0x1301 v.ctx (data1 0 0 0 x.core (curStep t n)) else t)
    (spWrite a.st v 0 dev base (clean (toks.flatMap (fun t => natToBytes 4 (t.getD 0xFFFFFFFF)))))) x k)
    v x j o [⟨dev, base, 4 * a.o.rows⟩] fl a.nan

section Random
variable {s : State} {v : VRef} {x : Vcore} {n f : Nat} {o : UOp} {j : BitVec 512} {a : VecOp} {out : Opnd}

variable (hj : readVjd x (arg1 o) = .ok j) (hf : f = immBits o.word 7 0)
include hj hf

theorem runDrop_of_operand (drop : f = 0) (ha : vecOperand s v n x (fld j 31 0) = .ok a) (wide : a.o.narrow = false)
    (hout : vecOut a.st n x j a.o.rows a.o.cols = .ok out) {d : Nat} (hd : d = fld j 231 224) {res : List (List R32)}
    (hres : res = (List.range a.o.rows).map (fun r => (List.range a.o.cols).map (fun c =>
      dropElem x j (fpOf a.o.fmt) d (dropScale d) (a.at r c) (a.o.index r c)))) :
    runDrop s v x n o = .ok (vecDone
        (countEvals (vecWrite a.st v x j out (res.map (fun r => r.map Prod.fst))).1 x (if d = 0 then 0 else evalsOf a.o 16))
        v x j o out.outs ((vecWrite a.st v x j out (res.map (fun r => r.map Prod.fst))).2 ||| a.flags |||
          orFlags (res.map (fun r => orFlags (r.map Prod.snd)))) a.nan) := by
  have code : (immBits o.word 7 0 == 0) = true := by simp [← hf, drop]
  subst hres hd
  simp only [runDrop, hj, Res.ok_bind, code, need_true, ha, wide, Bool.not_false, hout, Res.pure_eq, dropElem, dropScale]

theorem runInit_of_output (known : f < 3) (hout : mkOpnd s n x (fld j 127 96) false 0 false = .ok out) (wide : out.narrow = false)
    (hk : checkRuns s n x out.dev out.runs = .ok ()) {res : List (List R32)}
    (hres : res = (List.range out.rows).map (fun r => (List.range out.cols).map (fun c => initElem x j f (out.index r c)))) :
    runInit s v x n o = .ok (vecDone
        (countEvals (vecWrite s v x j out (res.map (fun r => r.map Prod.fst))).1 x (evalsOf out (if f = 2 then 128 else 4)))
        v x j o out.outs ((vecWrite s v x j out (res.map (fun r => r.map Prod.fst))).2 |||
          orFlags (res.map (fun r => orFlags (r.map Prod.snd)))) false) := by
  subst hf hres
  have code : decide (immBits o.word 7 0 < 3) = true := by simp [known]
  simp only [runInit, hj, Res.ok_bind, code, need_true, hout, wide, Bool.not_false, hk, Res.pure_eq]

section Sample
variable {sa : Word32} {base mask : Nat}

variable (sample : f = 0) (hsa : sa = BitVec.ofNat 32 (fld j 191 160)) (ha : vecOperand s v n x (fld j 31 0) = .ok a)
  (format : a.o.fmt = 9 ∨ a.o.fmt = 11) (hout : mkOpnd s n x (fld j 127 96) false 0 false (some 11) = .ok out)
  (hbase : base = out.data + (out.pr * out.scols + out.pc) * 4) (hk : checkRuns s n x out.dev [(base, 4 * a.o.rows)] = .ok ())
  (hmask : readCtl x (fld j 287 256) ((a.o.cols + 7) / 8) = .ok mask)
include sample hsa ha format hout hbase hk hmask

/-- At temperature 0 the logits themselves are compared, and nothing is drawn (R208). -/
theorem runSample_of_greedy (cold : sa = 0#32) {toks : List (Option Nat)}
    (htoks : toks = (List.range a.o.rows).map (fun r =>
      chooseToken (((List.range a.o.cols).filter (fun c => bit mask c)).map (fun c => (c, a.at r c))))) :
    runSample s v x n o = .ok (sampled v x n o j a out.dev base toks 0 a.flags) := by
  have code : (immBits o.word 7 0 == 0) = true := by simp [← hf, sample]
  have fmt : (a.o.fmt == 9 || a.o.fmt == 11) = true := by simpa using format
  have quiet : orFlags ((List.range a.o.rows).map (fun _ =>
      orFlags (((List.range a.o.cols).filter (fun c => bit mask c)).map (fun _ => 0#4)))) = 0#4 := by
    refine orFlags_of_clear (List.forall_mem_map.mpr fun _ _ => orFlags_of_clear (List.forall_mem_map.mpr fun _ _ => rfl))
  subst htoks hbase
  simp only [runSample, hj, Res.ok_bind, code, need_true, ← hsa, cold, beq_self_eq_true, Bool.true_or, ha, fmt, hout, hk, hmask, if_true, List.map_map,
    Function.comp_def, quiet, BitVec.zero_or, Res.pure_eq, sampled]

/-- At a temperature of 2⁻¹⁶ or more each candidate is perturbed with its own variate (R208). -/
theorem runSample_of_drawn (warm : sa ≠ 0#32) (range : ∃ m, dec32 sa = .num false m ∧ (pow2 (-16)).le m = true) {rt : R32}
    (hrt : rt = fp32Div 0x3F800000#32 sa) {cand : List (List (Nat × R32))}
    (hcand : cand = (List.range a.o.rows).map (fun r => ((List.range a.o.cols).filter (fun c => bit mask c)).map (fun c =>
      (c, gumbel x j rt.1 (a.at r c) (a.o.index r c))))) :
    runSample s v x n o = .ok (sampled v x n o j a out.dev base (cand.map (fun l => chooseToken (l.map (fun p => (p.1, p.2.1)))))
      (cand.mapIdx (fun r l => l.map (fun p => a.o.index r p.1 / 4))).flatten.eraseDups.length
      (orFlags (cand.map (fun l => orFlags (l.map (fun p => p.2.2)))) ||| rt.2 ||| a.flags)) := by
  obtain ⟨m, number, least⟩ := range
  have code : (immBits o.word 7 0 == 0) = true := by simp [← hf, sample]
  have fmt : (a.o.fmt == 9 || a.o.fmt == 11) = true := by simpa using format
  have drawn : (sa == 0#32) = false := by simp [warm]
  subst hrt hcand hbase
  simp only [runSample, hj, Res.ok_bind, code, need_true, ← hsa, drawn, number, least, Bool.false_or, ha, fmt, hout, hk, hmask, Bool.false_eq_true,
    if_false, Res.pure_eq, sampled]

end Sample
end Random

/-- Settles O19: each run is worked out from what has been read, and a started operation lands what its run answers. -/
theorem dropInitSampleComplete : Obligations.DropInitSampleComplete := by
  rintro s v x o n f j a out rfl hj hf
  refine ⟨fun d ks one res h drop ha wide hout hd hks hone hres => ?drop, fun res h known hout wide hk hres => ?init,
    fun base mask toks h sample cold ha format hout hbase hk hmask htoks => ?greedy,
    fun base mask sa rt cand toks h sample hsa warm range ha format hout hbase hk hmask hrt hcand htoks => ?drawn⟩
  case drop =>
    subst hks hone
    exact congrArg Host.Outcome.next (perform_ok h rfl (runDrop_of_operand hj hf drop ha wide hout hd hres))
  case init => exact congrArg Host.Outcome.next (perform_ok h rfl (runInit_of_output hj hf known hout wide hk hres))
  case greedy =>
    exact congrArg Host.Outcome.next (perform_ok h rfl
      (runSample_of_greedy hj hf sample rfl ha format hout hbase hk hmask (congrArg (BitVec.ofNat 32) cold) htoks))
  case drawn =>
    subst htoks
    exact congrArg Host.Outcome.next (perform_ok h rfl
      (runSample_of_drawn hj hf sample hsa ha format hout hbase hk hmask warm range hrt hcand))

end Sys2Proof.Machine

namespace Sys2Proof.Machine

open Sys2Proof

/-! SUPPORT. The issue unit: what each control instruction, dispatch and a replay's start make of a virtual core that may issue, what they
leave alone, and how control tokens and the switch of virtual cores act. -/

/-! ### An instruction that issues (R213, R233) -/

section Issue
variable {s : State} {v : VRef} {c : Ctx} {x y : Vcore} {w : Word64} {op : Nat → Bool} {f : State → Ctx → Vcore → Word64 → State}

/-- An instruction that replaces its virtual core completes with that. -/
theorem issueWith_of_putVc (h : Issues s v c x w) (hop : op (opOf w) = true) (hf : f s c x w = putVc s v y) :
    issueWith s v op f = putVc s v y := by
  rw [issueWith_of h hop, hf, trySave_putVc h]

/-- An instruction that waits leaves the state as it is. -/
theorem issueWith_of_wait (h : Issues s v c x w) (hop : op (opOf w) = true) (hf : f s c x w = s) : issueWith s v op f = s := by
  rw [issueWith_of h hop, hf, trySave_self h]

/-- A program fault is all that its instruction does: the context, stopped, has no save under way. -/
theorem issueWith_of_progFault (h : Issues s v c x w) (hop : op (opOf w) = true) {code : Nat} (hf : f s c x w = progFault s v x code) :
    issueWith s v op f = progFault s v x code := by
  obtain ⟨hc, hx, -, -, -, -, -, -, -, -, saving, -⟩ := id h
  rw [issueWith_of h hop, hf]
  refine trySave_of_not_saving fun d hd => ?_
  rw [progFault_of hc hx saving] at hd
  obtain rfl : _ = d := Option.some.inj ((State.ctx?_putCtx _ v.ctx _).symm.trans hd)
  exact saving

theorem kIndex_eq (x : Vcore) (i : Nat) : kIndex x i = BitVec.setWidth 64 (tgetD x.k i {}).index := BitVec.ofNat_toNat _ _

theorem fld_low32 (a : Word64) : fld a 31 0 = a.toNat % 2 ^ 32 := by simp [fld, bits]

theorem ofNat_fld_low32 (a : Word64) : BitVec.ofNat 32 (fld a 31 0) = BitVec.setWidth 32 a := by
  apply BitVec.eq_of_toNat_eq
  simp [fld_low32]

theorem wrsBytes_eq (w : Word64) : wrsBytes w = if immBits w 17 16 = 0 then 4 else if immBits w 17 16 = 1 then 6 else 8 := by
  unfold wrsBytes
  split <;> simp_all

theorem takeTwo_eq_some {a b : Word64} (h : takeTwo x w = some (a, b, y)) : ∃ t x1 u,
    takeSrc x (s1Of w) (selParam x (s1Of w)) = some (a, t, x1) ∧ takeSrc x1 (s2Of w) (selParam x (s2Of w)) = some (b, u, y) := by
  unfold takeTwo at h
  split at h
  · cases h
  · next a' t x1 h1 =>
    split at h
    · cases h
    · next b' u x2 h2 =>
      cases h
      exact ⟨t, x1, u, h1, h2⟩

end Issue

/-- Settles O3: each instruction is worked out from its sources, and issuing leaves what it makes of its virtual core. -/
theorem issueInstructionsComplete : Obligations.IssueInstructionsComplete := by
  refine ⟨fun s v c x w h => ⟨?nop, ?yield, ?skipped, ?passed⟩, fun s v c x w h => ⟨?pset, fun a b y two => ⟨?padd, ?pmad, ?cmp⟩⟩,
    fun s v c x w h => ⟨?wrs, ?push, ?full⟩⟩
  case nop => exact fun e => congrArg Host.Outcome.next (issueWith_of_putVc h (by simp [e]) rfl)
  case yield => exact fun e => congrArg Host.Outcome.next (issueWith_of_putVc h (by simp [e]) rfl)
  case skipped =>
    exact fun e hit => congrArg Host.Outcome.next (issueWith_of_putVc h (by simp [e]) (by simp [hit]))
  case passed =>
    exact fun e miss => congrArg Host.Outcome.next (issueWith_of_putVc h (by simp [e]) (by simp [miss]))
  case pset =>
    exact fun a t y e src => congrArg Host.Outcome.next (issueWith_of_putVc h (by simp [e]) (by simp only [src]; rfl))
  case padd => exact fun e => congrArg Host.Outcome.next (issueWith_of_putVc h (by simp [e]) (by simp only [two]; rfl))
  case pmad => exact fun e => congrArg Host.Outcome.next (issueWith_of_putVc h (by simp [e]) (by simp only [two, kIndex_eq]; rfl))
  case cmp => exact fun e => congrArg Host.Outcome.next (issueWith_of_putVc h (by simp [e]) (by simp only [two, kIndex_eq]; rfl))
  case wrs =>
    rintro a b y n e two rfl inside
    refine congrArg Host.Outcome.next (issueWith_of_putVc h (by simp [e]) ?_)
    simp only [two, wrsBytes_eq, if_neg (Nat.not_lt.2 inside), PMem.write_bytes]
    simp [clean, Function.comp_def]
  case push =>
    rintro a t y k z tok e src rfl room pushed
    refine congrArg Host.Outcome.next (issueWith_of_putVc h (by simp [e]) ?_)
    simp only [src, ofNat_fld_low32, room, pushed]
  case full =>
    rintro a t y tok e src rfl full
    refine congrArg Host.Outcome.next (issueWith_of_wait h (by simp [e]) ?_)
    simp only [src, ofNat_fld_low32, full]

/-! ### The end of a loop body, and what CALL, RET and END do (R233, R242, R244) -/

section Loops
variable {x : Vcore}

/-- With no counter active the next instruction follows. -/
theorem advance_of_no_counter (h : x.k = []) : advance x = { x with pos := { x.pos with idx := x.pos.idx + 1 }, stand := .inside } := by
  simp [advance, goTo, loopEnd, h]

variable {i : Nat} {k : Counter}

/-- At the end of the body of the one active counter, the body runs again while its count allows it. -/
theorem advance_of_loop_again (hk : x.k = [(i, k)]) (active : k.active = true) (depth : k.depth = x.rstack.length)
    (here : k.start + k.len = x.pos.idx + 1) (again : k.index.toNat + 1 < k.limit.toNat) :
    advance x = { x with k := [(i, { k with index := k.index + 1 })], pos := { x.pos with idx := k.start }, stand := .inside } := by
  simp [advance, goTo, loopEnd, hk, active, depth, here, again, tput]

/-- After its last run the counter is no longer active. -/
theorem advance_of_loop_over (hk : x.k = [(i, k)]) (active : k.active = true) (depth : k.depth = x.rstack.length)
    (here : k.start + k.len = x.pos.idx + 1) (last : k.limit.toNat ≤ k.index.toNat + 1) :
    advance x = { x with k := [], pos := { x.pos with idx := x.pos.idx + 1 }, stand := .inside } := by
  simp [advance, goTo, loopEnd, hk, active, depth, here, last, tdel]

end Loops

theorem takeSave_saving (c : Ctx) (vc : Nat) (x : Vcore) : (takeSave c vc x).saving = c.saving := by
  unfold takeSave
  split <;> rfl

/-- The queues that hold the results of a routine, each empty. -/
theorem resultQueues_all_empty {x : Vcore} : (List.range 4).all (fun i => (x.q (12 + i)).isEmpty) = true ↔ ∀ i < 4, x.q (12 + i) = [] := by
  simp only [List.all_eq_true, List.mem_range, List.isEmpty_iff]

/-- Settles O4: LOOP and the end of its body by the count, CALL and RET by the return stack, END by the save that it may take. -/
theorem loopCallReturnAndEnd : Obligations.LoopCallReturnAndEnd := by
  refine ⟨⟨?loop, ?bodyEnd, fun x free => advance_of_no_counter free⟩, fun s v c x w h => ⟨?call, ?ret, ?last⟩⟩
  case loop =>
    rintro s v c x w a t y count h e src hcount
    have counted : (if s1Of w = selNone then immBits w 23 15 else fld a 31 0) = count := by rw [hcount, fld_low32, selNone]
    refine ⟨fun zero => congrArg Host.Outcome.next (issueWith_of_putVc h (by simp [e]) ?_),
      fun positive => congrArg Host.Outcome.next (issueWith_of_putVc h (by simp [e]) ?_)⟩
    · simp only [src, counted, if_pos zero]
    · simp only [src, counted, if_neg positive]
  case bodyEnd =>
    exact fun x i k hk active depth here =>
      ⟨advance_of_loop_again hk active depth here, advance_of_loop_over hk active depth here⟩
  case call =>
    rintro a b y d t z e two src shallow empty body
    refine congrArg Host.Outcome.next (issueWith_of_putVc h (by simp [e]) ?_)
    have present : (routineBody s c (immBits w 8 0)).isNone = false := by simpa [Option.isSome_iff_ne_none] using body
    simp only [two, src, if_neg (Nat.not_le.2 shallow), resultQueues_all_empty.2 empty, present, Bool.not_true, Bool.false_eq_true, if_false]
    rfl
  case ret =>
    rintro p r e q14 q15 stack
    refine congrArg Host.Outcome.next (issueWith_of_putVc h (by simp [e]) ?_)
    simp only [q14, q15, stack, List.isEmpty_nil, Bool.and_self, Bool.not_true, Bool.false_eq_true, if_false, List.isEmpty_iff]
  case last =>
    intro e idle
    obtain ⟨hc, -, -, -, -, -, -, -, -, -, saving, -⟩ := id h
    refine congrArg Host.Outcome.next ((issueWith_of h (by simp [e]) _).trans ?_)
    simp only [idle, List.isEmpty_nil, Bool.not_true, Bool.false_eq_true, if_false]
    refine trySave_of_not_saving fun d hd => ?_
    rw [State.modCtx_of _ hc, State.ctx?_putCtx] at hd
    cases hd
    rw [takeSave_saving, saving]

/-! ### Program faults (R259, R262) -/

/-- What ISS_FAULT records of a fault of virtual core `v` (R262). -/
def faultRecord (v : VRef) (code idx : Nat) : Word64 :=
  BitVec.ofNat 64 (1 + code * 2 ^ 4 + v.ctx % 64 * 2 ^ 8 + 2 ^ 14 + idx % 2 ^ 16 * 2 ^ 16 + v.vc % 256 * 2 ^ 32)

/-- A record reads as valid, with its code. -/
theorem faultRecord_reads {code : Nat} (small : code < 16) (v : VRef) (idx : Nat) :
    (faultRecord v code idx).getLsbD 0 = true ∧ fld (faultRecord v code idx) 7 4 = code := by
  rw [getLsbD_eq_decide, fld_eq_div, faultRecord, BitVec.toNat_ofNat, decide_eq_true_eq]
  omega

/-- ISS_FAULT after a fault: what it recorded before stays. -/
theorem progFault_issFault {s : State} {v : VRef} {c : Ctx} {x : Vcore} (hc : s.ctx? v.ctx = some c) (hx : tget c.vcs v.vc = some x)
    (saving : c.saving = none) (code : Nat) :
    ((progFault s v x code).core x.core).issFault =
      if (s.core x.core).issFault.getLsbD 0 then (s.core x.core).issFault else faultRecord v code x.pos.idx := by
  rw [progFault_of hc hx saving, State.core_modCore, apply_ite Core.issFault]
  rfl

/-- Settles O5: each fault is raised where its instruction issues, and its record, event and stop are those of `progFault_of`. -/
theorem programFaultsStopTheContext : Obligations.ProgramFaultsStopTheContext := by
  intro s v c x w h
  refine ⟨?wrs, ?call, ?ret, ?fault⟩
  case wrs =>
    rintro a b y n e two rfl outside
    refine congrArg Host.Outcome.next (issueWith_of_progFault h (by simp [e]) ?_)
    simp only [two, wrsBytes_eq, if_pos outside]
  case call =>
    rintro a b y d t z e two src
    refine ⟨fun deep => ?_, fun shallow left => ?_, fun shallow empty absent => ?_⟩
    all_goals refine congrArg Host.Outcome.next (issueWith_of_progFault h (by simp [e]) ?_)
    · simp only [two, src, if_pos deep]
    · have left' : (List.range 4).all (fun i => (x.q (12 + i)).isEmpty) = false := by
        simpa [← Bool.not_eq_true, resultQueues_all_empty] using left
      simp only [two, src, if_neg (Nat.not_le.2 shallow), left', Bool.not_false, if_true]
    · simp only [two, src, if_neg (Nat.not_le.2 shallow), resultQueues_all_empty.2 empty, absent, Bool.not_true, Bool.false_eq_true,
        if_false, Option.isNone_none, if_true]
  case ret =>
    intro e left
    refine congrArg Host.Outcome.next (issueWith_of_progFault h (by simp [e]) ?_)
    have left' : ((x.q 14).isEmpty && (x.q 15).isEmpty) = false := by
      simpa [← Bool.not_eq_true, or_iff_not_imp_left] using left
    simp only [left', Bool.not_false, if_true]
  case fault =>
    intro code small
    obtain ⟨hc, hx, -, -, -, -, -, -, -, -, saving, -⟩ := id h
    obtain ⟨valid, recorded⟩ := faultRecord_reads small v x.pos.idx
    rw [progFault_issFault hc hx saving]
    refine ⟨?_, ?_, ?_, ?_, fun earlier => if_pos earlier, fun first => ?_⟩
    · rw [progFault_of hc hx saving]
      exact congrArg (Option.map Ctx.st) (State.ctx?_putCtx _ v.ctx _)
    · rw [progFault_of hc hx saving]
      rfl
    · rw [progFault_of hc hx saving]
      rfl
    · rw [progFault_of hc hx saving]
      rfl
    · rw [if_neg (by rw [first]; exact Bool.false_ne_true)]
      exact ⟨valid, recorded⟩

/-! ### What a control instruction leaves alone (R213, R233) -/

/-- `t` differs from `s` in virtual core `v` alone. -/
structure OnlyVc (v : VRef) (s t : State) : Prop where
  rest : t = { s with ctxs := t.ctxs }
  ctx : ∀ k, k ≠ v.ctx → t.ctx? k = s.ctx? k
  vc : ∀ u : VRef, u ≠ v → t.vc? u = s.vc? u

theorem OnlyVc.refl (v : VRef) (s : State) : OnlyVc v s s := ⟨rfl, fun _ _ => rfl, fun _ _ => rfl⟩

theorem OnlyVc.trans {v : VRef} {s t u : State} (h : OnlyVc v s t) (g : OnlyVc v t u) : OnlyVc v s u where
  rest := by rw [g.rest, h.rest]
  ctx := fun k hk => (g.ctx k hk).trans (h.ctx k hk)
  vc := fun w hw => (g.vc w hw).trans (h.vc w hw)

theorem putVc_onlyVc (s : State) (v : VRef) (y : Vcore) : OnlyVc v s (putVc s v y) where
  rest := by
    unfold putVc State.modVc State.modCtx
    split <;> rfl
  ctx := fun _ hk => State.ctx?_modCtx_ne _ _ hk
  vc := fun _ hu => putVc_vc?_ne hu y

/-- What a control instruction may make of a virtual core: parameter registers that `sets` names, comparators if it `compares`, and the
position, counters, queues and bank. -/
structure ControlStep (sets : Nat → Prop) (compares : Prop) (x y : Vcore) : Prop where
  rest : y = { x with bank := y.bank, p := y.p, k := y.k, cmp := y.cmp, pos := y.pos, queues := y.queues, arrivals := y.arrivals,
                      stand := y.stand, swapDue := y.swapDue }
  p : ∀ r, ¬ sets r → tget y.p r = tget x.p r
  cmp : ¬ compares → y.cmp = x.cmp

section ControlStep
variable {sets : Nat → Prop} {compares : Prop} {x y z : Vcore}

theorem ControlStep.refl (x : Vcore) : ControlStep sets compares x x := ⟨rfl, fun _ _ => rfl, fun _ => rfl⟩

theorem ControlStep.trans (h : ControlStep sets compares x y) (g : ControlStep sets compares y z) : ControlStep sets compares x z where
  rest := by rw [g.rest, h.rest]
  p := fun r hr => (g.p r hr).trans (h.p r hr)
  cmp := fun hc => (g.cmp hc).trans (h.cmp hc)

theorem swapped_step (x : Vcore) : ControlStep sets compares x (swapped x) := ⟨rfl, fun _ _ => rfl, fun _ => rfl⟩

theorem setQ_step (x : Vcore) (n : Nat) (l : List QSlot) : ControlStep sets compares x (x.setQ n l) := ⟨rfl, fun _ _ => rfl, fun _ => rfl⟩

theorem refillQ2_step (x : Vcore) : ControlStep sets compares x (refillQ2 x) := by
  unfold refillQ2
  split
  · exact .refl x
  · split
    · exact ⟨rfl, fun _ _ => rfl, fun _ => rfl⟩
    · exact .refl x

theorem popQ_step (x : Vcore) (n : Nat) : ControlStep sets compares x (popQ x n) := by
  unfold popQ
  dsimp only
  split
  · exact (setQ_step ..).trans (refillQ2_step _)
  · exact setQ_step ..

theorem takeSrc_step {sel : Nat} {p a : Word64} {t : Option Token} (h : takeSrc x sel p = some (a, t, y)) :
    ControlStep sets compares x y := by
  unfold takeSrc at h
  split at h
  · split at h
    · cases h
      exact popQ_step ..
    · cases h
  · split at h
    · split at h <;> cases h
      exact .refl x
    · split at h <;> cases h <;> exact .refl x

theorem takeTwo_step {w a b : Word64} (h : takeTwo x w = some (a, b, y)) : ControlStep sets compares x y := by
  obtain ⟨t, x1, u, first, second⟩ := takeTwo_eq_some h
  exact (takeSrc_step first).trans (takeSrc_step second)

theorem pushDst_step {d : Nat} {t : Token} (h : pushDst (some x) d t = some y) : ControlStep sets compares x y := by
  rw [pushDst, Option.bind_some] at h
  split at h
  · cases h
    exact .refl x
  · split at h <;> cases h
    exact setQ_step ..

/-- Tokens pushed into two destination queues. -/
theorem pushDst_twice_step {d e : Nat} {t : Token} (h : pushDst (pushDst (some x) d t) e t = some y) : ControlStep sets compares x y := by
  cases first : pushDst (some x) d t with
  | none =>
    rw [first] at h
    cases h
  | some z =>
    rw [first] at h
    exact (pushDst_step first).trans (pushDst_step h)

theorem loopEnd_step (fuel : Nat) (x : Vcore) : ControlStep sets compares x (loopEnd fuel x) := by
  induction fuel generalizing x with
  | zero => exact .refl x
  | succ fuel ih =>
    unfold loopEnd
    dsimp only
    split
    · exact .refl x
    · split
      · exact ⟨rfl, fun _ _ => rfl, fun _ => rfl⟩
      · next i _ _ _ =>
        have left : ControlStep sets compares x { x with k := tdel x.k i } := ⟨rfl, fun _ _ => rfl, fun _ => rfl⟩
        exact left.trans (ih _)

theorem goTo_step (x : Vcore) (i : Nat) : ControlStep sets compares x (goTo x i) := by
  have moved : ControlStep sets compares x { x with pos := { x.pos with idx := i }, stand := .inside } := ⟨rfl, fun _ _ => rfl, fun _ => rfl⟩
  exact moved.trans (loopEnd_step ..)

theorem advance_step (x : Vcore) : ControlStep sets compares x (advance x) := goTo_step ..

theorem setP_step {i : Nat} (named : sets i) (x : Vcore) (a : Word64) : ControlStep sets compares x (setP x i a) where
  rest := rfl
  p := fun _ hr => tget_tput_ne _ _ fun e => hr (e ▸ named)
  cmp := fun _ => rfl

theorem setCmp_step (named : compares) (x : Vcore) (b : BitVec 4) : ControlStep sets compares x { x with cmp := b } :=
  ⟨rfl, fun _ _ => rfl, fun no => absurd named no⟩

end ControlStep

section ControlFrame
variable {s : State} {v : VRef} {c : Ctx} {x : Vcore} {w : Word64} {op : Nat → Bool} {f : State → Ctx → Vcore → Word64 → State}
  {sets : Nat → Prop} {compares : Prop}

/-- What an instruction on the word `w` does: it waits, or it makes a control step of its virtual core. -/
def IsControl (v : VRef) (w : Word64) (sets : Nat → Prop) (compares : Prop) (f : State → Ctx → Vcore → Word64 → State) : Prop :=
  ∀ s c x, f s c x w = s ∨ ∃ y, f s c x w = putVc s v y ∧ ControlStep sets compares x y

/-- A control instruction with a save that falls due after it: there is none to take. -/
theorem trySave_control (hf : IsControl v w sets compares f) (hc : s.ctx? v.ctx = some c) (hx : tget c.vcs v.vc = some x)
    (saving : c.saving = none) :
    OnlyVc v s (trySave (f s c x w) v) ∧ ∃ y, (trySave (f s c x w) v).vc? v = some y ∧ ControlStep sets compares x y := by
  rcases hf s c x with e | ⟨y, e, step⟩
  · rw [e, trySave_of_not_saving fun d hd => by rw [hc] at hd; cases hd; exact saving]
    exact ⟨.refl v s, x, State.vc?_of s hc hx, .refl x⟩
  · rw [e, trySave_of_not_saving fun d hd => by rw [putVc_of hc hx, State.ctx?_putCtx] at hd; cases hd; exact saving]
    exact ⟨putVc_onlyVc s v y, y, putVc_vc? (State.vc?_of s hc hx) y, step⟩

/-- A control instruction changes its virtual core alone, by a control step, with a bank swap that may come first (R250). -/
theorem issueWith_control (hf : IsControl v w sets compares f) (hc : s.ctx? v.ctx = some c) (hx : tget c.vcs v.vc = some x)
    (saving : c.saving = none) (hw : nextWord s c v x = some w) :
    OnlyVc v s (issueWith s v op f) ∧ ∃ y, (issueWith s v op f).vc? v = some y ∧ ControlStep sets compares x y := by
  have found := State.vc?_of s hc hx
  rcases issueWith_cases hc hx hw op f with e | e | ⟨-, e⟩ | ⟨-, e⟩ <;> rw [e]
  · exact ⟨.refl v s, x, found, .refl x⟩
  · exact ⟨putVc_onlyVc s v _, _, putVc_vc? found _, swapped_step x⟩
  · exact trySave_control hf hc hx saving
  · have hc' : (putVc s v (swapped x)).ctx? v.ctx = some { c with vcs := tput c.vcs v.vc (swapped x) } := by
      rw [putVc_of hc hx, State.ctx?_putCtx]
    obtain ⟨only, y, hy, step⟩ := trySave_control hf hc' (tget_tput_same ..) saving
    exact ⟨(putVc_onlyVc ..).trans only, y, hy, (swapped_step x).trans step⟩

/-- Each control instruction but WRS, CALL, RET and END issues a control step: PSET, PADD and PMAD set the parameter register that IMM
names, CMP a comparator. -/
theorem control_issues {i : Instr}
    (hi : i ∈ [Instr.nop v, .skip v, .yield v, .pset v, .padd v, .pmad v, .cmp v, .push v, .loop v]) (w : Word64) :
    ∃ op f, (∀ s, exec i s = .next (issueWith s v op f)) ∧
      IsControl v w (fun r => i ∈ [Instr.pset v, .padd v, .pmad v] ∧ r = immBits w 5 0) (i = .cmp v) f := by
  simp only [List.mem_cons, List.not_mem_nil, or_false] at hi
  rcases hi with rfl | rfl | rfl | rfl | rfl | rfl | rfl | rfl | rfl
  all_goals refine ⟨_, _, fun _ => rfl, fun s c x => ?_⟩
  · exact .inr ⟨_, rfl, advance_step x⟩
  · refine .inr ⟨_, rfl, ?_⟩
    split
    · exact goTo_step ..
    · exact advance_step x
  · exact .inr ⟨_, rfl, (advance_step x).trans ⟨rfl, fun _ _ => rfl, fun _ => rfl⟩⟩
  · cases src : takeSrc x (s1Of w) (selParam x (s1Of w)) with
    | none => exact .inl rfl
    | some r => exact .inr ⟨_, rfl, (takeSrc_step src).trans ((setP_step ⟨by simp, rfl⟩ _ _).trans (advance_step _))⟩
  iterate 2
    · cases src : takeTwo x w with
      | none => exact .inl rfl
      | some r => exact .inr ⟨_, rfl, (takeTwo_step src).trans ((setP_step ⟨by simp, rfl⟩ _ _).trans (advance_step _))⟩
  · cases src : takeTwo x w with
    | none => exact .inl rfl
    | some r => exact .inr ⟨_, rfl, (takeTwo_step src).trans ((setCmp_step rfl _ _).trans (advance_step _))⟩
  · dsimp only
    split
    · exact .inl rfl
    · next src =>
      split
      · next pushed => exact .inr ⟨_, rfl, (takeSrc_step src).trans ((pushDst_twice_step pushed).trans (advance_step _))⟩
      · exact .inl rfl
  · cases src : takeSrc x (s1Of w) (selParam x (s1Of w)) with
    | none => exact .inl rfl
    | some r =>
      by_cases zero : (if s1Of w = selNone then immBits w 23 15 else fld r.1 31 0) = 0
      · exact .inr ⟨_, if_pos zero, (takeSrc_step src).trans (goTo_step ..)⟩
      · exact .inr ⟨_, if_neg zero, (takeSrc_step src).trans ⟨rfl, fun _ _ => rfl, fun _ => rfl⟩⟩

end ControlFrame

/-- Settles O6: each of these instructions issues a control step, and a step leaves alone what it does not name. -/
theorem controlInstructionFrame : Obligations.ControlInstructionFrame := by
  intro s t v c x w i hi hc hx saving hw ran
  obtain ⟨op, f, issues, control⟩ := control_issues hi w
  obtain rfl : issueWith s v op f = t := Host.Outcome.next.inj ((issues s).symm.trans ran)
  obtain ⟨⟨rest, ctx, vc⟩, y, hy, ⟨same, p, cmp⟩⟩ := issueWith_control (op := op) control hc hx saving hw
  refine ⟨rest, ctx, vc, y, hy, ?_⟩
  rw [same]
  exact ⟨rfl, rfl, rfl, rfl, rfl, rfl, rfl, p, cmp⟩

/-! ### A virtual core that exists, and its context -/

section Vc
variable {s : State} {v : VRef} {x : Vcore}

theorem vc?_eq_some : s.vc? v = some x ↔ ∃ c, s.ctx? v.ctx = some c ∧ tget c.vcs v.vc = some x := by
  rw [State.vc?, Option.bind_eq_some_iff]

/-- A change of a virtual core that exists replaces it. -/
theorem modVc_eq_putVc (h : s.vc? v = some x) (f : Vcore → Vcore) : s.modVc v f = putVc s v (f x) := by
  obtain ⟨c, hc, hx⟩ := vc?_eq_some.1 h
  rw [State.modVc_of _ hc hx, putVc_of hc hx]

theorem ctxPart_of {c : Ctx} (h : s.ctx? v.ctx = some c) : ctxPart s v.ctx = c.part := by
  simp only [ctxPart, h]

theorem ctxPart_putVc (h : s.vc? v = some x) (y : Vcore) : ctxPart (putVc s v y) v.ctx = ctxPart s v.ctx := by
  obtain ⟨c, hc, hx⟩ := vc?_eq_some.1 h
  rw [ctxPart_of hc, putVc_of hc hx, ctxPart_of (State.ctx?_putCtx ..)]

end Vc

/-! ### Dispatch (R223, R228) and the start of a replay (R240) -/

section Dispatch
variable {x : Vcore} {w : Word64}

theorem kIndex_toNat (x : Vcore) (i : Nat) : (kIndex x i).toNat = (tgetD x.k i {}).index.toNat := by
  rw [kIndex_eq, BitVec.toNat_setWidth]
  omega

/-- A unit whose queue is full has no room for its instruction. -/
theorem unitRoom_of_full {u : UnitId} (mine : inUnit u w = true)
    (full : 16 ≤ (x.ops.filter (fun o => o.phase == .queued && inUnit u o.word)).length) : unitRoom x w = false := by
  have listed : u ∈ allUnits := by cases u <;> decide
  rw [unitRoom, List.all_eq_false]
  exact ⟨u, listed, by simp [mine, full]⟩

end Dispatch

theorem strongest_eq_none {bs : List PByte} : strongest bs = none ↔ ∀ b ∈ bs, b.2 = none := by
  have fold : ∀ (l : List PByte) (a : Option Policy), l.foldl (fun a b => joinP a b.2) a = none ↔ a = none ∧ ∀ b ∈ l, b.2 = none := by
    intro l
    induction l with
    | nil => simp
    | cons b l ih =>
      intro a
      have both : joinP a b.2 = none ↔ a = none ∧ b.2 = none := by cases a <;> cases b.2 <;> simp [joinP]
      simp only [List.foldl_cons, ih, both, List.mem_cons, forall_eq_or_imp, and_assoc]
  exact (fold bs none).trans (and_iff_right rfl)

/-- A read that meets no poison meets none in its first bytes. -/
theorem strongest_devRead_mono {s : State} {da m n : Nat} (le : m ≤ n) (h : strongest (devRead s da n) = none) :
    strongest (devRead s da m) = none := by
  rw [strongest_eq_none] at h ⊢
  intro b hb
  obtain ⟨i, hi, rfl⟩ := List.getElem_of_mem hb
  have hm : i < m := by simpa [devRead, PMem.read] using hi
  have same : (devRead s da m)[i] = (devRead s da n)[i]'(by simp [devRead, PMem.read]; omega) := by simp [devRead, PMem.read]
  rw [same]
  exact h _ (List.getElem_mem _)

/-- The entries of a patch slot leave a virtual core on its core and slot. -/
theorem applyPatch_place (slot : Nat → Nat → Nat) (vc n e : Nat) (x : Vcore) :
    (applyPatch slot vc n e x).core = x.core ∧ (applyPatch slot vc n e x).slot = x.slot := by
  induction n generalizing e x with
  | zero => exact ⟨rfl, rfl⟩
  | succ n ih =>
    rw [applyPatch]
    refine ⟨(ih _ _).1.trans ?_, (ih _ _).2.trans ?_⟩ <;> repeat' split
    all_goals rfl

/-- A replay starts at the first Ululy, with comparators and counters cleared, on the core and slot of its virtual core (R240). -/
theorem startReplay_fields (c : Ctx) (vc : Nat) (x : Vcore) :
    startReplay c vc x = { x with queues := (startReplay c vc x).queues, cmp := 0, k := [], pos := {}, rstack := [], waitPatch := false,
                                  applied := true, stand := .inside } := by
  rw [startReplay]
  exact foldl_any (P := fun y : Vcore => y = { x with
      queues := y.queues, cmp := 0, k := [], pos := {}, rstack := [], waitPatch := false, applied := true, stand := .inside }) rfl
    (fun y t hy => by rw [pushQ, Vcore.setQ, hy])

theorem takeCore_keeps (s : State) (x : Vcore) : takeCore s x = { s with cores := (takeCore s x).cores } := by
  unfold takeCore
  split <;> rfl

/-- A core without a virtual core that issues goes to the one that starts. -/
theorem takeCore_issuing {s : State} {x : Vcore} (free : (s.core x.core).issuing = none) :
    ((takeCore s x).core x.core).issuing = some x.slot := by
  rw [takeCore, if_pos (by simp [free]), State.core_modCore]

/-- A replay that starts with virtual core `y`: the device memory, its context and its core alone have changed, and the core issues from its
slot where none issued (R240). -/
theorem replay_started {s u w : State} {v : VRef} {c : Ctx} {x y : Vcore} {slot : Nat → Nat → Nat} {n : Nat}
    (hy : y = startReplay c v.vc (applyPatch slot v.vc n 0 x)) (rest : u = { s with mem := u.mem, ctxs := u.ctxs })
    (there : u.vc? v = some y) (written : OnlyMem u w) :
    (takeCore w y).vc? v = some y ∧ y = startReplay c v.vc (applyPatch slot v.vc n 0 x) ∧
    y.waitPatch = false ∧ y.applied = true ∧ y.pos = {} ∧ y.k = [] ∧ y.cmp = 0 ∧ y.rstack = [] ∧
    (takeCore w y).fab = s.fab ∧ (takeCore w y).host = s.host ∧ (takeCore w y).parts = s.parts ∧
    ((s.core x.core).issuing = none → ((takeCore w y).core x.core).issuing = some x.slot) := by
  obtain ⟨core, place⟩ := applyPatch_place slot v.vc n 0 x
  have fields := startReplay_fields c v.vc (applyPatch slot v.vc n 0 x)
  have core' : y.core = x.core := by rw [hy, fields]; exact core
  have place' : y.slot = x.slot := by rw [hy, fields]; exact place
  refine ⟨?_, hy, by rw [hy, fields], by rw [hy, fields], by rw [hy, fields], by rw [hy, fields], by rw [hy, fields], by rw [hy, fields],
    ?_, ?_, ?_, fun free => ?_⟩
  · rw [takeCore_keeps, written]
    exact there
  · rw [takeCore_keeps, written, rest]
  · rw [takeCore_keeps, written, rest]
  · rw [takeCore_keeps, written, rest]
  · have same : w.core y.core = s.core x.core := by rw [core', written, rest]; rfl
    rw [← core', ← place']
    exact takeCore_issuing ((congrArg Core.issuing same).trans free)

/-- Settles O7: dispatch is worked out on the counter that IX names, a replay's start on the slot that it reads. -/
theorem dispatchAndReplayStart : Obligations.DispatchAndReplayStart := by
  refine ⟨fun s v c x w h unit room => ⟨?plain, ?indexed⟩, ?full, ?replay⟩
  case plain =>
    intro unscaled
    refine congrArg Host.Outcome.next (issueWith_of_putVc h (by simpa using unit) ?_)
    simp [room, unscaled]
  case indexed =>
    rintro k scaled rfl active
    refine congrArg Host.Outcome.next (issueWith_of_putVc h (by simpa using unit) ?_)
    simp only [room, active, Bool.not_true, Bool.false_eq_true, if_false, or_true, if_true, if_neg scaled, kIndex_toNat]
    rfl
  case full =>
    rintro s v c x w u h unit mine full
    exact congrArg Host.Outcome.next (issueWith_of_wait h (by simpa using unit) (by simp [unitRoom_of_full mine full]))
  case replay =>
    rintro s v c x da n hc hx running saving waits nohalt isol spare stopped run idle nocopy hda access wait latent hn clean
    have slot : patchAddr c x.replay = da := hda.symm
    have read : ∀ k m, m ≤ 16 + 16 * n → strongest (devRead (demand s (some v.ctx) da k) da m) = none := fun k m le => by
      rw [devRead_demand latent]
      exact strongest_devRead_mono le clean
    simp only [exec, execReplayStart, hc, State.vc?_of s hc hx, running, waits, nohalt, isol, spare, stopped, run, idle, saving, slot, nocopy,
      access, wait, Option.isSome_none, Option.isNone_none, Bool.not_false, and_self, if_true, Bool.false_eq_true, if_false, Bool.and_false,
      Nat.add_zero, ← hn, Bool.true_and]
    refine ⟨fun unready => ?_, fun valid own count entries => ?_⟩
    · simp only [unready, Bool.false_eq_true, if_false, Bool.not_false, if_true, read _ 16 (Nat.le_add_right ..)]
      obtain ⟨ls, found⟩ := demand_lines latent (some v.ctx) da 16
      exact ⟨_, rfl, by rw [found]; rfl⟩
    · have fine : ¬ (bits (devNat s da 8) 31 0 ≠ x.replay % 2 ^ 32 ∨
          ((List.range n).any fun e => decide (65 < devNat s (da + (16 + 16 * e + 2)) 1)) = true ∨ 1023 < n) := by
        simpa [own, count] using entries
      simp only [valid, if_true, Bool.not_true, Bool.false_eq_true, if_false, read _ _ le_rfl, if_neg fine]
      obtain ⟨ls, found⟩ := demand_lines latent (some v.ctx) da (16 + 16 * n)
      have hc' : (demand s (some v.ctx) da (16 + 16 * n)).ctx? v.ctx = some c := by rw [found]; exact hc
      rw [State.modCtx_of _ hc']
      generalize hu : State.putCtx _ v.ctx _ = u
      refine ⟨_, _, rfl, replay_started (u := u) rfl ?rest ?there ?written⟩
      case rest =>
        rw [← hu, found]
        rfl
      case there =>
        rw [← hu]
        exact State.vc?_of _ (State.ctx?_putCtx ..) (tget_tput_same ..)
      case written =>
        have latent' : u.mem.latent = [] := by
          rw [← hu, found]
          exact latent
        exact iteInduction (motive := OnlyMem u) (fun _ => devWrite_quiet latent' ..) (fun _ => .refl u)

/-! ### Control tokens and the switch of virtual cores (R220, R221, R248) -/

/-- Settles O8: each command is worked out on the virtual core or the slots that it finds. -/
theorem tokensNotificationsAndSwitching : Obligations.TokensNotificationsAndSwitching := by
  refine ⟨fun s v x hx => ⟨fun h r held room => ?token, fun h head => ?notify⟩, fun s n => ⟨?free, ?taken⟩⟩
  case token =>
    refine congrArg Host.Outcome.next ((modVc_eq_putVc hx _).trans ?_)
    simp only [held, room, if_true]
  case notify =>
    have posted : exec (.q1Notify v) s =
        .next (raiseCtx (putVc s v (popQ x 1)) 0x6201 v.ctx ((tokWord h).toNat + v.vc % 256 * 2 ^ 64)) := by
      refine congrArg Host.Outcome.next ?_
      simp only [hx, head]
    refine ⟨_, posted, putVc_vc? hx _, ?_, putVc_mem _, putVc_cores _⟩
    rw [raiseCtx, raise_raised, ctxPart_putVc hx, putVc_host, show (putVc s v (popQ x 1)).time = s.time from State.modVc_time ..]
    rfl
  case free =>
    intro p free found
    refine congrArg Host.Outcome.next ?_
    have any : (fun p : Nat × VRef => ready s p.2 && some p.1 != none) = fun p => ready s p.2 := funext fun p => Bool.and_true _
    simp only [free, any, found]
  case taken =>
    intro i v c x issuing slot hc hx
    refine ⟨fun p quiet due found => ?_, fun busy => ?_, fun running slice hears runs => ?_⟩
    all_goals refine congrArg Host.Outcome.next ?_
    · have ended : quiescent s c v x = true ∧ (c.st ≠ .running ∨
          (decide ((s.core n).took + fld (s.core n).issCtl 23 0 * 1000 ≤ s.now) || waits s c v x || haltStops s c v x) = true) := by
        simpa [or_assoc] using And.intro quiet due
      simp only [issuing, slot, hc, hx, if_pos ended, found]
    · simp [issuing, slot, hc, hx, busy]
    · simp [issuing, slot, hc, hx, running, hears, runs, slice]

/-! ### Operations start and complete (R218, R222, R232) -/

section Queues
variable {x : Vcore} {q a b : Nat} {t : Token} {l : List QSlot}

theorem q_setQ (x : Vcore) (q : Nat) (l : List QSlot) : (x.setQ q l).q q = l := by
  unfold Vcore.setQ Vcore.q
  split
  · next h => simp [tgetD, List.isEmpty_iff.1 h]
  · simp

theorem q_fillQ (x : Vcore) (q a : Nat) (t : Token) : (fillQ x q a t).q q = fillSlots a t (x.q q) := q_setQ ..

theorem length_fillSlots (a : Nat) (t : Token) (l : List QSlot) : (fillSlots a t l).length = l.length := by
  induction l with
  | nil => rfl
  | cons s l ih =>
    rw [fillSlots]
    split
    · rfl
    · simp [ih]

/-- The head is visible once its own operation has filled it. -/
theorem headTok_fillQ_same (h : x.q q = ⟨a, none⟩ :: l) : headTok (fillQ x q a t) q = some t := by
  simp [headTok, q_fillQ, h, fillSlots]

/-- A token of another operation does not fill the head. -/
theorem headTok_fillQ_ne (h : x.q q = ⟨a, none⟩ :: l) (ne : b ≠ a) : headTok (fillQ x q b t) q = none := by
  simp [headTok, q_fillQ, h, fillSlots, ne.symm]

end Queues

theorem destroyDone_of_not_destroying {s : State} {k : Nat} {c : Ctx} (hc : s.ctx? k = some c) (kept : c.destroying = none) :
    destroyDone s k = s := by
  simp [destroyDone, hc, kept]

/-- Settles O9: the start and the completion are worked out on the operation that they find, the queue on its head. -/
theorem operationsStartAndComplete : Obligations.OperationsStartAndComplete := by
  refine ⟨?start, ?complete, fun x q a b t l h =>
    ⟨headTok_fillQ_ne h, headTok_fillQ_same h, by rw [q_fillQ, length_fillSlots]⟩⟩
  case start =>
    rintro s v u x y z o a b d ts e hx found oldest awake going sources rfl ready room reserved
    refine congrArg Host.Outcome.next ?_
    have first : allUnits.all (fun w => !inUnit w o.word ||
        ((x.ops.find? (fun p => p.phase == .queued && inUnit w p.word)).map UOp.id == some o.id)) = true := by
      rw [List.all_eq_true]
      intro w hw
      cases mine : inUnit w o.word with
      | false => rfl
      | true => simp [oldest w hw mine]
    have full : (reserveDst (reserveDst (some x) (d1Of o.word) o.id) (d2Of o.word) o.id).isNone = false := by
      simpa [Option.isSome_iff_ne_none] using room
    simp only [startOp, hx, found, first, awake, going, sources, Bool.not_true, Bool.or_self, Bool.false_eq_true, if_false, full, reserved,
      Option.isSome_map]
    have inOrder : ¬ (!arrayReady x o) = true := by simp [ready]
    exact if_neg inOrder
  case complete =>
    rintro s v u c x o hc hx saving kept found
    refine congrArg Host.Outcome.next ?_
    simp only [completeOp, State.vc?_of s hc hx, found]
    have there : ∀ y, (putVc s v y).ctx? v.ctx = some { c with vcs := tput c.vcs v.vc y } := fun y => by
      rw [putVc_of hc hx, State.ctx?_putCtx]
    rw [trySave_of_not_saving fun d hd => by rw [there] at hd; cases hd; exact saving, destroyDone_of_not_destroying (there _) kept]

end Sys2Proof.Machine

namespace Sys2Proof.Machine

open Sys2Proof

/-! SUPPORT. Counterexamples to three statements: what has come to this module lands with a refused SEND, EXPORT with Z zeroes its buffer, and
a context's end completes a CGROUP_CLEAR of another member. -/

/-- A virtual core with the operation `o` and the buffers `l`. -/
def oneOp (o : UOp) (l : LaccSet := {}) : Vcore := { ops := [o], winSize := 4096, lacc := l }

/-- Context 0 of partition 0 with the virtual core `x`. The Safety Net takes no sample. -/
def oneVc (x : Vcore) : State :=
  { ctxs := [(0, { part := 0, vcs := [(0, x)] })], parts := [(0, { sn := { en := false } })] }

/-! ### A refused SEND (R222, R334) -/

/-- A SEND whose descriptor offset, 1, is no multiple of 64 (R229). -/
def misalignedSend : UOp := { id := 1, word := 0x13, s1 := 1, phase := .started }

/-- A module with that SEND, to which a flit has just been delivered. -/
def sendState : State := (oneVc (oneOp misalignedSend)).modFab (fun b => { b with arrived := [(none, 0)] })

/-- Refutes O10: SEND, though refused, takes what has come to this module (R334), where the statement leaves nothing but the refusal. -/
theorem not_unitOperationOutcomes : ¬ Obligations.UnitOperationOutcomes := by
  rintro ⟨outcomes, -⟩
  have started : OpStarted sendState ⟨0, 0⟩ (oneOp misalignedSend) 0x13 misalignedSend := by decide +kernel
  obtain ⟨-, refused, -⟩ := outcomes ⟨0, 0⟩ (.send ⟨0, 0⟩) 0x13 runSend (by simp) sendState _ _ started
  have kept := congrArg (fun t => t.fab.arrived) (Host.Outcome.next.inj (refused 0x1002 0 rfl))
  exact absurd kept (by decide +kernel)

/-! ### EXPORT with Z (R92, R234) -/

/-- EXPORT with Z from buffer A0 to window offset 0. -/
def zeroingExport : UOp := { id := 1, word := BitVec.ofNat 64 (0x24 + 2 ^ 3 * 2 ^ 40), phase := .started }

/-- Buffers of which A0 holds data. -/
def filledLacc : LaccSet := { a0 := { data := true, m := 1, n := 1 } }

/-- The module with that EXPORT and those buffers. -/
def exportState : State := oneVc (oneOp zeroingExport filledLacc)

/-- Refutes O11: EXPORT with Z zeroes its buffer first (R234), where the statement has EXPORT leave the buffers as they are. -/
theorem not_unitOperationFrame : ¬ Obligations.UnitOperationFrame := by
  intro frame
  have started : OpStarted exportState ⟨0, 0⟩ (oneOp zeroingExport filledLacc) 0x24 zeroingExport := by
    decide +kernel
  have ran := runExport_of_leaving (s := exportState) (v := ⟨0, 0⟩) (n := ctxPart exportState 0)
    (x := unitView (oneOp zeroingExport filledLacc) zeroingExport) (o := zeroingExport) (b := {}) (by decide +kernel) (by rfl)
    (by decide +kernel) (off := 0) (by decide +kernel) (by decide +kernel)
  obtain ⟨-, -, -, -, -, -, y, there, -, -, -, -, -, -, lacc, -⟩ := frame ⟨0, 0⟩ (.export_ ⟨0, 0⟩) 0x24 runExport (by simp) _
    (perform exportState ⟨0, 0⟩ 0x24 runExport) _ _ _ started ran
    ⟨congrArg Host.Outcome.next (if_neg (by decide)).symm, .inl (by decide)⟩
  have kept : ((perform exportState ⟨0, 0⟩ 0x24 runExport).vc? ⟨0, 0⟩).map Vcore.lacc = some filledLacc := by
    rw [there]
    exact congrArg some (lacc (.inr (.inr rfl)))
  exact absurd kept (by decide +kernel)

/-! ### CTX_DESTROY and a group that waits for it (R382, R385) -/

/-- CTX_DESTROY of context 0. -/
def destroyEntry : Entry := BitVec.ofNat 512 0x7002

/-- Context 0 takes part in the only collective of group 0, which another member's CGROUP_CLEAR is waiting for; PF0 asks to destroy the
context. -/
def clearingState : State :=
  { oneVc (oneOp { id := 1, word := 0x14, phase := .performed, held := true }) with
    mgmt := { fwstate := 2, bootrom := false, ready := true }
    host := { fns := [(0, { chans := [(0, { rings := [(0, { fetched := [destroyEntry] })] })] })] }
    fab := { groups := [(0, { owner := 0, rank := 0, members := [(0, 0, 0)], clearing := some (.remote 1 0) })]
             colls := [{ v := ⟨0, 0⟩, op := 1, group := 0, desc := 0, step := 0, attempt := 0, rank := 0, size := 0 }] } }

/-- Refutes O52: with the context its group's last collective goes, and the CGROUP_CLEAR that waited for it completes with a message to its
sender (R382), where the statement has CTX_DESTROY send nothing. -/
theorem not_contextCommandsTakeEffect : ¬ Obligations.ContextCommandsTakeEffect := by
  intro commands
  obtain ⟨destroys, -⟩ := commands clearingState (setRunning clearingState (.ring 0 0 0)) (.ring 0 0 0) destroyEntry 0 0
    { part := 0, vcs := [(0, oneOp { id := 1, word := 0x14, phase := .performed, held := true })] }
    rfl (by decide +kernel) (by decide +kernel) (by decide +kernel) rfl rfl
  obtain ⟨t, ran, -, -, -, sent⟩ := (destroys (by decide +kernel)).1 (by decide +kernel)
  have silent : (runCmd cmdCtxDestroy (.ring 0 0 0) destroyEntry clearingState).fab.out = [] :=
    (congrArg (fun u : State => u.fab.out) (Host.Outcome.next.inj ran)).trans sent
  exact absurd silent (by decide +kernel)

end Sys2Proof.Machine

namespace Sys2Proof.Machine

open Sys2Proof

/-! SUPPORT. The invariant, command by command. -/

/-- Every command keeps the invariant, whichever it is. -/
theorem exec_ok {s : State} (hs : StateOk s) : ∀ i : Instr, OutOk (exec i s)
  | .nop v => execNop_ok v hs
  | .end_ v => execEnd_ok v hs
  | .call v => execCall_ok v hs
  | .ret v => execRet_ok v hs
  | .loop v => execLoop_ok v hs
  | .cmp v => execCmp_ok v hs
  | .skip v => execSkip_ok v hs
  | .yield v => execYield_ok v hs
  | .pset v => execPset_ok v hs
  | .padd v => execPadd_ok v hs
  | .pmad v => execPmad_ok v hs
  | .wrs v => execWrs_ok v hs
  | .push v => execPush_ok v hs
  | .load v => execLoad_ok v hs
  | .gather v => execGather_ok v hs
  | .store v => execStore_ok v hs
  | .send v => execSend_ok v hs
  | .coll v => execColl_ok v hs
  | .zero v => execZero_ok v hs
  | .acc v => execAcc_ok v hs
  | .twin v => execTwin_ok v hs
  | .convert v => execConvert_ok v hs
  | .export_ v => execExport_ok v hs
  | .import_ v => execImport_ok v hs
  | .swap v => execSwap_ok v hs
  | .cvt v => execCvt_ok v hs
  | .vwait v => execVwait_ok v hs
  | .vop v => execVop_ok v hs
  | .vred v => execVred_ok v hs
  | .vmm v => execVmm_ok v hs
  | .vnorm v => execVnorm_ok v hs
  | .drop v => execDrop_ok v hs
  | .init v => execInit_ok v hs
  | .sample v => execSample_ok v hs
  | .instructionDispatch v => execInstructionDispatch_ok v hs
  | .operationStart v u => execOperationStart_ok v u hs
  | .operationComplete v u => execOperationComplete_ok v u hs
  | .replayStart v => execReplayStart_ok v hs
  | .controlTokenHeldDeliver v => execControlTokenHeldDeliver_ok v hs
  | .q1Notify v => execQ1Notify_ok v hs
  | .virtualCoreSwitch core => execVirtualCoreSwitch_ok core hs
  | .gsrTaggedUpdate => execGsrTaggedUpdate_ok hs
  | .tsrTaggedMax => execTsrTaggedMax_ok hs
  | .groupVerdict => execGroupVerdict_ok hs
  | .telemetryFlush part => execTelemetryFlush_ok part hs
  | .normGate part => execNormGate_ok part hs
  | .updatePass cluster => execUpdatePass_ok cluster hs
  | .layerArm part layer => execLayerArm_ok part layer hs
  | .pcSnapshot part layer => execPcSnapshot_ok part layer hs
  | .pcRefreshSlice part layer => execPcRefreshSlice_ok part layer hs
  | .memberReady part => execMemberReady_ok part hs
  | .readyReceive part m step attempt => execReadyReceive_ok part m step attempt hs
  | .abortReceive part m step attempt reason => execAbortReceive_ok part m step attempt reason hs
  | .commitReceive part step attempt tc => execCommitReceive_ok part step attempt tc hs
  | .commitFlip part => execCommitFlip_ok part hs
  | .commitTimeout part => execCommitTimeout_ok part hs
  | .attemptAbandon part reason => execAttemptAbandon_ok part reason hs
  | .resumeReceive part m step attempt => execResumeReceive_ok part m step attempt hs
  | .attemptOpen part => execAttemptOpen_ok part hs
  | .gradDeadline part => execGradDeadline_ok part hs
  | .regionClear region => execRegionClear_ok region hs
  | .patrolScrub granule fault => execPatrolScrub_ok granule fault hs
  | .partTempSample p temp => execPartTempSample_ok p temp hs
  | .pantryModeChange hinted => execPantryModeChange_ok hinted hs
  | .laneFail link lane => execLaneFail_ok link lane hs
  | .laserFail engine laser => execLaserFail_ok engine laser hs
  | .linkDown link => execLinkDown_ok link hs
  | .linkTrain link peer => execLinkTrain_ok link peer hs
  | .linkTrainTimeout link => execLinkTrainTimeout_ok link hs
  | .flitReceive link flit => execFlitReceive_ok link flit hs
  | .ackTimer link => execAckTimer_ok link hs
  | .linkListReceive dev links => execLinkListReceive_ok dev links hs
  | .leaderElect => execLeaderElect_ok hs
  | .routesInstall routes mcast upstream => execRoutesInstall_ok routes mcast upstream hs
  | .podUp members pt => execPodUp_ok members pt hs
  | .discoveryTimeout => execDiscoveryTimeout_ok hs
  | .memberLost dev => execMemberLost_ok dev hs
  | .starterRestoreLanded part rec => execStarterRestoreLanded_ok part rec hs
  | .timeExchange offset => execTimeExchange_ok offset hs
  | .holdoverTimeout => execHoldoverTimeout_ok hs
  | .ptSyncEdge => execPtSyncEdge_ok hs
  | .ptRefLoss => execPtRefLoss_ok hs
  | .beatMark => execBeatMark_ok hs
  | .beatChange period origin beat => execBeatChange_ok period origin beat hs
  | .ptAlarm k => execPtAlarm_ok k hs
  | .sendArrival m => execSendArrival_ok m hs
  | .sendAck msgid refused => execSendAck_ok msgid refused hs
  | .sendTimeout msgid => execSendTimeout_ok msgid hs
  | .collArrival v m => execCollArrival_ok v m hs
  | .normsumPartial v rank t nonfin ovr => execNormsumPartial_ok v rank t nonfin ovr hs
  | .starterReceive f => execStarterReceive_ok f hs
  | .starterConfirm step => execStarterConfirm_ok step hs
  | .mgmtMessage slot m => execMgmtMessage_ok slot m hs
  | .commandDoorbell fn ch r value => execCommandDoorbell_ok fn ch r value hs
  | .commandFetch fn ch r bad => execCommandFetch_ok fn ch r bad hs
  | .completionPost fn ch r => execCompletionPost_ok fn ch r hs
  | .completionDoorbell fn ch r value => execCompletionDoorbell_ok fn ch r value hs
  | .eventDoorbell fn ch value => execEventDoorbell_ok fn ch value hs
  | .eventPost => execEventPost_ok hs
  | .msixModerationExpiry fn vector => execMsixModerationExpiry_ok fn vector hs
  | .ringEnable fn ch r en => execRingEnable_ok fn ch r en hs
  | .channelReset fn ch => execChannelReset_ok fn ch hs
  | .bar2Access fn a => execBar2Access_ok fn a hs
  | .registerWrite fn offset size value => execRegisterWrite_ok fn offset size value hs
  | .rngToutRead fn core hi => execRngToutRead_ok fn core hi hs
  | .flr fn => execFlr_ok fn hs
  | .perstOrHotReset perst => execPerstOrHotReset_ok perst hs
  | .vfEnableClear => execVfEnableClear_ok hs
  | .busMasterEnable fn => execBusMasterEnable_ok fn hs
  | .d3hotEntry fn => execD3hotEntry_ok fn hs
  | .identify o e => execIdentify_ok o e hs
  | .eventMask o e => execEventMask_ok o e hs
  | .partCreate o e => execPartCreate_ok o e hs
  | .partResize o e => execPartResize_ok o e hs
  | .partRemove o e => execPartRemove_ok o e hs
  | .partQuery o e => execPartQuery_ok o e hs
  | .cfgSwap o e => execCfgSwap_ok o e hs
  | .cfgCopy o e => execCfgCopy_ok o e hs
  | .fwStage o e => execFwStage_ok o e hs
  | .fwActivate o e => execFwActivate_ok o e hs
  | .fwQuery o e => execFwQuery_ok o e hs
  | .regionSet o e => execRegionSet_ok o e hs
  | .regionQuery o e => execRegionQuery_ok o e hs
  | .pantryShare o e => execPantryShare_ok o e hs
  | .hostCopy o e => execHostCopy_ok o e hs
  | .linkCtlCommand o e => execLinkCtlCommand_ok o e hs
  | .retrain link => execRetrain_ok link hs
  | .fabricSet o e => execFabricSet_ok o e hs
  | .ptSet o e => execPtSet_ok o e hs
  | .cgroupSet o e => execCgroupSet_ok o e hs
  | .cgroupClear o e => execCgroupClear_ok o e hs
  | .starterRecv o e => execStarterRecv_ok o e hs
  | .starterSet o e => execStarterSet_ok o e hs
  | .reset o e => execReset_ok o e hs
  | .snetSet o e => execSnetSet_ok o e hs
  | .repairQuery o e => execRepairQuery_ok o e hs
  | .fieldTest o e => execFieldTest_ok o e hs
  | .diagRead o e => execDiagRead_ok o e hs
  | .powerState o e => execPowerState_ok o e hs
  | .partIdle o e => execPartIdle_ok o e hs
  | .sensorRead o e => execSensorRead_ok o e hs
  | .powerCap o e => execPowerCap_ok o e hs
  | .ctxCreate o e => execCtxCreate_ok o e hs
  | .ctxDestroy o e => execCtxDestroy_ok o e hs
  | .ctxSave o e => execCtxSave_ok o e hs
  | .ctxRestore o e => execCtxRestore_ok o e hs
  | .ctxSetp o e => execCtxSetp_ok o e hs
  | .routineQuery o e => execRoutineQuery_ok o e hs
  | .ctxQuery o e => execCtxQuery_ok o e hs
  | .ctxRun o e => execCtxRun_ok o e hs
  | .release fn part => execRelease_ok fn part hs
  | .abandon fn part => execAbandon_ok fn part hs
  | .setEndpointId eid => execSetEndpointId_ok eid hs
  | .getEndpointId => execGetEndpointId_ok hs
  | .getEndpointUuid => execGetEndpointUuid_ok hs
  | .getMctpVersionSupport messageType => execGetMctpVersionSupport_ok messageType hs
  | .getMessageTypeSupport => execGetMessageTypeSupport_ok hs
  | .getVendorDefinedMessageSupport selector => execGetVendorDefinedMessageSupport_ok selector hs
  | .vendorDefinedMessage e => execVendorDefinedMessage_ok e hs
  | .getTid => execGetTid_ok hs
  | .setTid tid => execSetTid_ok tid hs
  | .getPldmVersion pldmType => execGetPldmVersion_ok pldmType hs
  | .getPldmTypes => execGetPldmTypes_ok hs
  | .getPldmCommands pldmType => execGetPldmCommands_ok pldmType hs
  | .getPdrRepositoryInfo => execGetPdrRepositoryInfo_ok hs
  | .getPdr handle => execGetPdr_ok handle hs
  | .getSensorReading sensor => execGetSensorReading_ok sensor hs
  | .getStateSensorReadings sensor => execGetStateSensorReadings_ok sensor hs
  | .setEventReceiver eid => execSetEventReceiver_ok eid hs
  | .pldmFirmwareUpdate c => execPldmFirmwareUpdate_ok c hs
  | .activateFirmware selfContained => execActivateFirmware_ok selfContained hs
  | .residueCheckpoint core m => execResidueCheckpoint_ok core m hs
  | .parityError core source slot => execParityError_ok core source slot hs
  | .checkStart => execCheckStart_ok hs
  | .checkCompare id r => execCheckCompare_ok id r hs
  | .ringmasterFailover => execRingmasterFailover_ok hs
  | .watchdogExpiry w => execWatchdogExpiry_ok w hs
  | .scopeReset scope target failed => execScopeReset_ok scope target failed hs
  | .computeResetFail => execComputeResetFail_ok hs
  | .deviceReset => execDeviceReset_ok hs
  | .alwaysOnRestart bootCore => execAlwaysOnRestart_ok bootCore hs
  | .isolationReplay core ctx r => execIsolationReplay_ok core ctx r hs
  | .contextRecovery ctx => execContextRecovery_ok ctx hs
  | .inputOutOfRange mv => execInputOutOfRange_ok mv hs
  | .vcoreWarning die mv => execVcoreWarning_ok die mv hs
  | .vcoreRecover die => execVcoreRecover_ok die hs
  | .vcoreDipTimeout die => execVcoreDipTimeout_ok die hs
  | .vcoreResetLevel die mv => execVcoreResetLevel_ok die mv hs
  | .powerCapTick watts => execPowerCapTick_ok watts hs
  | .dieTempWarning die temp => execDieTempWarning_ok die temp hs
  | .thermalTrip die => execThermalTrip_ok die hs
  | .coolantAlarm sensor milli => execCoolantAlarm_ok sensor milli hs
  | .stateChangeComplete => execStateChangeComplete_ok hs
  | .wake source => execWake_ok source hs
  | .carouselSample readings => execCarouselSample_ok readings hs
  | .coldStart c => execColdStart_ok c hs
  | .idcode => execIdcode_ok hs
  | .samplePreload preload => execSamplePreload_ok preload hs
  | .extest => execExtest_ok hs
  | .clamp => execClamp_ok hs
  | .highz => execHighz_ok hs
  | .dbgChain => execDbgChain_ok hs
  | .obsSelect sel => execObsSelect_ok sel hs
  | .bypass code => execBypass_ok code hs
  | .obsSelWrite fn sel => execObsSelWrite_ok fn sel hs
  | .ptRefReturn => execPtRefReturn_ok hs
  | .openReceive part step attempt topen => execOpenReceive_ok part step attempt topen hs
  | .returnToD0 fn => execReturnToD0_ok fn hs
  | .perstDeassert => execPerstDeassert_ok hs
  | .linkWakePulse link => execLinkWakePulse_ok link hs
  | .routeSummaryReceive pod trunk devices => execRouteSummaryReceive_ok pod trunk devices hs

/-- Settles O60: an idle nanosecond moves the clocks alone, and the command at the front of the queue keeps what its own meaning keeps. -/
theorem everyStepKeepsTheInvariant : Obligations.EveryStepKeepsTheInvariant := by
  unfold Obligations.EveryStepKeepsTheInvariant
  intro s t hs ran
  unfold step at ran
  split at ran
  case h_1 idle => exact next_ok (tick_ok hs) t ran
  case h_2 c rest queue => exact exec_ok (mk_same_ok hs) c t ran

end Sys2Proof.Machine

namespace Sys2Proof.Machine

open Sys2Proof

/-! SUPPORT. Region entries, fences, and what a write of device memory and REGION_CLEAR leave. -/

/-! ### Region entries (R265) -/

/-- A table in which an entry has been written, an all-zero one by taking it away. -/
theorem tgetD_written (t : Tab Word64) (a : Nat) (e : Word64) (r : Nat) :
    tgetD (if e = 0 then tdel t a else tput t a e) r 0 = if r = a then e else tgetD t r 0 := by
  by_cases same : r = a
  · subst same
    rw [if_pos rfl]
    split
    · next zero => rw [tgetD, tget_tdel_same, zero, Option.getD_none]
    · exact tgetD_tput_same ..
  · rw [if_neg same]
    split
    · rw [tgetD, tget_tdel_ne _ same, tgetD]
    · exact tgetD_tput_ne _ _ _ same

section Entries
variable (s : State) (r : Nat) (e : Word64)

theorem entry_putEntry (q : Nat) : entry (putEntry s r e) q = if q = r then e else entry s q := tgetD_written ..

/-- An entry reads as it was written. -/
@[simp] theorem entry_putEntry_same : entry (putEntry s r e) r = e := by rw [entry_putEntry, if_pos rfl]
theorem entry_putEntry_ne {q : Nat} (h : q ≠ r) : entry (putEntry s r e) q = entry s q := by rw [entry_putEntry, if_neg h]

/-- POISONED set: hint and interleave mode stay (R287). -/
theorem poisoned_fields : rePhint (setFld e 19 19 1) = rePhint e ∧ reIl (setFld e 19 19 1) = reIl e ∧ rePoisoned (setFld e 19 19 1) = true := by
  have bound := e.isLt
  simp only [rePhint, reIl, rePoisoned, getLsbD_eq_decide, fld_eq_div, setFld, setBits, bits, Nat.shiftRight_eq_div_pow, BitVec.toNat_ofNat,
    decide_eq_true_eq]
  omega

/-- ZEROING and POISONED clear: the writable bits below them stay (R271). -/
theorem zeroed_fields :
    fld (setFld e 19 18 0) 17 0 = fld e 17 0 ∧ reZeroing (setFld e 19 18 0) = false ∧ rePoisoned (setFld e 19 18 0) = false := by
  have bound := e.isLt
  simp only [reZeroing, rePoisoned, getLsbD_eq_decide, fld_eq_div, setFld, setBits, bits, Nat.shiftRight_eq_div_pow, BitVec.toNat_ofNat,
    decide_eq_false_iff_not]
  omega

end Entries

/-! ### Fences (R297) -/

/-- The fences of the parts, and what decides in which part an address lies, are in `t` as in `s`. -/
structure SameFences (s t : State) : Prop where
  phint : ∀ r, rePhint (entry t r) = rePhint (entry s r)
  il : ∀ r, reIl (entry t r) = reIl (entry s r)
  fenced : ∀ p, (t.memPart p).fenced = (s.memPart p).fenced

section Fences
variable {s t : State}

theorem SameFences.refl (s : State) : SameFences s s := ⟨fun _ => rfl, fun _ => rfl, fun _ => rfl⟩
theorem SameFences.trans {u : State} (h : SameFences s t) (g : SameFences t u) : SameFences s u :=
  ⟨fun r => (g.phint r).trans (h.phint r), fun r => (g.il r).trans (h.il r), fun p => (g.fenced p).trans (h.fenced p)⟩
theorem SameFences.of_eq (region : t.mem.region = s.mem.region) (parts : t.mem.parts = s.mem.parts) : SameFences s t := by
  refine ⟨fun r => ?_, fun r => ?_, fun p => ?_⟩ <;> simp only [entry, State.memPart, region, parts]
theorem SameFences.fencedAt (h : SameFences s t) (da : Nat) : fencedAt t da = fencedAt s da := by
  simp only [Machine.fencedAt, homePart, h.phint, h.il, h.fenced]

theorem modMem_sameFences (s : State) {f : MemSys → MemSys} (region : ∀ m, (f m).region = m.region) (parts : ∀ m, (f m).parts = m.parts) :
    SameFences s (s.modMem f) := .of_eq (region _) (parts _)
theorem raise_sameFences (s : State) (code : Nat) (p k : Option Nat) (d : Nat) : SameFences s (raise s code p k d) := .of_eq rfl rfl
theorem modMemPart_sameFences (s : State) (p : Nat) {f : MemPart → MemPart} (hf : ∀ m, (f m).fenced = m.fenced) :
    SameFences s (s.modMemPart p f) := by
  refine ⟨fun _ => rfl, fun _ => rfl, fun q => ?_⟩
  by_cases h : q = p
  · rw [h, State.memPart_modMemPart, hf]
  · simp [State.memPart, State.modMemPart, tgetD_tmod_ne _ _ _ h]

theorem putEntry_sameFences {r : Nat} {e : Word64} (phint : rePhint e = rePhint (entry s r)) (il : reIl e = reIl (entry s r)) :
    SameFences s (putEntry s r e) := by
  refine ⟨fun q => ?_, fun q => ?_, fun _ => rfl⟩
  all_goals
    by_cases h : q = r
    · rwa [h, entry_putEntry_same]
    · rw [entry_putEntry_ne _ _ _ h]

theorem countCorrected_sameFences (s : State) (part da r : Nat) : SameFences s (countCorrected s part da r) := by
  unfold countCorrected
  extract_lets counted
  have count : SameFences s counted := by
    unfold counted
    split
    · exact modMemPart_sameFences s part fun _ => rfl
    · exact .refl s
  split
  · exact count.trans ((raise_sameFences ..).trans (modMemPart_sameFences _ part fun _ => rfl))
  · exact count

theorem recordUe_sameFences (s : State) (k : Option Nat) (da part : Nat) : SameFences s (recordUe s k da part) := by
  unfold recordUe
  split
  · exact .refl s
  · exact modMem_sameFences s (fun _ => rfl) fun _ => rfl

theorem takeUncorrectable_sameFences (s : State) (k : Option Nat) (g part : Nat) : SameFences s (takeUncorrectable s k g part) := by
  unfold takeUncorrectable
  extract_lets da r e poisoned marked counted
  have poison : SameFences s poisoned := modMem_sameFences s (fun _ => rfl) fun _ => rfl
  have mark : SameFences poisoned marked :=
    have fields := poisoned_fields (entry poisoned r)
    putEntry_sameFences fields.1 fields.2.1
  have count : SameFences marked counted := by
    unfold counted
    split
    · exact modMemPart_sameFences _ part fun _ => rfl
    · exact .refl _
  exact (poison.trans mark).trans (count.trans ((recordUe_sameFences ..).trans (raise_sameFences ..)))

theorem discover1_sameFences (s : State) (k : Option Nat) (g : Nat) : SameFences s (discover1 s k g) := by
  unfold discover1
  split
  · exact .refl s
  · extract_lets e pan part ecc found
    have gone : SameFences s found := modMem_sameFences s (fun _ => rfl) fun _ => rfl
    split
    · exact .refl s
    · split
      · exact gone.trans (countCorrected_sameFences ..)
      · exact gone.trans (takeUncorrectable_sameFences ..)

theorem discover_sameFences (s : State) (k : Option Nat) (da n : Nat) : SameFences s (discover s k da n) :=
  foldl_any (P := SameFences s) (.refl s) fun t g h => h.trans (discover1_sameFences t k g)

theorem pantryWrite1_sameFences (s : State) (hint ln da : Nat) (bs : List PByte) : SameFences s (pantryWrite1 s hint ln da bs) := by
  unfold pantryWrite1
  dsimp only
  split
  · exact modMem_sameFences s (fun _ => rfl) fun _ => rfl
  · split
    · exact modMem_sameFences s (fun _ => rfl) fun _ => rfl
    · exact (discover_sameFences ..).trans (modMem_sameFences _ (fun _ => rfl) fun _ => rfl)

theorem devWriteRun_sameFences (s : State) (hint da : Nat) (bs : List PByte) : SameFences s (devWriteRun s hint da bs) := by
  unfold devWriteRun
  split
  · exact .refl s
  · exact (pantryWrite1_sameFences ..).trans (.of_eq rfl rfl)

end Fences

/-! ### A write of device memory (R267, R297) -/

section Write
variable {s : State}

/-- Where its part is not fenced, a run puts its bytes into device memory. -/
theorem devWriteRun_bytes (hint : Nat) {da : Nat} (bs : List PByte) (h : fencedAt s da = false) :
    (devWriteRun s hint da bs).mem.bytes = memPutAll s.mem.bytes da (bs.map Prod.fst) := by
  rw [devWriteRun, h]
  exact congrArg (memPutAll · da (bs.map Prod.fst)) (pantryWrite1_keep ..).1

theorem devWriteRun_wf (hw : Memory.wf s.mem.bytes = true) (hint da : Nat) (bs : List PByte) :
    Memory.wf (devWriteRun s hint da bs).mem.bytes = true := by
  cases h : fencedAt s da with
  | true => rw [devWriteRun, h]; exact hw
  | false => rw [devWriteRun_bytes hint bs h]; exact memPutAll_wf _ _ hw

theorem devWriteGo_out (s : State) (hint k da x : Nat) (bs : List PByte) (h : x < da ∨ da + bs.length ≤ x) :
    memGet (devWriteGo s hint k da bs).mem.bytes x = memGet s.mem.bytes x := by
  induction k generalizing s da bs with
  | zero => rfl
  | succ k ih =>
    rw [devWriteGo, ih _ _ _ (by rw [List.length_drop]; omega), devWriteRun_out _ _ _ _ _ (by rw [List.length_take]; omega)]

/-- With fuel for every granule that the range touches, each of its bytes reads as written. -/
theorem devWriteGo_in (hint k da : Nat) (bs : List PByte) (hw : Memory.wf s.mem.bytes = true) (fuel : da % 256 + bs.length ≤ 256 * k)
    (hf : ∀ i, i < bs.length → fencedAt s (da + i) = false) (i : Nat) (hi : i < bs.length) :
    memGet (devWriteGo s hint k da bs).mem.bytes (da + i) = (bs[i]).1 := by
  induction k generalizing s da bs i with
  | zero => omega
  | succ k ih =>
    rw [devWriteGo]
    have here : fencedAt s da = false := hf 0 (by omega)
    by_cases first : i < 256 - da % 256
    · have hi' : i < ((bs.take (256 - da % 256)).map Prod.fst).length := by rw [List.length_map, List.length_take]; omega
      rw [devWriteGo_out _ _ _ _ _ _ (by omega), devWriteRun_bytes hint _ here, memGet_memPutAll_in hw _ _ _ hi']
      simp
    · have rest := ih (s := devWriteRun s hint da (bs.take (256 - da % 256))) (da + (256 - da % 256)) (bs.drop (256 - da % 256))
        (devWriteRun_wf hw ..) (by rw [List.length_drop]; omega)
        (fun j hj => by
          rw [(devWriteRun_sameFences ..).fencedAt, Nat.add_assoc]
          exact hf _ (by rw [List.length_drop] at hj; omega))
        (i - (256 - da % 256)) (by rw [List.length_drop]; omega)
      rw [List.getElem_drop] at rest
      simpa only [show da + (256 - da % 256) + (i - (256 - da % 256)) = da + i by omega,
        show 256 - da % 256 + (i - (256 - da % 256)) = i by omega] using rest

end Write

/-- Settles O31: granule by granule, a run writes its bytes where the part is not fenced, and finding failed symbols fences nothing. -/
theorem deviceWriteReadsBack : Obligations.DeviceWriteReadsBack := by
  intro s da bs hw hf
  have go : bs ≠ [] → devWrite s da bs = devWriteGo s 0 (bs.length / 256 + 2) da bs := fun h => by simp [devWrite, devWriteAs, h]
  refine ⟨fun i h => ?_, fun x h => ?_, devWrite_onlyMemHost s da bs, fun h => by rw [devWrite_quiet h]⟩
  · rw [go (List.ne_nil_of_length_pos (by omega))]
    exact devWriteGo_in 0 _ da bs hw (by omega) hf i h
  · by_cases empty : bs = []
    · simp [devWrite, devWriteAs, empty]
    · rw [go empty, devWriteGo_out _ _ _ _ _ _ h]

/-! ### Clearing a region (R271) -/

theorem tget_filter_none {α : Type} (t : Tab α) {p : Nat × α → Bool} {a : Nat} (h : ∀ v, p (a, v) = false) : tget (t.filter p) a = none := by
  induction t with
  | nil => rfl
  | cons e t ih =>
    obtain ⟨k, v⟩ := e
    rw [List.filter_cons]
    split
    · next kept =>
      have ne : k ≠ a := fun same => by simp [same, h] at kept
      rw [tget, if_neg ne, ih]
    · exact ih

/-- Completing the REGION_SET commands whose regions are clear changes contexts, the fabric and the host interface, and of the memory system the
list of those commands alone. -/
theorem finishClears_keeps (s : State) :
    finishClears s = { s with mem := { s.mem with clearFor := (finishClears s).mem.clearFor }, ctxs := (finishClears s).ctxs,
                              fab := (finishClears s).fab, host := (finishClears s).host } := by
  unfold finishClears
  refine foldl_any (P := fun t : State => t = { s with
    mem := { s.mem with clearFor := t.mem.clearFor }, ctxs := t.ctxs, fab := t.fab, host := t.host }) rfl fun t c h => ?_
  have done := finish_onlyMsg (t.modMem (fun m => { m with clearFor := m.clearFor.erase c })) c.1 0 0
  rw [done, h]
  rfl

section Clear
variable (s : State) (r : Nat)

theorem entry_zeroRegion : entry (zeroRegion s r) r = setFld (entry s r) 19 18 0 := entry_putEntry_same ..
theorem entry_zeroRegion_ne {q : Nat} (h : q ≠ r) : entry (zeroRegion s r) q = entry s q := entry_putEntry_ne _ _ _ h
theorem zeroRegion_bytes : (zeroRegion s r).mem.bytes = memClear s.mem.bytes (r * 2 ^ 25) (2 ^ 25) := rfl

/-- No granule of a region that has been cleared is poisoned. -/
theorem zeroRegion_poison {g : Nat} (lo : r * 2 ^ 25 ≤ 32 * g) (hi : 32 * g < r * 2 ^ 25 + 2 ^ 25) : tget (zeroRegion s r).mem.poison g = none :=
  tget_filter_none s.mem.poison fun v => by simp only [lo, hi, decide_true, Bool.and_self, Bool.not_true]

end Clear

/-- Settles O32: the region is zeroed, and the commands that then complete leave the region table and device memory alone. -/
theorem regionClearZeroesTheRegion : Obligations.RegionClearZeroesTheRegion := by
  intro s r waits valid
  have ran : exec (.regionClear r) s = .next (finishClears (zeroRegion s r)) := by
    change execRegionClear r s = _
    rw [execRegionClear, if_pos (List.contains_iff_mem.2 waits)]
  have keeps := finishClears_keeps (zeroRegion s r)
  have region : ∀ q, entry (finishClears (zeroRegion s r)) q = entry (zeroRegion s r) q := fun q => by rw [keeps]; rfl
  obtain ⟨writable, zeroing, poisoned⟩ := zeroed_fields (entry s r)
  refine ⟨_, ran, fun a => ?_, ?_, ?_, ?_, fun q other => ?_, fun g lo hi => ?_, ?_, ?_, ?_⟩
  · rw [keeps]
    exact memGet_memClear ..
  · rw [region, entry_zeroRegion, zeroing]
  · rw [region, entry_zeroRegion, poisoned]
  · rw [region, entry_zeroRegion, writable]
  · rw [region, entry_zeroRegion_ne s r other]
  · rw [keeps]
    exact zeroRegion_poison s r lo hi
  all_goals
    rw [keeps]
    rfl

end Sys2Proof.Machine

namespace Sys2Proof.Machine

open Sys2Proof

/-! SUPPORT. What REGION_SET, REGION_QUERY, PANTRY_SHARE and HOST_COPY make of the state. -/

/-! ### REGION_SET (R270, R271) -/

/-- What REGION_SET asks for: the masked bits of a value for the entries of a range. -/
structure RegionSet where
  first : Nat
  count : Nat
  v : Word64
  m : Word64

namespace RegionSet

/-- The request that a command's parameters spell (R381). -/
def ofEntry (e : Entry) : RegionSet :=
  ⟨fld e 82 64, fld e 102 83, BitVec.ofNat 64 (fld e 191 128), BitVec.ofNat 64 (fld e 255 192)⟩

/-- The regions of the range. -/
def regions (q : RegionSet) : List Nat := (List.range q.count).map (· + q.first)

/-- The entry that a region is to have. -/
def new (q : RegionSet) (s : State) (r : Nat) : Word64 := maskWrite (entry s r) q.v (q.m &&& regionMask)

/-- The region table that is to stand. -/
def table (q : RegionSet) (s : State) : Tab Word64 := writtenTable s.mem.region q.first q.count q.v (q.m &&& regionMask)

/-- The regions that the request clears. -/
def cleared (q : RegionSet) (s : State) : List Nat := q.regions.filter (fun r => clears (entry s r) (q.new s r))

/-- A range outside the table, reserved bits, or codes that are not defined. -/
def malformed (q : RegionSet) (s : State) : Bool :=
  q.count = 0 || 524288 < q.first + q.count || q.v &&& regionReserved != 0 || q.m &&& regionReserved != 0 ||
  q.regions.any (fun r => !entryOk (q.new s r))

/-- A VF that writes what R270 does not let it write, or a region that is not its own. -/
def forbidden (q : RegionSet) (s : State) (o : Origin) (n : Nat) : Bool :=
  rightsOf o != 0 && ((q.m &&& regionMask) &&& ~~~(0x27C00#64) != 0 ||
    q.regions.any (fun r => !reValid (entry s r) || reOwner (entry s r) != n || (rePhint (entry s r) == 2) != (rePhint (q.new s r) == 2)))

/-- Entries in use, or what the placement or the scratch banks do not allow. -/
def refused (q : RegionSet) (s : State) : Bool :=
  (!(q.cleared s).isEmpty && q.regions.any (fun r => reMaps (entry s r) != 0)) ||
  (q.regions.any (fun r => reIl (entry s r) != reIl (q.new s r)) && !placed (q.table s) q.first q.count) ||
  ((q.cleared s).any (fun r => rePhint (entry s r) == 2 || rePhint (q.new s r) == 2) && !banksFit s.mem.fwBanks s.mem.share (q.table s))

/-- The state with the new table, in which the regions to clear wait and the lines of regions whose hint changes are gone. -/
def tabled (q : RegionSet) (s : State) : State :=
  let hint := q.regions.filter (fun r => rePhint (entry s r) != rePhint (q.new s r))
  s.modMem (fun m => { m with
    region := q.table s, clearing := m.clearing.filter (fun r => !(q.cleared s).contains r) ++ q.cleared s,
    lines := m.lines.filter (fun l => !hint.contains (regionOf (256 * l.line))) })

end RegionSet

/-- Set ZEROING in the entries of some regions (R271). -/
def setZeroing (s : State) (rs : List Nat) : State := rs.foldl (fun t r => putEntry t r (setFld (entry t r) 18 18 1)) s

/-- The state that a REGION_SET leaves when its entries are written. -/
def RegionSet.written (q : RegionSet) (s : State) : State := pantryTrim (setZeroing (q.tabled s) (q.cleared s))

/-- The state in which a REGION_SET waits for its regions to be cleared. -/
def RegionSet.waiting (q : RegionSet) (s : State) (o : Origin) : State :=
  (q.written s).modMem (fun m => { m with clearFor := m.clearFor ++ [(o, q.first, q.count)] })

/-- What REGION_SET does, case by case. -/
theorem cmdRegionSet_body (s : State) (o : Origin) (e : Entry) (n : Nat) (q : RegionSet) (hq : q = .ofEntry e) :
    cmdRegionSet.body s o e n =
      if q.malformed s then bad s 2
      else if q.forbidden s o n then bad s 3
      else if q.refused s then ruled (raise s 0x2003 (some n) none (data2 0 0 q.first)) 0x2003
      else if (q.cleared s).isEmpty then ok (q.written s) 0
      else later (q.waiting s o) := by
  subst hq
  rfl


namespace RegionSet
variable {q : RegionSet} {s : State} {r : Nat}

theorem mem_regions : r ∈ q.regions ↔ q.first ≤ r ∧ r < q.first + q.count := by
  simp only [regions, List.mem_map, List.mem_range]
  exact ⟨by rintro ⟨i, hi, rfl⟩; omega, fun h => ⟨r - q.first, by omega, by omega⟩⟩

theorem nodup_regions (q : RegionSet) : q.regions.Nodup := List.nodup_range.map (add_left_injective q.first)

theorem nodup_cleared : (q.cleared s).Nodup := q.nodup_regions.filter _

theorem mem_cleared : r ∈ q.cleared s ↔ (q.first ≤ r ∧ r < q.first + q.count) ∧ clears (entry s r) (q.new s r) = true := by
  rw [cleared, List.mem_filter, mem_regions]

/-- No entry of the range changes in a way that clears. -/
theorem cleared_eq_nil : q.cleared s = [] ↔ ∀ r, q.first ≤ r → r < q.first + q.count → clears (entry s r) (q.new s r) = false := by
  simp only [cleared, List.filter_eq_nil_iff, mem_regions, and_imp, Bool.not_eq_true]

theorem cleared_ne_nil : q.cleared s ≠ [] ↔ ∃ r, q.first ≤ r ∧ r < q.first + q.count ∧ clears (entry s r) (q.new s r) = true := by
  simp only [ne_eq, cleared_eq_nil, not_forall, Bool.not_eq_false, exists_prop]

/-- A condition on the regions of the range, region by region. -/
theorem any_regions_eq_false {p : Nat → Bool} : q.regions.any p = false ↔ ∀ r, q.first ≤ r → r < q.first + q.count → p r = false := by
  simp only [List.any_eq_false, mem_regions, and_imp, Bool.not_eq_true]

theorem malformed_eq_false : q.malformed s = false ↔ q.count ≠ 0 ∧ q.first + q.count ≤ 524288 ∧ q.v &&& regionReserved = 0 ∧
    q.m &&& regionReserved = 0 ∧ ∀ r, q.first ≤ r → r < q.first + q.count → entryOk (q.new s r) = true := by
  simp only [malformed, Bool.or_eq_false_iff, any_regions_eq_false, decide_eq_false_iff_not, bne_eq_false_iff_eq, Bool.not_eq_false', Nat.not_lt,
    and_assoc, ne_eq]

theorem forbidden_eq_false {o : Origin} {n : Nat} : q.forbidden s o n = false ↔ rightsOf o = 0 ∨
    q.m &&& regionMask &&& ~~~0x27C00#64 = 0 ∧ ∀ r, q.first ≤ r → r < q.first + q.count →
      reValid (entry s r) = true ∧ reOwner (entry s r) = n ∧ (rePhint (entry s r) = 2 ↔ rePhint (q.new s r) = 2) := by
  simp only [forbidden, Bool.and_eq_false_iff, Bool.or_eq_false_iff, any_regions_eq_false, bne_eq_false_iff_eq, Bool.not_eq_false', and_assoc,
    Bool.beq_eq_decide_eq, decide_eq_decide]

/-- A change of the interleave mode clears (R270). -/
theorem reIl_eq_of_not_clears {old new : Word64} (h : clears old new = false) : reIl old = reIl new := by
  simp only [clears, Bool.or_eq_false_iff, bne_eq_false_iff_eq] at h
  obtain ⟨⟨⟨-, il⟩, -⟩, -⟩ := h
  exact il

/-- Where no entry changes in a way that clears, nothing forbids the write. -/
theorem refused_of_none_cleared (h : q.cleared s = []) : q.refused s = false := by
  have il : q.regions.any (fun r => reIl (entry s r) != reIl (q.new s r)) = false :=
    any_regions_eq_false.2 fun r lo hi => bne_eq_false_iff_eq.2 (reIl_eq_of_not_clears (cleared_eq_nil.1 h r lo hi))
  simp [refused, h, il]

theorem refused_eq_false (h : q.cleared s ≠ []) : q.refused s = false ↔
    (∀ r, q.first ≤ r → r < q.first + q.count → reMaps (entry s r) = 0) ∧
    ((∀ r, q.first ≤ r → r < q.first + q.count → reIl (entry s r) = reIl (q.new s r)) ∨ placed (q.table s) q.first q.count = true) ∧
    ((∀ r, q.first ≤ r → r < q.first + q.count → clears (entry s r) (q.new s r) = true →
        rePhint (entry s r) ≠ 2 ∧ rePhint (q.new s r) ≠ 2) ∨ banksFit s.mem.fwBanks s.mem.share (q.table s) = true) := by
  have nonempty : (!(q.cleared s).isEmpty) = true := by simpa using h
  have scratch : (q.cleared s).any (fun r => rePhint (entry s r) == 2 || rePhint (q.new s r) == 2) = false ↔
      ∀ r, q.first ≤ r → r < q.first + q.count → clears (entry s r) (q.new s r) = true →
        rePhint (entry s r) ≠ 2 ∧ rePhint (q.new s r) ≠ 2 := by
    simp only [List.any_eq_false, mem_cleared, and_imp, Bool.or_eq_true, beq_iff_eq, not_or, ne_eq]
  simp only [refused, nonempty, Bool.true_and, Bool.or_eq_false_iff, Bool.and_eq_false_iff, any_regions_eq_false, bne_eq_false_iff_eq, scratch,
    Bool.not_eq_false', and_assoc]

end RegionSet

/-- An entry of a table after a masked write to a range. -/
theorem tgetD_writtenTable (t : Tab Word64) (first count : Nat) (v m : Word64) (r : Nat) :
    tgetD (writtenTable t first count v m) r 0 =
      if first ≤ r ∧ r < first + count then maskWrite (tgetD t r 0) v m else tgetD t r 0 := by
  induction count generalizing r with
  | zero => rw [if_neg (by omega)]; rfl
  | succ c ih =>
    have last : writtenTable t first (c + 1) v m =
        (let e := maskWrite (tgetD (writtenTable t first c v m) (first + c) 0) v m
         if e = 0 then tdel (writtenTable t first c v m) (first + c) else tput (writtenTable t first c v m) (first + c) e) := by
      rw [writtenTable, List.range_succ, List.foldl_append]
      rfl
    have old : tgetD (writtenTable t first c v m) (first + c) 0 = tgetD t (first + c) 0 := by rw [ih, if_neg (by omega)]
    rw [last, tgetD_written, ih r, old]
    by_cases same : r = first + c
    · rw [if_pos same, if_pos (by omega), same]
    · rw [if_neg same]
      exact if_congr (by omega) rfl rfl

/-- ZEROING is set in the entries of the list and in no other (R271). -/
theorem entry_setZeroing (s : State) {rs : List Nat} (once : rs.Nodup) (q : Nat) :
    entry (setZeroing s rs) q = if q ∈ rs then setFld (entry s q) 18 18 1 else entry s q := by
  induction rs generalizing s with
  | nil => simp [setZeroing]
  | cons r rs ih =>
    obtain ⟨fresh, once⟩ := List.nodup_cons.1 once
    rw [setZeroing, List.foldl_cons]
    change entry (setZeroing _ rs) q = _
    rw [ih _ once, entry_putEntry]
    by_cases same : q = r
    · subst same
      simp [fresh]
    · simp [same]

/-- `t` differs from `s` in the region table alone. -/
def OnlyRegions (s t : State) : Prop := ∃ region, t = s.modMem (fun m => { m with region := region })

theorem OnlyRegions.refl (s : State) : OnlyRegions s s := ⟨s.mem.region, rfl⟩
theorem OnlyRegions.putEntry {s t : State} (h : OnlyRegions s t) (r : Nat) (e : Word64) : OnlyRegions s (putEntry t r e) := by
  obtain ⟨region, rfl⟩ := h
  exact ⟨_, rfl⟩
theorem setZeroing_onlyRegions (s : State) (rs : List Nat) : OnlyRegions s (setZeroing s rs) := by
  unfold setZeroing
  exact foldl_any (P := OnlyRegions s) (.refl s) fun t r h => h.putEntry r _

namespace RegionSet
variable {q : RegionSet} {s : State} {r : Nat}

/-- The entries after the write: those of the range are new, with ZEROING where their region is to be cleared. -/
theorem entry_written : entry (q.written s) r =
    if q.first ≤ r ∧ r < q.first + q.count then
      if clears (entry s r) (q.new s r) then setFld (q.new s r) 18 18 1 else q.new s r
    else entry s r := by
  have tabled : entry (q.tabled s) r = if q.first ≤ r ∧ r < q.first + q.count then q.new s r else entry s r := tgetD_writtenTable ..
  have zeroed : entry (q.written s) r = entry (setZeroing (q.tabled s) (q.cleared s)) r := rfl
  rw [zeroed, entry_setZeroing _ q.nodup_cleared, tabled]
  simp only [mem_cleared]
  by_cases inside : q.first ≤ r ∧ r < q.first + q.count <;> simp [inside]

theorem entry_written_of_out (out : r < q.first ∨ q.first + q.count ≤ r) : entry (q.written s) r = entry s r := by
  rw [entry_written, if_neg (by omega)]
theorem entry_written_of_kept (lo : q.first ≤ r) (hi : r < q.first + q.count) (keep : clears (entry s r) (q.new s r) = false) :
    entry (q.written s) r = q.new s r := by
  rw [entry_written, if_pos ⟨lo, hi⟩, if_neg (by simp [keep])]
theorem entry_written_of_cleared (lo : q.first ≤ r) (hi : r < q.first + q.count) (clear : clears (entry s r) (q.new s r) = true) :
    entry (q.written s) r = setFld (q.new s r) 18 18 1 := by
  rw [entry_written, if_pos ⟨lo, hi⟩, if_pos clear]

/-- The write changes the region table, the regions that wait and the lines of the Pantry alone. -/
theorem written_keeps (q : RegionSet) (s : State) : ∃ region lines, q.written s = s.modMem (fun m => { m with
    region := region, clearing := m.clearing.filter (fun r => !(q.cleared s).contains r) ++ q.cleared s, lines := lines }) := by
  obtain ⟨region, zeroed⟩ := setZeroing_onlyRegions (q.tabled s) (q.cleared s)
  rw [written, zeroed]
  exact ⟨region, _, rfl⟩

theorem entry_waiting (o : Origin) (a : Nat) : entry (q.waiting s o) a = entry (q.written s) a := rfl
theorem mem_clearing_waiting (o : Origin) (h : r ∈ q.cleared s) : r ∈ (q.waiting s o).mem.clearing := by
  obtain ⟨region, lines, written⟩ := q.written_keeps s
  rw [waiting, written]
  exact List.mem_append_right _ h
theorem mem_clearFor_waiting (o : Origin) : (o, q.first, q.count) ∈ (q.waiting s o).mem.clearFor :=
  List.mem_append_right _ (List.mem_singleton.2 rfl)

end RegionSet

section Answers
variable {s : State} {o : Origin} {e : Entry} {n : Nat} {q : RegionSet} (hq : q = .ofEntry e)
include hq

theorem cmdRegionSet_of_malformed (h : q.malformed s = true) : cmdRegionSet.body s o e n = (s, some (2, 0)) := by
  rw [cmdRegionSet_body s o e n q hq, if_pos h, bad]

section WellFormed
variable (wellFormed : q.malformed s = false)
include wellFormed

theorem cmdRegionSet_of_forbidden (h : q.forbidden s o n = true) : cmdRegionSet.body s o e n = (s, some (3, 0)) := by
  rw [cmdRegionSet_body s o e n q hq, if_neg (Bool.eq_false_iff.1 wellFormed), if_pos h, bad]

section Allowed
variable (allowed : q.forbidden s o n = false)
include allowed

theorem cmdRegionSet_of_refused (h : q.refused s = true) :
    cmdRegionSet.body s o e n = (raise s 0x2003 (some n) none (data2 0 0 q.first), some (0x0B, 0x2003)) := by
  rw [cmdRegionSet_body s o e n q hq, if_neg (Bool.eq_false_iff.1 wellFormed), if_neg (Bool.eq_false_iff.1 allowed), if_pos h, ruled]

theorem cmdRegionSet_of_none_cleared (nil : q.cleared s = []) : cmdRegionSet.body s o e n = (q.written s, some (0, 0)) := by
  have granted := RegionSet.refused_of_none_cleared nil
  rw [cmdRegionSet_body s o e n q hq, if_neg (Bool.eq_false_iff.1 wellFormed), if_neg (Bool.eq_false_iff.1 allowed),
    if_neg (Bool.eq_false_iff.1 granted), if_pos (List.isEmpty_iff.2 nil), ok]

theorem cmdRegionSet_of_cleared (granted : q.refused s = false) (ne : q.cleared s ≠ []) :
    cmdRegionSet.body s o e n = (q.waiting s o, none) := by
  rw [cmdRegionSet_body s o e n q hq, if_neg (Bool.eq_false_iff.1 wellFormed), if_neg (Bool.eq_false_iff.1 allowed),
    if_neg (Bool.eq_false_iff.1 granted), if_neg (mt List.isEmpty_iff.1 ne), later]

end Allowed
end WellFormed
end Answers

/-! ### REGION_QUERY, PANTRY_SHARE and HOST_COPY (R282, R292, R381) -/

section Bodies
variable {s : State} {o : Origin} {e : Entry} {n : Nat}

theorem cmdRegionQuery_of_visible (h : rightsOf o = 0 ∨ reValid (entry s (fld e 82 64)) = true ∧ reOwner (entry s (fld e 82 64)) = n) :
    cmdRegionQuery.body s o e n = (s, some (0, (entryRead s (fld e 82 64)).toNat)) := by
  rcases h with h | ⟨valid, own⟩
  · simp [cmdRegionQuery, ok, h]
  · simp [cmdRegionQuery, ok, valid, own]

theorem cmdRegionQuery_of_hidden (vf : rightsOf o ≠ 0) (h : reValid (entry s (fld e 82 64)) = false ∨ reOwner (entry s (fld e 82 64)) ≠ n) :
    cmdRegionQuery.body s o e n = (s, some (3, 0)) := by
  rcases h with h | h <;> simp [cmdRegionQuery, bad, vf, h]

/-- What PANTRY_SHARE does for a partition of the module. -/
theorem cmdPantryShare_body (hq : fld e 69 64 ≤ 32) (there : partExists s (fld e 69 64) = true) {v : Word64}
    (hv : v = BitVec.ofNat 64 (fld e 183 128)) {share : Tab Word64}
    (hs : share = if v = 0 then tdel s.mem.share (fld e 69 64) else tput s.mem.share (fld e 69 64) v) :
    cmdPantryShare.body s o e n =
      if banksFit s.mem.fwBanks share s.mem.region = false then (raiseDev s 0x2201 (data2 0 0 0), some (0x0B, 0x2201))
      else (pantryTrim (s.modMem (fun m => { m with share := share })), some (0, 0)) := by
  subst hv hs
  simp only [cmdPantryShare, hq.not_gt, if_false, there, Bool.not_eq_true', ok, ruled, reduceCtorEq]

theorem cmdHostCopy_of_refused {code : Nat} (aligned : fld e 207 176 % 32 = 0)
    (h : accessRefusal s (.part n) (fld e 175 128) (fld e 207 176) = some code) : cmdHostCopy.body s o e n =
      (countRefused (raise s code (some n) none (data2 (fld e 175 128) 0 (regionOf (fld e 175 128)))) n, some (0x0B, code)) := by
  simp [cmdHostCopy, ruled, aligned, h]

/-- The granules of a buffer at `a` that poisoned bytes reach. -/
def poisonReaches (a : Nat) (bs : List PByte) : List Nat :=
  (bs.mapIdx (fun i b => (i, b))).filterMap (fun p => if p.2.2.isSome then some ((a + p.1) / 32) else none)

theorem poisonReaches_isEmpty (a : Nat) (bs : List PByte) : (poisonReaches a bs).isEmpty = true ↔ strongest bs = none := by
  have plain : ∀ p : Nat × PByte, (if p.2.2.isSome then some ((a + p.1) / 32) else none) = none ↔ p.2.2 = none := fun p => by
    cases p.2.2 <;> simp
  have values : (bs.mapIdx (fun i b => (i, b))).map Prod.snd = bs := List.ext_getElem (by simp) (by simp)
  rw [List.isEmpty_iff, poisonReaches, List.filterMap_eq_nil_iff, strongest_eq_none]
  simp only [plain]
  conv_rhs => rw [← values, List.forall_mem_map]

/-- The state in which a range of device memory has been copied to the host. -/
def copiedOut (d : State) (a da len : Nat) : State := d.modHost (fun h => { h with bytes := memPutAll h.bytes a (devBytes d da len) })

section Granted
variable (aligned : fld e 207 176 % 32 = 0) (h : accessRefusal s (.part n) (fld e 175 128) (fld e 207 176) = none)
include aligned h

theorem cmdHostCopy_of_write (hd : bit e.toNat 208 = false) : cmdHostCopy.body s o e n =
    (devWrite s (fld e 175 128) (clean (memBytes s.host.bytes (fld e 127 64) (fld e 207 176))), some (0, fld e 207 176)) := by
  simp [cmdHostCopy, ok, aligned, h, hd, hostBytes]

theorem cmdHostCopy_of_read (hd : bit e.toNat 208 = true) (a da len : Nat) (d : State) (ha : a = fld e 127 64) (hda : da = fld e 175 128)
    (hlen : len = fld e 207 176) (hdem : d = demand s none da len) : cmdHostCopy.body s o e n =
      if (poisonReaches a (devRead d da len)).isEmpty then (copiedOut d a da len, some (0, len))
      else (raiseDev ((copiedOut d a da len).modHost
          (fun h => { h with poisonOut := h.poisonOut ++ (poisonReaches a (devRead d da len)).eraseDups })) 0x2304
        (data2 (poisonedAt da (devRead d da len)) 0 (regionOf (poisonedAt da (devRead d da len)))), some (0x0F, len)) := by
  subst ha hda hlen hdem
  simp only [cmdHostCopy, aligned, h, hd, hostWrite, devRead_map_fst, ok, bne_self_eq_false, Bool.false_eq_true, if_false, if_true]
  rfl

end Granted
end Bodies

/-! ### The statement -/

/-- Settles O48: REGION_SET by what is wrong with its request, then by whether an entry changes in a way that clears; the others outcome by
outcome. -/
theorem regionShareAndCopyCommands : Obligations.RegionShareAndCopyCommands := by
  refine ⟨?regions, ?others⟩
  case regions =>
    intro s r o e n first count v m new inside mayWrite free tbl hr hn hfirst hcount hv hm hnew hinside hmay htbl hfree
    obtain rfl : new = (RegionSet.ofEntry e).new r := by
      subst hv hm
      exact funext hnew
    obtain ⟨q, hq⟩ : ∃ q, q = RegionSet.ofEntry e := ⟨_, rfl⟩
    obtain ⟨rfl, rfl, rfl, rfl⟩ : first = q.first ∧ count = q.count ∧ v = q.v ∧ m = q.m := by
      subst hq
      exact ⟨hfirst, hcount, hv, hm⟩
    subst hr hn htbl
    rw [← hq] at hinside hmay hfree ⊢
    have wellFormed := hinside.trans RegionSet.malformed_eq_false.symm
    have allowed := hmay.trans RegionSet.forbidden_eq_false.symm
    refine ⟨fun runs => ⟨fun out => next_of_answer runs ?_, fun ins deny => next_of_answer runs ?_, fun ins may keep => ?kept,
      fun ins may found => ?clearing⟩, fun runs => ?query⟩
    · exact cmdRegionSet_of_malformed hq (by simpa only [wellFormed, Bool.not_eq_false] using out)
    · exact cmdRegionSet_of_forbidden hq (wellFormed.1 ins) (by simpa only [allowed, Bool.not_eq_false] using deny)
    case kept =>
      have nil := RegionSet.cleared_eq_nil.2 keep
      obtain ⟨region, lines, written⟩ := RegionSet.written_keeps q (setRunning s o)
      refine ⟨_, next_of_answer runs (cmdRegionSet_of_none_cleared hq (wellFormed.1 ins) (allowed.1 may) nil), fun a => ?_, ?_, ?_, ?_, ?_⟩
      · split
        · next h => exact RegionSet.entry_written_of_kept h.1 h.2 (keep a h.1 h.2)
        · next h => exact RegionSet.entry_written_of_out (by omega)
      all_goals rw [written]
      · rfl
      · simp [nil]
      · rfl
      · rfl
    case clearing =>
      have changes := RegionSet.cleared_ne_nil.2 found
      have granted := hfree.trans (RegionSet.refused_eq_false changes).symm
      refine ⟨fun deny => next_of_answer runs ?_, fun free => ?_⟩
      · exact cmdRegionSet_of_refused hq (wellFormed.1 ins) (allowed.1 may) (by simpa only [granted, Bool.not_eq_false] using deny)
      obtain ⟨region, lines, written⟩ := RegionSet.written_keeps q (setRunning s o)
      refine ⟨_, next_of_later runs (cmdRegionSet_of_cleared hq (wellFormed.1 ins) (allowed.1 may) (granted.1 free) changes),
        RegionSet.mem_clearFor_waiting o, ?_, ?_, fun a lo hi => ⟨fun clear => ⟨?_, ?_⟩, fun kept => ?_⟩, fun a out => ?_⟩
      · rw [RegionSet.waiting, written]
        rfl
      · rw [RegionSet.waiting, written]
        rfl
      · exact RegionSet.mem_clearing_waiting o (RegionSet.mem_cleared.2 ⟨⟨lo, hi⟩, clear⟩)
      · rw [RegionSet.entry_waiting, RegionSet.entry_written_of_cleared lo hi clear]
      · rw [RegionSet.entry_waiting, RegionSet.entry_written_of_kept lo hi kept]
      · rw [RegionSet.entry_waiting, RegionSet.entry_written_of_out out]
    case query =>
      subst hq
      exact ⟨fun h => next_of_answer runs (cmdRegionQuery_of_visible h), fun vf h => next_of_answer runs (cmdRegionQuery_of_hidden vf h)⟩
  case others =>
    rintro s r o e n rfl rfl
    refine ⟨?share, ?copy⟩
    case share =>
      rintro q v share runs rfl hv hs
      refine ⟨fun hq there fit => next_of_answer runs ?_, fun hq there unfit => next_of_answer runs ?_, fun hq gone => next_of_answer runs ?_,
        fun hq => next_of_answer runs ?_⟩
      · rw [cmdPantryShare_body hq there hv hs, if_neg (by simp [fit])]
      · rw [cmdPantryShare_body hq there hv hs, if_pos unfit]
      · simp [cmdPantryShare, bad, hq.not_gt, gone]
      · simp [cmdPantryShare, bad, hq]
    case copy =>
      rintro a da len runs rfl rfl rfl
      refine ⟨fun odd => next_of_answer runs (by simp [cmdHostCopy, bad, odd]),
        fun code aligned refused => next_of_answer runs (cmdHostCopy_of_refused aligned refused), fun aligned granted out d hd => ?_,
        fun aligned granted back => next_of_answer runs (cmdHostCopy_of_write aligned granted back)⟩
      have body := cmdHostCopy_of_read (o := o) aligned granted out _ _ _ d rfl rfl rfl hd
      refine ⟨fun plain => next_of_answer runs ?_, fun poison => ⟨_, next_of_answer runs (body.trans (if_neg ?_)), rfl, rfl⟩⟩
      · rw [body, if_pos ((poisonReaches_isEmpty ..).2 plain)]
        rfl
      · exact mt (poisonReaches_isEmpty ..).1 poison

end Sys2Proof.Machine

namespace Sys2Proof.Machine

open Sys2Proof

/-! SUPPORT. The patrol scrub, the temperatures of the parts, and the Pantry's change of mode. -/

/-! ### Failed symbols that a read finds (R285 to R287) -/

/-- The Pantry holds granule `g`: its region lies in scratch banks, or its line is present. -/
def inPantry (s : State) (g : Nat) : Bool := rePhint (entry s (regionOf (32 * g))) == 2 || s.mem.lines.any (fun l => l.line == g / 8)

/-- The part that holds granule `g`, or the Pantry. -/
def holder (s : State) (g : Nat) : Nat := if inPantry s g then 0x7F else homePart s (32 * g)

/-- What counts for the holder of a granule counts for its home part where the Pantry does not hold it. -/
theorem counts_for_holder {s : State} {g : Nat} (part : homePart s (32 * g) < 80) {α : Type} (x y : α) :
    (if homePart s (32 * g) = holder s g ∧ holder s g < 80 then x else y) = if inPantry s g then y else x := by
  unfold holder
  cases inPantry s g <;> simp [part]

/-- The state in which the failed symbols of a granule have been found. -/
def foundAt (s : State) (g : Nat) : State := s.modMem (fun m => { m with latent := tdel m.latent g })

section Discover
variable {s : State} {g : Nat}

/-- Nothing checks a granule of a RAW region that the Pantry does not hold, and nothing reads a fenced part. -/
theorem discover1_of_unread (k : Option Nat) (h : (inPantry s g = false ∧ reEcc (entry s (regionOf (32 * g))) = 2) ∨ fencedAt s (32 * g) = true) :
    discover1 s k g = s := by
  have unread : (if inPantry s g then 0 else reEcc (entry s (regionOf (32 * g)))) = 2 ∨ fencedAt s (32 * g) = true :=
    h.imp_left fun ⟨out, raw⟩ => by simp [out, raw]
  unfold discover1
  split
  · rfl
  · exact if_pos unread

section Checked
variable (k : Option Nat) (read : fencedAt s (32 * g) = false)
include read

/-- One failed symbol is corrected where the granule is checked as CORRECT. -/
theorem discover1_of_one (one : tget s.mem.latent g = some .one) (h : inPantry s g = true ∨ reEcc (entry s (regionOf (32 * g))) = 0) :
    discover1 s k g = countCorrected (foundAt s g) (holder s g) (32 * g) (regionOf (32 * g)) := by
  have correct : (if inPantry s g then 0 else reEcc (entry s (regionOf (32 * g)))) = 0 := by
    split
    · rfl
    · next out => exact h.resolve_left out
  have checked : ¬ ((if inPantry s g then 0 else reEcc (entry s (regionOf (32 * g)))) = 2 ∨ fencedAt s (32 * g) = true) := by
    simp [correct, read]
  unfold discover1
  rw [one]
  exact (if_neg checked).trans (if_pos ⟨rfl, correct⟩)

/-- More are an uncorrectable error of a granule that is checked at all. -/
theorem discover1_of_many (many : tget s.mem.latent g = some .many) (h : inPantry s g = true ∨ reEcc (entry s (regionOf (32 * g))) ≠ 2) :
    discover1 s k g = takeUncorrectable (foundAt s g) k g (holder s g) := by
  have checked : ¬ ((if inPantry s g then 0 else reEcc (entry s (regionOf (32 * g)))) = 2 ∨ fencedAt s (32 * g) = true) := by
    rcases h with held | coded
    · simp [held, read]
    · cases inPantry s g <;> simp [coded, read]
  unfold discover1
  rw [many]
  exact (if_neg checked).trans (if_neg (by simp))

end Checked
end Discover

theorem State.memPart_modMemPart_eq (s : State) (a p : Nat) (f : MemPart → MemPart) :
    (s.modMemPart a f).memPart p = if p = a then f (s.memPart p) else s.memPart p := by
  by_cases h : p = a
  · rw [h, if_pos rfl, State.memPart_modMemPart]
  · simp [State.memPart, State.modMemPart, tgetD_tmod_ne _ _ _ h, h]

section Errors
variable (s : State) (part da r p : Nat)

/-- A corrected error changes the counts of the parts and the host interface alone. -/
theorem countCorrected_keeps : ∃ parts host, countCorrected s part da r = { s with mem := { s.mem with parts := parts }, host := host } := by
  unfold countCorrected
  extract_lets counted
  have count : ∃ parts, counted = s.modMem (fun m => { m with parts := parts }) := by
    unfold counted
    split
    · exact ⟨_, rfl⟩
    · exact ⟨s.mem.parts, rfl⟩
  obtain ⟨parts, counted_eq⟩ := count
  split
  · exact ⟨_, _, by rw [counted_eq]; rfl⟩
  · exact ⟨parts, s.host, counted_eq⟩

/-- It counts for its part, as corrected (R286). -/
theorem countCorrected_memPart :
    ((countCorrected s part da r).memPart p).ce = (if p = part ∧ part < 80 then satInc (s.memPart p).ce else (s.memPart p).ce) ∧
    ((countCorrected s part da r).memPart p).ue = (s.memPart p).ue := by
  unfold countCorrected
  extract_lets counted
  have count : (counted.memPart p).ce = (if p = part ∧ part < 80 then satInc (s.memPart p).ce else (s.memPart p).ce) ∧
      (counted.memPart p).ue = (s.memPart p).ue := by
    unfold counted
    split
    · next real =>
      rw [State.memPart_modMemPart_eq]
      by_cases h : p = part <;> simp [h, real]
    · next pantry => simp [pantry]
  split
  · have same : (raiseDev counted 0x2101 (data2 da part r)).memPart p = counted.memPart p := rfl
    rw [State.memPart_modMemPart_eq, same]
    split <;> exact count
  · exact count

end Errors

section Uncorrectable
variable (s : State) (g part p : Nat)

/-- Granule `g` poisoned under its region's policy, and its region marked (R287). -/
def poisonGranule : State :=
  putEntry (s.modMem (fun m => { m with poison := tput m.poison g (reKill (entry s (regionOf (32 * g)))) })) (regionOf (32 * g))
    (setFld (entry s (regionOf (32 * g))) 19 19 1)

/-- An uncorrectable error counted for its part; the Pantry is none. -/
def countUe : State := if part < 80 then s.modMemPart part (fun p => { p with ue := satInc p.ue }) else s

/-- An uncorrectable error poisons its granule, is counted, recorded and reported. -/
theorem takeUncorrectable_eq (k : Option Nat) : takeUncorrectable s k g part =
    raise (recordUe (countUe (poisonGranule s g) part) k (32 * g) part) 0x2102 none k (data2 (32 * g) part (regionOf (32 * g))) := rfl

theorem recordUe_keeps (k : Option Nat) (da : Nat) : ∃ ue, recordUe s k da part = s.modMem (fun m => { m with ue := ue }) := by
  unfold recordUe
  split
  · exact ⟨s.mem.ue, rfl⟩
  · exact ⟨_, rfl⟩

theorem countUe_keeps : ∃ parts, countUe s part = s.modMem (fun m => { m with parts := parts }) := by
  unfold countUe
  split
  · exact ⟨_, rfl⟩
  · exact ⟨s.mem.parts, rfl⟩

theorem countUe_memPart : ((countUe s part).memPart p).ue = if p = part ∧ part < 80 then satInc (s.memPart p).ue else (s.memPart p).ue := by
  unfold countUe
  split
  · next real =>
    rw [State.memPart_modMemPart_eq]
    by_cases h : p = part <;> simp [h, real]
  · next pantry => simp [pantry]

theorem poisonGranule_keeps : ∃ region, poisonGranule s g =
    s.modMem (fun m => { m with poison := tput m.poison g (reKill (entry s (regionOf (32 * g)))), region := region }) := by
  obtain ⟨region, marked⟩ :=
    (OnlyRegions.refl (s.modMem (fun m => { m with poison := tput m.poison g (reKill (entry s (regionOf (32 * g)))) }))).putEntry
      (regionOf (32 * g)) (setFld (entry s (regionOf (32 * g))) 19 19 1)
  exact ⟨region, marked⟩

/-- What an uncorrectable error changes: the poison of its granule, the entry of its region, counts and record, and one event. -/
theorem takeUncorrectable_keeps (k : Option Nat) : ∃ region parts ue, takeUncorrectable s k g part =
    raise (s.modMem (fun m => { m with
      poison := tput m.poison g (reKill (entry s (regionOf (32 * g)))), region := region, parts := parts, ue := ue })) 0x2102 none k
      (data2 (32 * g) part (regionOf (32 * g))) := by
  rw [takeUncorrectable_eq]
  obtain ⟨region, poisoned⟩ := poisonGranule_keeps s g
  obtain ⟨parts, counted⟩ := countUe_keeps (poisonGranule s g) part
  obtain ⟨ue, recorded⟩ := recordUe_keeps (countUe (poisonGranule s g) part) part k (32 * g)
  exact ⟨region, parts, ue, by rw [recorded, counted, poisoned]; rfl⟩

/-- The region of the granule is marked POISONED. -/
theorem takeUncorrectable_entry (k : Option Nat) : rePoisoned (entry (takeUncorrectable s k g part) (regionOf (32 * g))) = true := by
  obtain ⟨parts, counted⟩ := countUe_keeps (poisonGranule s g) part
  obtain ⟨ue, recorded⟩ := recordUe_keeps (countUe (poisonGranule s g) part) part k (32 * g)
  have same : entry (takeUncorrectable s k g part) (regionOf (32 * g)) = entry (poisonGranule s g) (regionOf (32 * g)) := by
    rw [takeUncorrectable_eq, recorded, counted]
    generalize poisonGranule s g = u
    rfl
  obtain ⟨-, -, poisoned⟩ := poisoned_fields (entry s (regionOf (32 * g)))
  rw [same, poisonGranule, entry_putEntry_same, poisoned]

theorem takeUncorrectable_memPart (k : Option Nat) : ((takeUncorrectable s k g part).memPart p).ue =
    if p = part ∧ part < 80 then satInc (s.memPart p).ue else (s.memPart p).ue := by
  obtain ⟨region, poisoned⟩ := poisonGranule_keeps s g
  obtain ⟨ue, recorded⟩ := recordUe_keeps (countUe (poisonGranule s g) part) part k (32 * g)
  have same : (takeUncorrectable s k g part).memPart p = (countUe (poisonGranule s g) part).memPart p := by
    rw [takeUncorrectable_eq, recorded]
    rfl
  rw [same, countUe_memPart, poisoned]
  rfl

end Uncorrectable

/-! ### PATROL_SCRUB (R285, R286) -/

/-- What the scrub's read of granule `g` makes of a state: with SCRUB_EN clear there is none. -/
def scrubbed (g : Nat) (s : State) : State := if s.mem.ctl.getLsbD 0 then discover1 s none g else s

/-- The state in which symbols of granule `g` have failed that a read will find. -/
def failedAt (s : State) (g : Nat) (f : Syndrome) : State := s.modMem (fun m => { m with latent := tput m.latent g f })

section Scrub
variable {s : State} {g : Nat}

theorem lineAt_isSome (n : Nat) : (lineAt s n).isSome = s.mem.lines.any (fun l => l.line == n) := by
  rw [lineAt, Bool.eq_iff_iff, List.find?_isSome, List.any_eq_true]

theorem rawGranule_eq : rawGranule s g = (reEcc (entry s (regionOf (32 * g))) == 2 && !inPantry s g) := by
  rw [inPantry, Bool.not_or, ← Bool.and_assoc]
  rfl

/-- Where nothing checks the granule, its stored bits change. -/
theorem failGranule_of_raw (out : inPantry s g = false) (raw : reEcc (entry s (regionOf (32 * g))) = 2) (f : Syndrome) :
    failGranule s g f = corruptRaw s g f := by
  rw [failGranule, rawGranule_eq, out, raw]
  rfl

theorem failGranule_of_checked (h : inPantry s g = true ∨ reEcc (entry s (regionOf (32 * g))) ≠ 2) (f : Syndrome) :
    failGranule s g f = failedAt s g f := by
  have checked : rawGranule s g = false := by
    rw [rawGranule_eq]
    rcases h with h | h <;> simp [h]
  rw [failGranule, checked]
  rfl

theorem corruptRaw_keeps (s : State) (g : Nat) (f : Syndrome) : ∃ (bs : List Byte) (free : Nat), bs.length = 32 ∧
    corruptRaw s g f = { s with free := free, mem := { s.mem with bytes := memPutAll s.mem.bytes (32 * g) bs } } :=
  ⟨natToBytes 32 _, _, natToBytes_length .., rfl⟩

/-- The scrub finds nothing in a RAW granule: what fails there changes its 32 bytes. -/
theorem scrubbed_of_raw (out : inPantry s g = false) (raw : reEcc (entry s (regionOf (32 * g))) = 2) (f : Syndrome) :
    (scrubbed g (failGranule s g f)).host = s.host ∧ ∃ bs : List Byte, bs.length = 32 ∧
      (scrubbed g (failGranule s g f)).mem = { s.mem with bytes := memPutAll s.mem.bytes (32 * g) bs } := by
  obtain ⟨bs, free, granule, corrupt⟩ := corruptRaw_keeps s g f
  have left : scrubbed g (failGranule s g f) = corruptRaw s g f := by
    rw [failGranule_of_raw out raw, corrupt, scrubbed]
    split
    · exact discover1_of_unread none (.inl ⟨out, raw⟩)
    · rfl
  rw [left, corrupt]
  exact ⟨rfl, bs, granule, rfl⟩

/-- With SCRUB_EN clear, and in a fenced part, the failure stays to be found. -/
theorem scrubbed_of_unread (h : inPantry s g = true ∨ reEcc (entry s (regionOf (32 * g))) ≠ 2)
    (unread : s.mem.ctl.getLsbD 0 = false ∨ fencedAt s (32 * g) = true) (f : Syndrome) : scrubbed g (failGranule s g f) = failedAt s g f := by
  rw [failGranule_of_checked h, scrubbed]
  rcases unread with off | fenced
  · exact if_neg (Bool.eq_false_iff.1 off)
  · split
    · exact discover1_of_unread none (.inr fenced)
    · rfl

section Read
variable (on : s.mem.ctl.getLsbD 0 = true) (read : fencedAt s (32 * g) = false)
include on read

theorem scrubbed_one (h : inPantry s g = true ∨ reEcc (entry s (regionOf (32 * g))) = 0) : scrubbed g (failGranule s g .one) =
    countCorrected (foundAt (failedAt s g .one) g) (holder s g) (32 * g) (regionOf (32 * g)) := by
  rw [failGranule_of_checked (h.imp_right fun correct => by omega), scrubbed]
  exact (if_pos on).trans (discover1_of_one none read (tget_tput_same ..) h)

theorem scrubbed_many (h : inPantry s g = true ∨ reEcc (entry s (regionOf (32 * g))) ≠ 2) : scrubbed g (failGranule s g .many) =
    takeUncorrectable (foundAt (failedAt s g .many) g) none g (holder s g) := by
  rw [failGranule_of_checked h, scrubbed]
  exact (if_pos on).trans (discover1_of_many none read (tget_tput_same ..) h)

variable (part : homePart s (32 * g) < 80)
include part

/-- One failed symbol is corrected: it changes the count of its part alone, and no byte. -/
theorem scrubbed_one_leaves (h : inPantry s g = true ∨ reEcc (entry s (regionOf (32 * g))) = 0) {t : State}
    (ht : t = scrubbed g (failGranule s g .one)) :
    t.mem.bytes = s.mem.bytes ∧ t.mem.poison = s.mem.poison ∧ t.mem.region = s.mem.region ∧ t.mem.lines = s.mem.lines ∧
    (t.memPart (homePart s (32 * g))).ce =
      (if inPantry s g then (s.memPart (homePart s (32 * g))).ce else satInc (s.memPart (homePart s (32 * g))).ce) ∧
    (t.memPart (homePart s (32 * g))).ue = (s.memPart (homePart s (32 * g))).ue := by
  have counts := counts_for_holder part (satInc (s.memPart (homePart s (32 * g))).ce) (s.memPart (homePart s (32 * g))).ce
  rw [ht, scrubbed_one on read h]
  generalize holder s g = held at counts
  obtain ⟨parts, host, kept⟩ := countCorrected_keeps (foundAt (failedAt s g .one) g) held (32 * g) (regionOf (32 * g))
  obtain ⟨ce, ue⟩ := countCorrected_memPart (foundAt (failedAt s g .one) g) held (32 * g) (regionOf (32 * g)) (homePart s (32 * g))
  refine ⟨?_, ?_, ?_, ?_, ce.trans counts, ue⟩
  all_goals
    rw [kept]
    rfl

/-- More poison the granule, mark its region, count for its part, and raise 0x2102. -/
theorem scrubbed_many_leaves (h : inPantry s g = true ∨ reEcc (entry s (regionOf (32 * g))) ≠ 2) {t : State}
    (ht : t = scrubbed g (failGranule s g .many)) :
    t.mem.bytes = s.mem.bytes ∧ tget t.mem.poison g = some (reKill (entry s (regionOf (32 * g)))) ∧
    rePoisoned (entry t (regionOf (32 * g))) = true ∧ t.mem.lines = s.mem.lines ∧
    (t.memPart (homePart s (32 * g))).ue =
      (if inPantry s g then (s.memPart (homePart s (32 * g))).ue else satInc (s.memPart (homePart s (32 * g))).ue) ∧
    t.host.raised = s.host.raised ++ [{
      code := 0x2102, part := none, ctx := none,
      data := BitVec.ofNat 128 (data2 (32 * g) (if inPantry s g then 0x7F else homePart s (32 * g)) (regionOf (32 * g))), ptv := s.time.valid,
      pt := if s.time.valid then s.time.pt else s.time.up }] := by
  have counts := counts_for_holder part (satInc (s.memPart (homePart s (32 * g))).ue) (s.memPart (homePart s (32 * g))).ue
  rw [ht, scrubbed_many on read h, ← holder]
  generalize holder s g = held at counts
  obtain ⟨region, parts, ue, kept⟩ := takeUncorrectable_keeps (foundAt (failedAt s g .many) g) g held none
  refine ⟨?_, ?_, takeUncorrectable_entry .., ?_, (takeUncorrectable_memPart ..).trans counts, ?_⟩
  · rw [kept]
    rfl
  · rw [kept]
    exact tget_tput_same ..
  · rw [kept]
    rfl
  · rw [kept]
    rfl

end Read

/-- The state with other lines in the Pantry. -/
def withLines (s : State) (lines : List PLine) : State := s.modMem (fun m => { m with lines := lines })

/-- A failure in a part finds the granule's line written back, one in the Pantry finds the granule there. -/
theorem failing_place {w : State} {e : Word64} {pan : Bool} {place : FaultPlace} (he : e = entry s (regionOf (32 * g)))
    (h : (place = .part ∧ w = s.modMem (fun m => { m with lines := m.lines.filter (fun l => l.line != g / 8) }) ∧ pan = (rePhint e == 2)) ∨
      (place = .pantry ∧ w = s ∧ pan = true ∧ (rePhint e = 2 ∨ (lineAt s (g / 8)).isSome))) :
    (∃ lines, w = withLines s lines) ∧ pan = inPantry w g ∧
      ∀ f, exec (.patrolScrub g (some ⟨f, place⟩)) s = .next (scrubbed g (failGranule w g f)) := by
  subst he
  rcases h with ⟨rfl, rfl, rfl⟩ | ⟨rfl, rfl, rfl, held⟩
  · have gone : (s.mem.lines.filter (fun l => l.line != g / 8)).any (fun l => l.line == g / 8) = false := by simp [List.any_filter]
    exact ⟨⟨_, rfl⟩, (by rw [inPantry, State.modMem_mem, gone, Bool.or_false]; rfl), fun f => rfl⟩
  · refine ⟨⟨w.mem.lines, rfl⟩, ?_, fun f => ?_⟩
    · rw [lineAt_isSome] at held
      simpa [inPantry] using held
    · have here : pantryFault w g f = failGranule w g f := if_pos held
      exact congrArg (fun t => Host.Outcome.next (scrubbed g t)) here

end Scrub

/-! ### Failures in a scratch window (R285) -/

section Pad
variable {s : State} {v : VRef} {x : Vcore} (hx : s.vc? v = some x) (g : Nat)
include hx

/-- One failed symbol of a window is corrected. -/
theorem padFault_one : padFault s v g .one = s := by
  rw [padFault, hx]
  exact if_pos (.inl rfl)

/-- More poison their granule under CONTEXT, with event 0x2102 for the context. -/
theorem padFault_many (inside : 32 * g < x.winSize) : padFault s v g .many =
    raise (s.modVc v (fun y => { y with winPoison := tput y.winPoison g .context })) 0x2102 none (some v.ctx) (data2 0 0x7F 0) := by
  rw [padFault, hx]
  exact if_neg (by simp [inside.not_ge])

end Pad

/-! ### Part temperatures (R294 to R297) -/

section Heat
variable (s : State) (p : Nat) (temp : Int)

/-- A part and the sensors after a temperature reading. -/
def tempTaken : State :=
  (s.modMemPart p (fun m => { m with temp := temp })).modPwr (fun q => { q with sensors := tput q.sensors (0x200 + p) (1000 * temp) })

/-- Whether a part is throttled at a temperature (R296). -/
def throttles (m : MemPart) (temp : Int) : Bool :=
  if m.t3on then decide ((m.t3lim.toNat : Int) - 2 < temp) else decide ((m.t3lim.toNat : Int) ≤ temp)

/-- Below 110 °C a reading sets the part's refresh level and its throttle. -/
theorem partReading_of_cool (live : (s.memPart p).fenced = false) (cool : temp < 110) :
    (partReading s p temp).memPart p = { s.memPart p with
      temp := temp, rmul := BitVec.ofNat 2 (refreshLevel (s.memPart p).rmul.toNat temp), t3on := throttles (s.memPart p) temp } ∧
    (partReading s p temp).mem.bytes = s.mem.bytes := by
  unfold partReading
  extract_lets m taken lvl refreshed lim on
  have take : taken.memPart p = { m with temp := temp } := State.memPart_modMemPart s p _
  have refresh : refreshed.memPart p = { m with temp := temp, rmul := BitVec.ofNat 2 lvl } ∧ refreshed.mem.bytes = s.mem.bytes := by
    unfold refreshed
    split
    · next same => exact ⟨by rw [take, same, BitVec.ofNat_toNat, BitVec.setWidth_eq], rfl⟩
    · exact ⟨(State.memPart_modMemPart ..).trans (by rw [take]), rfl⟩
  have throttle : throttles m temp = on := rfl
  obtain ⟨part, bytes⟩ := refresh
  rw [if_neg (Bool.eq_false_iff.1 live), if_neg (by omega), throttle]
  split
  · next same => exact ⟨by rw [part, eq_of_beq same], bytes⟩
  · exact ⟨(State.memPart_modMemPart ..).trans (by rw [part]), bytes⟩

/-- A member's cause for abandonment leaves memory and the host interface alone. -/
theorem causeAbandon_keeps (n reason : Nat) : (causeAbandon s n reason).mem = s.mem ∧ (causeAbandon s n reason).host = s.host := by
  unfold causeAbandon
  split
  · dsimp only
    split <;> exact ⟨rfl, rfl⟩
  · exact ⟨rfl, rfl⟩

theorem abortMembers_keeps (reason : Nat) : (abortMembers s reason).mem = s.mem ∧ (abortMembers s reason).host = s.host :=
  foldl_any (P := fun t : State => t.mem = s.mem ∧ t.host = s.host) ⟨rfl, rfl⟩ fun t n h => by
    split
    · exact ⟨(causeAbandon_keeps t n reason).1.trans h.1, (causeAbandon_keeps t n reason).2.trans h.2⟩
    · exact h

theorem declareFailed_mem (core cluster : Nat) : (declareFailed s core cluster).mem = s.mem := rfl
theorem declareFailed_raised (core cluster : Nat) : ∃ e, (declareFailed s core cluster).host.raised = s.host.raised ++ [e] := ⟨_, rfl⟩

/-- The reading of a part that is too hot, with the part fenced. -/
def fencedOff : State := (tempTaken s p temp).modMemPart p (fun m => { m with fenced := true })

theorem fencedOff_host : (fencedOff s p temp).host = s.host := rfl
theorem fencedOff_time : (fencedOff s p temp).time = s.time := rfl

/-- At 110 °C a part is fenced: event 0x2403 comes first, and the module declares itself failed. -/
theorem partReading_of_hot (live : (s.memPart p).fenced = false) (hot : 110 ≤ temp) :
    ((partReading s p temp).memPart p).fenced = true ∧ (partReading s p temp).rel.failed = true ∧
    ∃ rest, (partReading s p temp).host.raised = s.host.raised ++ {
      code := 0x2403, part := none, ctx := none, data := BitVec.ofNat 128 (data2 0 p 0), ptv := s.time.valid,
      pt := if s.time.valid then s.time.pt else s.time.up } :: rest := by
  have there : ((tempTaken s p temp).memPart p).fenced = false := by
    have take : (tempTaken s p temp).memPart p = { s.memPart p with temp := temp } := State.memPart_modMemPart s p _
    rw [take, live]
  have read : partReading s p temp = fencePart (tempTaken s p temp) p := by
    unfold partReading
    extract_lets m taken
    exact (if_neg (by rw [live]; simp)).trans (if_pos hot)
  have run : partReading s p temp = declareFailed (abortMembers (raiseDev (fencedOff s p temp) 0x2403 (data2 0 p 0)) 5) 0 0 :=
    read.trans (if_neg (by rw [there]; simp))
  obtain ⟨mem, host⟩ := abortMembers_keeps (raiseDev (fencedOff s p temp) 0x2403 (data2 0 p 0)) 5
  have out : ((fencedOff s p temp).memPart p).fenced = true := congrArg MemPart.fenced (State.memPart_modMemPart ..)
  rw [run]
  obtain ⟨last, told⟩ := declareFailed_raised (abortMembers (raiseDev (fencedOff s p temp) 0x2403 (data2 0 p 0)) 5) 0 0
  refine ⟨?_, rfl, [last], ?_⟩
  · rw [State.memPart, declareFailed_mem, mem]
    exact out
  · rw [told, host, raiseDev, raise_raised, fencedOff_host, fencedOff_time, List.append_assoc]
    rfl

end Heat

theorem exec_partTempSample {s : State} (ready : s.mem.ready = true) (power : s.pwr.st = .run ∨ s.pwr.st = .idle ∨ s.pwr.st = .hold)
    (p : Nat) (temp : Int) : exec (.partTempSample p temp) s = .next (partReading s p temp) := by
  have runs : (s.mem.ready && s.pwr.st != .carousel && s.pwr.st != .off) = true := by
    rcases power with h | h | h <;> simp [ready, h]
  exact congrArg Host.Outcome.next (if_pos runs)

/-! ### The statement -/

/-- Settles O33: the scrub by the place of the failure and what checks it, then a part's temperature below and from 110 °C, then the mode. -/
theorem scrubTemperatureAndPantry : Obligations.ScrubTemperatureAndPantry := by
  refine ⟨fun s w g p e pan place he hp small hplace => ?scrub, fun s => ⟨fun p temp ready power live => ⟨fun cool => ?cool, fun hot => ?hot⟩,
    fun hinted change => ?mode⟩⟩
  case scrub =>
    obtain ⟨⟨lines, rfl⟩, rfl, run⟩ := failing_place he hplace
    clear hplace
    subst he hp
    refine ⟨fun out raw f => ?raw, fun checked unread f => ?unread, fun on read => ⟨fun correct => ?one, fun checked => ?many⟩,
      fun fast absent f => ?absent, fun v x hx => ⟨?padOne, fun inside => ?padMany⟩⟩
    case raw =>
      obtain ⟨host, bs, granule, mem⟩ := scrubbed_of_raw out raw f
      exact ⟨_, run f, host, (congrArg MemSys.poison mem).trans rfl, (congrArg MemSys.lines mem).trans rfl,
        fun a far => (congrArg (fun m => memGet m.bytes a) mem).trans (memGet_memPutAll_out _ _ _ _ (by rwa [granule]))⟩
    case unread => exact (run f).trans (congrArg _ (scrubbed_of_unread checked unread f))
    case one =>
      obtain ⟨bytes, poison, region, lines, ce, ue⟩ := scrubbed_one_leaves (s := withLines s lines) on read small correct rfl
      exact ⟨_, run _, bytes, poison, region, lines, ce, ue⟩
    case many =>
      obtain ⟨bytes, poison, marked, lines, ue, raised⟩ := scrubbed_many_leaves (s := withLines s lines) on read small checked rfl
      exact ⟨_, run _, bytes, poison, marked, lines, ue, raised⟩
    case absent =>
      have skipped : pantryFault s g f = s := if_neg (by simp [fast, absent])
      exact congrArg (fun t => Host.Outcome.next (scrubbed g t)) skipped
    case padOne => exact congrArg Host.Outcome.next (padFault_one hx g)
    case padMany =>
      refine ⟨_, _, congrArg Host.Outcome.next (padFault_many hx g inside), ?_, rfl, ?_⟩
      · exact State.vc?_modVc s hx _
      · exact State.modVc_mem ..
  case cool =>
    obtain ⟨part, bytes⟩ := partReading_of_cool s p temp live cool
    refine ⟨_, exec_partTempSample ready power p temp, ?_⟩
    rw [part]
    refine ⟨rfl, live, rfl, ?_, bytes⟩
    dsimp only [throttles]
    split <;> exact decide_eq_true_iff
  case hot =>
    obtain ⟨fenced, failed, rest, raised⟩ := partReading_of_hot s p temp live hot
    exact ⟨_, rest, exec_partTempSample ready power p temp, fenced, failed, raised⟩
  case mode => exact congrArg Host.Outcome.next (if_neg (by simpa using change))

end Sys2Proof.Machine

namespace Sys2Proof.Machine

open Sys2Proof

/-! SUPPORT. The bytes of a flit, and what becomes of a flit that a link receives. -/

/-! ### Fields of a packed number -/

/-- What lies above a field does not show in it. -/
theorem add_mul_pow_field_low {k w m : Nat} (below : k + w ≤ m) (a b : Nat) : (a + b * 2 ^ m) / 2 ^ k % 2 ^ w = a / 2 ^ k % 2 ^ w := by
  obtain ⟨d, rfl⟩ := Nat.exists_eq_add_of_le below
  have above : b * 2 ^ (k + w + d) = 2 ^ k * (2 ^ w * (2 ^ d * b)) := by ring
  rw [above, Nat.add_mul_div_left _ _ (Nat.two_pow_pos k), Nat.add_mul_mod_self_left]

/-- A field above the lower part is a field of the upper one. -/
theorem add_mul_pow_field_high {a m : Nat} (fits : a < 2 ^ m) (b k w : Nat) : (a + b * 2 ^ m) / 2 ^ (m + k) % 2 ^ w = b / 2 ^ k % 2 ^ w := by
  rw [pow_add, ← Nat.div_div_eq_div_mul, Nat.add_mul_div_right _ _ (Nat.two_pow_pos m), Nat.div_eq_of_lt fits, Nat.zero_add]

/-- A number below another's end fits with it. -/
theorem add_mul_pow_lt {a b m w k : Nat} (top : m + w = k) (ha : a < 2 ^ m) (hb : b < 2 ^ w) : a + b * 2 ^ m < 2 ^ k := calc
  a + b * 2 ^ m < 2 ^ m + b * 2 ^ m := Nat.add_lt_add_right ha _
  _ = (b + 1) * 2 ^ m := by ring
  _ ≤ 2 ^ w * 2 ^ m := Nat.mul_le_mul_right _ hb
  _ = 2 ^ k := by rw [← top, pow_add, mul_comm]

/-- Byte `j` of a number. -/
theorem bits_byte (x j : Nat) : bits x (8 * j + 7) (8 * j) = x / 2 ^ (8 * j) % 2 ^ 8 := by
  rw [bits, Nat.shiftRight_eq_div_pow, show 8 * j + 7 + 1 - 8 * j = 8 by omega]

/-! ### Little-endian and big-endian numbers -/

/-- The number of which the first `n` bytes, least significant first, are given. -/
def leNum (f : Nat → Nat) (n : Nat) : Nat := (List.range n).foldl (fun a i => a + f i * 2 ^ (8 * i)) 0

section LeNum
variable {f : Nat → Nat} (bytes : ∀ i, f i < 2 ^ 8)

theorem leNum_succ (f : Nat → Nat) (n : Nat) : leNum f (n + 1) = leNum f n + f n * 2 ^ (8 * n) := by
  simp [leNum, List.range_succ]

include bytes

theorem leNum_lt (n : Nat) : leNum f n < 2 ^ (8 * n) := by
  induction n with
  | zero => exact Nat.one_pos
  | succ n ih =>
    rw [leNum_succ]
    exact add_mul_pow_lt (Nat.mul_succ 8 n).symm ih (bytes n)

/-- Each byte is read back. -/
theorem leNum_byte {n i : Nat} (hi : i < n) : leNum f n / 2 ^ (8 * i) % 2 ^ 8 = f i := by
  induction n with
  | zero => exact absurd hi (Nat.not_lt_zero i)
  | succ n ih =>
    rw [leNum_succ]
    rcases Nat.lt_succ_iff_lt_or_eq.mp hi with below | rfl
    · rw [add_mul_pow_field_low (by omega), ih below]
    · have own := add_mul_pow_field_high (leNum_lt bytes i) (f i) 0 8
      rwa [Nat.add_zero, pow_zero, Nat.div_one, Nat.mod_eq_of_lt (bytes i)] at own

end LeNum

/-- A number put together from its bytes, most significant first. -/
theorem foldl_bytes_eq_field {n k : Nat} (hk : k ≤ n) (x : Nat) :
    (List.range k).foldl (fun a i => a * 256 + x / 2 ^ (8 * (n - 1 - i)) % 2 ^ 8) 0 = x / 2 ^ (8 * (n - k)) % 2 ^ (8 * k) := by
  induction k with
  | zero => simp [Nat.mod_one]
  | succ k ih =>
    have split : 8 * (n - k) = 8 * (n - (k + 1)) + 8 := by omega
    have place : n - 1 - k = n - (k + 1) := by omega
    rw [List.range_succ, List.foldl_append, List.foldl_cons, List.foldl_nil, ih (by omega), place, split, pow_add, ← Nat.div_div_eq_div_mul,
      show 8 * (k + 1) = 8 + 8 * k by ring, pow_add, Nat.mod_mul]
    ring

/-- The bytes of a number, one by one. -/
theorem natToBytes_eq_map (n x : Nat) : natToBytes n x = (List.range n).map (fun i => BitVec.ofNat 8 (x / 2 ^ (8 * i))) := by
  induction n generalizing x with
  | zero => rfl
  | succ n ih =>
    rw [natToBytes, ih, List.range_succ_eq_map, List.map_cons, List.map_map]
    congr 1
    · simp
    · refine List.map_congr_left (fun i _ => ?_)
      rw [Function.comp_apply, Nat.div_div_eq_div_mul, show 8 * i.succ = 8 + 8 * i by omega, pow_add]
      rfl

/-- The bytes of a number in the other order: what a flit holds of a big-endian field of `n` bytes. -/
def swapBytes (n x : Nat) : Nat := leNum (fun i => x / 2 ^ (8 * (n - 1 - i)) % 2 ^ 8) n

theorem swapBytes_lt (n x : Nat) : swapBytes n x < 2 ^ (8 * n) := leNum_lt (fun _ => Nat.mod_lt _ (by decide)) n

/-- A number that fits is read back from its bytes in the other order. -/
theorem foldl_swapBytes {n x : Nat} (fits : x < 2 ^ (8 * n)) {g : Nat → Nat} (hg : ∀ i < n, g i = swapBytes n x / 2 ^ (8 * i) % 2 ^ 8) :
    (List.range n).foldl (fun a i => a * 256 + g i) 0 = x := by
  have same : (List.range n).foldl (fun a i => a * 256 + g i) 0 =
      (List.range n).foldl (fun a i => a * 256 + x / 2 ^ (8 * (n - 1 - i)) % 2 ^ 8) 0 := by
    refine List.foldl_ext _ _ _ (fun a i hi => ?_)
    have low : i < n := List.mem_range.mp hi
    rw [hg i low, swapBytes, leNum_byte (fun _ => Nat.mod_lt _ (by decide)) low]
  rw [same, foldl_bytes_eq_field le_rfl, Nat.sub_self, Nat.mul_zero, pow_zero, Nat.div_one, Nat.mod_eq_of_lt fits]

/-! ### Flits (R309) -/

/-- The bytes of a flit before its CRC. -/
def flitBody (hdr payload : Nat) : Nat := swapBytes 28 hdr + payload % 2 ^ 1792 * 2 ^ 224

/-- The CRC of a flit that is made. -/
def madeCrc (hdr payload : Nat) : Nat := (crc32 (natToBytes 252 (flitBody hdr payload))).toNat

theorem flitBody_lt (hdr payload : Nat) : flitBody hdr payload < 2 ^ 2016 :=
  add_mul_pow_lt (w := 1792) rfl (swapBytes_lt 28 hdr) (Nat.mod_lt _ (pow_pos two_pos _))

theorem madeCrc_lt (hdr payload : Nat) : madeCrc hdr payload < 2 ^ (8 * 4) := BitVec.isLt _

theorem mkFlit_eq (hdr payload : Nat) :
    mkFlit hdr payload = BitVec.ofNat 2048 (flitBody hdr payload + swapBytes 4 (madeCrc hdr payload) * 2 ^ 2016) := by
  have swaps (n x : Nat) : (List.range n).foldl (fun a i => a + bits x (8 * (n - 1 - i) + 7) (8 * (n - 1 - i)) * 2 ^ (8 * i)) 0 = swapBytes n x := by
    simp only [bits_byte]
    rfl
  rw [madeCrc, flitBody, ← swaps 28, ← swaps 4]
  rfl

theorem mkFlit_toNat (hdr payload : Nat) :
    (mkFlit hdr payload).toNat = flitBody hdr payload + swapBytes 4 (madeCrc hdr payload) * 2 ^ 2016 := by
  have whole {w x : Nat} (fits : x < 2 ^ w) : (BitVec.ofNat w x).toNat = x := by rw [BitVec.toNat_ofNat, Nat.mod_eq_of_lt fits]
  rw [mkFlit_eq]
  exact whole (add_mul_pow_lt rfl (flitBody_lt hdr payload) (swapBytes_lt 4 _))

theorem flitByte_eq (f : BitVec 2048) (i : Nat) : flitByte f i = f.toNat / 2 ^ (8 * i) % 2 ^ 8 := bits_byte f.toNat i

/-- A byte before the CRC. -/
theorem flitByte_mkFlit_body (hdr payload : Nat) {i : Nat} (hi : i < 252) :
    flitByte (mkFlit hdr payload) i = flitBody hdr payload / 2 ^ (8 * i) % 2 ^ 8 := by
  rw [flitByte_eq, mkFlit_toNat, add_mul_pow_field_low (by omega)]

/-- A flit made from a header carries it. -/
theorem flitHdr_mkFlit {hdr : Nat} (fits : hdr < 2 ^ 224) (payload : Nat) : flitHdr (mkFlit hdr payload) = hdr := by
  refine foldl_swapBytes (n := 28) fits (fun i hi => ?_)
  rw [flitByte_mkFlit_body _ _ (by omega), flitBody, add_mul_pow_field_low (by omega)]

/-- A flit made from a payload carries it. -/
theorem flitPayload_mkFlit (hdr : Nat) {payload : Nat} (fits : payload < 2 ^ 1792) : flitPayload (mkFlit hdr payload) = payload := by
  have field : flitPayload (mkFlit hdr payload) = (mkFlit hdr payload).toNat / 2 ^ (224 + 0) % 2 ^ 1792 := by
    rw [flitPayload, fld, bits, Nat.shiftRight_eq_div_pow]
  rw [field, mkFlit_toNat, add_mul_pow_field_low (by omega), flitBody, add_mul_pow_field_high (swapBytes_lt 28 hdr), pow_zero, Nat.div_one,
    Nat.mod_mod, Nat.mod_eq_of_lt fits]

/-- A flit that is made carries the CRC that its bytes give. -/
theorem flitCrc_mkFlit (hdr payload : Nat) : flitCrc (mkFlit hdr payload) = flitCrcField (mkFlit hdr payload) := by
  have given : flitCrc (mkFlit hdr payload) = madeCrc hdr payload := by
    rw [flitCrc, madeCrc, natToBytes_eq_map]
    refine congrArg (fun bs => (crc32 bs).toNat) (List.map_congr_left (fun i hi => BitVec.eq_of_toNat_eq ?_))
    rw [flitByte_mkFlit_body _ _ (List.mem_range.mp hi), BitVec.toNat_ofNat, BitVec.toNat_ofNat, Nat.mod_mod]
  have carried : flitCrcField (mkFlit hdr payload) = madeCrc hdr payload := by
    refine foldl_swapBytes (n := 4) (madeCrc_lt hdr payload) (fun i hi => ?_)
    rw [flitByte_eq, mkFlit_toNat, Nat.mul_add, add_mul_pow_field_high (flitBody_lt hdr payload)]
  rw [given, carried]

/-! ### Flits received (R311) -/

section Receive
variable {s : State} {n : Nat} {f : BitVec 2048} {lane : Option Nat} (up : (s.link n).st = .up)
include up

/-- A flit with a bad CRC is counted, against its lane too, and asked for again. -/
theorem exec_flitReceive_of_bad (bad : flitCrc f ≠ flitCrcField f) {s1 : State}
    (hs1 : s1 = laneError (s.modLink n (fun l => { l with crcErr := satInc l.crcErr, nak := true })) n lane) :
    exec (.flitReceive n ⟨f, lane⟩) s = .next (if isUp s1 n then sendIdle s1 n else s1) := by
  subst hs1
  change execFlitReceive n ⟨f, lane⟩ s = _
  simp only [execFlitReceive, isUp, up, beq_self_eq_true, Bool.not_true, Bool.false_eq_true, if_false, bad, ne_eq, not_false_eq_true, if_true]

/-- A good flit is an IDLE flit, out of sequence, or the one expected. -/
theorem exec_flitReceive_of_good (good : flitCrc f = flitCrcField f) :
    exec (.flitReceive n ⟨f, lane⟩) s = .next (
      if hdrType (flitHdr f) = 0 then takeAck s n (flitHdr f)
      else if hdrSeq (flitHdr f) ≠ (s.link n).rxSeq.toNat then sendIdle (s.modLink n (fun l => { l with nak := true })) n
      else
        let t := settle (routeFlit ((takeAck s n (flitHdr f)).modLink n (fun l => { l with rxSeq := l.rxSeq + 1, unacked := l.unacked + 1 })) (some n) f)
        if 32 ≤ (t.link n).unacked then sendIdle t n else t) := by
  change execFlitReceive n ⟨f, lane⟩ s = _
  simp only [execFlitReceive, isUp, up, beq_self_eq_true, Bool.not_true, Bool.false_eq_true, if_false, good, ne_eq, not_true_eq_false]

/-- ACK_TIMER on a link that is UP. -/
theorem exec_ackTimer_of_up : exec (.ackTimer n) s =
    .next (if 0 < (s.link n).unacked ∨ (s.link n).nak = true then sendIdle s n else s) := by
  change execAckTimer n s = _
  simp only [execAckTimer, up, true_and]

end Receive

/-- Settles O35: a flit by its CRC, its type and its place in the sequence, then ACK_TIMER, then what a made flit carries. -/
theorem flitsAreTakenInOrder : Obligations.FlitsAreTakenInOrder := by
  refine ⟨fun s n up => ⟨fun f lane s1 bad hs1 => exec_flitReceive_of_bad up bad hs1, fun f h lane good hh => ?_, fun due => ?_,
    fun acked quiet => ?_⟩,
    fun hdr payload hfits pfits => ⟨flitHdr_mkFlit hfits payload, flitPayload_mkFlit hdr pfits, flitCrc_mkFlit hdr payload⟩⟩
  · have run := exec_flitReceive_of_good (lane := lane) up good
    subst hh
    refine ⟨fun idle => ?idle, fun sequenced late => ?late, fun s1 sequenced next hs1 => ?expected⟩
    case idle => rw [run, if_pos idle]
    case late => rw [run, if_neg sequenced, if_pos late]
    case expected => rw [run, if_neg sequenced, if_neg (not_not_intro next), hs1]
  · rw [exec_ackTimer_of_up up, if_pos due]
  · rw [exec_ackTimer_of_up up, if_neg (by simp [acked, quiet])]

end Sys2Proof.Machine

namespace Sys2Proof.Machine

open Sys2Proof

/-! SUPPORT. A nanosecond of the clocks, the Starter store, and a SEND at its target and at its sender. -/

/-! ### A nanosecond (R327) -/

/-- What a nanosecond does to the clocks outside OFF. -/
def passNanosecond (t : Time) : Time :=
  let now := decide (t.slew ≠ 0) && decide (t.up.toNat % 10000 = 0)
  let adv : Nat := if now then (if 0 < t.slew then 2 else 0) else 1
  { t with up := t.up + 1, pt := t.pt + BitVec.ofNat 64 adv, slew := if now then (if 0 < t.slew then t.slew - 1 else t.slew + 1) else t.slew }

section Nanosecond
variable {s : State} {t : Time}

theorem step_of_empty (empty : s.pending = []) : step s = .next (tick s) := by
  simp only [step, empty]
theorem tick_of_off (off : s.pwr.st = .off) : tick s = s := if_pos off
theorem tick_of_powered (powered : s.pwr.st ≠ .off) : tick s = s.modTime passNanosecond := if_neg powered

/-- Between the instants of a slew Pod Time advances with the oscillator. -/
theorem passNanosecond_of_steady (steady : t.slew = 0 ∨ t.up.toNat % 10000 ≠ 0) :
    passNanosecond t = { t with up := t.up + 1, pt := t.pt + 1 } := by
  have still : (decide (t.slew ≠ 0) && decide (t.up.toNat % 10000 = 0)) = false := by
    rcases steady with settled | between
    · simp [settled]
    · simp [between]
  simp only [passNanosecond, still, Bool.false_eq_true, if_false]
  rfl

/-- At the instants of a slew it advances by two or not at all. -/
theorem passNanosecond_of_slew (due : t.up.toNat % 10000 = 0) (slewing : t.slew ≠ 0) :
    passNanosecond t = { t with
      up := t.up + 1, pt := t.pt + if 0 < t.slew then 2 else 0, slew := if 0 < t.slew then t.slew - 1 else t.slew + 1 } := by
  have now : (decide (t.slew ≠ 0) && decide (t.up.toNat % 10000 = 0)) = true := by simp [due, slewing]
  simp only [passNanosecond, now, if_true]
  split <;> rfl

end Nanosecond

/-- Settles O2: the tick in OFF, and outside it by whether a correction is slewed in at this instant. -/
theorem emptyQueuePassesOneNanosecond : Obligations.EmptyQueuePassesOneNanosecond := by
  refine fun s empty => ⟨tick s, step_of_empty empty, tick_of_off, fun powered => ?_⟩
  rw [tick_of_powered powered]
  refine ⟨rfl, rfl, fun settled => ?settled, fun _ between => ?between, fun forward due => ?forward, fun back due => ?back, rfl⟩ <;>
    rw [State.modTime_time]
  case settled =>
    rw [passNanosecond_of_steady (.inl settled)]
    exact ⟨rfl, settled⟩
  case between =>
    rw [passNanosecond_of_steady (.inr between)]
    exact ⟨rfl, rfl⟩
  case forward =>
    rw [passNanosecond_of_slew due forward.ne']
    exact ⟨by rw [if_pos forward], if_pos forward⟩
  case back =>
    rw [passNanosecond_of_slew due back.ne]
    exact ⟨by rw [if_neg back.not_gt]; exact BitVec.add_zero .., if_neg back.not_gt⟩

/-! ### The Starter store (R344) -/

section Starter
variable {s : State} {f : StarterFlit} {x : StarterRx}

@[simp] theorem withPoison_length (p : List Byte × List (Nat × Policy)) : (withPoison p).length = p.1.length := List.length_mapIdx

/-- A source without slots is refused with 0x3502. -/
theorem exec_starterReceive_of_unknown (unknown : tget s.fab.starter.rx f.src = none) :
    exec (.starterReceive f) s = .next (raiseDev s 0x3502 (data3 0 f.src f.step.toNat)) := by
  change execStarterReceive f s = _
  simp only [execStarterReceive, starterLand, unknown, Option.getD_some]

variable (known : tget s.fab.starter.rx f.src = some x)
include known

/-- So are bytes outside the slots of their source. -/
theorem exec_starterReceive_of_outside (a : inSlot x.a f.da f.data.length = false) (b : inSlot x.b f.da f.data.length = false) :
    exec (.starterReceive f) s = .next (raiseDev s 0x3502 (data3 0 f.src f.step.toNat)) := by
  change execStarterReceive f s = _
  simp only [execStarterReceive, starterLand, known, withPoison_length, a, b, Bool.not_false, Bool.and_self, Bool.true_or, if_true,
    Option.getD_some]

/-- Bytes of slot A land, and its step is that of the flit once the last has come. -/
theorem exec_starterReceive_of_slotA (a : inSlot x.a f.da f.data.length = true) (allowed : accessRefusal s .starter f.da f.data.length = none)
    (ready : accessWaits s f.da f.data.length = false) {t : State}
    (ht : t = (devWrite s f.da (withPoison (f.data, f.poison))).modFab (fun b => { b with
      starter := { b.starter with rx := tput b.starter.rx f.src { x with
        aStep := if f.last then some f.step else none,
        current := if f.last then some false else if x.current == some false then none else x.current } } })) :
    exec (.starterReceive f) s = .next (if f.last then t.emit (.starterConfirm f.src f.step) else t) := by
  subst ht
  change execStarterReceive f s = _
  simp only [execStarterReceive, starterLand, known, withPoison_length, a, allowed, ready, Bool.not_true, Bool.false_and, Option.isSome_none,
    Bool.or_self, Bool.false_eq_true, if_false, if_true, Option.getD_some]

end Starter

/-- Settles O40: a source without slots, bytes outside them, bytes of slot A by whether they are the last, and the confirmation. -/
theorem starterFlitsFillTheirSlot : Obligations.StarterFlitsFillTheirSlot := by
  refine fun s => ⟨fun f => exec_starterReceive_of_unknown, fun f x known => ⟨exec_starterReceive_of_outside known, fun a allowed ready => ?_⟩,
    fun step => rfl⟩
  rw [exec_starterReceive_of_slotA known a allowed ready rfl]
  refine ⟨fun last => ?last, fun more current => ?more⟩
  case last => simp only [last, if_true]
  case more =>
    obtain ⟨xa, xb, aStep, bStep, xcur⟩ := x
    simp only at current
    subst current
    simp [more]

/-! ### A SEND at its target (R334 to R336) -/

section Arrival
variable {s s1 : State} {m : SendMsg} {c : Ctx} {x : Vcore}

theorem takeArrived_of_none (quiet : s.fab.arrived = []) : takeArrived s = s := by
  rw [takeArrived, quiet, List.foldl_nil]
  rw [← quiet]
  rfl

/-- A message that lands alone empties the inbox. -/
theorem landInbox_of_landed {t : State} (only : s.fab.inbox = [(m, none)]) (lands : landSend s m = some t) :
    landInbox s = t.modFab (fun b => { b with inbox := [] }) := by
  simp only [landInbox, only, List.foldl_cons, List.foldl_nil, List.any_nil, Bool.false_eq_true, if_false, lands]
  rfl

/-- One without room for its token stays in it. -/
theorem landInbox_of_waiting (only : s.fab.inbox = [(m, none)]) (waits : landSend s m = none) : landInbox s = s := by
  simp only [landInbox, only, List.foldl_cons, List.foldl_nil, List.any_nil, Bool.false_eq_true, if_false, waits, List.nil_append]
  rw [← only]
  rfl

/-- A message that comes alone lands, or waits. -/
theorem exec_sendArrival_of_alone (inbox : s.fab.inbox = []) (arrived : s.fab.arrived = [])
    (hs1 : s1 = s.modFab (fun b => { b with inbox := [(m, none)] })) :
    exec (.sendArrival m) s = .next (takeArrived (landInbox s1)) := by
  have taken : takeArrived s1 = s1 := takeArrived_of_none (by rw [hs1]; exact arrived)
  have enters : s.modFab (fun b => { b with inbox := b.inbox ++ [(m, none)] }) = s1 := by
    rw [hs1]
    simp only [State.modFab, inbox, List.nil_append]
  change execSendArrival m s = _
  simp only [execSendArrival, inbox, List.any_nil, Bool.false_eq_true, if_false, enters, settle, taken]

section Target
variable (hc : s.ctx? m.ctx = some c) (hx : tget c.vcs m.vc = some x) (live : coreInReset s x.core = false)
include hc hx live

theorem landSend_of_target : landSend s m =
    if c.job.toNat ≠ m.job ∨ x.winSize < m.addr + m.data.length then some (refuseSend s m)
    else if !arrivalRoom x then none
    else some (answerSend ((spWrite s ⟨m.ctx, m.vc⟩ 0 false m.addr (withPoison (m.data, m.poison))).modVc ⟨m.ctx, m.vc⟩
      (fun y => pushArrival y { val := BitVec.ofNat 32 m.addr, tag := BitVec.ofNat 16 m.tag })) m false) := by
  have there : s.vc? ⟨m.ctx, m.vc⟩ = some x := s.vc?_of hc hx
  have takes : absorbs s ⟨m.ctx, m.vc⟩ = false := by simp only [absorbs, there, live]
  simp only [landSend, hc, there, takes, Bool.false_eq_true, if_false]

end Target

/-- A refusal at a context that exists raises 0x3305 for it. -/
theorem refuseSend_of_ctx (hc : s.ctx? m.ctx = some c) :
    refuseSend s m = answerSend (raiseCtx s 0x3305 m.ctx (data3 0 m.src (curStep s c.part).toNat)) m true := by
  simp only [refuseSend, hc, Option.isSome_some, if_true, ctxPart]

end Arrival

/-! ### The answer of a SEND (R334, R335) -/

theorem exec_sendAck_of_waiting {s : State} {w : SendWait} (waits : sendOf s w.msgid = some w) (refused : Bool) :
    exec (.sendAck w.msgid refused) s = .next (endSend s w (if refused then some 0x3305 else none)) := by
  change execSendAck w.msgid refused s = _
  simp only [execSendAck, takeSendAck, waits]

theorem exec_sendTimeout_of_waiting {s : State} {w : SendWait} (waits : sendOf s w.msgid = some w) :
    exec (.sendTimeout w.msgid) s = .next (if w.at_ + s.fab.sendTmo.toNat * 1000 ≤ s.now then
      endSend (raiseCtx s 0x3306 w.v.ctx (data3 0 w.dst (curStep s (ctxPart s w.v.ctx)).toNat)) w (some 0x3306) else s) := by
  change execSendTimeout w.msgid s = _
  simp only [execSendTimeout, waits]

/-- Settles O38: the message by what its target finds wrong with it and by the room for its token, then the answer and its time limit. -/
theorem sendLandsAndIsAnswered : Obligations.SendLandsAndIsAnswered := by
  refine ⟨fun s s1 m c x inbox arrived hs1 hc hx live => ?_, fun s w waits => ⟨exec_sendAck_of_waiting waits, fun late => ?_, fun early => ?_⟩⟩
  · have run := exec_sendArrival_of_alone inbox arrived hs1
    have hc1 : s1.ctx? m.ctx = some c := by rw [hs1]; exact hc
    have lands := landSend_of_target hc1 hx (by rw [hs1]; exact live)
    have only : s1.fab.inbox = [(m, none)] := by rw [hs1]; rfl
    refine ⟨fun job inside room => ?lands, fun job inside full => ?waits, fun wrong => ?refused⟩
    case lands =>
      rw [if_neg (by simp [job, inside]), if_neg (by simp [room])] at lands
      rw [run, landInbox_of_landed only lands]
    case waits =>
      rw [if_neg (by simp [job, inside]), if_pos (by simp [full])] at lands
      rw [run, landInbox_of_waiting only lands, takeArrived_of_none (by rw [hs1]; exact arrived)]
    case refused =>
      rw [if_pos wrong, refuseSend_of_ctx hc1] at lands
      rw [run, landInbox_of_landed only lands, hs1]
      rfl
  · rw [exec_sendTimeout_of_waiting waits, if_pos late]
  · rw [exec_sendTimeout_of_waiting waits, if_neg early.not_ge]

end Sys2Proof.Machine

namespace Sys2Proof.Machine

open Sys2Proof

/-! SUPPORT. What the bodies of the fabric commands answer (R382). -/

/-! ### Fields of a field -/

/-- A field of a field of a number. -/
theorem bits_bits {hi lo h l : Nat} (inside : lo + h ≤ hi) (order : l ≤ h) (x : Nat) : bits (bits x hi lo) h l = bits x (lo + h) (lo + l) := by
  have parts := add_mul_pow_field_low (k := l) (w := h + 1 - l) (m := hi + 1 - lo) (by omega) (x / 2 ^ lo % 2 ^ (hi + 1 - lo))
    (x / 2 ^ lo / 2 ^ (hi + 1 - lo))
  rw [mul_comm, Nat.mod_add_div] at parts
  simp only [bits, Nat.shiftRight_eq_div_pow]
  rw [← parts, Nat.div_div_eq_div_mul, ← pow_add, show lo + h + 1 - (lo + l) = h + 1 - l by omega]

/-- A bit of a field of a number. -/
theorem bit_bits {hi lo i : Nat} (inside : lo + i ≤ hi) (x : Nat) : bit (bits x hi lo) i = bit x (lo + i) := by
  simp only [bit, bits, Nat.testBit_mod_two_pow, Nat.testBit_shiftRight, show i < hi + 1 - lo by omega, decide_true, Bool.true_and]

/-! ### A link that is changed twice -/

/-- Of two writes to one key the later stays. -/
@[simp] theorem tput_tput_same {α : Type} (t : Tab α) (a : Nat) (v w : α) : tput (tput t a v) a w = tput t a w := by
  induction t with
  | nil => simp [tput]
  | cons p t ih =>
    obtain ⟨k, u⟩ := p
    rcases lt_trichotomy a k with lt | rfl | gt
    · simp [tput, lt]
    · simp [tput]
    · simp [tput, gt.not_gt, gt.ne', ih]

theorem State.modLink_modLink (s : State) (n : Nat) (f g : Link → Link) : (s.modLink n f).modLink n g = s.modLink n (fun l => g (f l)) := by
  simp [State.modLink, State.modFab, tmod]

/-- Only the link's own value matters to its change. -/
theorem State.modLink_congr (s : State) {n : Nat} {f g : Link → Link} (same : f (s.link n) = g (s.link n)) : s.modLink n f = s.modLink n g :=
  congrArg (fun l => s.modFab (fun b => { b with links := tput b.links n l })) same

/-- Training starts on a link that is enabled. -/
theorem trainLink_of_enabled {s : State} {n : Nat} (enabled : (s.link n).en = true) :
    trainLink s n = s.modLink n (fun l => { l with st := .train }) :=
  s.modLink_congr (if_pos enabled)

/-! ### The bodies of the commands -/

section Bodies
variable {s : State} {o : Origin} {e : Entry} {n k : Nat}

/-- LINK_CTL without a reason to train. -/
theorem cmdLinkCtl_of_settled (hk : k = fld e 69 64) (asked : bit e.toNat 71 = false)
    (settled : bit e.toNat 70 = false ∨ (s.link k).en = true ∨ (s.link k).st ≠ .off ∨ (s.link k).lit = false) :
    cmdLinkCtl.body s o e n = (s.modLink k (fun l => { l with en := bit e.toNat 70, ptEn := bit e.toNat 72 }),
      some (0, linkCode (s.link k).st)) := by
  have stays : (bit e.toNat 71 || (bit e.toNat 70 && !(s.link k).en && (s.link k).st == .off && (s.link k).lit)) = false := by
    rcases settled with off | on | there | dark
    · simp [asked, off]
    · simp [asked, on]
    · simp [asked, there]
    · simp [asked, dark]
  simp only [cmdLinkCtl, ← hk, stays, Bool.false_eq_true, if_false, State.link_modLink, ok]

/-- LINK_CTL that enables a link and trains it: it was asked to, or the link was off and lit. -/
theorem cmdLinkCtl_of_training (hk : k = fld e 69 64) (enable : bit e.toNat 70 = true)
    (trains : bit e.toNat 71 = true ∨ (s.link k).en = false ∧ (s.link k).st = .off ∧ (s.link k).lit = true) :
    cmdLinkCtl.body s o e n = (s.modLink k (fun l => { l with en := true, ptEn := bit e.toNat 72, st := .train }), some (0, 1)) := by
  have goes : (bit e.toNat 71 || (bit e.toNat 70 && !(s.link k).en && (s.link k).st == .off && (s.link k).lit)) = true := by
    rcases trains with asked | ⟨was, off, lit⟩
    · simp [asked]
    · simp [enable, was, off, lit]
  simp only [cmdLinkCtl, ← hk, goes, if_true, ok]
  rw [trainLink_of_enabled (by rw [State.link_modLink]; exact enable), State.modLink_modLink, State.link_modLink, enable]
  rfl

/-- FABRIC_SET with reserved bits clear writes what its selection names. -/
theorem cmdFabricSet_of_valid {sel : Nat → Bool} (hsel : ∀ i, sel i = bit e.toNat (256 + i))
    (id : sel 0 = true → fld e 79 76 = 0 ∧ bit e.toNat 87 = false ∧ fld e 127 120 = 0) (arb : sel 1 = true → fld e 191 164 = 0)
    (tmo : sel 2 = true → fld e 255 216 = 0) (right : o ≠ .oob ∨ sel 1 = false ∧ sel 2 = false) :
    cmdFabricSet.body s o e n = (s.modFab (fun f => { f with
      podNext := if sel 0 then BitVec.ofNat 6 (fld e 85 80) else f.podNext, stdwire := if sel 0 then bit e.toNat 86 else f.stdwire,
      arb := if sel 1 then BitVec.ofNat 64 (fld e 191 128) else f.arb,
      sendTmo := if sel 2 then BitVec.ofNat 24 (fld e 215 192) else f.sendTmo }), some (0, 0)) := by
  have mayAct : (o == .oob && (sel 1 || sel 2)) = false := by
    rcases right with ring | ⟨noArb, noTmo⟩
    · simp [ring]
    · simp [noArb, noTmo]
  have low : bits (fld e 127 64) 15 12 = fld e 79 76 := bits_bits (by decide) (by decide) _
  have gap : bit (fld e 127 64) 23 = bit e.toNat 87 := bit_bits (by decide) _
  have high : bits (fld e 127 64) 63 56 = fld e 127 120 := bits_bits (by decide) (by decide) _
  have arbHigh : bits (fld e 191 128) 63 36 = fld e 191 164 := bits_bits (by decide) (by decide) _
  have tmoHigh : bits (fld e 255 192) 63 24 = fld e 255 216 := bits_bits (by decide) (by decide) _
  have pod : bits (fld e 127 64) 21 16 = fld e 85 80 := bits_bits (by decide) (by decide) _
  have wire : bit (fld e 127 64) 22 = bit e.toNat 86 := bit_bits (by decide) _
  have tmoLow : BitVec.ofNat 24 (fld e 255 192) = BitVec.ofNat 24 (fld e 215 192) := by
    have same : bits (fld e 255 192) 23 0 = fld e 215 192 := bits_bits (by decide) (by decide) _
    rw [← same]
    simp [bits, ← BitVec.toNat_inj]
  have clean : ((sel 0 && (bits (fld e 127 64) 15 12 != 0 || bit (fld e 127 64) 23 || bits (fld e 127 64) 63 56 != 0)) ||
      (sel 1 && bits (fld e 191 128) 63 36 != 0) || (sel 2 && bits (fld e 255 192) 63 24 != 0)) = false := by
    rw [low, gap, high, arbHigh, tmoHigh]
    simp only [Bool.or_eq_false_iff, Bool.and_eq_false_imp, bne_eq_false_iff_eq]
    refine ⟨⟨fun h => ?_, arb⟩, tmo⟩
    obtain ⟨a, b, c⟩ := id h
    exact ⟨⟨a, b⟩, c⟩
  simp only [cmdFabricSet, ← hsel, mayAct, clean, Bool.false_eq_true, if_false, pod, wire, tmoLow, ok]

/-- The clocks after PT_SET's source and synchronisation values (R382). -/
def setSource (e : Entry) (t : Time) : Time :=
  let t := if bit e.toNat 416 then { t with tmSrc := BitVec.ofNat 2 (fld e 65 64), tmPrio := BitVec.ofNat 8 (fld e 73 66) } else t
  if bit e.toNat 417 then { t with syncNext := BitVec.ofNat 64 (fld e 191 128), syncPeriod := BitVec.ofNat 64 (fld e 255 192) } else t

/-- PT_SET without a beat change takes effect at once. -/
theorem cmdPtSet_of_source (noBeat : bit e.toNat 418 = false) (known : bit e.toNat 416 = true → fld e 65 64 ≠ 3) :
    cmdPtSet.body s o e n = (s.modTime (setSource e), some (0, 0)) := by
  have valid : (bit e.toNat 416 && fld e 65 64 == 3) = false := by simpa using known
  change _ = (({ s with time := setSource e s.time } : State), some (0, 0))
  simp only [cmdPtSet, Nat.add_zero, Nat.reduceAdd, noBeat, valid, Bool.false_and, Bool.or_self, Bool.false_eq_true, if_false, ok, setSource]
  split <;> split <;> rfl

/-- PT_SET of a beat alone, at the leader, for a mark at least two beats away. -/
theorem cmdPtSet_of_beat (beat : bit e.toNat 418 = true) (noSource : bit e.toNat 416 = false) (noSync : bit e.toNat 417 = false)
    (allowed : beatOk (BitVec.ofNat 32 (fld e 287 256)) = true) (up : s.fab.podup = true) (leads : s.fab.leader.toNat = s.devId)
    (far : s.time.beatNum.toNat + 2 ≤ fld e 415 352) (free : s.time.beatPend = none) :
    cmdPtSet.body s o e n = ((s.modTime (fun t => { t with
        beatPend := some ⟨BitVec.ofNat 32 (fld e 287 256), BitVec.ofNat 64 (fld e 351 288), fld e 415 352, some o⟩ })).emit
      (.beatChange (BitVec.ofNat 32 (fld e 287 256)) (BitVec.ofNat 64 (fld e 351 288)) (BitVec.ofNat 64 (fld e 415 352))), none) := by
  simp [cmdPtSet, beat, noSource, noSync, allowed, up, leads, far.not_gt, free, later]

/-- A collective of group `k` is in progress. -/
def groupBusy (s : State) (k : Nat) : Bool := s.fab.colls.any (fun c => c.group == k && !c.done)

theorem groupBusy_eq_false : groupBusy s k = false ↔ ∀ c ∈ s.fab.colls, c.group = k → c.done = true := by
  simp [groupBusy]
theorem groupBusy_eq_true : groupBusy s k = true ↔ ∃ c ∈ s.fab.colls, c.group = k ∧ c.done = false := by
  simp [groupBusy]

theorem cmdCgroupSet_of_free (hk : k = fld e 71 64) (rank : fld e 95 84 ≤ fld e 83 72)
    (own : ∀ x, tget s.fab.groups k = some x → x.owner = n) (idle : groupBusy s k = false) :
    cmdCgroupSet.body s o e n = (s.modFab (fun f => { f with groups := tput f.groups k {
      owner := n, rank := fld e 95 84,
      members := (List.range (fld e 83 72 + 1)).map (fun i => memberOf (memNat s.host.bytes (fld e 159 96 + 8 * i) 8)) } }), some (0, 0)) := by
  have idle' : s.fab.colls.any (fun c => c.group == k && !c.done) = false := idle
  have inGroup : ¬ fld e 83 72 + 1 ≤ fld e 95 84 := by omega
  cases found : tget s.fab.groups k with
  | none => simp only [cmdCgroupSet, ← hk, inGroup, if_false, found, idle', Bool.or_self, Bool.false_eq_true, ok, hostNat]
  | some x =>
    have mine : (x.owner != n) = false := by simpa using own x found
    simp only [cmdCgroupSet, ← hk, inGroup, if_false, found, mine, idle', Bool.or_self, Bool.false_eq_true, ok, hostNat]

theorem cmdCgroupSet_of_busy (hk : k = fld e 71 64) (rank : fld e 95 84 ≤ fld e 83 72) (busy : groupBusy s k = true) :
    cmdCgroupSet.body s o e n = (s, some (4, 0)) := by
  have busy' : s.fab.colls.any (fun c => c.group == k && !c.done) = true := busy
  have inGroup : ¬ fld e 83 72 + 1 ≤ fld e 95 84 := by omega
  simp only [cmdCgroupSet, ← hk, inGroup, if_false, busy', Bool.or_true, if_true, bad]

section Clear
variable {x : CGroup} (hk : k = fld e 71 64) (found : tget s.fab.groups k = some x)
include hk found

theorem cmdCgroupClear_of_other (other : x.owner ≠ n) : cmdCgroupClear.body s o e n = (s, some (3, 0)) := by
  simp only [cmdCgroupClear, ← hk, found, bne_iff_ne, ne_eq, other, not_false_eq_true, if_true, bad]

/-- The group's own partition clears it, at once or after its last collective. -/
theorem cmdCgroupClear_of_own (own : x.owner = n) (first : x.clearing = none) : cmdCgroupClear.body s o e n =
    if groupBusy s k then (s.modFab (fun f => { f with groups := tput f.groups k { x with clearing := some o } }), none)
    else (s.modFab (fun f => { f with groups := tdel f.groups k }), some (0, 0)) := by
  simp only [cmdCgroupClear, ← hk, found, own, bne_self_eq_false, Bool.false_eq_true, if_false, first, Option.isSome_none, later, ok]
  rfl

end Clear

theorem cmdStarterRecv_of_ranges (a : starterRange s (fld e 146 128) (fld e 165 147) = true)
    (b : starterRange s (fld e 210 192) (fld e 229 211) = true) :
    cmdStarterRecv.body s o e n = (s.modFab (fun f => { f with starter := { f.starter with rx := tput f.starter.rx (fld e 75 64) {
      a := (fld e 146 128, fld e 165 147), b := (fld e 210 192, fld e 229 211) } } }), some (0, 0)) := by
  simp only [cmdStarterRecv, a, b, Bool.and_self, if_true, ok]

theorem cmdStarterRecv_of_otherRange (a : starterRange s (fld e 146 128) (fld e 165 147) = false) :
    cmdStarterRecv.body s o e n = (s, some (2, 0)) := by
  simp only [cmdStarterRecv, a, Bool.false_and, Bool.false_eq_true, if_false, bad]

/-- STARTER_SET with reserved bits clear waits for the next commit; an interval of 0 steps is refused. -/
theorem cmdStarterSet_of_clear (low : fld e 79 77 = 0) (high : fld e 127 104 = 0) : cmdStarterSet.body s o e n =
    if fld e 87 80 = 0 then (s, some (2, 0))
    else (s.modFab (fun f => { f with starter := { f.starter with next := some (BitVec.ofNat 64 (fld e 127 64)) } }), some (0, 0)) := by
  have low' : bits (fld e 127 64) 15 13 = fld e 79 77 := bits_bits (by decide) (by decide) _
  have high' : bits (fld e 127 64) 63 40 = fld e 127 104 := bits_bits (by decide) (by decide) _
  have every : bits (fld e 127 64) 23 16 = fld e 87 80 := bits_bits (by decide) (by decide) _
  simp only [cmdStarterSet, low', low, high', high, every, bne_self_eq_false, Bool.false_or, beq_iff_eq, bad, ok]

end Bodies

/-- Settles O49: each command by what its body answers to its entry. -/
theorem fabricCommandsTakeEffect : Obligations.FabricCommandsTakeEffect := by
  rintro s r o e n k sel rfl rfl
  refine ⟨fun runs hk => ⟨fun asked settled => next_of_answer runs (cmdLinkCtl_of_settled hk asked settled),
      fun enable trains => next_of_answer runs (cmdLinkCtl_of_training hk enable trains)⟩,
    fun runs hsel id arb tmo right => next_of_answer runs (cmdFabricSet_of_valid hsel id arb tmo right),
    fun runs noBeat known => ?source,
    fun runs beat noSource noSync allowed up leads far free =>
      next_of_later runs (cmdPtSet_of_beat beat noSource noSync allowed up leads far free),
    fun runs hk => ⟨fun rank own idle => next_of_answer runs (cmdCgroupSet_of_free hk rank own (groupBusy_eq_false.mpr idle)),
      fun rank busy => next_of_answer runs (cmdCgroupSet_of_busy hk rank (groupBusy_eq_true.mpr busy))⟩,
    fun x runs hk found => ⟨fun other => next_of_answer runs (cmdCgroupClear_of_other hk found other), fun own first => ⟨fun idle => ?idle, fun busy => ?busy⟩⟩,
    fun runs => ⟨fun a b => next_of_answer runs (cmdStarterRecv_of_ranges a b), fun a => next_of_answer runs (cmdStarterRecv_of_otherRange a)⟩,
    fun runs low high => ⟨fun every => ?every, fun never => ?never⟩⟩
  case source =>
    refine ⟨(setRunning s o).modTime (setSource e), next_of_answer runs (cmdPtSet_of_source noBeat known), rfl, ?_⟩
    rw [State.modTime_time, setSource]
    split <;> split <;> exact ⟨rfl, rfl, rfl, rfl, rfl, rfl⟩
  case idle => exact next_of_answer runs ((cmdCgroupClear_of_own hk found own first).trans (if_neg (by simp [groupBusy_eq_false.mpr idle])))
  case busy => exact next_of_later runs ((cmdCgroupClear_of_own hk found own first).trans (if_pos (groupBusy_eq_true.mpr busy)))
  case every => exact next_of_answer runs ((cmdStarterSet_of_clear low high).trans (if_neg every))
  case never => exact next_of_answer runs ((cmdStarterSet_of_clear low high).trans (if_pos never))

end Sys2Proof.Machine

namespace Sys2Proof.Machine

open Sys2Proof

/-! SUPPORT. Events on their way to the host, MSI-X messages held back, and management messages. -/

/-! ### Event records (R374) -/

theorem severity_lt (code : Nat) : severity code < 4 := by
  unfold severity
  split
  · decide
  · split
    · decide
    · split <;> decide

section Record
variable (s : State) (e : Event)

/-- The context and the partition that a record names. -/
def recordCtx : Nat := match e.ctx with | some k => 2 ^ 5 + k % 64 * 2 ^ 6 | none => 0
def recordPart : Nat := match e.part with | some n => n % 64 | none => 0x3F

/-- The fields of a record below its code. -/
def recordHead : Nat := severity e.code.toNat * 2 + b2n e.ptv * 2 ^ 4 + recordCtx e + recordPart e * 2 ^ 12 + s.fab.slot.toNat * 2 ^ 18

theorem eventRecord_eq : eventRecord s e = recordHead s e + e.code.toNat * 2 ^ 32 + e.pt.toNat * 2 ^ 64 + e.data.toNat * 2 ^ 128 := rfl

theorem recordCtx_mul : ∃ c < 2 ^ 7, recordCtx e = c * 2 ^ 5 := by
  unfold recordCtx
  split
  next k _ => exact ⟨1 + k % 64 * 2, by omega, by ring⟩
  next => exact ⟨0, by decide, rfl⟩

theorem recordPart_lt : recordPart e < 64 := by
  unfold recordPart
  split
  · exact Nat.mod_lt _ (by decide)
  · decide

/-- They end before it, and the severity stands in bits 3 to 1. -/
theorem recordHead_fields : recordHead s e < 2 ^ 32 ∧ recordHead s e / 2 % 8 = severity e.code.toNat := by
  have sev := severity_lt e.code.toNat
  have valid := b2n_lt e.ptv
  have slot := s.fab.slot.isLt
  have part := recordPart_lt e
  obtain ⟨c, hc, ctx⟩ := recordCtx_mul e
  rw [recordHead, ctx]
  omega

theorem eventRecord_code : bits (eventRecord s e) 47 32 = e.code.toNat := by
  obtain ⟨low, -⟩ := recordHead_fields s e
  have code := e.code.isLt
  rw [eventRecord_eq, bits, Nat.shiftRight_eq_div_pow]
  omega

theorem eventRecord_severity : bits (eventRecord s e) 3 1 = severity e.code.toNat := by
  obtain ⟨-, sev⟩ := recordHead_fields s e
  rw [eventRecord_eq, bits, Nat.shiftRight_eq_div_pow]
  omega

end Record
/-! ### Posting (R374 to R376) -/

theorem signal_fab (s : State) (fn vec : Nat) : (signal s fn vec).fab = s.fab := by
  unfold signal
  dsimp only
  split
  · rfl
  · split
    · rfl
    · split
      · split <;> rfl
      · rfl

theorem putRecord_fab (s : State) (fn ch rec_ : Nat) : (putRecord s fn ch rec_).fab = s.fab := by
  unfold putRecord
  exact (State.modChan_fab ..).trans (State.modHost_fab ..)

/-- The delivery of a record leaves the fabric alone. -/
theorem deliverEvent_fab (s : State) (rec_ fn ch : Nat) : (deliverEvent s rec_ fn ch).fab = s.fab := by
  unfold deliverEvent
  extract_lets +lift c code told put
  have noted : told.fab = s.fab := by
    unfold told
    split
    · exact (State.modChan_fab ..).trans (putRecord_fab ..)
    · rfl
  have placed : put.fab = s.fab := by
    unfold put
    split
    · exact (putRecord_fab ..).trans noted
    · exact (State.modChan_fab ..).trans noted
  split
  · rfl
  · split
    · exact (signal_fab ..).trans placed
    · exact placed

/-! What becomes of a record at its channel. -/

section Deliver
variable {s : State} {rec_ fn ch : Nat} {c : Chan} (hc : c = s.chan fn ch)
include hc

/-- A disabled ring discards it, and so does EVENT_MASK by its class or its severity. -/
theorem deliverEvent_of_unwanted (unwanted : c.evrEn = false ∨ c.maskClass.getLsbD (bits rec_ 47 32 / 4096 - 1) = true ∨
    bits rec_ 3 1 < c.maskSev.toNat) : deliverEvent s rec_ fn ch = s := by
  subst hc
  refine if_pos ?_
  rcases unwanted with off | kind | low
  · simp [off]
  · simp [kind]
  · simp [low]

section Wanted
variable (on : c.evrEn = true) (kind : c.maskClass.getLsbD (bits rec_ 47 32 / 4096 - 1) = false) (high : c.maskSev.toNat ≤ bits rec_ 3 1)
include on kind high

/-- A full ring counts it lost. -/
theorem deliverEvent_of_full (full : 2 ^ c.evrLog2.toNat ≤ (c.evrHead - c.evrTail).toNat) :
    deliverEvent s rec_ fn ch = s.modChan fn ch (fun c => { c with evrLost := satInc c.evrLost, lostNew := c.lostNew + 1 }) := by
  subst hc
  have noRoom : evrRoom (s.chan fn ch) = false := decide_eq_false full.not_gt
  simp [deliverEvent, on, kind, high.not_gt, noRoom]

/-- Else it goes to the head, where nothing has been lost. -/
theorem deliverEvent_of_room (room : (c.evrHead - c.evrTail).toNat < 2 ^ c.evrLog2.toNat) (noLoss : c.lostNew = 0) (quiet : c.evrIen = false) :
    deliverEvent s rec_ fn ch = putRecord s fn ch rec_ := by
  subst hc
  have hasRoom : evrRoom (s.chan fn ch) = true := decide_eq_true room
  simp [deliverEvent, on, kind, high.not_gt, hasRoom, noLoss, quiet]

end Wanted
end Deliver

section Post
variable {s u : State} {e : Event} {rest : List Event} {c : Chan}

/-- An event whose ring cannot be written waits (R355). -/
theorem exec_eventPost_of_unready (only : s.host.raised = [e]) (unready : eventReady s e = false) : exec .eventPost s = .next s := by
  change execEventPost s = _
  simp only [execEventPost, only, List.find?_cons, unready, List.find?_nil, ite_self]

/-- A first event of device scope goes to PF0's channel alone, where it is no platform event and no pod is up. -/
theorem exec_eventPost_of_device (up : awake s = true) (first : s.host.raised = e :: rest) (scope : e.part = none)
    (inBand : isPlatformEvent e = false) (alone : s.fab.podup = false) (hu : u = s.modHost (fun h => { h with raised := rest }))
    (ready : (s.chan 0 s.fab.slot.toNat).evrEn = false ∨ canDma s 0 = true) :
    exec .eventPost s = .next (deliverEvent u (eventRecord s e) 0 s.fab.slot.toNat) := by
  have chans (t : State) : eventChans t e = [(0, t.fab.slot.toNat)] := by simp only [eventChans, scope]
  have goes : eventReady s e = true := by
    rw [eventReady, chans]
    rcases ready with off | dma
    · simp [off]
    · simp [dma]
  have taken : s.modHost (fun h => { h with raised := h.raised.erase e }) = u := by
    rw [hu]
    simp only [State.modHost, first, List.erase_cons_head]
  have fab : u.fab = s.fab := by rw [hu]; rfl
  have record : eventRecord u e = eventRecord s e := by simp only [eventRecord_eq, recordHead, fab]
  change execEventPost s = _
  simp only [execEventPost, up, Bool.not_true, Bool.false_eq_true, if_false, first, List.find?_cons, goes, taken, chans, List.foldl_cons,
    List.foldl_nil, inBand, deliverEvent_fab, fab, record, alone, Bool.false_and]

end Post
/-! ### MSI-X messages held back (R378) -/

section Msix
variable {s : State} {fn vec t : Nat} {w : Vec} (hw : w = tgetD (s.fn fn).vecs vec {}) (last : w.lastAt = some t) (held : w.moderated = true)
include hw last held

theorem exec_msixModerationExpiry_of_early (early : s.now < t + 1000 * vecImod s fn vec) : exec (.msixModerationExpiry fn vec) s = .next s := by
  subst hw
  change execMsixModerationExpiry fn vec s = _
  simp only [execMsixModerationExpiry, last, held, decide_eq_false early.not_ge, Bool.and_false, Bool.false_eq_true, if_false]

/-- When the interval is over a message goes, or becomes pending where it may not. -/
theorem exec_msixModerationExpiry_of_ended (ended : t + 1000 * vecImod s fn vec ≤ s.now) : exec (.msixModerationExpiry fn vec) s = .next (
    if w.masked || !canSend (s.fn fn) then
      s.modFn fn (fun f => { f with vecs := tmod f.vecs vec {} (fun w => { w with pend := true, moderated := false }) })
    else sendVec s fn vec) := by
  subst hw
  change execMsixModerationExpiry fn vec s = _
  simp only [execMsixModerationExpiry, last, held, decide_eq_true ended, Bool.and_self, if_true]

end Msix

/-- The vector of a function after a change of it. -/
theorem tget_vecs_modFn (s : State) (fn vec : Nat) (g : Vec → Vec) :
    tget ((s.modFn fn (fun f => { f with vecs := tmod f.vecs vec {} g })).fn fn).vecs vec = some (g (tgetD (s.fn fn).vecs vec {})) := by
  rw [State.fn_modFn, tmod, tget_tput_same]

/-! ### Management messages (R320, R367, R393) -/

/-- Only the ring's own value matters to its change. -/
theorem State.modRing_congr (s : State) {fn ch r : Nat} {f g : Ring → Ring} (same : f (s.ring fn ch r) = g (s.ring fn ch r)) :
    s.modRing fn ch r f = s.modRing fn ch r g :=
  congrArg (fun y => s.modHost (fun h => { h with fns := tput h.fns fn { s.fn fn with
    chans := tput (s.fn fn).chans ch { s.chan fn ch with rings := tput (s.chan fn ch).rings r y } } })) same

/-- A ring whose command is finished with an answer. -/
def answered (e : Entry) (status result : Nat) (x : Ring) : Ring := { x with
  running := false, done := some ⟨BitVec.ofNat 16 (fld e 31 16), BitVec.ofNat 8 status, BitVec.ofNat 64 result⟩ }

section Remote
variable {s : State} {slot r : Nat} {e : Entry} {l : List Entry}

theorem finish_ring_of_fetched {fn : Nat} (fetched : (s.ring fn slot r).fetched = e :: l) (status result : Nat) :
    finish s (.ring fn slot r) status result = s.modRing fn slot r (answered e status result) := by
  have cid : originEntry s (.ring fn slot r) = some e := by simp only [originEntry, fetched, List.head?_cons]
  simp only [finish, cid]
  exact s.modRing_congr (if_neg (by simp [fetched]))

/-- The answer of the member finishes the command that runs there. -/
theorem exec_mgmtMessage_of_completion (runs : (s.ring 0 slot r).running = true) (fetched : (s.ring 0 slot r).fetched = e :: l) (c : BitVec 128) :
    exec (.mgmtMessage slot (.completion r c)) s = .next (s.modRing 0 slot r (answered e (fld c 23 16) (fld c 127 64))) := by
  rw [← finish_ring_of_fetched fetched]
  exact congrArg Host.Outcome.next (if_pos runs)

/-- A member that cannot be reached fails the one command that runs there. -/
theorem exec_mgmtMessage_of_unreachable {x : Ring} (only : (s.chan 0 slot).rings = [(r, x)]) (runs : x.running = true)
    (fetched : x.fetched = e :: l) :
    exec (.mgmtMessage slot .unreachable) s = .next (raiseDev (s.modRing 0 slot r (answered e 0x0C 0)) 0x6503 0) := by
  have ring : s.ring 0 slot r = x := by simp [State.ring, only, tgetD, tget]
  rw [← finish_ring_of_fetched (by rw [ring]; exact fetched)]
  change execMgmtMessage slot .unreachable s = _
  simp only [execMgmtMessage, only, List.filter_cons, runs, if_true, List.filter_nil, List.foldl_cons, List.foldl_nil]

end Remote

/-- Settles O42: the doorbell, an event by its channel, MSI-X by the interval, then management messages by their kind. -/
theorem eventsAndMessagesReachTheHost : Obligations.EventsAndMessagesReachTheHost := by
  refine fun s => ⟨fun fn ch value powered up => ?doorbell, fun e rest c u up first scope inBand alone hc hu => ?post,
    fun e only unready => exec_eventPost_of_unready only unready, fun fn vec w t hw last held => ?msix,
    fun slot r e => ⟨fun known => congrArg _ (if_pos known), fun unknown => congrArg _ (if_neg (Bool.eq_false_iff.mp unknown))⟩,
    fun slot r c e l runs fetched => exec_mgmtMessage_of_completion runs fetched c, fun slot rec_ => rfl,
    fun slot r x e l only runs fetched => ?unreachable⟩
  case doorbell => exact congrArg Host.Outcome.next (if_neg (by simp [powered, up]))
  case post =>
    have run := exec_eventPost_of_device up first scope inBand alone hu
    have hcu : c = u.chan 0 s.fab.slot.toNat := by rw [hc, hu]; rfl
    have code := eventRecord_code s e
    have sev := eventRecord_severity s e
    rw [← hc] at run
    refine ⟨fun unwanted => ?unwanted, fun dma on kind high => ?wanted⟩
    case unwanted =>
      have ready : c.evrEn = false ∨ canDma s 0 = true := unwanted.imp_right (fun masked => masked.elim And.left And.left)
      refine (run ready).trans (congrArg _ (deliverEvent_of_unwanted hcu ?_))
      rw [code, sev]
      exact unwanted.imp_right (fun masked => masked.imp And.right And.right)
    case wanted =>
      rw [← code] at kind
      rw [← sev] at high
      exact ⟨fun full => (run (.inr dma)).trans (congrArg _ (deliverEvent_of_full hcu on kind high full)),
        fun room noLoss quiet => (run (.inr dma)).trans (congrArg _ ((deliverEvent_of_room hcu on kind high room noLoss quiet).trans (by
          rw [putRecord, ← hcu]
          rfl)))⟩
  case msix =>
    refine ⟨fun early => exec_msixModerationExpiry_of_early hw last held early, fun ended open_ may => ?sent, fun ended barred => ?pending⟩
    case sent =>
      refine ⟨_, (exec_msixModerationExpiry_of_ended hw last held ended).trans (congrArg _ (if_neg (by simp [open_, may]))), rfl, ?_⟩
      rw [hw]
      exact tget_vecs_modFn ..
    case pending =>
      refine ⟨_, (exec_msixModerationExpiry_of_ended hw last held ended).trans (congrArg _ (if_pos (by simpa using barred))), rfl, ?_⟩
      rw [hw]
      exact tget_vecs_modFn ..
  case unreachable =>
    refine ⟨_, exec_mgmtMessage_of_unreachable only runs fetched, ?_⟩
    have ring := s.ring_modRing 0 slot r (answered e 0x0C 0)
    exact ⟨congrArg Ring.running ring, congrArg Ring.done ring, rfl⟩

end Sys2Proof.Machine

namespace Sys2Proof.Machine

open Sys2Proof

/-! SUPPORT. Pod Time as it follows its source, the election of the time master, beat marks and alarms. -/

/-! ### Time exchanges and holdover (R330, R331) -/

section Exchange
variable {s s1 : State}

section Live
variable {l : Nat} (slave : s.time.isTm = false) (tree : s.fab.upstream = some l) (up : (s.link l).st = .up) (pt : (s.link l).ptEn = true)
  (hs1 : s1 = s.emit (.timeExchange l)) (offset : Int)
include slave tree up pt hs1

/-- Before PT_VALID an exchange sets Pod Time. -/
theorem exec_timeExchange_of_invalid (invalid : s.time.valid = false) : exec (.timeExchange offset) s = .next (s1.modTime (fun t => {
    setPt t ((t.pt.toNat : Int) - toNs offset).toNat with
      offset := satSigned16 (toNs offset), lastExchange := ((t.pt.toNat : Int) - toNs offset).toNat })) := by
  subst hs1
  change execTimeExchange offset s = _
  simp only [execTimeExchange, tree, isUp, up, pt, slave, beq_self_eq_true, Bool.and_self, Bool.not_true, Bool.or_self, Bool.false_eq_true,
    if_false, State.emit_time, invalid, Bool.not_false, if_true]

/-- Afterwards it is slewed in. -/
theorem exec_timeExchange_of_valid (valid : s.time.valid = true) : exec (.timeExchange offset) s = .next (
    (if 4000 < offset.natAbs then raiseDev s1 0x3105 (data3 0 s.fab.tm.toNat (toNs offset).natAbs) else s1).modTime (fun t => { t with
      offset := satSigned16 (toNs offset), slew := -toNs offset, lastExchange := t.pt.toNat, holdover := false,
      lock := decide (offset.natAbs ≤ 4 * ptBound s) })) := by
  have bound (c : Prop) [Decidable c] (data : Nat) : ptBound (if c then raiseDev s1 0x3105 data else s1) = ptBound s := by
    rw [hs1]
    split <;> rfl
  have tm : (s.emit (.timeExchange l)).fab.tm = s.fab.tm := rfl
  subst hs1
  change execTimeExchange offset s = _
  simp only [execTimeExchange, tree, isUp, up, pt, slave, beq_self_eq_true, Bool.and_self, Bool.not_true, Bool.or_self, Bool.false_eq_true,
    if_false, State.emit_time, valid, tm, bound]

end Live

theorem exec_holdoverTimeout_of_follower (slave : s.time.isTm = false) (valid : s.time.valid = true) (held : s.time.holdover = false) :
    exec .holdoverTimeout s = .next (if s.now < s.time.lastExchange + 3000000 then s
      else (raiseDev s 0x3102 (data3 0 s.fab.tm.toNat 0)).modTime (fun t => { t with lock := false, holdover := true })) := by
  change execHoldoverTimeout s = _
  simp [execHoldoverTimeout, slave, valid, held]

end Exchange

/-! ### PT_SYNC and PT_REF (R329) -/

section Sync
variable {s : State} (master : s.time.isTm = true) (source : s.time.tmSrc = 2)
include master source

theorem exec_ptSyncEdge_of_invalid (invalid : s.time.valid = false) : exec .ptSyncEdge s = .next (s.modTime (fun t => {
    setPt t s.time.syncNext.toNat with syncOk := true, syncNext := t.syncNext + t.syncPeriod })) := by
  change execPtSyncEdge s = _
  simp only [execPtSyncEdge, master, source, Bool.not_true, bne_self_eq_false, Bool.or_self, Bool.false_eq_true, if_false, invalid,
    Bool.not_false, if_true]

/-- A later edge is slewed in where it is near enough, and else ignored. -/
theorem exec_ptSyncEdge_of_valid (valid : s.time.valid = true) : exec .ptSyncEdge s = .next (
    if ((s.time.syncNext.toNat : Int) - s.time.pt.toNat).natAbs ≤ 1000 then s.modTime (fun t => { t with
      slew := (s.time.syncNext.toNat : Int) - s.time.pt.toNat, syncOk := true, syncNext := t.syncNext + t.syncPeriod })
    else (raiseDev s 0x3104 (data3 0 s.devId 0)).modTime (fun t => { t with syncOk := false })) := by
  change execPtSyncEdge s = _
  simp only [execPtSyncEdge, master, source, Bool.not_true, bne_self_eq_false, Bool.or_self, Bool.false_eq_true, if_false, valid]
  rfl

end Sync

section Ref
variable (s : State)

/-- What the pod knows of REF_OK is kept aside of the clocks and of what decides an election. -/
theorem noteRef_keeps (dev : Nat) (ok : Bool) : (noteRef s dev ok).time = s.time ∧ (noteRef s dev ok).devId = s.devId ∧
    (noteRef s dev ok).fab.podup = s.fab.podup ∧ (noteRef s dev ok).fab.tm = s.fab.tm := by
  unfold noteRef
  extract_lets +lift noted
  split <;> exact ⟨rfl, rfl, rfl, rfl⟩

theorem refElect_eq (dev : Nat) (ok : Bool) : refElect s dev ok =
    if s.fab.podup = true ∧ (ok = true ∨ s.fab.tm.toNat = dev) then electMaster s (!ok) [] else s := by
  simp only [refElect, Bool.and_eq_true, Bool.or_eq_true, beq_iff_eq]

/-- The clocks of a module that has lost PT_REF: a master reports it and holds over. -/
def refLost : State :=
  if !s.time.isTm then s.modTime (fun t => { t with refOk := false })
  else (raiseDev s 0x3103 (data3 0 s.devId 0)).modTime (fun t => { t with refOk := false, holdover := true })

theorem refLost_eq : refLost s =
    if s.time.isTm then (raiseDev s 0x3103 (data3 0 s.devId 0)).modTime (fun t => { t with refOk := false, holdover := true })
    else s.modTime (fun t => { t with refOk := false }) := by
  unfold refLost
  cases s.time.isTm <;> rfl

theorem refLost_fab : (refLost s).fab = s.fab := by
  unfold refLost
  split <;> rfl

theorem exec_ptRefLoss {s2 : State} (hs2 : s2 = refLost (noteRef s s.devId false)) :
    exec .ptRefLoss s = .next (if s.fab.podup = true ∧ s.fab.tm.toNat = s.devId then electMaster s2 true [] else s2) := by
  obtain ⟨-, dev, podup, tm⟩ := noteRef_keeps s s.devId false
  have fab : s2.fab = (noteRef s s.devId false).fab := by rw [hs2, refLost_fab]
  have dev2 : s2.devId = s.devId := by rw [← dev, State.devId, fab]; rfl
  have lost : exec .ptRefLoss s = .next (refElect s2 s2.devId false) := by
    rw [hs2]
    rfl
  rw [lost, refElect_eq, dev2, fab, podup, tm]
  simp only [Bool.false_eq_true, false_or, Bool.not_false]

theorem exec_ptRefReturn_of_alone (alone : s.fab.podup = false) : exec .ptRefReturn s = .next ((noteRef s s.devId true).modTime (fun t => { t with
    refOk := true, holdover := if s.time.isTm then false else s.time.holdover })) := by
  obtain ⟨time, -, podup, -⟩ := noteRef_keeps s s.devId true
  have back : (noteRef s s.devId true).modTime (fun t => { t with refOk := true, holdover := if t.isTm then false else t.holdover }) =
      (noteRef s s.devId true).modTime (fun t => { t with refOk := true, holdover := if s.time.isTm then false else s.time.holdover }) := by
    simp only [State.modTime, time]
  change execPtRefReturn s = _
  simp only [execPtRefReturn, back, refElect_eq]
  rw [if_neg (by rw [State.modTime_fab, podup, alone]; simp)]

theorem exec_mgmtMessage_of_refState (slot : Nat) {dev : Nat} (ok : Bool) (other : dev ≠ s.devId) :
    exec (.mgmtMessage slot (.refState dev ok)) s = .next (
      if s.fab.podup = true ∧ (ok = true ∨ s.fab.tm.toNat = dev) then electMaster (noteRef s dev ok) (!ok) [] else noteRef s dev ok) := by
  obtain ⟨-, -, podup, tm⟩ := noteRef_keeps s dev ok
  have heard : exec (.mgmtMessage slot (.refState dev ok)) s = .next (refElect (noteRef s dev ok) dev ok) := congrArg Host.Outcome.next (if_neg other)
  rw [heard, refElect_eq, podup, tm]

end Ref

/-! ### The time master (R328) -/

/-- A candidate: its device id, its TM_PRIO and its REF_OK. -/
abbrev Candidate := Nat × Nat × Bool

/-- Candidate `b` is at least as good as `c`: by TM_PRIO, then by REF_OK, then by the lower device id. -/
def AtLeast (b c : Candidate) : Prop := c.2.1 ≤ b.2.1 ∧ (c.2.1 = b.2.1 → (c.2.2 = true → b.2.2 = true) ∧ (c.2.2 = b.2.2 → b.1 ≤ c.1))

/-- Candidate `a` is better than `b`. -/
def outranks (a b : Candidate) : Bool :=
  decide (b.2.1 < a.2.1) || (a.2.1 == b.2.1 && ((a.2.2 && !b.2.2) || (a.2.2 == b.2.2 && decide (a.1 < b.1))))

/-- The better of the best so far and another candidate. -/
def keepBest : Option Candidate → Candidate → Option Candidate
  | none, c => some c
  | some b, c => if outranks c b then some c else some b

theorem bestOf_eq_foldl (cs : List Candidate) : bestOf cs = (cs.foldl keepBest none).map Prod.fst := by
  have same : keepBest = fun (m : Option Candidate) c => match m with
      | none => some c
      | some b => if outranks c b then some c else some b := by
    funext m c
    cases m <;> rfl
  rw [same]
  rfl

theorem AtLeast.refl (b : Candidate) : AtLeast b b := ⟨le_rfl, fun _ => ⟨fun ok => ok, fun _ => le_rfl⟩⟩

theorem AtLeast.trans {a b c : Candidate} (h : AtLeast a b) (g : AtLeast b c) : AtLeast a c := by
  obtain ⟨da, pa, ra⟩ := a
  obtain ⟨db, pb, rb⟩ := b
  obtain ⟨dc, pc, rc⟩ := c
  obtain ⟨hp, heq⟩ := h
  obtain ⟨gp, geq⟩ := g
  refine ⟨gp.trans hp, fun same => ?_⟩
  obtain ⟨hr, hd⟩ := heq (le_antisymm hp (same.symm.le.trans gp))
  obtain ⟨gr, gd⟩ := geq (le_antisymm gp (hp.trans same.symm.le))
  refine ⟨fun ok => hr (gr ok), fun ref => ?_⟩
  have middle : rc = rb := by
    cases rb with
    | true => exact ref.trans (hr rfl)
    | false => exact Bool.eq_false_iff.mpr (fun ok => Bool.false_ne_true (gr ok))
  exact (hd (middle.symm.trans ref)).trans (gd middle)

/-- A better candidate is at least as good. -/
theorem atLeast_of_outranks {a b : Candidate} (h : outranks a b = true) : AtLeast a b := by
  obtain ⟨da, pa, ra⟩ := a
  obtain ⟨db, pb, rb⟩ := b
  simp only [outranks, Bool.or_eq_true, decide_eq_true_eq, Bool.and_eq_true, beq_iff_eq] at h
  rcases h with prio | ⟨same, ⟨ok, no⟩ | ⟨ref, dev⟩⟩
  · exact ⟨prio.le, fun same => absurd same prio.ne⟩
  · exact ⟨same.symm.le, fun _ => ⟨fun _ => ok, fun ref => by simp_all⟩⟩
  · exact ⟨same.symm.le, fun _ => ⟨fun r => ref.trans r, fun _ => dev.le⟩⟩

/-- So is one that the other does not outrank. -/
theorem atLeast_of_not_outranks {a b : Candidate} (h : outranks b a = false) : AtLeast a b := by
  obtain ⟨da, pa, ra⟩ := a
  obtain ⟨db, pb, rb⟩ := b
  simp only [outranks, Bool.or_eq_false_iff, decide_eq_false_iff_not, Bool.and_eq_false_imp, beq_iff_eq] at h
  obtain ⟨prio, tie⟩ := h
  refine ⟨Nat.le_of_not_lt prio, fun same => ?_⟩
  obtain ⟨ref, dev⟩ := tie same
  exact ⟨fun ok => by simpa using ref ok, fun r => Nat.le_of_not_lt (dev r)⟩

/-- Among candidates one is kept that is at least as good as all. -/
theorem foldl_keepBest (cs : List Candidate) (b : Candidate) :
    ∃ d ∈ b :: cs, cs.foldl keepBest (some b) = some d ∧ ∀ c ∈ b :: cs, AtLeast d c := by
  induction cs generalizing b with
  | nil => exact ⟨b, List.mem_singleton_self b, rfl, fun c hc => List.mem_singleton.mp hc ▸ AtLeast.refl b⟩
  | cons a cs ih =>
    cases better : outranks a b with
    | true =>
      obtain ⟨d, mem, kept, best⟩ := ih a
      refine ⟨d, List.mem_cons_of_mem b mem, (congrArg (cs.foldl keepBest) (if_pos better)).trans kept, fun c hc => ?_⟩
      rcases List.mem_cons.mp hc with rfl | later
      · exact (best a List.mem_cons_self).trans (atLeast_of_outranks better)
      · exact best c later
    | false =>
      obtain ⟨d, mem, kept, best⟩ := ih b
      have step : keepBest (some b) a = some b := if_neg (by simp [better])
      refine ⟨d, ?_, (congrArg (cs.foldl keepBest) step).trans kept, fun c hc => ?_⟩
      · exact (List.mem_cons.mp mem).elim (fun e => e ▸ List.mem_cons_self) (fun e => List.mem_cons_of_mem b (List.mem_cons_of_mem a e))
      · rcases List.mem_cons.mp hc with rfl | rest
        · exact best c List.mem_cons_self
        · rcases List.mem_cons.mp rest with rfl | later
          · exact (best b List.mem_cons_self).trans (atLeast_of_not_outranks better)
          · exact best c (List.mem_cons_of_mem b later)

/-- The master that is elected is at least as good as every candidate. -/
theorem bestOf_atLeast {cs : List Candidate} {d : Nat} (elected : bestOf cs = some d) : ∃ b ∈ cs, b.1 = d ∧ ∀ c ∈ cs, AtLeast b c := by
  rw [bestOf_eq_foldl] at elected
  cases cs with
  | nil => exact absurd elected nofun
  | cons b cs =>
    obtain ⟨m, mem, kept, best⟩ := foldl_keepBest cs b
    have first : ((b :: cs).foldl keepBest none) = some m := kept
    rw [first] at elected
    exact ⟨m, mem, Option.some.inj elected, best⟩

/-! ### Beat marks and alarms (R332, R333) -/

section Mark
variable {s : State}

/-- The Ringmaster's own count of beats, outside CAROUSEL. -/
def countBeat (s : State) : State := if s.pwr.st = .carousel then s else s.modMgmt (fun m => { m with rmHb := m.rmHb + 1 })

/-- The heartbeats of a pod at a mark: this module's, and those that the others owe. -/
def heartbeats (s : State) : State :=
  let t := if s.fab.podup && s.pwr.st != .carousel then s.emit (.heartbeat s.devId) else s
  if t.fab.podup then t.modFab (fun b => { b with
    missed := (b.memberList.filter (· != t.devId)).foldl (fun u m => tmod u m 0 (· + 1)) b.missed }) else t

/-- What a mark changes once its heartbeats are noted. -/
def endMark (s : State) (beat mark : Nat) : State :=
  applyBeatChange (openFirst (swapConfigs (((countStalls s).modMem (fun m => { m with
    parts := tmap m.parts (fun _ p => { p with ceRaised := false }) })).modPwr (fun p => { p with inputRaised := false })) beat mark) mark) mark

theorem exec_beatMark_of_early (early : s.now < nextMark s.time) : exec .beatMark s = .next s :=
  congrArg Host.Outcome.next (if_pos (by simp [early]))

theorem exec_beatMark_of_reached {mark : Nat} (hmark : mark = nextMark s.time) (beats : s.time.beatPeriod ≠ 0) (reached : mark ≤ s.now)
    (powered : s.pwr.st ≠ .off) {beat : Word64} (hbeat : beat = beatAt s.time.beatPeriod s.time.beatOrigin mark) :
    exec .beatMark s = .next (endMark (heartbeats (countBeat (s.modTime (fun t => { t with beatNum := beat, lastMark := mark })))) beat.toNat mark) := by
  subst hmark hbeat
  have goes : ¬ (s.time.beatPeriod = 0 || s.now < nextMark s.time || s.pwr.st = .off) = true := by
    simp only [decide_eq_false beats, decide_eq_false reached.not_gt, decide_eq_false powered, Bool.or_self, Bool.false_eq_true,
      not_false_eq_true]
  exact congrArg Host.Outcome.next (if_neg goes)

theorem heartbeats_of_alone (alone : s.fab.podup = false) : heartbeats s = s := by
  simp [heartbeats, alone]

theorem heartbeats_of_pod (up : s.fab.podup = true) : heartbeats s =
    (if s.pwr.st = .carousel then s else s.emit (.heartbeat s.devId)).modFab (fun b => { b with
      missed := (b.memberList.filter (· != s.devId)).foldl (fun u m => tmod u m 0 (· + 1)) b.missed }) := by
  by_cases wheel : s.pwr.st = .carousel
  · simp [heartbeats, up, wheel]
  · have there : (s.emit (.heartbeat s.devId)).fab.podup = true := up
    simp only [heartbeats, up, Bool.true_and, bne_iff_ne, ne_eq, wheel, not_false_eq_true, if_true, there, if_false]
    rfl

end Mark

/-! Alarms. -/

/-- A bit that is set reads as set. -/
theorem getLsbD_setFld_one {w : Nat} (x : BitVec w) {k : Nat} (hk : k < w) : (setFld x k k 1).getLsbD k = true := by
  have sum : setBits x.toNat k k 1 = 2 ^ k + setBits x.toNat k k 0 := by
    simp only [setBits, Nat.add_sub_cancel_left, pow_one, Nat.zero_mod, Nat.zero_mul, Nat.add_zero, Nat.one_mod, Nat.one_mul]
    exact Nat.add_comm ..
  have clear : (setBits x.toNat k k 0).testBit k = false := bit_setBits_zero x.toNat k
  rw [setFld, BitVec.getLsbD_ofNat, sum, Nat.testBit_two_pow_add_eq, clear, decide_eq_true hk]
  rfl

/-- A bit that is cleared reads as clear. -/
theorem getLsbD_setFld_zero {w : Nat} (x : BitVec w) (k : Nat) : (setFld x k k 0).getLsbD k = false := by
  have clear : (setBits x.toNat k k 0).testBit k = false := bit_setBits_zero x.toNat k
  rw [setFld, BitVec.getLsbD_ofNat, clear, Bool.and_false]

section Alarm
variable {s : State} {k : Nat}

/-- The state once alarm `k` has fired. -/
def alarmFired (s : State) (k : Nat) : State :=
  (s.modTime (fun t => { t with fired := setFld t.fired k k 1, arm := setFld t.arm k k 0 })).modPwr (fun p => { p with
    alarmEdge := decide (p.st ≠ .run) })

theorem exec_ptAlarm_of_come (armed : s.time.arm.getLsbD k = true) (powered : s.pwr.st ≠ .off)
    (come : (tgetD s.time.alm k 0).toNat ≤ s.now) : exec (.ptAlarm k) s = .next (alarmFired s k) :=
  congrArg Host.Outcome.next (if_pos (by simp only [armed, decide_eq_true come, bne_iff_ne.mpr powered, Bool.and_self]))

theorem exec_ptAlarm_of_early (early : s.now < (tgetD s.time.alm k 0).toNat) : exec (.ptAlarm k) s = .next s :=
  congrArg Host.Outcome.next (if_neg (by simp only [decide_eq_false early.not_ge, Bool.and_false, Bool.false_and, Bool.false_eq_true,
    not_false_eq_true]))

theorem exec_ptAlarm_of_unarmed (unarmed : s.time.arm.getLsbD k = false) : exec (.ptAlarm k) s = .next s :=
  congrArg Host.Outcome.next (if_neg (by simp [unarmed]))

end Alarm

/-- Settles O37: exchanges, holdover, PT_SYNC and PT_REF, the election, then marks, beat changes and alarms. -/
theorem podTimeAndBeats : Obligations.PodTimeAndBeats := by
  refine ⟨fun s => ⟨?exchange, fun slave valid held => ?holdover, fun master source => ?sync, ?loss,
    exec_ptRefReturn_of_alone s, ?ref, ?best⟩, fun s => ⟨exec_beatMark_of_early, ?mark, ?change, ?alarm⟩⟩
  case exchange =>
    intro l offset ns s1 slave tree up pt hns hs1
    subst hns
    exact ⟨fun invalid => ⟨_, exec_timeExchange_of_invalid slave tree up pt hs1 offset invalid, rfl, by rw [hs1]; rfl, rfl, rfl, rfl⟩,
      exec_timeExchange_of_valid slave tree up pt hs1 offset⟩
  case holdover =>
    rw [exec_holdoverTimeout_of_follower slave valid held]
    exact ⟨fun late => congrArg _ (if_neg late.not_gt), fun early => congrArg _ (if_pos early)⟩
  case sync =>
    exact ⟨exec_ptSyncEdge_of_invalid master source,
      fun valid near => (exec_ptSyncEdge_of_valid master source valid).trans (congrArg _ (if_pos near)),
      fun valid far => (exec_ptSyncEdge_of_valid master source valid).trans (congrArg _ (if_neg far.not_ge))⟩
  case loss =>
    intro s1 s2 hs1 hs2
    obtain ⟨time, dev, -, -⟩ := noteRef_keeps s s.devId false
    refine exec_ptRefLoss s (hs2.trans ?_)
    rw [refLost_eq, time, dev, hs1]
  case ref =>
    intro slot dev ok s1 other hs1
    rw [hs1]
    exact exec_mgmtMessage_of_refState s slot ok other
  case best =>
    intro cs d elected
    obtain ⟨⟨dev, prio, ok⟩, mem, rfl, best⟩ := bestOf_atLeast elected
    exact ⟨prio, ok, mem, best⟩
  case mark =>
    intro mark beat car s1 s2 s3 hmark hbeat hcar beats reached powered hs1 hs2 hs3
    have counted : s2 = countBeat s1 := by
      rw [hs2, hcar, countBeat, hs1]
      by_cases wheel : s.pwr.st = .carousel <;> simp [wheel]
    have keeps : s2.fab = s.fab ∧ s2.pwr = s.pwr := by
      rw [counted, countBeat, hs1]
      split <;> exact ⟨rfl, rfl⟩
    obtain ⟨fab, pwr⟩ := keeps
    have dev : s2.devId = s.devId := by simp only [State.devId, fab]
    have noted : s3 = heartbeats s2 := by
      cases up : s.fab.podup with
      | false => rw [hs3, up, heartbeats_of_alone (by rw [fab, up]), if_neg Bool.false_ne_true]
      | true =>
        rw [hs3, up, heartbeats_of_pod (by rw [fab, up]), if_pos rfl, dev, pwr, hcar]
        simp only [beq_iff_eq]
    rw [exec_beatMark_of_reached hmark beats reached powered hbeat, ← hs1, ← counted, ← noted]
    rfl
  case change =>
    intro period origin beat allowed later unplanned
    have goes : ¬ (!beatOk period || decide (beat.toNat ≤ s.time.beatNum.toNat)) = true := by simp [allowed, later]
    refine congrArg Host.Outcome.next ((if_neg goes).trans ?_)
    simp only [State.modTime, unplanned]
  case alarm =>
    intro k hk armed powered
    refine ⟨fun come => ⟨alarmFired s k, exec_ptAlarm_of_come armed powered come, getLsbD_setFld_one _ hk, getLsbD_setFld_zero _ k, rfl,
      exec_ptAlarm_of_unarmed (getLsbD_setFld_zero _ k)⟩, exec_ptAlarm_of_early⟩

end Sys2Proof.Machine

namespace Sys2Proof.Machine

open Sys2Proof

/-! SUPPORT. Lanes and lasers, the training of a link, and its loss. -/

/-! ### Lanes and lasers (R304, R305, R421) -/

section Lane
variable {s : State} {n lane : Nat}

/-- The first lane that fails on a link that runs is replaced by the spare. -/
theorem failLane_of_first (up : (s.link n).st = .up) (carries : lane < 4) (lit : (s.link n).spareDark = false)
    (spare : (s.link n).spareIn = false) : failLane s n lane = remapEvent (raiseDev (s.modLink n (fun l => { l with
      spareIn := true, spared := BitVec.ofNat 2 lane })) 0x3001 (data3 n (peerDev (s.link n)) 0)) 2 n lane 0x3001 0 0 := by
  simp only [failLane, carries.ne, if_false, spare, lit, Bool.false_eq_true, false_and, Bool.or_self, up, beq_self_eq_true, Bool.true_or, if_true]

/-- A second takes the link down, where its peer can be reached without it. -/
theorem failLane_of_second (up : (s.link n).st = .up) (carries : lane < 4) (spare : (s.link n).spareIn = true)
    (other : (s.link n).spared.toNat ≠ lane) (around : routeAround s n = true) : failLane s n lane = downLink s n := by
  simp only [failLane, carries.ne, if_false, spare, other, and_false, Bool.true_or, if_true, up, beq_self_eq_true, Bool.not_true,
    Bool.false_eq_true, around]

theorem exec_laneFail_of_held (held : lanesHeld s n = true) : exec (.laneFail n lane) s = .next s := congrArg Host.Outcome.next (if_pos held)

theorem exec_laneFail_of_free (free : lanesHeld s n = false) :
    exec (.laneFail n lane) s = .next (failLane (s.emit (.laneFailed n lane)) n lane) :=
  congrArg Host.Outcome.next (if_neg (Bool.eq_false_iff.mp free))

/-- A laser event holds the lane decisions of its engine's links for 2 ms (R304). -/
theorem lanesHeld_of_event {t : Nat} (event : (s.optic (n / 8)).eventAt = some t) (fresh : s.now < t + 2000000) : lanesHeld s n = true := by
  simp only [lanesHeld, event, decide_eq_true fresh]

end Lane

section Laser
variable {s : State} {e m : Nat}

theorem exec_laserFail_of_dark (dark : (s.optic e).laserOk.getLsbD m = false) : exec (.laserFail e m) s = .next s :=
  congrArg Host.Outcome.next (if_pos (by simp [dark]))

/-- A laser that carries data fails: laser 5 takes its place, or its lane goes dark. -/
theorem exec_laserFail_of_lit (carries : m < 5) (lit : (s.optic e).laserOk.getLsbD m = true) {s1 : State}
    (hs1 : s1 = s.modOptic e (fun o => { o with laserOk := setFld o.laserOk m m 0, eventAt := some s.now })) :
    exec (.laserFail e m) s = .next (if !(s.optic e).spareUsed && (s.optic e).laserOk.getLsbD 5 then
      remapEvent (raiseDev (s1.modOptic e (fun o => { o with spareUsed := true, spared := BitVec.ofNat 3 m })) 0x3004 (data3 (8 * e) 0 0))
        6 e m 0x3004 0 0
      else darkLane s1 e m) := by
  subst hs1
  change execLaserFail e m s = _
  simp only [execLaserFail, lit, Bool.not_true, Bool.false_eq_true, if_false, carries.ne]

end Laser

/-! ### Training (R307, R323) -/

section Train
variable {s s0 : State} {n : Nat} {p : Peer}

theorem mem_excluded_excludeDev (s : State) (d : Nat) : d ∈ (excludeDev s d).fab.excluded := by
  unfold excludeDev
  split
  next known => simpa using known
  next => exact List.mem_cons_self

/-- A module that is heard and stays in the pod changes the table of serial numbers at most. -/
theorem hearSerial_of_included {dev serial : Nat} (other : dev ≠ s.devId) (stays : dev ∉ (hearSerial s dev serial).fab.excluded) :
    ∃ known, hearSerial s dev serial = s.modFab (fun b => { b with serials := known }) := by
  unfold hearSerial at stays ⊢
  rw [if_neg other] at stays ⊢
  split at stays
  · split at stays
    next same => exact ⟨s.fab.serials, if_pos same⟩
    next => exact absurd (mem_excluded_excludeDev s dev) stays
  · exact ⟨_, rfl⟩

/-- A link that is up with its peer. -/
def upWith (p : Peer) (pod : Nat) (wrong : Bool) (l : Link) : Link := { l with
  st := .up, peer := some (p.dev, p.link), peerSerial := p.serial, peerPrio := p.prio, trunk := p.dev / 64 != pod,
  wireErr := wrong, fails := 0, lit := true, idle := false }

/-- A link has come up with its peer, with the events of that. -/
def cameUp (s : State) (n : Nat) (p : Peer) (pod : Nat) (wrong : Bool) : State :=
  let up := raiseDev (s.modLink n (upWith p pod wrong)) 0x3003 (data3 n p.dev 0)
  if wrong then raiseDev up 0x3006 (data3 n p.dev 0) else up

theorem cameUp_link (s : State) (n : Nat) (p : Peer) (pod : Nat) (wrong : Bool) :
    (cameUp s n p pod wrong).link n = upWith p pod wrong (s.link n) := by
  have link := s.link_modLink n (upWith p pod wrong)
  unfold cameUp
  dsimp only
  split <;> exact link

/-- Flits that go out again on a link. -/
def resend (s : State) (n : Nat) (fs : List (BitVec 2048)) : State := fs.foldl (fun t f => t.emit (.flit n f)) s

theorem resend_link (s : State) (n : Nat) (fs : List (BitVec 2048)) (m : Nat) : (resend s n fs).link m = s.link m :=
  (OnlyOut.emits (fun _ f => .flit n f) fs s).fab_eq (fun b => tgetD b.links m {}) (fun _ _ => rfl)

section Training
variable (trains : (s.link n).st = .train) (enabled : (s.link n).en = true)
include trains enabled

theorem skipsTraining_eq_false : ((s.link n).st ≠ .train || !(s.link n).en) = false := by simp [trains, enabled]

/-- A peer that stays in the pod brings the link up. -/
theorem exec_linkTrain_of_peer (other : p.dev ≠ s.devId) (hs0 : s0 = hearSerial (sendTraining s n) p.dev p.serial)
    (peerIn : p.dev ∉ s0.fab.excluded) (selfIn : s.devId ∉ s0.fab.excluded) {s2 : State}
    (hs2 : s2 = resend (cameUp s0 n p s.fab.pod.toNat (s.fab.stdwire && !standardPeer s n p)) n (s0.link n).replay) :
    exec (.linkTrain n p) s = .next (floodLinks (pump (s2.link n).txq.length n s2)) := by
  have dev : (sendTraining s n).devId = s.devId := rfl
  obtain ⟨known, heard⟩ : ∃ known, s0 = (sendTraining s n).modFab (fun b => { b with serials := known }) := by
    rw [hs0] at peerIn ⊢
    exact hearSerial_of_included other peerIn
  have wiring : (s0.fab.stdwire && !standardPeer s0 n p) = (s.fab.stdwire && !standardPeer s n p) := by rw [heard]; rfl
  have dev0 : s0.devId = s.devId := by rw [heard]; rfl
  have pod0 : s0.fab.pod = s.fab.pod := by rw [heard]; rfl
  have stays : (decide False || s0.fab.excluded.contains p.dev || s0.fab.excluded.contains s.devId) = false := by simp [peerIn, selfIn]
  have replay : ((cameUp s0 n p s.fab.pod.toNat (s.fab.stdwire && !standardPeer s n p)).link n).replay = (s0.link n).replay := by
    rw [cameUp_link]
    rfl
  rw [← replay] at hs2
  subst hs2
  change execLinkTrain n p s = _
  simp only [execLinkTrain, skipsTraining_eq_false trains enabled, Bool.false_eq_true, if_false, dev, other, ← hs0, dev0, stays, wiring, pod0]
  rfl

/-- A peer that reports this module's own id stays down. -/
theorem exec_linkTrain_of_self (own : p.dev = s.devId) : exec (.linkTrain n p) s =
    .next ((excludeDev (sendTraining s n) s.devId).modLink n (fun l => { l with st := .down })) := by
  have dev : (sendTraining s n).devId = s.devId := rfl
  obtain ⟨-, dev0⟩ := excludeDev_keeps (sendTraining s n) s.devId
  change execLinkTrain n p s = _
  simp only [execLinkTrain, skipsTraining_eq_false trains enabled, Bool.false_eq_true, if_false, own, dev, if_true, dev0, decide_true, Bool.true_or]

end Training

theorem exec_linkTrain_of_other (other : (s.link n).st ≠ .train) : exec (.linkTrain n p) s = .next s :=
  congrArg Host.Outcome.next (if_pos (by simp [other]))

end Train

/-! ### The loss of a link (R316) -/

/-- What may happen after a link went down: events, messages and the other links; of the link itself only the credits that it owes change. -/
structure DownKept (n : Nat) (s t : State) : Prop where
  only : t = { s with fab := t.fab, host := t.host }
  dev : t.devId = s.devId
  raised : ∃ rest, t.host.raised = s.host.raised ++ rest
  link : t.link n = { s.link n with toReturn := (t.link n).toReturn }

section DownKept
variable {n m : Nat} {s t u : State}

theorem DownKept.refl (n : Nat) (s : State) : DownKept n s s := ⟨rfl, rfl, ⟨[], (List.append_nil _).symm⟩, rfl⟩

theorem DownKept.trans (h : DownKept n s t) (g : DownKept n t u) : DownKept n s u where
  only := by
    have hu := g.only
    rw [h.only] at hu
    exact hu
  dev := g.dev.trans h.dev
  raised := by
    obtain ⟨r, hr⟩ := h.raised
    obtain ⟨r', hr'⟩ := g.raised
    exact ⟨r ++ r', by rw [hr', hr, List.append_assoc]⟩
  link := by
    have hu := g.link
    rw [h.link] at hu
    exact hu

theorem DownKept.isUp_eq (h : DownKept n s t) : isUp t n = isUp s n := by
  unfold isUp
  rw [h.link]

theorem DownKept.ite {c : Prop} [Decidable c] (h : DownKept n s t) (g : DownKept n s u) : DownKept n s (if c then t else u) := by
  split
  · exact h
  · exact g

/-- A fabric that changes none of these. -/
theorem DownKept.of_fab {f : Fabric → Fabric} (links : (f s.fab).links = s.fab.links) (pod : (f s.fab).pod = s.fab.pod)
    (slot : (f s.fab).slot = s.fab.slot) : DownKept n s (s.modFab f) where
  only := rfl
  dev := by simp [State.devId, State.modFab, pod, slot]
  raised := ⟨[], (List.append_nil _).symm⟩
  link := by simp [State.link, State.modFab, links]

theorem emit_downKept (n : Nat) (s : State) (o : OutMsg) : DownKept n s (s.emit o) := DownKept.of_fab rfl rfl rfl
theorem deliver_downKept (n : Nat) (s : State) (came : Option Nat) (f : BitVec 2048) : DownKept n s (deliver s came f) :=
  DownKept.of_fab rfl rfl rfl
theorem raiseDev_downKept (n : Nat) (s : State) (code d : Nat) : DownKept n s (raiseDev s code d) := ⟨rfl, rfl, ⟨_, rfl⟩, rfl⟩

theorem modLink_downKept (other : m ≠ n) (f : Link → Link) : DownKept n s (s.modLink m f) where
  only := rfl
  dev := rfl
  raised := ⟨[], (List.append_nil _).symm⟩
  link := by rw [State.link_modLink_ne s f other.symm]

theorem freeBuffer_downKept (n : Nat) (s : State) (came : Option Nat) (vc : Nat) : DownKept n s (freeBuffer s came vc) := by
  unfold freeBuffer
  split
  next m =>
    by_cases same : m = n
    · subst same
      exact ⟨rfl, rfl, ⟨[], (List.append_nil _).symm⟩, by rw [State.link_modLink]⟩
    · exact modLink_downKept same _
  next => exact DownKept.refl n s

theorem txFlit_downKept (other : m ≠ n) (e : Option Nat × BitVec 2048) : DownKept n s (txFlit s m e) :=
  ((modLink_downKept other _).trans (emit_downKept ..)).trans (freeBuffer_downKept ..)

theorem pump_downKept (other : m ≠ n) (k : Nat) : DownKept n s (pump k m s) := by
  induction k generalizing s with
  | zero => exact DownKept.refl n s
  | succ k ih =>
    unfold pump
    split
    · exact (txFlit_downKept other _).trans ih
    · exact DownKept.refl n s

theorem sendFlit_downKept (other : m ≠ n) (came : Option Nat) (f : BitVec 2048) : DownKept n s (sendFlit s m came f) :=
  (modLink_downKept other _).trans (pump_downKept other _)

theorem sendFlits_downKept (came : Option Nat) (f : BitVec 2048) {ls : List (Nat × Bool)} (others : ∀ l ∈ ls, l.1 ≠ n) (s : State) :
    DownKept n s (ls.foldl (fun t l => sendFlit t l.1 (if l.2 then came else none) f) s) :=
  List.foldlRecOn ls _ (DownKept.refl n s) (fun _ kept l mem => kept.trans (sendFlit_downKept (others l mem) ..))

theorem routeFor_isUp {dst src vc l : Nat} (h : routeFor s dst src vc = some (some l)) : isUp s l = true := by
  unfold routeFor at h
  dsimp only at h
  split at h
  · cases h
  · split at h
    · cases h
    · split at h
      next found =>
        cases h
        exact List.find?_some found
      next => cases h

/-- A multicast flit is copied to links that are UP. -/
theorem isUp_of_copied {c : Prop} [Decidable c] {chosen : Nat → Bool} {ls : List Nat} {l : Nat}
    (mem : l ∈ if c then ls.filter (fun l => chosen l && isUp s l) else []) : isUp s l = true := by
  split at mem
  · exact Bool.and_elim_right (List.mem_filter.mp mem).2
  · cases mem

section Down
variable (down : isUp s n = false)
include down

theorem ne_of_isUp (up : isUp s m = true) : m ≠ n := by
  rintro rfl
  simp [up] at down

theorem routeFlit_downKept (came : Option Nat) (f : BitVec 2048) : DownKept n s (routeFlit s came f) := by
  unfold routeFlit
  dsimp only
  split
  · refine DownKept.trans (DownKept.trans ?here (DownKept.ite (freeBuffer_downKept ..) (DownKept.refl ..))) (sendFlits_downKept came f ?others _)
    case here => exact DownKept.ite (raiseDev_downKept ..) (DownKept.ite (deliver_downKept ..) (DownKept.refl n s))
    case others =>
      intro l mem
      obtain ⟨i, hi, rfl⟩ := List.mem_mapIdx.mp mem
      exact ne_of_isUp down (isUp_of_copied (List.getElem_mem hi))
  · split
    next => exact (raiseDev_downKept ..).trans (freeBuffer_downKept ..)
    next => exact deliver_downKept ..
    next l route => exact sendFlit_downKept (ne_of_isUp down (routeFor_isUp route)) ..

end Down

/-- A fold of steps that each keep a link that is not UP. -/
theorem DownKept.foldl {α : Type} {f : State → α → State} (step : ∀ t a, isUp t n = false → DownKept n t (f t a)) (l : List α)
    (down : isUp s n = false) : DownKept n s (l.foldl f s) :=
  foldl_any (P := DownKept n s) (DownKept.refl n s) (fun t a kept => kept.trans (step t a (kept.isUp_eq.trans down)))

theorem routeMessage_downKept (down : isUp s n = false) (fs : List (BitVec 2048)) : DownKept n s (routeMessage s fs) := by
  unfold routeMessage
  split
  · exact DownKept.refl n s
  · dsimp only
    split
    · exact raiseDev_downKept ..
    · exact DownKept.foldl (fun t g downT => routeFlit_downKept downT none g) _ down

theorem emits_out {α : Type} (o : α → OutMsg) (l : List α) (s : State) :
    (l.foldl (fun t a => t.emit (o a)) s).fab.out = s.fab.out ++ l.map o := by
  induction l generalizing s with
  | nil => simp
  | cons a l ih =>
    have first : (s.emit (o a)).fab.out = s.fab.out ++ [o a] := rfl
    rw [List.foldl_cons, ih, first, List.append_assoc, List.map_cons, List.singleton_append]

end DownKept

/-- A link that has gone down has forgotten its numbering and its buffers. -/
def reset (l : Link) : Link := { l with
  st := .down, txSeq := 0, rxSeq := 0, ackSeq := 0, replay := [], txq := [], fails := 0, replayAt := [], unacked := 0, nak := false,
  credits := [], toReturn := [], served := [], since3 := 15 }

/-- The link has gone down, with its event; nothing is routed yet. -/
def wentDown (s : State) (n : Nat) : State := raiseDev (s.modLink n reset) 0x3002 (data3 n (peerDev (s.link n)) 0)

/-- The flits that a link had not delivered. -/
def undelivered (s : State) (n : Nat) : List (BitVec 2048) := (s.link n).replay ++ (s.link n).txq.map Prod.snd

/-- The messages of this module that a link had not delivered in full: as they are kept, or else what is left of them. -/
def wholeMessages (s : State) (n : Nat) : List (List (BitVec 2048)) :=
  let mine := (undelivered s n).filter (fun f => hdrSrc (flitHdr f) == s.devId)
  (mine.map msgKey).eraseDups.map (fun k => match s.fab.kept.find? (fun fs => fs.any (fun f => msgKey f == k)) with
    | some fs => fs
    | none => mine.filter (fun f => msgKey f == k))

/-- The slots of waiting flits are free, and the messages of this module go out again. -/
def rerouted (s : State) (n : Nat) (whole : List (List (BitVec 2048))) : State :=
  whole.foldl routeMessage ((s.link n).txq.foldl (fun t e => freeBuffer t (if e.1 = some n then none else e.1) (hdrVc (flitHdr e.2)))
    (wentDown s n))

/-- Undelivered flits of others go back to their modules. -/
def handedBack (s : State) (dev : Nat) (lost : List (BitVec 2048)) : State :=
  (lost.filter (fun f => hdrSrc (flitHdr f) != dev)).foldl (fun t f => t.emit (.handBack (hdrSrc (flitHdr f)) f)) s

section Loss
variable {s : State} {n : Nat}

theorem downLink_of_runs (runs : (s.link n).st = .up ∨ (s.link n).st = .train) : downLink s n =
    pruneKept (handedBack (rerouted s n (wholeMessages s n)) (rerouted s n (wholeMessages s n)).devId (undelivered s n)) := by
  have live : ((s.link n).st = .down || (s.link n).st = .off) = false := by rcases runs with h | h <;> simp [h]
  unfold downLink
  simp only [live, Bool.false_eq_true, if_false]
  rfl

theorem wentDown_link (s : State) (n : Nat) : (wentDown s n).link n = reset (s.link n) := State.link_modLink s n reset

theorem rerouted_downKept (s : State) (n : Nat) (whole : List (List (BitVec 2048))) : DownKept n (wentDown s n) (rerouted s n whole) := by
  have down : isUp (wentDown s n) n = false := by
    unfold isUp
    rw [wentDown_link]
    rfl
  have freed := DownKept.foldl (f := fun t (e : Option Nat × BitVec 2048) => freeBuffer t (if e.1 = some n then none else e.1) (hdrVc (flitHdr e.2)))
    (fun t e _ => freeBuffer_downKept ..) (s.link n).txq down
  exact freed.trans (DownKept.foldl (fun t fs downT => routeMessage_downKept downT fs) _ (freed.isUp_eq.trans down))

theorem handedBack_out (s : State) (dev : Nat) (lost : List (BitVec 2048)) : (handedBack s dev lost).fab.out =
    s.fab.out ++ (lost.filter (fun f => hdrSrc (flitHdr f) != dev)).map (fun f => .handBack (hdrSrc (flitHdr f)) f) := emits_out _ _ s

theorem handBack_mem_handedBack {lost : List (BitVec 2048)} {dev : Nat} {f : BitVec 2048} (mem : f ∈ lost)
    (other : hdrSrc (flitHdr f) ≠ dev) : .handBack (hdrSrc (flitHdr f)) f ∈ (handedBack s dev lost).fab.out := by
  rw [handedBack_out]
  exact List.mem_append_right _ (List.mem_map.mpr ⟨f, List.mem_filter.mpr ⟨mem, bne_iff_ne.mpr other⟩, rfl⟩)

theorem handedBack_downKept (n : Nat) (s : State) (dev : Nat) (lost : List (BitVec 2048)) : DownKept n s (handedBack s dev lost) :=
  foldl_any (P := DownKept n s) (DownKept.refl n s) (fun _ _ kept => kept.trans (emit_downKept ..))

theorem pruneKept_downKept (n : Nat) (s : State) : DownKept n s (pruneKept s) := by
  unfold pruneKept
  exact DownKept.of_fab rfl rfl rfl

/-- A link that runs goes down: what then holds of it, of the events and of the messages. -/
theorem exec_linkDown_of_runs (runs : (s.link n).st = .up ∨ (s.link n).st = .train) : ∃ t, exec (.linkDown n) s = .next t ∧
    DownKept n (wentDown s n) t ∧ ∀ f ∈ undelivered s n, hdrSrc (flitHdr f) ≠ s.devId → .handBack (hdrSrc (flitHdr f)) f ∈ t.fab.out := by
  have routed := rerouted_downKept s n (wholeMessages s n)
  refine ⟨_, congrArg Host.Outcome.next (downLink_of_runs runs), ?kept, ?back⟩
  case kept => exact (routed.trans (handedBack_downKept ..)).trans (pruneKept_downKept ..)
  case back =>
    intro f mem other
    exact handBack_mem_handedBack mem (fun same => other (same.trans routed.dev))

theorem wholeMessages_of_own {f : BitVec 2048} {fs : List (BitVec 2048)} (one : undelivered s n = [f]) (own : hdrSrc (flitHdr f) = s.devId)
    (kept : s.fab.kept.find? (fun m => m.any (fun g => msgKey g == msgKey f)) = some fs) : wholeMessages s n = [fs] := by
  have mine : [f].filter (fun f => hdrSrc (flitHdr f) == s.devId) = [f] := List.filter_cons_of_pos (beq_iff_eq.mpr own)
  unfold wholeMessages
  simp only [one, mine, List.map_cons, List.map_nil, List.eraseDups_cons, List.filter_nil, List.eraseDups_nil, kept]

/-- A message of this module of which one flit was not acknowledged goes out again whole. -/
theorem exec_linkDown_of_own {f : BitVec 2048} {fs : List (BitVec 2048)} (runs : (s.link n).st = .up ∨ (s.link n).st = .train)
    (idle : (s.link n).txq = []) (one : (s.link n).replay = [f]) (own : hdrSrc (flitHdr f) = s.devId)
    (kept : s.fab.kept.find? (fun m => m.any (fun g => msgKey g == msgKey f)) = some fs) :
    exec (.linkDown n) s = .next (pruneKept (routeMessage (wentDown s n) fs)) := by
  have lost : undelivered s n = [f] := by simp [undelivered, idle, one]
  have routed : rerouted s n [fs] = routeMessage (wentDown s n) fs := by simp [rerouted, idle]
  have dev : (rerouted s n [fs]).devId = s.devId := (rerouted_downKept s n [fs]).dev
  have none_back : [f].filter (fun f => hdrSrc (flitHdr f) != s.devId) = [] := by simp [own]
  refine congrArg Host.Outcome.next ?_
  rw [downLink_of_runs runs, wholeMessages_of_own lost own kept, lost, dev, routed]
  unfold handedBack
  rw [none_back]
  rfl

theorem exec_linkDown_of_dark (dark : (s.link n).st = .down ∨ (s.link n).st = .off) : exec (.linkDown n) s = .next s :=
  congrArg Host.Outcome.next (if_pos (by simpa using dark))

end Loss

theorem exec_retrain_of_enabled {s : State} {n : Nat} (en : (s.link n).en = true) :
    exec (.retrain n) s = .next (s.modLink n (fun l => { l with st := .train })) := congrArg Host.Outcome.next (trainLink_of_enabled en)

/-- Settles O34: each clause by the lemma of its case; what follows the loss of a link leaves the link as it went down (DownKept). -/
theorem linksAreRepairedAndTrained : Obligations.LinksAreRepairedAndTrained := by
  unfold Obligations.LinksAreRepairedAndTrained
  refine ⟨fun s => ⟨?lane, ?held, ?dark, ?laser⟩, fun s n => ⟨?peer, ?self, ?other, exec_retrain_of_enabled, rfl⟩,
    fun s n => ⟨?down, exec_linkDown_of_dark, ?timeout, ?trained⟩⟩
  case lane =>
    intro n lane dev free up carries lit hdev
    have now := exec_laneFail_of_free (lane := lane) free
    refine ⟨fun spare => ?_, fun spare other around => ?_⟩
    · rw [now, failLane_of_first (s := s.emit _) up carries lit spare, hdev]
      rfl
    · rw [now, failLane_of_second (s := s.emit _) up carries spare other around]
      rfl
  case held => exact fun n lane t event fresh => exec_laneFail_of_held (lanesHeld_of_event event fresh)
  case dark => exact fun e m => exec_laserFail_of_dark
  case laser =>
    intro e m s1 carries lit hs1
    rw [exec_laserFail_of_lit carries lit hs1]
    refine ⟨fun unused spare => ?_, fun none => ?_⟩
    · rw [unused, spare]
      rfl
    · rcases none with used | gone
      · rw [used]
        rfl
      · rw [gone, Bool.and_false]
        rfl
  case peer =>
    intro p wrong s0 s1 s2 trains enabled other hs0 peerIn selfIn hwrong hs1 hs2
    subst hwrong hs1
    replace hs2 : s2 = resend (cameUp s0 n p s.fab.pod.toNat (s.fab.stdwire && !standardPeer s n p)) n (s0.link n).replay := hs2
    refine ⟨exec_linkTrain_of_peer trains enabled other hs0 peerIn selfIn hs2, ?_⟩
    rw [hs2, resend_link, cameUp_link]
    exact ⟨rfl, rfl⟩
  case self =>
    intro p trains enabled own
    refine ⟨_, exec_linkTrain_of_self trains enabled own, ?_, mem_excluded_excludeDev ..⟩
    rw [State.link_modLink]
  case other => exact fun p => exec_linkTrain_of_other
  case down =>
    intro dev runs hdev
    subst hdev
    refine ⟨?_, fun f fs idle one own kept => exec_linkDown_of_own runs idle one own kept⟩
    obtain ⟨t, next, ⟨only, -, ⟨rest, raised⟩, link⟩, back⟩ := exec_linkDown_of_runs runs
    rw [wentDown_link] at link
    refine ⟨t, rest, next, only, ?_, ?_, ?_, ?_, ?_, ?_, back⟩
    case refine_6 => exact raised.trans (List.append_assoc ..)
    all_goals rw [link]; rfl
  case timeout => exact fun trains => congrArg Host.Outcome.next (if_pos trains)
  case trained => exact fun other => congrArg Host.Outcome.next (if_neg other)

end Sys2Proof.Machine

namespace Sys2Proof.Machine

open Sys2Proof

/-! SUPPORT. When a mailbox command waits, is turned away, or runs, and the rules that turn it away. -/

/-! ### Bits that a field leaves alone -/

/-- Clearing a field leaves every bit outside it as it was. -/
theorem bit_setBits_zero_outside {hi lo i : Nat} (outside : ¬ (lo ≤ i ∧ i ≤ hi)) (x : Nat) : bit (setBits x hi lo 0) i = bit x i := by
  have clears : setBits x hi lo 0 = x - 2 ^ lo * (x / 2 ^ lo % 2 ^ (hi + 1 - lo)) := by
    simp [setBits, bits, Nat.shiftRight_eq_div_pow, mul_comm]
  have inside : 2 ^ lo * (x / 2 ^ lo % 2 ^ (hi + 1 - lo)) ≤ x :=
    (Nat.mul_le_mul_left _ (Nat.mod_le _ _)).trans (Nat.mul_div_le _ _)
  rw [clears]
  rcases Nat.lt_or_ge i lo with below | above
  · have low : (x - 2 ^ lo * (x / 2 ^ lo % 2 ^ (hi + 1 - lo))) % 2 ^ lo = x % 2 ^ lo := Nat.sub_mul_mod inside
    have same := congrArg (Nat.testBit · i) low
    simpa [bit, Nat.testBit_mod_two_pow, below] using same
  · obtain ⟨j, rfl⟩ := Nat.exists_eq_add_of_le' above
    obtain ⟨k, rfl⟩ : ∃ k, j = k + (hi + 1 - lo) := Nat.exists_eq_add_of_le' (by omega)
    have high : (x / 2 ^ lo - x / 2 ^ lo % 2 ^ (hi + 1 - lo)) / 2 ^ (hi + 1 - lo) = x / 2 ^ lo / 2 ^ (hi + 1 - lo) := by
      rw [← Nat.div_mul_self_eq_mod_sub_self, Nat.mul_div_cancel _ (Nat.two_pow_pos _)]
    simp only [bit, Nat.testBit_add]
    rw [Nat.sub_mul_div, high]

/-- A PARAM bit outside every field of its command turns it away (R379). -/
theorem paramBad_of_reserved {fields : List (Nat × Nat)} {e : Entry} {i : Nat} (param : 64 ≤ i) (isSet : e.getLsbD i = true)
    (reserved : ∀ f ∈ fields, ¬ (f.2 ≤ i ∧ i ≤ f.1)) : paramBad fields e = true := by
  have kept : ∀ x, bit x i = true → bit (fields.foldl (fun x f => setBits x f.1 f.2 0) x) i = true := by
    clear isSet
    induction fields with
    | nil => exact fun x h => h
    | cons f fs ih =>
      obtain ⟨out, rest⟩ := List.forall_mem_cons.mp reserved
      exact fun x h => ih rest _ ((bit_setBits_zero_outside out x).trans h)
  have large := Nat.ge_two_pow_of_testBit (kept e.toNat isSet)
  have some_left : 0 < fields.foldl (fun x f => setBits x f.1 f.2 0) e.toNat / 2 ^ 64 :=
    Nat.div_pos ((Nat.pow_le_pow_right (by decide) param).trans large) (Nat.two_pow_pos _)
  exact bne_iff_ne.mpr some_left.ne'

/-! ### The turns of a mailbox command (R371, R379) -/

section Turns
variable {s : State} {c : Cmd} {o : Origin} {e : Entry}

/-- Nothing happens until the command heads its ring. -/
theorem runCmd_of_not_heads (h : ¬ CmdHeads s c o e) : runCmd c o e s = s := by
  have behind : (fld e 15 0 == c.op && cmdReady s o e) = false := by simpa [CmdHeads] using h
  simp only [runCmd, behind, Bool.not_false, if_true]

/-- A rule that every command has turns the command away. -/
theorem runCmd_of_gate {st : Nat} (h : CmdHeads s c o e) (turned : gate s c o e = some st) : runCmd c o e s = finish s o st 0 := by
  obtain ⟨op, ready⟩ := h
  simp only [runCmd, op, ready, turned, beq_self_eq_true, Bool.and_self, Bool.not_true, Bool.false_eq_true, if_false]

/-- A command that waits for a reason of its own stays at the head. -/
theorem runCmd_of_wait (h : CmdHeads s c o e) (passes : gate s c o e = none) (waits : c.wait s e (targetPart o e) = true) :
    runCmd c o e s = s := by
  obtain ⟨op, ready⟩ := h
  simp only [runCmd, op, ready, passes, waits, beq_self_eq_true, Bool.and_self, Bool.not_true, Bool.false_eq_true, if_false,
    Bool.or_true, if_true]

end Turns

/-! ### What turns a command away (R354, R379, R393) -/

section Gate
variable {s : State} {c : Cmd} {o : Origin} {e : Entry}

/-- The boot ROM runs only its own commands (R390). -/
theorem gate_of_bootrom (boots : s.mgmt.bootrom = true) (other : c.rom e = false) : gate s c o e = some 0x0E := by
  simp [gate, boots, other]

/-- In bring-up firmware runs only the commands of bring-up (R457). -/
theorem gate_of_bringUp (boots : s.mgmt.bootrom = false) (starts : s.mgmt.fwstate = 1) (other : c.bringUp = false) :
    gate s c o e = some 0x0E := by
  simp [gate, boots, starts, other]

section Running
variable (boots : s.mgmt.bootrom = false) (runs : s.mgmt.fwstate = 2)

include boots runs

/-- While firmware runs, the rights of the sender come first, then the form of the entry, then its partition. -/
theorem gate_of_running : gate s c o e =
    if rightsOf o ≠ 0 && !partExists s (rightsOf o) && !c.free then some 6
    else if (c.pf0 && rightsOf o ≠ 0) || (o == .oob && !c.oob) then some 3
    else if 32 < targetPart o e || paramBad c.fields e then some 2
    else if !c.pf0 && !c.free && !c.oob && !partExists s (targetPart o e) then some 6
    else none := by
  have served : (s.mgmt.fwstate = 1 && !c.bringUp || s.mgmt.fwstate = 3 && !c.rom e || s.mgmt.fwstate = 0) = false := by simp [runs]
  simp only [gate, boots, served, Bool.false_eq_true, if_false]

/-- A VF without a partition (R358). -/
theorem gate_of_vf_without_part {fn ch r : Nat} (vf : fn ≠ 0) (gone : (s.part fn).exist = false) (bound : c.free = false) :
    gate s c (.ring fn ch r) e = some 0x06 := by
  rw [gate_of_running boots runs, if_pos (by simp [rightsOf, partExists, vf, gone, bound])]

/-- A VF's command that only PF0 may issue (R354). -/
theorem gate_of_vf_privileged {fn ch r : Nat} (vf : fn ≠ 0) (there : (s.part fn).exist = true) (privileged : c.pf0 = true) :
    gate s c (.ring fn ch r) e = some 0x03 := by
  rw [gate_of_running boots runs, if_neg (by simp [rightsOf, partExists, there]), if_pos (by simp [rightsOf, vf, privileged])]

/-- An out-of-band command that is not accepted there (R379). -/
theorem gate_of_oob (inBand : c.oob = false) : gate s c .oob e = some 0x03 := by
  rw [gate_of_running boots runs, if_neg (by simp [rightsOf]), if_pos (by simp [inBand])]

/-- PF0's command with a partition number or a PARAM bit that is reserved (R379). -/
theorem gate_of_pf0_malformed {ch r : Nat} (malformed : 32 < fld e 37 32 ∨ paramBad c.fields e = true) :
    gate s c (.ring 0 ch r) e = some 0x02 := by
  rw [gate_of_running boots runs, if_neg (by simp [rightsOf]), if_neg (by simp [rightsOf]),
    if_pos (by simpa [targetPart, rightsOf] using malformed)]

end Running
end Gate

/-- Settles O46: each command is a run of its row, and a run goes by its turn; the gate by who sends and what firmware does. -/
theorem mailboxOrderAndGate : Obligations.MailboxOrderAndGate := by
  refine ⟨fun o e i c row s => ?turns, fun s c o e => ⟨gate_of_bootrom, gate_of_bringUp, fun boots runs =>
    ⟨fun fn ch r vf_ring vf => ?vf, fun oob inBand => ?oob, fun ch r pf0 => ?pf0⟩⟩⟩
  case turns =>
    have meaning : exec i s = .next (runCmd c o e s) := by
      fin_cases row <;> rfl
    rw [meaning]
    exact ⟨fun h => congrArg _ (runCmd_of_not_heads h), fun st h turned => congrArg _ (runCmd_of_gate h turned),
      fun h passes waits => congrArg _ (runCmd_of_wait h passes waits), fun t st res => next_of_answer, fun t => next_of_later⟩
  case vf =>
    subst vf_ring
    exact ⟨gate_of_vf_without_part boots runs vf, gate_of_vf_privileged boots runs vf⟩
  case oob =>
    subst oob
    exact gate_of_oob boots runs inBand
  case pf0 =>
    subst pf0
    exact ⟨fun i param _ isSet reserved => gate_of_pf0_malformed boots runs (.inr (paramBad_of_reserved param isSet reserved)),
      fun high => gate_of_pf0_malformed boots runs (.inl high)⟩

end Sys2Proof.Machine

namespace Sys2Proof.Machine

open Sys2Proof

/-! SUPPORT. Command rings: what a doorbell, a fetch, a completion, an enable and a reset make of a ring. -/

/-! ### A ring that is changed twice -/

theorem State.modRing_modRing (s : State) (fn ch r : Nat) (f g : Ring → Ring) :
    (s.modRing fn ch r f).modRing fn ch r g = s.modRing fn ch r (fun x => g (f x)) := by
  simp [State.modRing, State.modChan, State.modFn, State.modHost, tmod]

/-! ### The head of a ring (R320, R354) -/

section Head
variable {s : State} {fn ch r : Nat}

/-- A ring without commands has none to start. -/
theorem headCome_of_empty (empty : (s.ring fn ch r).fetched = []) : headCome s fn ch r = s := by
  unfold headCome startRemote
  split <;> simp only [empty]

variable {e : Entry} {l : List Entry} (fetched : (s.ring fn ch r).fetched = e :: l)

include fetched

/-- A command of the module waits for its turn. -/
theorem headCome_of_known (here : chanRemote s fn ch = false) (known : knownOps.contains (fld e 15 0) = true) : headCome s fn ch r = s := by
  simp only [headCome, here, fetched, known, Bool.not_true, Bool.and_false, Bool.false_eq_true, if_false]

variable (idle : (s.ring fn ch r).running = false) (undone : (s.ring fn ch r).done = none)

include idle undone

/-- An unknown opcode completes at once. -/
theorem headCome_of_unknown (here : chanRemote s fn ch = false) (unknown : knownOps.contains (fld e 15 0) = false) :
    headCome s fn ch r = s.modRing fn ch r (answered e 1 0) := by
  rw [← finish_ring_of_fetched fetched]
  simp only [headCome, here, fetched, idle, undone, unknown, Option.isNone_none, Bool.not_false, Bool.and_self, Bool.false_eq_true, if_false,
    if_true]

/-- A command for another member leaves for it. -/
theorem headCome_of_remote (away : chanRemote s fn ch = true) (reach : chanReach s fn ch = true) :
    headCome s fn ch r = (s.modRing fn ch r (fun x => { x with running := true })).emit (.mgmt ch (.command r e)) := by
  simp only [headCome, startRemote, away, fetched, idle, undone, reach, Option.isSome_none, Bool.or_self, Bool.false_eq_true, if_false, if_true]

end Head

section Rings
variable {s : State} {fn ch r : Nat} {x : Ring} (hx : x = s.ring fn ch r) (powered : (s.fn fn).d3 = false)

include hx powered

/-! ### Doorbells (R371, R373) -/

section Doorbell
variable {value : Word32} (en : x.en = true) (going : x.stopped = false)

include en going

theorem exec_commandDoorbell_of_ready (ready : chanReady s fn ch = true) : exec (.commandDoorbell fn ch r value) s = .next (
    if 2 ^ x.log2.toNat < (value - x.sqHead).toNat then stopRing s fn ch r 0x6101 else ringBell s fn ch r value) := by
  subst hx
  exact congrArg Host.Outcome.next (if_neg (by simp [en, going, powered, ready]))

theorem exec_completionDoorbell_of_awake (up : awake s = true) : exec (.completionDoorbell fn ch r value) s = .next (
    if (x.cqTail - x.cons).toNat < (value - x.cons).toNat then stopRing s fn ch r 0x6101
    else s.modRing fn ch r (fun x => { x with cons := value })) := by
  subst hx
  exact congrArg Host.Outcome.next (if_neg (by simp [en, going, powered, up]))

end Doorbell

/-! ### Commands fetched (R371 to R373) -/

/-- A ring without commands once it has taken the entry `e`. -/
def took (e : Entry) (x : Ring) : Ring := { x with fetched := [e], sqHead := x.sqHead + 1 }

section Fetch
variable (en : x.en = true) (going : x.stopped = false) (more : x.sqHead ≠ x.prod) (bme : (s.fn fn).bme = true)
  (ready : chanReady s fn ch = true) (room : (x.sqHead - x.cons).toNat < 2 ^ x.log2.toNat)

include en going more bme ready room

/-- A ring with a command to fetch and room for its completion either stops or takes the entry at SQHEAD. -/
theorem exec_commandFetch_of_room {e : Entry}
    (he : e = BitVec.ofNat 512 (memNat s.host.bytes (x.base.toNat + 64 * (x.sqHead.toNat % 2 ^ x.log2.toNat)) 64)) (bad : Bool) :
    exec (.commandFetch fn ch r bad) s = .next (if bad then stopRing s fn ch r 0x6102
      else headCome (s.modRing fn ch r (fun y => { y with fetched := y.fetched ++ [e], sqHead := y.sqHead + 1 })) fn ch r) := by
  subst hx he
  have fits : decide (ringSize (s.ring fn ch r) ≤ ((s.ring fn ch r).sqHead - (s.ring fn ch r).cons).toNat) = false :=
    decide_eq_false room.not_ge
  exact congrArg Host.Outcome.next (if_neg (by simp only [en, going, beq_eq_false_iff_ne.mpr more, canDma, bme, powered, ready, fits,
    Bool.not_true, Bool.not_false, Bool.and_self, Bool.or_self, Bool.false_eq_true, not_false_eq_true]))


/-- A ring that has no command takes the entry as its head. -/
theorem exec_commandFetch_of_empty {e : Entry}
    (he : e = BitVec.ofNat 512 (memNat s.host.bytes (x.base.toNat + 64 * (x.sqHead.toNat % 2 ^ x.log2.toNat)) 64)) (empty : x.fetched = []) :
    exec (.commandFetch fn ch r false) s = .next (headCome (s.modRing fn ch r (took e)) fn ch r) := by
  rw [exec_commandFetch_of_room hx powered en going more bme ready room he, if_neg Bool.false_ne_true,
    s.modRing_congr (g := took e) (by simp only [took, ← hx, empty, List.nil_append])]

end Fetch

end Rings

/-! ### Completions posted (R370) -/

@[simp] theorem ring_hostWrite (s : State) (a : Nat) (bs : List Byte) (fn ch r : Nat) : (hostWrite s a bs).ring fn ch r = s.ring fn ch r := rfl

section Post
variable {s : State} {fn ch r : Nat} {x : Ring} {d : Done} (hx : x = s.ring fn ch r) (up : awake s = true) (done : x.done = some d)
  (last : x.fetched.tail = [])

include hx up done last

/-- The completion of a command that a reset has discarded. -/
theorem exec_completionPost_of_dropped (drop : x.drop ≠ 0) : exec (.completionPost fn ch r) s = .next (s.modRing fn ch r (fun x => { x with
    fetched := [], done := none, running := false, drop := x.drop - 1 })) := by
  subst hx
  change execCompletionPost fn ch r s = _
  simp only [execCompletionPost, done, up, bne_iff_ne.mpr drop, Bool.not_true, Bool.false_eq_true, if_false, if_true]
  rw [headCome_of_empty (by rw [State.ring_modRing]; exact last)]
  exact congrArg Host.Outcome.next (s.modRing_congr (by rw [last]))

/-- The completion of a ring's last command goes to its slot, with its phase and SQHEAD. -/
theorem exec_completionPost_of_last (keep : x.drop = 0) (quiet : x.ien = false) (dma : canDma s fn = true) :
    exec (.completionPost fn ch r) s = .next ((hostWrite s (x.cplBase.toNat + 16 * (x.cqTail.toNat % 2 ^ x.log2.toNat))
      (natToBytes 16 ((cplBits d.cid d.status.toNat d.result.toNat).toNat + phaseOf x.cqTail x.log2.toNat * 2 ^ 24 +
        x.sqHead.toNat * 2 ^ 32))).modRing fn ch r (fun x => { x with cqTail := x.cqTail + 1, fetched := [], done := none, running := false })) := by
  subst hx
  change execCompletionPost fn ch r s = _
  simp only [execCompletionPost, done, up, keep, dma, quiet, bne_self_eq_false, Bool.not_true, Bool.false_eq_true, if_false]
  rw [headCome_of_empty (by rw [State.ring_modRing, ring_hostWrite]; exact last)]
  exact congrArg Host.Outcome.next (State.modRing_congr _ (by rw [ring_hostWrite, last]))

end Post

/-! ### Enabling and resetting (R368, R373) -/

section Enable
variable {s : State} {fn ch : Nat} (powered : (s.fn fn).d3 = false) (up : awake s = true)

include powered up

theorem exec_ringEnable_of_awake (r : Nat) (en : Bool) : exec (.ringEnable fn ch r en) s = .next (setRingEn s fn ch r en) :=
  congrArg Host.Outcome.next (if_neg (by simp [powered, up]))

theorem exec_channelReset_of_awake : exec (.channelReset fn ch) s = .next (resetChan s fn ch) :=
  congrArg Host.Outcome.next (if_neg (by simp [powered, up]))

end Enable

/-- EN from 0 to 1 clears the indices of a ring. -/
theorem setRingEn_of_disabled {s : State} {fn ch r : Nat} (off : (s.ring fn ch r).en = false) :
    setRingEn s fn ch r true = s.modRing fn ch r (fun x => { x with
      en := true, stopped := false, sqHead := 0, cqTail := 0, prod := 0, cons := 0, bells := [] }) :=
  s.modRing_congr (if_pos (by simp [off]))

/-- What has been fetched from a ring is discarded when its channel is reset. -/
theorem ring_resetChan {s : State} {fn ch r : Nat} {y : Ring} (there : tget (s.chan fn ch).rings r = some y) :
    (resetChan s fn ch).ring fn ch r = { y with en := false, drop := y.fetched.length } := by
  rw [resetChan, State.ring, State.chan_modChan, tgetD, tget_tmap, there]
  rfl

theorem State.chan_modChan_ne (s : State) {fn ch g : Nat} (f : Chan → Chan) (other : g ≠ ch) :
    (s.modChan fn ch f).chan fn g = s.chan fn g := by
  rw [State.chan, State.modChan, State.fn_modFn]
  exact tgetD_tmod_ne _ _ _ other

/-- A doorbell moves the producer index of its ring and keeps its number. -/
theorem ring_ringBell (s : State) (fn ch r : Nat) (value : Word32) : (ringBell s fn ch r value).ring fn ch r = { s.ring fn ch r with
    prod := value
    bells := (s.ring fn ch r).bells.filter (fun b => b.1 != (s.ring fn ch r).cons && decide ((b.1 - (s.ring fn ch r).cons).toNat < 2 ^ 31)) ++
      [(value, s.host.bellNo)] } :=
  s.ring_modRing ..

/-- Settles O41: the doorbells, a fetch by the opcode and the member it is for, a completion, then EN and RESET. -/
theorem commandRingsCarryCommands : Obligations.CommandRingsCarryCommands := by
  refine fun s fn ch r x hx powered up => ⟨fun value en going ready => ?command, fun e en going more bme ready room he => ?fetch,
    fun d done bme => ?post, fun value en going => ?completion, fun off => ?enable, ?disable, ?reset⟩
  case command =>
    have bell := exec_commandDoorbell_of_ready (value := value) hx powered en going ready
    refine ⟨fun fits => ⟨_, bell.trans (congrArg Host.Outcome.next (if_neg fits.not_gt)), rfl, ?_, ?_, rfl, ?_⟩,
      fun beyond => bell.trans (congrArg Host.Outcome.next (if_pos beyond))⟩
    · rw [ring_ringBell]
    · rw [ring_ringBell]
      exact List.mem_append_right _ (List.mem_singleton.mpr rfl)
    · rw [ring_ringBell, hx]
  case fetch =>
    refine ⟨exec_commandFetch_of_room hx powered en going more bme ready room he true, fun empty idle undone => ?_⟩
    have taken := exec_commandFetch_of_empty hx powered en going more bme ready room he empty
    subst hx
    have ring := s.ring_modRing fn ch r (took e)
    have head := congrArg Ring.fetched ring
    have rest := (congrArg Ring.running ring).trans idle
    have unanswered := (congrArg Ring.done ring).trans undone
    refine ⟨fun here known => ?known, fun here unknown => ?unknown, fun away reach => ?remote⟩
    case known => exact taken.trans (congrArg Host.Outcome.next (headCome_of_known head here known))
    case unknown =>
      refine ⟨_, taken.trans (congrArg Host.Outcome.next (headCome_of_unknown head rest unanswered here unknown)), ?_, ?_⟩
      · rw [State.ring_modRing, State.ring_modRing]
        rfl
      · rw [State.ring_modRing]
        rfl
    case remote =>
      refine taken.trans (congrArg Host.Outcome.next ((headCome_of_remote head rest unanswered away reach).trans ?_))
      rw [State.modRing_modRing]
      rfl
  case post =>
    have dma : canDma s fn = true := by simp [canDma, bme, powered]
    exact ⟨fun keep last quiet => exec_completionPost_of_last hx up done last keep quiet dma,
      fun drop last => exec_completionPost_of_dropped hx up done last drop⟩
  case completion =>
    have bell := exec_completionDoorbell_of_awake (value := value) hx powered en going up
    exact ⟨fun fits => bell.trans (congrArg Host.Outcome.next (if_neg fits.not_gt)),
      fun beyond => bell.trans (congrArg Host.Outcome.next (if_pos beyond))⟩
  case enable => rw [exec_ringEnable_of_awake powered up, setRingEn_of_disabled (hx ▸ off)]
  case disable => exact exec_ringEnable_of_awake powered up r false
  case reset =>
    exact ⟨_, exec_channelReset_of_awake powered up, congrArg Chan.evrEn (s.chan_modChan ..), fun q y => ring_resetChan, rfl, rfl,
      fun g => s.chan_modChan_ne _⟩

end Sys2Proof.Machine

namespace Sys2Proof.Machine

open Sys2Proof

/-! SUPPORT. What the bodies of the reliability and power commands answer (R383, R384). -/

/-! ### Reliability (R383, R415, R424) -/

section Reliability
variable {s : State} {o : Origin} {e : Entry} {n sc tg : Nat}

section Reset
variable (hsc : sc = fld e 66 64) (htg : tg = fld e 79 72)

include hsc

theorem cmdReset_of_reserved (beyond : 4 < sc) : cmdReset.body s o e n = (s, some (2, 0)) := by
  subst hsc
  exact if_pos beyond

/-- The device and every core reset at PF0's command alone. -/
theorem cmdReset_of_wide (wide : 3 ≤ sc) (inRange : sc ≤ 4) : cmdReset.body s o e n =
    if rightsOf o ≠ 0 then (s, some (3, 0))
    else if sc = 4 then (requestReset s 4 0 none, some (0, 0))
    else (requestReset s 3 0 (some o), none) := by
  subst hsc
  simp only [cmdReset, inRange.not_gt, wide, if_false, if_true, bne_iff_ne, ok, bad, later]

include htg

/-- A core, a cluster or a partition resets within its own partition. -/
theorem cmdReset_of_narrow (narrow : sc < 3) (inBand : o ≠ .oob) (there : partExists s n = true) (cluster : sc = 1 → tg < 32)
    (part : sc = 2 → tg ≤ 32) : cmdReset.body s o e n =
    if targetIn s n sc tg = true then (requestReset s sc tg (some o), none) else (s, some (3, 0)) := by
  subst hsc htg
  have inRange : ¬ ((fld e 66 64 = 1 ∧ 32 ≤ fld e 79 72) ∨ (fld e 66 64 = 2 ∧ 32 < fld e 79 72)) := by omega
  have defined : ¬ 4 < fld e 66 64 := by omega
  cases inPart : targetIn s n (fld e 66 64) (fld e 79 72) <;>
    simp [cmdReset, defined, narrow.not_ge, inBand, there, inRange, inPart, bad, later]

end Reset

theorem State.modPart_modPart (s : State) (n : Nat) (f g : Part → Part) : (s.modPart n f).modPart n g = s.modPart n (fun p => g (f p)) := by
  simp [State.modPart, tmod]

theorem isMember_modPart_of_same {f : Part → Part} (same : ∀ p, (f p).exist = p.exist ∧ (f p).active = p.active) :
    isMember (s.modPart n f) n = isMember s n := by
  obtain ⟨exist, active⟩ := same (s.part n)
  simp only [isMember, State.part_modPart, exist, active]

/-- The fraction waits for the next step of a member, and holds at once where no step opens. -/
theorem cmdSnetSet_of_inRange (inRange : fld e 68 64 ≤ 16) : cmdSnetSet.body s o e n =
    if isMember s n = true then (s.modPart n (fun p => { p with
      sn := { p.sn with next := some (bit e.toNat 69, BitVec.ofNat 5 (fld e 68 64)) } }), some (0, 0))
    else (s.modPart n (fun p => { p with
      sn := { p.sn with en := bit e.toNat 69, log2frac := BitVec.ofNat 5 (fld e 68 64), next := none } }), some (0, 0)) := by
  simp only [cmdSnetSet, inRange.not_gt, if_false, isMember_modPart_of_same, and_self, implies_true, sampleNext, State.modPart_modPart, ok]
  split <;> rfl

end Reliability

/-! ### FIELD_TEST (R424) -/

section FieldTest
variable {s : State} {o : Origin} {e : Entry} {n : Nat}

/-- Partition 0 holds the clusters of a bit set, and no context stands on them. -/
def clustersFree (s : State) (m : Nat) : Bool := (setOf m).all (fun k => holdsCluster s 0 k && !clusterUsed s k)

theorem clustersFree_eq_true {m : Nat} :
    clustersFree s m = true ↔ ∀ j < 32, bit m j = true → holdsCluster s 0 j = true ∧ clusterUsed s j = false := by
  simp only [clustersFree, setOf_all, Bool.and_eq_true, Bool.not_eq_true']

theorem clustersFree_eq_false {m : Nat} (taken : ∃ j < 32, bit m j = true ∧ (holdsCluster s 0 j = false ∨ clusterUsed s j = true)) :
    clustersFree s m = false := by
  obtain ⟨j, hj, named, held⟩ := taken
  refine Bool.eq_false_iff.mpr (fun all => ?_)
  obtain ⟨holds, unused⟩ := clustersFree_eq_true.mp all j hj named
  rcases held with other | used
  · exact absurd (other.symm.trans holds) Bool.false_ne_true
  · exact absurd (unused.symm.trans used) Bool.false_ne_true

/-- The units that a field test names: engines, or the cores of its clusters. -/
def testUnits (set m : Nat) : List Nat := if set = 3 then setOf m else (setOf m).flatMap (fun k => (List.range 8).map (· + 8 * k))

theorem cmdFieldTest_of_reserved (reserved : fld e 71 64 = 0 ∨ 3 < fld e 71 64) : cmdFieldTest.body s o e n = (s, some (2, 0)) :=
  if_pos reserved

/-- A defined test of free clusters writes the Pantry back and tests each unit. -/
theorem cmdFieldTest_of_defined (defined : 1 ≤ fld e 71 64 ∧ fld e 71 64 ≤ 3) : cmdFieldTest.body s o e n =
    if clustersFree s (fld e 127 96) = false then (s, some (4, 0))
    else (((testUnits (fld e 71 64) (fld e 127 96)).foldl (testUnit (fld e 71 64)) (pantryFlush s, 0)).1,
      some (0, ((testUnits (fld e 71 64) (fld e 127 96)).foldl (testUnit (fld e 71 64)) (pantryFlush s, 0)).2)) := by
  have inRange : ¬ (fld e 71 64 = 0 ∨ 3 < fld e 71 64) := by omega
  simp only [cmdFieldTest, inRange, if_false, Bool.not_eq_true', bad, ok]
  rfl

theorem setOf_two_pow {j : Nat} (hj : j < 32) : setOf (2 ^ j) = [j] := by
  revert j
  decide

/-- An entry of the repair record leaves the retired engines as they are. -/
theorem addRepair_engQuar (t : State) (kind action logical physical cause : Nat) :
    (addRepair t kind action logical physical cause).rel.engQuar = t.rel.engQuar := by
  simp only [addRepair, addEntry, State.modRel_rel]
  split
  · rfl
  · split <;> rfl

/-- The state in which a field test has found engine `j` to fail: it is reported, and retires at the next reset that covers it. -/
def engineFailed (s : State) (j : Nat) : State :=
  addRepair ((raiseDev s 0x4601 (data4 0 j 0 0)).modRel (fun r => { r with engQuar := setFld r.engQuar j j 1 })) 1 1 j (j / 8) 0x4601

/-- A field test of an enabled engine counts it, and retires it, where it fails. -/
theorem testUnit_engine {j : Nat} (hj : j < 32) (enabled : s.rel.engQuar.getLsbD j = false) :
    ∃ t k, testUnit 3 (s, 0) j = (t, k) ∧ k ≤ 1 ∧ (t.rel.engQuar.getLsbD j = true ↔ k = 1) ∧ t.mem = s.mem ∧ t.parts = s.parts := by
  cases fails : (Config.freeValue s.free).getLsbD 0 with
  | false =>
    refine ⟨{ s with free := s.free + 1 }, 0, ?_, Nat.zero_le 1, ?_, rfl, rfl⟩
    · simp only [testUnit, State.fresh, fails, Bool.not_false, if_true]
    · simp [enabled]
  | true =>
    refine ⟨engineFailed { s with free := s.free + 1 } j, 1, ?_, le_rfl, ?_, rfl, rfl⟩
    · simp [testUnit, State.fresh, fails, enabled, engineFailed]
    · simp [engineFailed, addRepair_engQuar, getLsbD_setFld_one _ hj]

end FieldTest

/-! ### Power (R384, R444, R449) -/

section Power
variable {s : State} {o : Origin} {e : Entry} {n k : Nat}

section PowerState
variable (hk : k = fld e 66 64)

include hk

theorem cmdPowerState_of_reserved (beyond : 4 < k) : cmdPowerState.body s o e n = (s, some (2, 0)) := by
  subst hk
  exact if_pos beyond

theorem cmdPowerState_of_there (inRange : k ≤ 4) (there : stateOf k = s.pwr.st) : cmdPowerState.body s o e n = (s, some (0, 0)) := by
  subst hk
  exact (if_neg inRange.not_gt).trans (if_pos there)

section Change
variable (inRange : k ≤ 4) (change : stateOf k ≠ s.pwr.st)

include inRange change

theorem cmdPowerState_of_contexts (deep : 2 ≤ k) (loaded : s.ctxs ≠ []) : cmdPowerState.body s o e n = (s, some (4, 0)) := by
  subst hk
  simp only [cmdPowerState, inRange.not_gt, change, if_false, deep, decide_true, Bool.true_and, Bool.not_eq_true', List.isEmpty_eq_false_iff,
    loaded, ne_eq, not_false_eq_true, if_true, bad]

/-- Firmware that stays up answers once the state is reached, and at once where it goes down. -/
theorem cmdPowerState_of_free (free : k < 2 ∨ s.ctxs = []) : cmdPowerState.body s o e n =
    if stateOf k = .carousel ∨ stateOf k = .off then (s.modPwr (fun p => { p with goal := some (stateOf k, none) }), some (0, 0))
    else (s.modPwr (fun p => { p with goal := some (stateOf k, some o) }), none) := by
  subst hk
  have granted : (decide (2 ≤ fld e 66 64) && !s.ctxs.isEmpty) = false := by
    rcases free with shallow | empty
    · simp [shallow.not_ge]
    · simp [empty]
  simp only [cmdPowerState, inRange.not_gt, change, granted, Bool.false_eq_true, if_false, ok, later]

end Change
end PowerState

theorem cmdPartIdle_body : cmdPartIdle.body s o e n =
    if (s.part n).idle = bit e.toNat 64 then (s, some (0, 0))
    else (raise (s.modPart n (fun p => { p with idle := bit e.toNat 64 })) 0x5302 (some n) none (data5 0 0 0), some (0, 0)) := by
  simp only [cmdPartIdle, beq_iff_eq, ok]

/-- SENSOR_READ answers as the sensor does. -/
theorem cmdSensorRead_of_assigned (assigned : sensorOk (fld e 79 64) = true) : cmdSensorRead.body s o e n =
    ((readSensor s (fld e 79 64)).1, some (0, (readSensor s (fld e 79 64)).2)) := by
  simp only [cmdSensorRead, assigned, Bool.not_true, Bool.false_eq_true, if_false, ok]

theorem readSensor_of_reading {x : Int} (reading : sensorReading s k = some x) : readSensor s k = (s, ofSigned 32 x + 2 ^ 32) := by
  simp only [readSensor, reading]

theorem readSensor_of_none (unknown : sensorReading s k = none) :
    readSensor s k = ({ s with free := s.free + 1 }, (Config.freeValue s.free).toNat % 2 ^ 33) := by
  simp only [readSensor, unknown, State.fresh]

/-- Only the clock sensors are read from the clocks. -/
theorem sensorReading_of_sensor (other : k < 0x600 ∨ 0x603 < k) : sensorReading s k = tget s.pwr.sensors k := if_neg (by omega)

theorem sensorReading_of_clock (first : 0x600 ≤ k) (last : k ≤ 0x603) :
    sensorReading s k = some (1000 * ((tgetD s.pwr.aclk (k - 0x600) 0 : Nat) : Int)) := if_pos ⟨first, last⟩

theorem sensorOk_of_clock (first : 0x600 ≤ k) (last : k ≤ 0x603) : sensorOk k = true := by
  simp [sensorOk, first, last]

end Power

/-- Settles O50: each command by what its body answers to its entry. -/
theorem reliabilityAndPowerCommands : Obligations.ReliabilityAndPowerCommands := by
  refine ⟨?reliability, ?power⟩
  case reliability =>
    rintro s r o e n sc tg rfl rfl hsc htg
    refine ⟨fun runs => ⟨fun beyond => next_of_answer runs (cmdReset_of_reserved hsc beyond), fun device pf0 => next_of_answer runs ?_,
        fun all pf0 => next_of_later runs ?_, fun wide inRange vf => next_of_answer runs ?_,
        fun narrow inBand there cluster part => ⟨fun own => next_of_later runs ?_, fun other => next_of_answer runs ?_⟩⟩,
      fun runs => ⟨fun beyond => next_of_answer runs (if_pos beyond), fun inRange member => next_of_answer runs ?_,
        fun inRange outsider => next_of_answer runs ?_⟩,
      fun runs => next_of_answer runs rfl, fun runs => next_of_answer runs rfl, fun runs first last => ?test,
      fun reserved runs => next_of_answer runs (cmdFieldTest_of_reserved reserved)⟩
    · rw [cmdReset_of_wide hsc (by omega) (by omega), if_neg (not_not.mpr pf0), if_pos device]
    · rw [cmdReset_of_wide hsc (by omega) (by omega), if_neg (not_not.mpr pf0), if_neg (by omega)]
    · rw [cmdReset_of_wide hsc wide inRange, if_pos vf]
    · rw [cmdReset_of_narrow hsc htg narrow inBand there cluster part, if_pos own]
    · rw [cmdReset_of_narrow hsc htg narrow inBand there cluster part, if_neg (by simp [other])]
    · rw [cmdSnetSet_of_inRange inRange, if_pos member]
    · rw [cmdSnetSet_of_inRange inRange, if_neg (by simp [outsider])]
    case test =>
      have body := cmdFieldTest_of_defined (s := setRunning s o) (o := o) (n := targetPart o e) ⟨first, last⟩
      refine ⟨fun taken => next_of_answer runs (body.trans (if_pos (clustersFree_eq_false taken))), fun none => ?none,
        fun j hj engines one holds unused enabled => ?engine⟩
      case none =>
        rw [none] at body
        refine next_of_answer runs (body.trans ?_)
        simp [clustersFree, testUnits, setOf, bit, pantryFlush]
      case engine =>
        have free : clustersFree (setRunning s o) (2 ^ j) = true := by
          simp [clustersFree, setOf_two_pow hj, holds, unused]
        obtain ⟨t, k, tested, few, retired, mem, parts⟩ := testUnit_engine (s := pantryFlush (setRunning s o)) hj enabled
        refine ⟨t, k, next_of_answer runs ?_, few, retired, (congrArg MemSys.bytes mem :), parts⟩
        rw [body, engines, one, free, testUnits, if_pos rfl, setOf_two_pow hj, List.foldl_cons, List.foldl_nil, tested]
        rfl
  case power =>
    rintro s r o e n k rfl rfl
    refine ⟨fun runs hk => ⟨fun beyond => next_of_answer runs (cmdPowerState_of_reserved hk beyond),
        fun inRange there => next_of_answer runs (cmdPowerState_of_there hk inRange there),
        fun inRange change deep loaded => next_of_answer runs (cmdPowerState_of_contexts hk inRange change deep loaded),
        fun light change free => next_of_later runs ?_, fun low inRange change empty => next_of_answer runs ?_⟩,
      fun runs => ⟨fun same => next_of_answer runs (cmdPartIdle_body.trans (if_pos same)),
        fun change => next_of_answer runs (cmdPartIdle_body.trans (if_neg change))⟩,
      fun runs hk => ?sensor,
      fun runs hk => ⟨fun inRange => next_of_answer runs ?_, fun nonzero beyond => next_of_answer runs ?_⟩⟩
    · have up : stateOf k ≠ .carousel ∧ stateOf k ≠ .off := by interval_cases k <;> decide
      rw [cmdPowerState_of_free hk (by omega) change free, if_neg (by simp [up])]
    · have down : stateOf k = .carousel ∨ stateOf k = .off := by interval_cases k <;> decide
      rw [cmdPowerState_of_free hk inRange change (.inr empty), if_pos down]
    case sensor =>
      subst hk
      refine ⟨fun unassigned => next_of_answer runs ?_, fun x assigned other reading => next_of_answer runs ?_,
        fun first last => next_of_answer runs ?_, fun assigned other unknown => next_of_answer runs ?_⟩
      · exact if_pos (by simp [unassigned])
      · rw [cmdSensorRead_of_assigned assigned, readSensor_of_reading ((sensorReading_of_sensor other).trans reading)]
      · rw [cmdSensorRead_of_assigned (sensorOk_of_clock first last), readSensor_of_reading (sensorReading_of_clock first last)]
      · rw [cmdSensorRead_of_assigned assigned, readSensor_of_none ((sensorReading_of_sensor other).trans unknown)]
    · subst hk
      exact if_neg (by omega)
    · subst hk
      exact if_pos ⟨nonzero, beyond⟩

end Sys2Proof.Machine

namespace Sys2Proof.Machine

open Sys2Proof

/-! SUPPORT. Counterexample to one statement: in CAROUSEL the test access port works, but the DBG_OBS pins stay at high impedance. -/

/-- Where the module executes nothing, the DBG_OBS pins are at high impedance (R474). -/
theorem driveObs_of_asleep {s : State} (asleep : awake s = false) : driveObs s = s.modMgmt (fun m => { m with obs := none }) :=
  if_pos (by simp [asleep])

/-- OBS_SELECT in CAROUSEL takes its selection and sets OBS_EN, and drives no pin (R474, R479). -/
theorem exec_obsSelect_of_carousel {s : State} (wheel : s.pwr.st = .carousel) (sel : Word16) :
    exec (.obsSelect sel) s = .next (s.modMgmt (fun m => { m with
      tapIr := 0x11, tapDr := sel.toNat, scanMode := 0, sel := sel, selSrc := true, obsEn := true, obs := none })) := by
  have powered : s.pwr.st ≠ .off := by simp [wheel]
  refine congrArg Host.Outcome.next ((if_neg powered).trans ((driveObs_of_asleep ?_).trans ?_))
  · simp [awake, tapLoad, wheel]
  · simp [tapLoad, State.modMgmt]

/-- A module in CAROUSEL. -/
def carouselState : State := { pwr := { st := .carousel } }

/-- Refutes O53: in CAROUSEL OBS_SELECT leaves the pins at high impedance (R474), where the statement has it drive them in every state but
OFF. -/
theorem not_managementAndTestAccess : ¬ Obligations.ManagementAndTestAccess := by
  rintro ⟨-, access⟩
  obtain ⟨powered, -⟩ := access carouselState
  obtain ⟨-, -, -, -, -, select⟩ := powered (by decide)
  obtain ⟨t, ran, -, -, -, -, driven, -⟩ := select 0
  rw [exec_obsSelect_of_carousel rfl] at ran
  obtain rfl := Host.Outcome.next.inj ran
  exact Bool.false_ne_true driven

end Sys2Proof.Machine

namespace Sys2Proof.Machine

open Sys2Proof

/-! SUPPORT. The front of the queue, and the power unit: the input, dips of VCORE, the cap, heat and coolant. -/

/-- Settles O1: the front command is taken off the queue, and its meaning is applied to what is left. -/
theorem stepRunsFrontCommand : Obligations.StepRunsFrontCommand := by
  intro s c rest front
  simp only [step, front]

/-! ### The input (R435) -/

section Input
variable {s : State} {mv : Int}

theorem exec_inputOutOfRange_of_powered (powered : s.pwr.st ≠ .off) :
    exec (.inputOutOfRange mv) s = .next (if mv < 40000 ∨ 56000 < mv then turnOff (inputReading s mv) else inputReading s mv) :=
  congrArg Host.Outcome.next (if_neg powered)

theorem inputReading_of_inRange (low : 42000 ≤ mv) (high : mv ≤ 54000) :
    inputReading s mv = s.modPwr (fun p => { p with sensors := tput p.sensors 1 mv, inputBad := false }) :=
  if_pos ⟨low, high⟩

/-- The first reading out of range in a beat is reported. -/
theorem inputReading_of_outside (outside : mv < 42000 ∨ 54000 < mv) (first : s.pwr.inputRaised = false) :
    inputReading s mv = (raiseDev (s.modPwr (fun p => { p with sensors := tput p.sensors 1 mv, inputBad := true }))
      0x5101 (data5 1 mv 0)).modPwr (fun p => { p with inputRaised := true }) := by
  have range : ¬ (42000 ≤ mv ∧ mv ≤ 54000) := by omega
  exact (if_neg range).trans (if_neg (by simp [setSensor, first]))

end Input

/-! ### A reset of compute scope or wider is asked for (R411, R462) -/

/-- It waits in the queue, and the partitions count as in reset; nothing else changes. -/
theorem requestReset_of_wide (s : State) {scope : Nat} (wide : 3 ≤ scope) (target : Nat) (o : Option Origin) :
    ∃ ps, requestReset s scope target o =
      { s with parts := ps, rel := { s.rel with rstQueue := s.rel.rstQueue ++ [(scope, target, o)], rstBusy := true } } := by
  have notPart : scope ≠ 2 := by omega
  simp only [requestReset, if_neg notPart, if_pos wide]
  refine foldl_any (P := fun t : State => ∃ ps, t = { s with
    parts := ps, rel := { s.rel with rstQueue := s.rel.rstQueue ++ [(scope, target, o)], rstBusy := true } }) ⟨s.parts, rfl⟩ ?_
  rintro t n ⟨ps, rfl⟩
  split
  · exact ⟨_, rfl⟩
  · exact ⟨ps, rfl⟩

/-! ### Dips of VCORE (R438 to R440) -/

section Dips
variable {s : State} {d : Nat}

theorem rail_modRail (f : Vrail → Vrail) : tgetD (modRail s d f).pwr.rails d {} = f (rail s d) := tgetD_tmod_same ..

/-- With no operation, no pass and no check on the die, a dip marks nothing but the list of checks, which stays as it is. -/
theorem markDie_of_bare (noCtxs : s.ctxs = []) (noEngines : s.clusters = []) : ∃ f, markDie s d = s.modRel f := by
  have noOps : opsOnDie s d = [] := by simp [opsOnDie, noCtxs]
  have noPasses : passesOnDie s d = s := by
    refine foldl_any (P := fun t => t = s) rfl ?_
    rintro t i rfl
    have idle : (t.cluster (8 * d + i)).busy = none := by simp [State.cluster, noEngines, tgetD]
    simp only [idle]
  unfold markDie
  split
  · exact ⟨id, rfl⟩
  · rw [noOps, List.foldl_nil]
    simp only [noPasses]
    exact ⟨_, rfl⟩

theorem exec_vcoreWarning_of_on (on : computeOn s = true) (cool : s.pwr.trip = false) (mv : Nat) :
    exec (.vcoreWarning d mv) s = .next (if (rail s d).below then
        modRail (setSensor s (0x10 + d) mv) d (fun r => { r with minmv := BitVec.ofNat 16 (min r.minmv.toNat mv) })
      else markDie (modRail (setSensor s (0x10 + d) mv) d (fun r => { r with
        dips := satInc r.dips, minmv := BitVec.ofNat 16 mv, below := true, window := true })) d) :=
  congrArg Host.Outcome.next (if_neg (by simp [on, cool]))

theorem exec_vcoreResetLevel_of_on (on : computeOn s = true) (cool : s.pwr.trip = false) (above : (rail s d).resetAt = none) (mv : Nat) :
    exec (.vcoreResetLevel d mv) s = .next (resetLevel (setSensor s (0x10 + d) mv) d mv) :=
  congrArg Host.Outcome.next (if_neg (by simp [on, cool, above]))

theorem exec_vcoreRecover_of_below (below : (rail s d).below = true) (above : (rail s d).resetAt = none) :
    exec (.vcoreRecover d) s = .next (raiseDev (modRail s d (fun r => { r with below := false, window := false }))
      0x5102 (data5 (0x10 + d) (rail s d).minmv.toNat 0)) :=
  congrArg Host.Outcome.next ((if_neg (by simp [below])).trans (if_neg (by simp [above])))

theorem exec_vcoreDipTimeout_of_below (below : (rail s d).below = true) (above : (rail s d).resetAt = none) :
    exec (.vcoreDipTimeout d) s = .next (resetLevel s d (rail s d).minmv.toNat) :=
  congrArg Host.Outcome.next (if_pos (by simp [below, above]))

/-- A rail at its reset level: `was` says whether its dip had begun before. -/
def atResetLevel (s : State) (was : Bool) (mv : Nat) (r : Vrail) : Vrail :=
  { r with
    dips := if was then r.dips else satInc r.dips, vresets := satInc r.vresets,
    minmv := BitVec.ofNat 16 (if was then min r.minmv.toNat mv else mv), below := true, window := false, resetAt := some s.now }

/-- The reset level as it is recorded and reported, before the compute reset is asked for. -/
def levelReported (s : State) (d mv : Nat) : State :=
  raiseDev (modRail s d (atResetLevel s (rail s d).below mv)) 0x5103 (data5 (0x10 + d) mv 0)

theorem resetLevel_eq (s : State) (d mv : Nat) : ∃ ps, resetLevel s d mv = { levelReported s d mv with
    parts := ps, rel := { s.rel with rstQueue := s.rel.rstQueue ++ [(3, 0, none)], rstBusy := true } } := by
  have run : resetLevel s d mv = requestReset (levelReported s d mv) 3 0 none := rfl
  rw [run]
  exact requestReset_of_wide (levelReported s d mv) (Nat.le_refl 3) 0 none

end Dips

/-! ### The cap (R443, R444) -/

section Cap
variable {s : State}

/-- A clock after one 25 MHz step within 200 MHz to 1.50 GHz. -/
def stepped (up : Bool) (f : Nat) : Nat := if up then min 1500 (f + 25) else max 200 (f - 25)

/-- Steps of several dies change their clocks alone, each by one step. -/
theorem foldl_stepAclk (up : Bool) (l : List Nat) (distinct : l.Nodup) (s : State) :
    ∃ a, l.foldl (fun t d => stepAclk t d up) s = s.modPwr (fun p => { p with aclk := a }) ∧
      ∀ d, tgetD a d 0 = if d ∈ l then stepped up (aclkOf s d) else aclkOf s d := by
  induction l generalizing s with
  | nil => exact ⟨s.pwr.aclk, rfl, fun d => rfl⟩
  | cons e l ih =>
    obtain ⟨fresh, distinct⟩ := List.nodup_cons.mp distinct
    obtain ⟨a, run, clocks⟩ := ih distinct (stepAclk s e up)
    refine ⟨a, run, fun d => (clocks d).trans ?_⟩
    by_cases same : d = e
    · subst same
      rw [if_neg fresh, if_pos List.mem_cons_self]
      exact tgetD_tput_same ..
    · have other : aclkOf (stepAclk s e up) d = aclkOf s d := tgetD_tput_ne _ _ _ same
      simp only [other, List.mem_cons, same, false_or]

/-- Where no die is too warm, the cap moves every die alike. -/
theorem foldl_capStep (above below : Bool) (l : List Nat) (cool : s.pwr.dieWarm = []) :
    l.foldl (fun t d => if above || t.pwr.dieWarm.contains d then stepAclk t d false else if below then stepAclk t d true else t) s =
      if above || below then l.foldl (fun t d => stepAclk t d !above) s else s := by
  induction l generalizing s with
  | nil => simp
  | cons e l ih =>
    rw [List.foldl_cons, cool]
    cases above
    · cases below
      · exact ih cool
      · exact ih (s := stepAclk s e true) cool
    · exact ih (s := stepAclk s e false) cool

/-- The state in which the cap compares the input power. -/
def powerRead (s : State) (w : Nat) : State :=
  setSensor (s.modPwr (fun p => { p with pinW := BitVec.ofNat 16 w })) 3 (1000 * (w : Int))

theorem exec_powerCapTick_of_on (on : computeOn s = true) (steady : ∀ d < 4, dieWindow s d = false) (w : Nat) :
    exec (.powerCapTick w) s = .next (capStep (powerRead s w) w) := by
  have up : ¬ (s.pwr.st = .off ∨ s.pwr.st = .carousel) := by
    rintro (off | wheel) <;> simp_all [computeOn]
  have runs : ¬ (!computeOn (powerRead s w) || (List.range 4).any (dieWindow (powerRead s w))) = true := by
    have windows : (List.range 4).any (dieWindow s) = false := by
      simpa only [List.any_eq_false, List.mem_range, Bool.not_eq_true] using steady
    have same : computeOn (powerRead s w) = true ∧ (List.range 4).any (dieWindow (powerRead s w)) = false := ⟨on, windows⟩
    simp [same]
  exact congrArg Host.Outcome.next ((if_neg up).trans (if_neg runs))

variable {w : Nat}

/-- Above the cap every clock steps down, and the first time is reported. -/
theorem capStep_of_above (cool : s.pwr.dieWarm = []) (above : s.pwr.capW.toNat < w) (first : s.pwr.capOn = false) :
    ∃ a sl, capStep s w = raiseDev (s.modPwr (fun p => { p with aclk := a, slices := sl, capOn := true })) 0x5401 (data5 3 (1000 * (w : Int)) 0) ∧
      ∀ d < 4, tgetD a d 0 = max 200 (aclkOf s d - 25) := by
  obtain ⟨a, run, clocks⟩ := foldl_stepAclk false (List.range 4) List.nodup_range s
  refine ⟨a, s.pwr.slices || (List.range 4).all (fun d => decide (aclkOf s d ≤ 200)), ?_,
    fun d four => (clocks d).trans (if_pos (List.mem_range.mpr four))⟩
  simp only [capStep]
  rw [foldl_capStep _ _ _ cool]
  simp only [above, decide_true, Bool.true_or, Bool.not_true, if_true, run, first, Bool.not_false, Bool.and_self]
  rfl

/-- Below 95 % of the cap every clock steps up, and the cap stays on while one is below 1.50 GHz. -/
theorem capStep_of_below (cool : s.pwr.dieWarm = []) (below : w * 100 < s.pwr.capW.toNat * 95) (slow : ∃ d < 4, aclkOf s d < 1475) :
    ∃ a, capStep s w = s.modPwr (fun p => { p with aclk := a, slices := false }) ∧ ∀ d < 4, tgetD a d 0 = min 1500 (aclkOf s d + 25) := by
  have notAbove : ¬ s.pwr.capW.toNat < w := by omega
  obtain ⟨a, run, clocks⟩ := foldl_stepAclk true (List.range 4) List.nodup_range s
  replace clocks : ∀ d < 4, tgetD a d 0 = min 1500 (aclkOf s d + 25) := fun d four => (clocks d).trans (if_pos (List.mem_range.mpr four))
  refine ⟨a, ?_, clocks⟩
  have limited : (List.range 4).all (fun d => ([] : List Nat).contains d || tgetD a d 0 == 1500) = false := by
    obtain ⟨d, four, slow⟩ := slow
    refine List.all_eq_false.mpr ⟨d, List.mem_range.mpr four, ?_⟩
    have speed := clocks d four
    simp only [List.contains_nil, Bool.false_or, beq_iff_eq]
    omega
  simp only [capStep]
  rw [foldl_capStep _ _ _ cool]
  simp only [notAbove, below, decide_true, decide_false, Bool.false_or, Bool.not_false, if_true, run,
    Bool.false_eq_true, if_false, aclkOf, State.modPwr_pwr, cool, limited, Bool.false_and, Bool.and_false]
  rfl

/-- Between the two, with the cap off, nothing changes. -/
theorem capStep_of_between (cool : s.pwr.dieWarm = []) (notAbove : w ≤ s.pwr.capW.toNat) (notBelow : s.pwr.capW.toNat * 95 ≤ w * 100)
    (off : s.pwr.capOn = false) : capStep s w = s := by
  simp only [capStep]
  rw [foldl_capStep _ _ _ cool]
  simp only [notAbove.not_gt, notBelow.not_gt, decide_false, Bool.false_or, Bool.false_eq_true, if_false,
    State.modPwr_pwr, off, Bool.not_false, Bool.false_and, Bool.and_false]
  rfl

end Cap

/-! ### Heat and coolant (R445, R446) -/

section Heat
variable {s : State} {d : Nat} {temp : Int}

/-- The die monitors and the coolant sensors are read in every state but OFF and CAROUSEL. -/
theorem not_dark (powered : s.pwr.st ≠ .off) (awake : s.pwr.st ≠ .carousel) : ¬ (s.pwr.st = .off ∨ s.pwr.st = .carousel) :=
  not_or.mpr ⟨powered, awake⟩

/-- DIE_TEMP_WARNING once the reading stands in the sensor table. -/
def warned (s : State) (d : Nat) (temp : Int) : State :=
  let s := s.modPwr (fun p => { p with dieWarm := p.dieWarm ++ [d], thLim := true })
  raiseDev (if computeOn s then stepAclk s d false else s) 0x5203 (data5 (0x100 + d) (1000 * temp) 0)

theorem warned_of_on (on : computeOn s = true) : warned s d temp = raiseDev (stepAclk (s.modPwr (fun p => { p with
    dieWarm := p.dieWarm ++ [d], thLim := true })) d false) 0x5203 (data5 (0x100 + d) (1000 * temp) 0) := by
  have still : computeOn (s.modPwr (fun p => { p with dieWarm := p.dieWarm ++ [d], thLim := true })) = true := on
  simp only [warned, still, if_true]

section Warning
variable (dark : ¬ (s.pwr.st = .off ∨ s.pwr.st = .carousel))
include dark

theorem exec_dieTempWarning_of_warm (warm : (s.pwr.tdieWarn.toNat : Int) ≤ temp) (first : d ∉ s.pwr.dieWarm) :
    exec (.dieTempWarning d temp) s = .next (warned (dieReading s d temp) d temp) :=
  congrArg Host.Outcome.next ((if_neg dark).trans (if_pos ⟨warm, by simpa [dieReading, setSensor] using first⟩))

theorem exec_dieTempWarning_of_cooled (cooled : temp < (s.pwr.tdieWarn.toNat : Int) - 2) (was : d ∈ s.pwr.dieWarm) :
    exec (.dieTempWarning d temp) s = .next ((dieReading s d temp).modPwr (fun p => { p with
      dieWarm := p.dieWarm.filter (· != d), thLim := (p.dieWarm.filter (· != d)) != [] })) := by
  have listed : (dieReading s d temp).pwr.dieWarm.contains d = true := by simpa [dieReading, setSensor] using was
  exact congrArg Host.Outcome.next ((if_neg dark).trans ((if_neg (by simp [was, dieReading, setSensor])).trans (if_pos ⟨cooled, listed⟩)))

theorem exec_dieTempWarning_of_warm_still (warm : (s.pwr.tdieWarn.toNat : Int) - 2 ≤ temp) (was : d ∈ s.pwr.dieWarm) :
    exec (.dieTempWarning d temp) s = .next (dieReading s d temp) := by
  have still : ¬ temp < ((dieReading s d temp).pwr.tdieWarn.toNat : Int) - 2 := not_lt.mpr warm
  exact congrArg Host.Outcome.next ((if_neg dark).trans ((if_neg (by simp [was, dieReading, setSensor])).trans (if_neg (fun h => still h.1))))

end Warning

/-- A cause for abandonment changes the members, their messages and the causes that wait, and nothing else. -/
theorem causeAbandon_onlyMembers (s : State) (n reason : Nat) :
    ∃ ps fab as, causeAbandon s n reason = { s with parts := ps, fab := fab, abandons := as } := by
  unfold causeAbandon
  split
  · dsimp only
    split <;> exact ⟨_, _, _, rfl⟩
  · exact ⟨s.parts, s.fab, s.abandons, rfl⟩

theorem abortMembers_onlyMembers (s : State) (reason : Nat) :
    ∃ ps fab as, abortMembers s reason = { s with parts := ps, fab := fab, abandons := as } := by
  refine foldl_any (P := fun t : State => ∃ ps fab as, t = { s with parts := ps, fab := fab, abandons := as })
    ⟨s.parts, s.fab, s.abandons, rfl⟩ ?_
  rintro t n ⟨ps, fab, as, rfl⟩
  split
  · exact causeAbandon_onlyMembers ..
  · exact ⟨ps, fab, as, rfl⟩

/-- A thermal trip as it is seen and reported, before the members abort. -/
def tripReported (s : State) (d : Nat) : State :=
  let warm := fun (e : Nat) => e == d || (match tget s.pwr.sensors (0x100 + e) with | some x => decide (85000 ≤ x) | none => false)
  raiseDev ((s.modPwr (fun p => { p with trip := true, hot := (List.range 4).filter warm })).modMgmt (fun m => { m with thermtrip := true }))
    0x5204 (data5 (0x100 + d) 110000 0)

theorem tripDie_eq (s : State) (d : Nat) : tripDie s d = declareFailed (abortMembers (tripReported s d) 5) 0 0 := rfl

theorem tripReported_mem : (tripReported s d).mem = s.mem := rfl
theorem tripReported_raised : (tripReported s d).host.raised = s.host.raised ++ [{
    code := 0x5204, part := none, ctx := none, data := BitVec.ofNat 128 (data5 (0x100 + d) 110000 0), ptv := s.time.valid,
    pt := if s.time.valid then s.time.pt else s.time.up }] := rfl
theorem mem_hot_tripReported (die : d < 4) : d ∈ (tripReported s d).pwr.hot :=
  List.mem_filter.mpr ⟨List.mem_range.mpr die, by simp⟩

/-- Whether a reading of a coolant sensor lies beyond its threshold. -/
def coolantBad (s : State) (sensor : Nat) (milli : Int) : Bool :=
  if sensor = 0x500 then decide ((1000 * s.pwr.tinWarn.toNat : Int) < milli) else decide (milli < (s.pwr.flowWarn.toNat : Int))

section Coolant
variable (dark : ¬ (s.pwr.st = .off ∨ s.pwr.st = .carousel)) {sensor : Nat} {milli : Int}
include dark

theorem exec_coolantAlarm_of_steady (same : coolantBad s sensor milli = s.pwr.coolOut.contains sensor) :
    exec (.coolantAlarm sensor milli) s = .next (setSensor s sensor milli) :=
  congrArg Host.Outcome.next ((if_neg dark).trans (if_pos (beq_iff_eq.mpr same)))

theorem exec_coolantAlarm_of_crossing (crossed : coolantBad s sensor milli ≠ s.pwr.coolOut.contains sensor) :
    exec (.coolantAlarm sensor milli) s = .next (raiseDev ((setSensor s sensor milli).modPwr (fun p => { p with
      coolOut := if coolantBad s sensor milli then p.coolOut ++ [sensor] else p.coolOut.filter (· != sensor) }))
        (if sensor = 0x500 then 0x5201 else 0x5202) (data5 sensor milli 0)) :=
  congrArg Host.Outcome.next ((if_neg dark).trans (if_neg (fun same => crossed (beq_iff_eq.mp same))))

end Coolant
end Heat

/-! ### The statement -/

/-- Settles O57: the input by its range, a dip by what has come of it, the cap by where the power stands, then the dies and the coolant by
their thresholds. -/
theorem inputHeatAndPowerCap : Obligations.InputHeatAndPowerCap := by
  refine ⟨fun s => ⟨fun off mv => congrArg Host.Outcome.next (if_pos off), fun mv powered =>
      ⟨fun low high => ?inside, fun outside lo hi first => ?outside, fun beyond => ?beyond⟩,
    fun d r hr on cool => ⟨fun mv below => ?again, fun mv above noCtxs noEngines noChecks => ?dip, fun mv running => ?level⟩,
      fun d r hr => ⟨fun above => ⟨?idle, ?idle'⟩, fun below running => ⟨?recover, ?timeout⟩⟩, fun w on steady cool => ?cap⟩,
    fun s powered up => ⟨fun d temp live => ⟨fun warm first on => ?warm, fun cooled was => ?cooled, fun warm was => ?still⟩,
      fun d => ⟨fun die live => ?trip, fun tripped => ?tripped⟩, fun milli => ?coolant⟩⟩
  case inside =>
    rw [exec_inputOutOfRange_of_powered powered, if_neg (by omega), inputReading_of_inRange low high]
  case outside =>
    rw [exec_inputOutOfRange_of_powered powered, if_neg (by omega), inputReading_of_outside outside first]
    exact ⟨_, rfl, rfl, rfl, rfl, rfl, rfl⟩
  case beyond =>
    rw [exec_inputOutOfRange_of_powered powered, if_pos beyond]
    exact ⟨_, rfl, rfl, rfl, rfl, rfl, rfl⟩
  case again =>
    subst hr
    exact (exec_vcoreWarning_of_on on cool mv).trans (congrArg Host.Outcome.next (if_pos below))
  case dip =>
    subst hr
    obtain ⟨f, marked⟩ := markDie_of_bare (s := modRail (setSensor s (0x10 + d) mv) d (fun r => { r with
      dips := satInc r.dips, minmv := BitVec.ofNat 16 mv, below := true, window := true })) (d := d) noCtxs noEngines
    have run := (exec_vcoreWarning_of_on on cool mv).trans (congrArg Host.Outcome.next ((if_neg (Bool.not_eq_true _ ▸ above)).trans marked))
    exact ⟨_, run, rail_modRail .., rfl, rfl, rfl⟩
  case level =>
    subst hr
    obtain ⟨ps, run⟩ := resetLevel_eq (setSensor s (0x10 + d) mv) d mv
    refine ⟨_, (exec_vcoreResetLevel_of_on on cool running mv).trans (congrArg Host.Outcome.next run), ?_⟩
    have level : tgetD (levelReported (setSensor s (0x10 + d) mv) d mv).pwr.rails d {} = _ := rail_modRail ..
    rw [level]
    exact ⟨rfl, rfl, rfl, rfl, rfl, rfl, rfl, rfl⟩
  case idle =>
    subst hr
    exact congrArg Host.Outcome.next (if_pos (by rw [rail, above]; rfl))
  case idle' =>
    subst hr
    exact congrArg Host.Outcome.next (if_neg (by rw [rail, above]; exact Bool.false_ne_true))
  case recover =>
    subst hr
    exact exec_vcoreRecover_of_below below running
  case timeout =>
    subst hr
    obtain ⟨ps, run⟩ := resetLevel_eq s d (rail s d).minmv.toNat
    refine ⟨_, (exec_vcoreDipTimeout_of_below below running).trans (congrArg Host.Outcome.next run), ?_⟩
    have level : tgetD (levelReported s d (rail s d).minmv.toNat).pwr.rails d {} = _ := rail_modRail ..
    rw [level]
    exact ⟨rfl, if_pos below, rfl⟩
  case cap =>
    have run := exec_powerCapTick_of_on on steady w
    refine ⟨fun above first => ?_, fun below first slow => ?_, fun notAbove notBelow first => ?_⟩
    · obtain ⟨a, sl, moved, clocks⟩ := capStep_of_above (s := powerRead s w) cool above first
      exact ⟨_, run.trans (congrArg Host.Outcome.next moved), rfl, clocks, rfl, rfl⟩
    · obtain ⟨a, moved, clocks⟩ := capStep_of_below (s := powerRead s w) cool below slow
      exact ⟨_, run.trans (congrArg Host.Outcome.next moved), first, rfl, clocks⟩
    · have between := capStep_of_between (s := powerRead s w) cool notAbove notBelow first
      exact ⟨_, run.trans (congrArg Host.Outcome.next between), fun d _ => rfl, rfl⟩
  case warm =>
    have run := exec_dieTempWarning_of_warm (not_dark powered up) warm first
    rw [warned_of_on (s := dieReading s d temp) on] at run
    exact ⟨_, run, rfl, rfl, tgetD_tput_same .., rfl⟩
  case cooled =>
    refine ⟨_, exec_dieTempWarning_of_cooled (not_dark powered up) cooled (by simp [was]), ?_, ?_, rfl, rfl⟩
    · simp [dieReading, setSensor, was]
    · simp [dieReading, setSensor, was]
  case still =>
    exact ⟨_, exec_dieTempWarning_of_warm_still (not_dark powered up) warm was, rfl, rfl⟩
  case trip =>
    obtain ⟨ps, fab, as, aborted⟩ := abortMembers_onlyMembers (tripReported s d) 5
    have run : exec (.thermalTrip d) s = .next (tripDie s d) :=
      congrArg Host.Outcome.next ((if_neg (not_dark powered up)).trans (if_neg (by simp [live])))
    rw [tripDie_eq, aborted] at run
    obtain ⟨last, told⟩ := declareFailed_raised { tripReported s d with parts := ps, fab := fab, abandons := as } 0 0
    refine ⟨_, [last], run, rfl, mem_hot_tripReported die, rfl, rfl, ?_, ?_⟩
    · rw [declareFailed_mem, tripReported_mem]
    · rw [told, tripReported_raised, List.append_assoc, List.singleton_append]
  case tripped =>
    refine ⟨_, congrArg Host.Outcome.next ((if_neg (not_dark powered up)).trans (if_pos tripped)), ?_, rfl, rfl⟩
    change d ∈ if s.pwr.hot.contains d then s.pwr.hot else s.pwr.hot ++ [d]
    split
    next listed => simpa using listed
    next => simp
  case coolant =>
    have dark := not_dark powered up
    refine ⟨fun hot first => ?_, fun cool was => ?_, fun slow first => ?_, fun cool normal => ?_⟩
    · rw [exec_coolantAlarm_of_crossing dark (by simp [coolantBad, hot, first])]
      simp [coolantBad, hot, setSensor, State.modPwr]
    · rw [exec_coolantAlarm_of_crossing dark (by simp [coolantBad, cool.not_gt, was])]
      simp [coolantBad, cool.not_gt, setSensor, State.modPwr, was]
    · rw [exec_coolantAlarm_of_crossing dark (by simp [coolantBad, slow, first])]
      simp [coolantBad, slow, setSensor, State.modPwr]
    · exact exec_coolantAlarm_of_steady dark (by simp [coolantBad, cool.not_gt, normal])

end Sys2Proof.Machine

namespace Sys2Proof.Machine

open Sys2Proof

/-! SUPPORT. The power states: what one change leaves, how the goal is reached, and what wakes the module. -/

/-! ### What is left alone -/

section Frames
variable (s : State)

/-- An answer to a command changes the host interface and the messages alone. -/
theorem finish_onlyHost (o : Origin) (status result : Nat) :
    ∃ out h, finish s o status result = { s with fab := { s.fab with out := out }, host := h } := by
  cases o with
  | remote => exact ⟨_, _, rfl⟩
  | ring | oob => exact ⟨s.fab.out, _, rfl⟩

/-- The answer at the goal to the command that asked, if one did. -/
def askerAnswered (s : State) (o : Option Origin) : State := match o with
  | some q => finish s q 0 0
  | none => s

theorem askerAnswered_onlyHost (o : Option Origin) :
    ∃ out h, askerAnswered s o = { s with fab := { s.fab with out := out }, host := h } := by
  cases o with
  | some q => exact finish_onlyHost s q 0 0
  | none => exact ⟨s.fab.out, s.host, rfl⟩

/-- A wake source changes the goal and what records it alone. -/
theorem wakeBy_onlyGoal (k : Nat) :
    ∃ g l w, wakeBy s k = s.modPwr (fun p => { p with goal := g, lastWake := l, wakePend := w }) := by
  have none : ∃ g l w, s = s.modPwr (fun p => { p with goal := g, lastWake := l, wakePend := w }) :=
    ⟨s.pwr.goal, s.pwr.lastWake, s.pwr.wakePend, rfl⟩
  unfold wakeBy
  split
  · exact none
  · split
    · split
      · exact none
      · exact ⟨s.pwr.goal, s.pwr.lastWake, _, rfl⟩
    · dsimp only
      split
      · exact ⟨_, _, s.pwr.wakePend, rfl⟩
      · split
        · exact ⟨_, _, s.pwr.wakePend, rfl⟩
        · exact none
      · split
        · exact ⟨_, _, s.pwr.wakePend, rfl⟩
        · exact none
      · exact none

theorem lateWake_onlyGoal : ∃ g l w, lateWake s = s.modPwr (fun p => { p with goal := g, lastWake := l, wakePend := w }) := by
  unfold lateWake
  split
  · exact wakeBy_onlyGoal ..
  · exact ⟨s.pwr.goal, s.pwr.lastWake, s.pwr.wakePend, rfl⟩

theorem lateWake_of_none {s : State} (quiet : s.pwr.wakePend = none) : lateWake s = s := by
  simp only [lateWake, quiet]

end Frames

/-! ### One change of state (R449, R450) -/

section Change
variable {s : State} {t n : PState} {o : Option Origin}

/-- The state after one change, with its event. -/
def changed (s : State) (n : PState) : State := raiseDev (changeTo s n) 0x5301 (data5 0 0 (stateCode s.pwr.st))

section Steps
variable (goal : s.pwr.goal = some (t, o)) (away : t ≠ s.pwr.st) (next : nextState s.pwr.st t = n) (ready : changeReady s n = true)
include goal away next ready

theorem exec_stateChange_of_ready : exec .stateChangeComplete s = .next (if n = .off then changeTo s n
    else if n ≠ t then changed s n else lateWake (askerAnswered ((changed s n).modPwr (fun p => { p with goal := none })) o)) := by
  change execStateChangeComplete s = _
  simp only [execStateChangeComplete, goal, next, ready, away, Bool.not_true, Bool.false_eq_true, or_self, if_false]
  rfl

theorem exec_stateChange_of_passing (powered : n ≠ .off) (further : n ≠ t) : exec .stateChangeComplete s = .next (changed s n) := by
  rw [exec_stateChange_of_ready goal away next ready, if_neg powered, if_pos further]

/-- At the goal the command that asked is answered, and a wake that waited acts. -/
theorem exec_stateChange_of_arriving (powered : n ≠ .off) (there : n = t) : exec .stateChangeComplete s =
    .next (lateWake (askerAnswered ((changed s n).modPwr (fun p => { p with goal := none })) o)) := by
  rw [exec_stateChange_of_ready goal away next ready, if_neg powered, if_neg (not_not_intro there)]

/-- Without a wake that waited, the answer is the last thing. -/
theorem exec_stateChange_of_arriving_quiet (powered : n ≠ .off) (there : n = t)
    (quiet : ((changed s n).modPwr (fun p => { p with goal := none })).pwr.wakePend = none) :
    exec .stateChangeComplete s = .next (askerAnswered ((changed s n).modPwr (fun p => { p with goal := none })) o) := by
  rw [exec_stateChange_of_arriving goal away next ready powered there]
  obtain ⟨f, h, same⟩ := askerAnswered_onlyHost ((changed s n).modPwr (fun p => { p with goal := none })) o
  rw [lateWake_of_none]
  rw [same]
  exact quiet

end Steps

/-- No function's DMA can hold the change to CAROUSEL or OFF where none is a bus master. -/
theorem changeReady_of_no_master (noMaster : ∀ f ∈ s.host.fns, f.2.bme = false) (deep : t = .carousel ∨ t = .off) : changeReady s t = true := by
  have off (n : Nat) : canDma s n = false := by
    have bme : (s.fn n).bme = false := by
      cases found : tget s.host.fns n with
      | none => simp [State.fn, tgetD, found]
      | some f => simpa [State.fn, tgetD, found] using noMaster _ (mem_of_tget found)
    simp [canDma, bme]
  have quiet : (s.host.fns.any (fun f => canDma s f.1 && f.2.chans.any (fun c => c.2.rings.any (fun r => r.2.done.isSome)))) = false := by
    simp [off]
  rcases deep with rfl | rfl <;> simp only [changeReady, quiet, Bool.not_false]

/-! What each change leaves (R461). -/

theorem changed_of_hold (idle : s.pwr.st = .idle) : changed s .hold = raiseDev (enterHold s) 0x5301 (data5 0 0 1) := by
  simp only [changed, changeTo, idle, stateCode]
theorem changed_of_carousel (hold : s.pwr.st = .hold) : changed s .carousel = raiseDev (enterCarousel s) 0x5301 (data5 0 0 2) := by
  simp only [changed, changeTo, hold, stateCode]
theorem changed_of_leaving (hold : s.pwr.st = .hold) : changed s .idle = raiseDev (leaveHold s) 0x5301 (data5 0 0 2) := by
  simp only [changed, changeTo, hold, stateCode]
theorem changed_of_idle (run : s.pwr.st = .run) :
    changed s .idle = raiseDev (s.modPwr (fun p => { p with st := .idle })) 0x5301 (data5 0 0 0) := by
  simp only [changed, changeTo, run, stateCode]
theorem changeTo_off : changeTo s .off = turnOff s := by
  unfold changeTo
  split <;> simp_all

theorem nextState_off (a : PState) : nextState a .off = .off := rfl

theorem enterHold_core (n : Nat) : (enterHold s).core n = ((tget s.cores n).map resetCore).getD {} :=
  congrArg (fun r : Option Core => r.getD {}) (tget_tmap s.cores (fun _ r => resetCore r) n)
theorem enterHold_resErr (n : Nat) : ((enterHold s).core n).resErr = 0 := by
  rw [enterHold_core]
  cases tget s.cores n <;> rfl
theorem enterHold_settings {n : Nat} {r : Core} (found : tget s.cores n = some r) :
    ((enterHold s).core n).arrCtl = r.arrCtl ∧ ((enterHold s).core n).slots = r.slots := by
  rw [enterHold_core, found]
  exact ⟨rfl, rfl⟩

theorem enterCarousel_peer (n : Nat) : ((enterCarousel s).link n).peer = none := by
  have dark : (enterCarousel s).link n = ((tget s.fab.links n).map darkLink).getD {} :=
    congrArg (fun l : Option Link => l.getD {}) (tget_tmap s.fab.links (fun _ l => darkLink l) n)
  rw [dark]
  cases tget s.fab.links n <;> rfl

end Change

/-! ### Waking (R452, R453) -/

section Wake
variable {s : State} {k : Nat}

theorem wakeBy_of_disabled (disabled : s.pwr.wakeEn.getLsbD k = false) : wakeBy s k = s := by
  simp only [wakeBy, disabled, Bool.not_false, if_true]

/-- The module starts toward a state for a wake source. -/
def wokenTo (s : State) (k : Nat) (t : PState) : State :=
  s.modPwr (fun p => { p with goal := some (t, none), lastWake := BitVec.ofNat 3 (k + 1) })

section Enabled
variable (enabled : s.pwr.wakeEn.getLsbD k = true)
include enabled

theorem wakeBy_of_carousel (still : s.pwr.goal = none) (wheel : s.pwr.st = .carousel) :
    wakeBy s k = wokenTo s k (if s.pwr.wakeTo then .run else .hold) := by
  simp only [wakeBy, enabled, still, wheel, Bool.not_true, Bool.false_eq_true, if_false]
  rfl

theorem wakeBy_of_shallow (still : s.pwr.goal = none) (shallow : s.pwr.st = .hold ∨ s.pwr.st = .idle) :
    wakeBy s k = if s.pwr.wakeTo then wokenTo s k .run else s := by
  rcases shallow with st | st <;>
    · simp only [wakeBy, enabled, still, st, Bool.not_true, Bool.false_eq_true, if_false]
      rfl

theorem wakeBy_of_entering {o : Option Origin} (entering : s.pwr.goal = some (.carousel, o)) :
    wakeBy s k = s.modPwr (fun p => { p with wakePend := some k }) := by
  simp [wakeBy, enabled, entering]

end Enabled

theorem exec_wake_of_other (other : k ≠ 3) : exec (.wake k) s = .next (wakeBy s k) := congrArg Host.Outcome.next (if_pos other)
theorem exec_wake_of_alarm (edge : s.pwr.alarmEdge = true) :
    exec (.wake 3) s = .next (wakeBy (s.modPwr (fun p => { p with alarmEdge := false })) 3) :=
  congrArg Host.Outcome.next ((if_neg (not_not_intro rfl)).trans (if_pos edge))
theorem exec_wake_of_no_edge (noEdge : s.pwr.alarmEdge = false) : exec (.wake 3) s = .next s :=
  congrArg Host.Outcome.next ((if_neg (not_not_intro rfl)).trans (if_neg (by simp [noEdge])))

end Wake

/-! ### The Carousel (R454) -/

section Sample
variable {s : State} {id : Nat} {x : Int}

/-- A sample's reading, with the crossings that it made kept for their events. -/
def sampleKept (s : State) (r : Nat × Int) (hits : List (Nat × Int)) : State :=
  (setSensor s r.1 r.2).modPwr (fun p => { p with
    carSamples := satInc p.carSamples, crossings := p.crossings.filter (fun c => !hits.any (fun h => h.1 == c.1)) ++ hits })

variable (wheel : s.pwr.st = .carousel)
include wheel

theorem exec_carouselSample {hits : List (Nat × Int)} (crossed : [(id, x)].filter (fun r => fixedLimit r || crosses (setSensor s id x) r) = hits) :
    exec (.carouselSample [(id, x)]) s =
      .next (if hits.isEmpty then sampleKept s (id, x) hits else wakeBy (sampleKept s (id, x) hits) 1) := by
  subst crossed
  exact congrArg Host.Outcome.next (if_neg (not_not_intro wheel))

/-- A sample that crosses nothing stays a reading. -/
theorem exec_carouselSample_of_quiet (within : fixedLimit (id, x) = false) (below : crosses s (id, x) = false) :
    exec (.carouselSample [(id, x)]) s = .next (s.modPwr (fun p => { p with
      sensors := tput p.sensors id x, carSamples := satInc p.carSamples })) := by
  have below' : crosses (setSensor s id x) (id, x) = false := below
  rw [exec_carouselSample wheel (hits := []) (by simp [within, below'])]
  simp [sampleKept, setSensor, State.modPwr]

theorem exec_carouselSample_of_limit (limit : fixedLimit (id, x) = true) :
    exec (.carouselSample [(id, x)]) s = .next (wakeBy (sampleKept s (id, x) [(id, x)]) 1) :=
  exec_carouselSample wheel (hits := [(id, x)]) (by simp [limit])

end Sample

/-! ### The statement -/

/-- Settles O58: the changes of state by where the module stands and where it goes, then the wake sources, then the samples. -/
theorem powerStatesChangeStepByStep : Obligations.PowerStatesChangeStepByStep := by
  refine fun s => ⟨fun still => ?still, fun g o goal idle deeper => ?hold, fun g goal hold hg quiet noMaster => ?carousel,
    fun o goal hold quiet => ?leave, fun o goal run noCtxs quiet => ?idle, fun o goal powered noMaster => ?off, exec_wake_of_no_edge,
    fun k s1 acts hs1 => ?wake, fun other rs => congrArg Host.Outcome.next (if_pos other),
    fun id x wheel still => ⟨exec_carouselSample_of_quiet wheel, fun limit enabled => ?crossing⟩⟩
  case still =>
    change execStateChangeComplete s = _
    simp only [execStateChangeComplete, still]
  case hold =>
    have next : nextState s.pwr.st g = .hold := by rcases deeper with rfl | rfl <;> rw [idle] <;> rfl
    have away : g ≠ s.pwr.st := by rcases deeper with rfl | rfl <;> simp [idle]
    have held := changed_of_hold idle
    by_cases further : PState.hold ≠ g
    · have run := exec_stateChange_of_passing goal away next rfl (by decide) further
      rw [held] at run
      exact ⟨_, run, rfl, rfl, rfl, rfl, rfl, enterHold_resErr, fun n r found => enterHold_settings found⟩
    · have run := exec_stateChange_of_arriving goal away next rfl (by decide) (not_not.mp further)
      obtain ⟨f, h, told⟩ := askerAnswered_onlyHost ((changed s .hold).modPwr (fun p => { p with goal := none })) o
      obtain ⟨x, l, w, woke⟩ := lateWake_onlyGoal (askerAnswered ((changed s .hold).modPwr (fun p => { p with goal := none })) o)
      rw [woke, told, held] at run
      exact ⟨_, run, rfl, rfl, rfl, rfl, rfl, enterHold_resErr, fun n r found => enterHold_settings found⟩
  case carousel =>
    subst hg
    have run := exec_stateChange_of_arriving_quiet goal (by simp [hold]) (by rw [hold]; rfl) (changeReady_of_no_master noMaster (.inl rfl))
      (by decide) rfl (by rw [changed_of_carousel hold]; exact quiet)
    rw [changed_of_carousel hold] at run
    exact ⟨_, run, rfl, rfl, rfl, rfl, rfl, rfl, enterCarousel_peer, rfl⟩
  case leave =>
    have run := exec_stateChange_of_arriving_quiet goal (by simp [hold]) (by rw [hold]; rfl) (by simp [changeReady, hold])
      (by decide) rfl (by rw [changed_of_leaving hold]; exact quiet)
    rw [changed_of_leaving hold] at run
    refine ⟨(raiseDev (leaveHold s) 0x5301 (data5 0 0 2)).modPwr (fun p => { p with goal := none }), run.trans ?_,
      rfl, rfl, rfl, fun d four => ?_⟩
    · cases o <;> rfl
    · interval_cases d <;> rfl
  case idle =>
    have run' := exec_stateChange_of_arriving_quiet goal (by simp [run]) (by rw [run]; rfl) (by simp [changeReady, noCtxs])
      (by decide) rfl (by rw [changed_of_idle run]; exact quiet)
    rw [changed_of_idle run] at run'
    refine run'.trans ?_
    cases o <;> rfl
  case off =>
    have run := exec_stateChange_of_ready goal (Ne.symm powered) (nextState_off _) (changeReady_of_no_master noMaster (.inr rfl))
    rw [if_pos rfl, changeTo_off] at run
    exact ⟨_, run, rfl, rfl, rfl, rfl, rfl⟩
  case wake =>
    have run : exec (.wake k) s = .next (wakeBy s1 k) := by
      by_cases alarm : k = 3
      · subst alarm
        rw [hs1, if_pos rfl]
        exact exec_wake_of_alarm (acts.resolve_left (not_not_intro rfl))
      · rw [hs1, if_neg alarm]
        exact exec_wake_of_other alarm
    obtain ⟨edge, seen⟩ : ∃ e, s1 = s.modPwr (fun p => { p with alarmEdge := e }) := by
      rw [hs1]
      split
      · exact ⟨false, rfl⟩
      · exact ⟨s.pwr.alarmEdge, rfl⟩
    clear hs1
    subst seen
    rw [run]
    exact ⟨fun disabled => congrArg Host.Outcome.next (wakeBy_of_disabled disabled), fun enabled =>
      ⟨fun still wheel => congrArg Host.Outcome.next (wakeBy_of_carousel enabled still wheel),
      fun still shallow => congrArg Host.Outcome.next (wakeBy_of_shallow enabled still shallow),
      fun o entering => congrArg Host.Outcome.next (wakeBy_of_entering enabled entering)⟩⟩
  case crossing =>
    refine ⟨_, exec_carouselSample_of_limit wheel limit, ?_⟩
    rw [wakeBy_of_carousel (s := sampleKept s (id, x) [(id, x)]) enabled still wheel]
    exact ⟨List.mem_append_right _ List.mem_cons_self, rfl, rfl⟩

end Sys2Proof.Machine

namespace Sys2Proof.Machine

open Sys2Proof

/-! SUPPORT. Resets of core, cluster, partition and compute scope: what each of their steps leaves alone, what becomes of the contexts, and
what stands at the end. -/

/-! ### What the steps of a reset leave alone -/

/-- What every step of a reset of the cores `inScope` keeps: device memory and its table, the queue of resets and their count, the time, the
cores outside the scope, and as many repair entries at least. -/
structure KeepsOutside (inScope : Nat → Bool) (s t : State) : Prop where
  bytes : t.mem.bytes = s.mem.bytes
  region : t.mem.region = s.mem.region
  queue : t.rel.rstQueue = s.rel.rstQueue
  count : t.rel.rstCount = s.rel.rstCount
  repair : s.rel.repair.length ≤ t.rel.repair.length
  time : t.time = s.time
  core : ∀ n, inScope n = false → t.core n = s.core n

/-- What the steps keep that touch neither the contexts nor the Pantry. -/
structure KeepsContexts (inScope : Nat → Bool) (s t : State) : Prop extends KeepsOutside inScope s t where
  ctxs : t.ctxs = s.ctxs
  lines : t.mem.lines = s.mem.lines

section Keeps
variable {inScope : Nat → Bool} {s t u : State}

theorem KeepsOutside.of_eq (mem : t.mem = s.mem) (rel : t.rel = s.rel) (time : t.time = s.time) (cores : t.cores = s.cores) :
    KeepsOutside inScope s t :=
  ⟨by rw [mem], by rw [mem], by rw [rel], by rw [rel], by rw [rel], time, fun n _ => by rw [State.core, cores]; rfl⟩
theorem KeepsContexts.of_eq (mem : t.mem = s.mem) (rel : t.rel = s.rel) (time : t.time = s.time) (cores : t.cores = s.cores)
    (ctxs : t.ctxs = s.ctxs) : KeepsContexts inScope s t :=
  ⟨.of_eq mem rel time cores, ctxs, by rw [mem]⟩

theorem KeepsOutside.refl : KeepsOutside inScope s s := .of_eq rfl rfl rfl rfl
theorem KeepsContexts.refl : KeepsContexts inScope s s := .of_eq rfl rfl rfl rfl rfl
theorem KeepsOutside.trans (h : KeepsOutside inScope s t) (g : KeepsOutside inScope t u) : KeepsOutside inScope s u :=
  ⟨g.bytes.trans h.bytes, g.region.trans h.region, g.queue.trans h.queue, g.count.trans h.count, h.repair.trans g.repair,
    g.time.trans h.time, fun n out => (g.core n out).trans (h.core n out)⟩
theorem KeepsContexts.trans (h : KeepsContexts inScope s t) (g : KeepsContexts inScope t u) : KeepsContexts inScope s u :=
  ⟨h.toKeepsOutside.trans g.toKeepsOutside, g.ctxs.trans h.ctxs, g.lines.trans h.lines⟩

theorem KeepsOutside.foldl {α : Type} {f : State → α → State} (h : ∀ t a, KeepsOutside inScope t (f t a)) (l : List α) (s : State) :
    KeepsOutside inScope s (l.foldl f s) :=
  foldl_any (P := KeepsOutside inScope s) .refl (fun t a kept => kept.trans (h t a))
theorem KeepsContexts.foldl {α : Type} {f : State → α → State} {l : List α}
    (h : ∀ t, ∀ a ∈ l, KeepsContexts inScope t (f t a)) (s : State) :
    KeepsContexts inScope s (l.foldl f s) := by
  induction l generalizing s with
  | nil => exact .refl
  | cons a l ih => exact (h s a List.mem_cons_self).trans (ih (fun t b hb => h t b (List.mem_cons_of_mem a hb)) _)

/-- A change of the reliability state that leaves the queue, the count and the repair record. -/
theorem modRel_keepsContexts {f : Rel → Rel} (queue : (f s.rel).rstQueue = s.rel.rstQueue) (count : (f s.rel).rstCount = s.rel.rstCount)
    (repair : (f s.rel).repair = s.rel.repair) : KeepsContexts inScope s (s.modRel f) :=
  ⟨⟨rfl, rfl, queue, count, repair ▸ Nat.le_refl _, rfl, fun _ _ => rfl⟩, rfl, rfl⟩

/-! Members -/

theorem hitMember_keepsContexts (n : Nat) : KeepsContexts inScope s (hitMember s n) := by
  obtain ⟨ps, fab, as, only⟩ := causeAbandon_onlyMembers s n 5
  rw [hitMember, only]
  exact .of_eq rfl rfl rfl rfl rfl

/-- The RESUME of a member leaves everything but the members and their messages. -/
theorem resumeMember_onlyMembers (s : State) (n : Nat) : ∃ ps fab, resumeMember s n = { s with parts := ps, fab := fab } := by
  unfold resumeMember
  split
  · exact ⟨_, _, rfl⟩
  · exact ⟨s.parts, s.fab, rfl⟩

theorem foldl_resumeMember_onlyMembers (l : List Nat) (s : State) :
    ∃ ps fab, l.foldl resumeMember s = { s with parts := ps, fab := fab } := by
  refine foldl_any (P := fun t : State => ∃ ps fab, t = { s with parts := ps, fab := fab }) ⟨s.parts, s.fab, rfl⟩ ?_
  rintro t n ⟨ps, fab, rfl⟩
  exact resumeMember_onlyMembers ..

/-! Samples, the repair record, spares and suspects -/

theorem takeSample_keepsContexts (n : Nat) : KeepsContexts inScope s (takeSample s n) := by
  unfold takeSample
  exact modRel_keepsContexts rfl rfl rfl

/-- An entry never makes the record shorter (R422). -/
theorem addRepair_keepsContexts (kind action logical physical cause : Nat) :
    KeepsContexts inScope s (addRepair s kind action logical physical cause) := by
  refine ⟨⟨rfl, rfl, ?_, ?_, ?_, rfl, fun _ _ => rfl⟩, rfl, rfl⟩ <;> simp only [addRepair, addEntry, State.modRel_rel] <;> split
  · rfl
  · split <;> rfl
  · rfl
  · split <;> rfl
  · simp
  · split
    next e found =>
      have listed := List.mem_of_find?_eq_some found
      simp [List.length_erase_of_mem listed, Nat.sub_add_cancel (List.length_pos_of_mem listed)]
    next => exact Nat.le_refl _

theorem remapEvent_keepsContexts (kind logical physical cause core cluster : Nat) :
    KeepsContexts inScope s (remapEvent s kind logical physical cause core cluster) :=
  KeepsContexts.trans (t := raiseDev s 0x4501 (data4 core cluster 0 0)) (.of_eq rfl rfl rfl rfl rfl) (addRepair_keepsContexts ..)
theorem declareFailed_keepsContexts (core cluster : Nat) : KeepsContexts inScope s (declareFailed s core cluster) :=
  ⟨⟨rfl, rfl, rfl, rfl, Nat.le_refl _, rfl, fun _ _ => rfl⟩, rfl, rfl⟩
theorem failBeyond_keepsContexts (kind logical physical cause core cluster : Nat) :
    KeepsContexts inScope s (failBeyond s kind logical physical cause core cluster) :=
  KeepsContexts.trans (s := s) (t := raiseDev s 0x4502 (data4 core cluster 0 0)) (.of_eq rfl rfl rfl rfl rfl)
    ((addRepair_keepsContexts kind 3 logical physical cause).trans (declareFailed_keepsContexts core cluster))

theorem retireCore_keepsContexts (n cause : Nat) : KeepsContexts inScope s (retireCore s n cause) := by
  unfold retireCore
  split
  · exact .trans (KeepsContexts.trans (t := s.modMap n _) (.of_eq rfl rfl rfl rfl rfl) (modRel_keepsContexts rfl rfl rfl))
      (remapEvent_keepsContexts ..)
  · exact (failBeyond_keepsContexts ..).trans (modRel_keepsContexts rfl rfl rfl)
theorem retireEngine_keepsContexts (k cause : Nat) : KeepsContexts inScope s (retireEngine s k cause) := by
  unfold retireEngine
  dsimp only
  split
  · exact failBeyond_keepsContexts ..
  · exact (modRel_keepsContexts rfl rfl rfl).trans (remapEvent_keepsContexts ..)
theorem remapScope_keepsContexts (which : Nat → Bool) (engines : Bool) (failed : List Nat) :
    KeepsContexts inScope s (remapScope s which engines failed) := by
  have cores (l : List Nat) : KeepsContexts inScope s (l.foldl (fun t n => retireCore t n 0x4401) s) :=
    .foldl (fun t n _ => retireCore_keepsContexts ..) s
  unfold remapScope
  dsimp only
  split
  · exact (cores _).trans (.foldl (fun t k _ => (retireEngine_keepsContexts ..).trans (modRel_keepsContexts rfl rfl rfl)) _)
  · exact cores _

theorem spareBank_keepsContexts (unit cause : Nat) : KeepsContexts inScope s (spareBank s unit cause) := by
  unfold spareBank
  dsimp only
  split
  · exact failBeyond_keepsContexts ..
  · exact KeepsContexts.trans (t := s.modMem _) ⟨⟨rfl, rfl, rfl, rfl, Nat.le_refl _, rfl, fun _ _ => rfl⟩, rfl, rfl⟩
      (remapEvent_keepsContexts ..)
theorem spareChannel_keepsContexts (p cause : Nat) : KeepsContexts inScope s (spareChannel s p cause) := by
  unfold spareChannel
  split
  · exact failBeyond_keepsContexts ..
  · exact KeepsContexts.trans (t := (s.modMemPart p _).modMem _) ⟨⟨rfl, rfl, rfl, rfl, Nat.le_refl _, rfl, fun _ _ => rfl⟩, rfl, rfl⟩
      (remapEvent_keepsContexts ..)
theorem spareMemory_keepsContexts (failed : List Nat) : KeepsContexts inScope s (spareMemory s failed) := by
  refine .foldl (fun t u _ => ?_) s
  split
  · exact spareBank_keepsContexts ..
  · exact spareChannel_keepsContexts ..

/-- The turn of a suspect of the scope (R417). -/
theorem giveTurn_keepsContexts {n : Nat} (k : Option Nat) (inside : inScope (suspectCore n) = true) : KeepsContexts inScope s (giveTurn s n k) := by
  have turn (t : State) : KeepsContexts inScope t
      (if n < 256 then t.modCore n (fun r => { r with isol := k }) else t.modPart (clusterPart t (n - 256)) (fun p => { p with isol := k })) := by
    split
    next core =>
      refine ⟨⟨rfl, rfl, rfl, rfl, Nat.le_refl _, rfl, fun m out => t.core_modCore_ne _ ?_⟩, rfl, rfl⟩
      rintro rfl
      rw [suspectCore, if_pos core, out] at inside
      cases inside
    next => exact .of_eq rfl rfl rfl rfl rfl
  unfold giveTurn
  extract_lets listed
  refine KeepsContexts.trans (t := listed) ?_ (turn listed)
  unfold listed
  split
  · exact .refl
  · exact modRel_keepsContexts rfl rfl rfl
theorem startIsolation_keepsContexts : KeepsContexts inScope s (startIsolation s inScope) :=
  .foldl (fun _ q listed => giveTurn_keepsContexts (n := q.1) _ (List.mem_filter.mp listed).2) s

end Keeps

/-! ### What becomes of the contexts (R411, R412, R419) -/

section Contexts
variable {inScope : Nat → Bool} {s : State}

/-- A context with a virtual core in scope, once that core's state is lost. -/
def stoppedIn (inScope : Nat → Bool) (c : Ctx) : Ctx :=
  { c with st := .stopped, vcs := tmap c.vcs (fun _ x => if inScope x.core then lostVc x else x), saving := none }

/-- What a reset of a scope makes of a context. -/
def resetIn (inScope : Nat → Bool) (c : Ctx) : Ctx := if c.vcs.any (fun x => inScope x.2.core) then stoppedIn inScope c else c

theorem finish_ctxs (s : State) (o : Origin) (status result : Nat) : (finish s o status result).ctxs = s.ctxs := by
  obtain ⟨f, h, only⟩ := finish_onlyHost s o status result
  rw [only]
theorem groupDone_ctxs (s : State) (g : Nat) : (groupDone s g).ctxs = s.ctxs := by
  unfold groupDone
  split
  · split
    · split
      · rfl
      · exact finish_ctxs ..
    · rfl
  · rfl
theorem groupsDone_ctxs (s : State) : (groupsDone s).ctxs = s.ctxs :=
  foldl_any (P := fun t : State => t.ctxs = s.ctxs) rfl (fun t g kept => (groupDone_ctxs t g.1).trans kept)

/-- The end of a save takes it off its context. -/
theorem endSave_ctx? {k : Nat} {c : Ctx} (found : s.ctx? k = some c) (status j : Nat) :
    (endSave s k status).ctx? j = if j = k then some { c with saving := none } else s.ctx? j := by
  unfold endSave
  rw [found]
  dsimp only
  split
  next o saving =>
    rw [State.ctx?, finish_ctxs, s.modCtx_of found]
    split
    next same => rw [same]; exact tget_tput_same ..
    next other => exact tget_tput_ne _ _ other
  next quiet =>
    split
    next same => rw [same, found, ← quiet]
    next => rfl

theorem resetCtx_ctx? (k : Nat) (c : Ctx) (j : Nat) :
    (resetCtx s inScope k c).ctx? j = if j = k then some (stoppedIn inScope c) else s.ctx? j := by
  have ended := endSave_ctx? (s.ctx?_putCtx k { c with st := .stopped, vcs := tmap c.vcs (fun _ x => if inScope x.core then lostVc x else x) }) 9 j
  have kept : (resetCtx s inScope k c).ctxs = (endSave (s.putCtx k
      { c with st := .stopped, vcs := tmap c.vcs (fun _ x => if inScope x.core then lostVc x else x) }) k 9).ctxs := by
    unfold resetCtx
    dsimp only
    split <;> exact groupsDone_ctxs _
  rw [State.ctx?, kept]
  refine ended.trans ?_
  split
  · rfl
  next other => exact s.ctx?_putCtx_ne _ other

theorem resetCtx_keepsOutside (k : Nat) (c : Ctx) : KeepsOutside inScope s (resetCtx s inScope k c) := by
  have onlyMsg {t u : State} (h : OnlyMsg t u) : KeepsOutside inScope t u := .of_eq h.mem_eq h.rel_eq h.time_eq (by rw [h])
  unfold resetCtx
  extract_lets +lift c' ended gone sent done
  have base : KeepsOutside inScope s done :=
    onlyMsg ((OnlyMsg.trans (t := s.putCtx k c') rfl (endSave_onlyMsg ..)).trans ((modFab_onlyMsg ..).trans (groupsDone_onlyMsg _)))
  split
  · exact base.trans (modRel_keepsContexts rfl rfl rfl).toKeepsOutside
  · exact base

/-- One after another, contexts under different numbers are reset each by itself. -/
theorem foldl_resetCtx_ctx? {l : Tab Ctx} (rising : Rising l) (s : State) (k : Nat) :
    (l.foldl (fun t c => resetCtx t inScope c.1 c.2) s).ctx? k = ((tget l k).map (stoppedIn inScope)).or (s.ctx? k) := by
  induction l generalizing s with
  | nil => rfl
  | cons e l ih =>
    obtain ⟨j, c⟩ := e
    rw [List.foldl_cons, ih rising.tail, resetCtx_ctx?, tget]
    by_cases same : k = j
    · subst same
      have absent : tget l k = none := by
        cases found : tget l k with
        | none => rfl
        | some d => exact absurd (rising.head _ (mem_of_tget found)) (Nat.lt_irrefl k)
      rw [absent, if_pos rfl, if_pos rfl]
      rfl
    · rw [if_neg same, if_neg (Ne.symm same)]

/-- What a filtered table holds under a key, where each key stands once. -/
theorem tget_filter {α : Type} {t : Tab α} (rising : Rising t) (p : Nat × α → Bool) (k : Nat) :
    tget (t.filter p) k = (tget t k).filter (fun v => p (k, v)) := by
  induction t with
  | nil => rfl
  | cons e t ih =>
    obtain ⟨j, v⟩ := e
    have rest := ih rising.tail
    by_cases same : j = k
    · subst same
      have absent : tget t j = none := by
        cases found : tget t j with
        | none => rfl
        | some w => exact absurd (rising.head _ (mem_of_tget found)) (Nat.lt_irrefl j)
      rw [absent] at rest
      by_cases kept : p (j, v) = true <;> simp [tget, kept, rest, Option.filter_some]
    · by_cases kept : p (j, v) = true <;> simp [tget, kept, same, rest]

theorem resetCores_ctx? (rising : Rising s.ctxs) (k : Nat) :
    (resetCores s inScope).ctx? k = (s.ctx? k).map (resetIn inScope) := by
  have sampled (l : List Nat) : (l.foldl takeSample s).ctxs = s.ctxs :=
    foldl_any (P := fun t : State => t.ctxs = s.ctxs) rfl (fun _ _ kept => kept)
  change ((List.filter _ _).foldl _ _ : State).ctx? k = _
  rw [sampled, foldl_resetCtx_ctx? (rising.filter _), tget_filter rising, State.ctx?, sampled]
  cases found : tget s.ctxs k with
  | none => simp [State.ctx?, found]
  | some c =>
    by_cases hit : c.vcs.any (fun x => inScope x.2.core) = true <;> simp [State.ctx?, found, resetIn, hit, Option.filter_some]

theorem resetCores_keepsOutside : KeepsOutside inScope s (resetCores s inScope) := by
  have samples (l : List Nat) : KeepsOutside inScope s (l.foldl takeSample s) :=
    .foldl (fun t n => (takeSample_keepsContexts n).toKeepsOutside) l s
  have contexts (l : Tab Ctx) (t : State) : KeepsOutside inScope t (l.foldl (fun t c => resetCtx t inScope c.1 c.2) t) :=
    .foldl (fun t c => resetCtx_keepsOutside ..) l t
  unfold resetCores
  extract_lets sampled hit stopped
  refine ((samples _).trans (contexts hit sampled)).trans (t := stopped) ⟨rfl, rfl, rfl, rfl, Nat.le_refl _, rfl, fun n out => ?_⟩
  have core := tget_tmap stopped.cores (fun n r => if inScope n then resetCore r else r) n
  simp only [out, Bool.false_eq_true, if_false, Option.map_id'] at core
  simp only [State.core, tgetD, core]

/-- A virtual core in scope loses its state and stops its context; a context with none in scope stays as it is. -/
theorem resetIn_vc {c : Ctx} {v : Nat} {x : Vcore} (found : tget c.vcs v = some x) : ∃ y, tget (resetIn inScope c).vcs v = some y ∧
    (inScope x.core = true → (resetIn inScope c).st = .stopped ∧ y = lostVc x) ∧
    ((∀ z ∈ c.vcs, inScope z.2.core = false) → (resetIn inScope c).st = c.st ∧ y.p = x.p ∧ y.win = x.win ∧ y.pos = x.pos) := by
  by_cases hit : c.vcs.any (fun x => inScope x.2.core) = true
  · rw [resetIn, if_pos hit]
    refine ⟨if inScope x.core then lostVc x else x, ?_, fun inside => ⟨rfl, if_pos inside⟩, fun out => ?_⟩
    · simp only [stoppedIn, tget_tmap, found, Option.map_some]
    · obtain ⟨z, listed, inside⟩ := List.any_eq_true.mp hit
      rw [out z listed] at inside
      cases inside
  · rw [resetIn, if_neg hit]
    refine ⟨x, found, fun inside => ?_, fun _ => ⟨rfl, rfl, rfl, rfl⟩⟩
    exact absurd (List.any_eq_true.mpr ⟨_, mem_of_tget found, inside⟩) hit

end Contexts

/-! ### The stages of a reset (R411 to R414) -/

section Stages
variable {s : State} {scope target : Nat}

/-- The units of a scope once their members have been told and their state is lost. -/
def unitsStopped (s : State) (scope target : Nat) : State :=
  let inScope := scopeCores s scope target
  let t := resetCores (((scopeParts s inScope).filter (isMember s)).foldl hitMember s) inScope
  { t with clusters := tmap t.clusters (fun k q => if 1 ≤ scope ∧ inScope (8 * k) then {} else q) }

/-- Cached lines are written back: a partition's for its reset, all for a compute reset, whose checks start again. -/
def linesWritten (s : State) (scope target : Nat) : State :=
  let t := if scope = 2 then flushPart s target else if scope = 3 then pantryFlush s else s
  if scope = 3 then t.modRel (fun r => { r with checks := r.checks.map (fun c => { c with started := false, on := none }) }) else t

/-- Quarantined and failed units are replaced, and the isolation of suspects starts. -/
def unitsReplaced (s : State) (inScope : Nat → Bool) (scope : Nat) (failed : List Nat) : State :=
  let t := remapScope s inScope (1 ≤ scope) failed
  startIsolation (if scope = 3 then spareMemory t failed else t) inScope

/-- The requests that the reset meets leave the queue. -/
def requestsMet (s : State) (ps : List Nat) (scope target : Nat) : State :=
  let t := s.modRel (fun r => { r with rstQueue := r.rstQueue.filter (fun q => !within s scope target q) })
  { t with
    parts := tmap t.parts (fun n p => if ps.contains n then { p with
      inReset := t.rel.rstQueue.any (fun q => 2 ≤ q.1 && (3 ≤ q.1 || q.2.1 == n)) } else p) }

/-- The state in which the units of a reset are ready again. -/
def unitsReady (s : State) (scope target : Nat) (failed : List Nat) : State :=
  unitsReplaced (linesWritten (unitsStopped s scope target) scope target) (scopeCores s scope target) scope failed

theorem doScopeReset_eq (s : State) (scope target : Nat) (failed : List Nat) :
    doScopeReset s scope target failed =
      (scopeParts s (scopeCores s scope target)).foldl resumeMember
        ((((unitsReady s scope target failed).rel.rstQueue.filter (within (unitsReady s scope target failed) scope target)).filterMap
          (fun q => q.2.2)).foldl (fun t o => finish t o 0 0)
          (resetDone (requestsMet (unitsReady s scope target failed) (scopeParts s (scopeCores s scope target)) scope target) scope target)) := rfl

theorem unitsStopped_keepsOutside : KeepsOutside (scopeCores s scope target) s (unitsStopped s scope target) :=
  ((KeepsOutside.foldl (fun _ n => (hitMember_keepsContexts n).toKeepsOutside) _ s).trans resetCores_keepsOutside).trans
    (.of_eq rfl rfl rfl rfl)

theorem unitsStopped_ctx? (rising : Rising s.ctxs) (k : Nat) :
    (unitsStopped s scope target).ctx? k = (s.ctx? k).map (resetIn (scopeCores s scope target)) := by
  have told (l : List Nat) : (l.foldl hitMember s).ctxs = s.ctxs :=
    (KeepsContexts.foldl (inScope := scopeCores s scope target) (fun _ n _ => hitMember_keepsContexts n) s).ctxs
  refine (resetCores_ctx? (by rw [told]; exact rising) k).trans ?_
  rw [State.ctx?, told]
  rfl

theorem linesWritten_keepsOutside (inScope : Nat → Bool) : KeepsOutside inScope s (linesWritten s scope target) := by
  unfold linesWritten
  extract_lets flushed
  have written : KeepsOutside inScope s flushed := by
    unfold flushed
    split
    · exact ⟨rfl, rfl, rfl, rfl, Nat.le_refl _, rfl, fun _ _ => rfl⟩
    · split
      · exact ⟨rfl, rfl, rfl, rfl, Nat.le_refl _, rfl, fun _ _ => rfl⟩
      · exact .refl
  split
  · exact written.trans (modRel_keepsContexts rfl rfl rfl).toKeepsOutside
  · exact written

theorem linesWritten_ctxs : (linesWritten s scope target).ctxs = s.ctxs := by
  unfold linesWritten
  extract_lets flushed
  have written : flushed.ctxs = s.ctxs := by
    unfold flushed
    split
    · rfl
    · split <;> rfl
  split <;> exact written
theorem linesWritten_compute : (linesWritten s 3 target).mem.lines = [] := rfl

theorem unitsReplaced_keepsContexts (inScope : Nat → Bool) (failed : List Nat) :
    KeepsContexts inScope s (unitsReplaced s inScope scope failed) := by
  unfold unitsReplaced
  dsimp only
  refine KeepsContexts.trans ?_ startIsolation_keepsContexts
  split
  · exact (remapScope_keepsContexts ..).trans (spareMemory_keepsContexts ..)
  · exact remapScope_keepsContexts ..

theorem unitsReady_keepsOutside (failed : List Nat) :
    KeepsOutside (scopeCores s scope target) s (unitsReady s scope target failed) :=
  (unitsStopped_keepsOutside.trans (linesWritten_keepsOutside _)).trans (unitsReplaced_keepsContexts ..).toKeepsOutside

theorem unitsReady_ctx? (rising : Rising s.ctxs) (failed : List Nat) (k : Nat) :
    (unitsReady s scope target failed).ctx? k = (s.ctx? k).map (resetIn (scopeCores s scope target)) := by
  have replaced : KeepsContexts (scopeCores s scope target) _ (unitsReady s scope target failed) := unitsReplaced_keepsContexts ..
  rw [State.ctx?, replaced.ctxs, linesWritten_ctxs]
  exact unitsStopped_ctx? rising k

theorem unitsReady_compute_lines (failed : List Nat) : (unitsReady s 3 target failed).mem.lines = [] :=
  (unitsReplaced_keepsContexts ..).lines.trans linesWritten_compute

/-- A reset that waits alone, asked for by no command: after it the queue is empty, its registers and 0x4401 tell of it, and the members have
resumed. -/
theorem doScopeReset_of_alone (alone : s.rel.rstQueue = [(scope, target, none)]) (failed : List Nat) :
    ∃ ps fab, doScopeReset s scope target failed = { resetDone
      ((unitsReady s scope target failed).modRel (fun r => { r with rstQueue := [] })) scope target with parts := ps, fab := fab } := by
  have covered : within (unitsReady s scope target failed) scope target (scope, target, none) = true := by simp [within]
  have queue : (unitsReady s scope target failed).rel.rstQueue = [(scope, target, none)] :=
    (unitsReady_keepsOutside failed).queue.trans alone
  obtain ⟨ps, fab, resumed⟩ := foldl_resumeMember_onlyMembers (scopeParts s (scopeCores s scope target))
    (resetDone (requestsMet (unitsReady s scope target failed) (scopeParts s (scopeCores s scope target)) scope target) scope target)
  refine ⟨ps, fab, ?_⟩
  rw [doScopeReset_eq, queue]
  simp only [List.filter_cons, covered, if_true, List.filter_nil, List.filterMap_cons_none, List.filterMap_nil, List.foldl_nil, resumed]
  simp only [requestsMet, State.modRel, queue, List.filter_cons, covered, Bool.not_true, Bool.false_eq_true, if_false, List.filter_nil]
  rfl

end Stages

/-! ### The commands (R411, R413, R440) -/

section Commands
variable {s : State} {scope target : Nat} {failed : List Nat}

theorem superseded_of_alone {o : Option Origin} (alone : s.rel.rstQueue = [(scope, target, o)]) : superseded s scope target = false := by
  simp [superseded, alone]

theorem exec_scopeReset_of_narrow (narrow : scope < 3) (alone : s.rel.rstQueue = [(scope, target, none)]) :
    exec (.scopeReset scope target failed) s = .next (doScopeReset s scope target failed) := by
  have inRange : ¬ 3 < scope := by omega
  have notDevice : scope ≠ 4 := by omega
  have notCompute : scope ≠ 3 := by omega
  have asked : ¬ (3 < scope || !s.rel.rstQueue.any (fun q => q.1 == scope && (q.2.1 == target || scope == 3)) ||
      superseded s scope target) = true := by
    simp [superseded_of_alone alone, inRange, alone]
  exact congrArg Host.Outcome.next ((if_neg notDevice).trans ((if_neg asked).trans (if_neg notCompute)))

theorem exec_scopeReset_of_unasked (unasked : ∀ q ∈ s.rel.rstQueue, q.1 ≠ scope) : exec (.scopeReset scope target failed) s = .next s := by
  have absent : (s.rel.rstQueue.any (fun q => q.1 == scope && (q.2.1 == target || scope == 3))) = false := by
    refine List.any_eq_false.mpr (fun q listed => ?_)
    simp [unasked q listed]
  by_cases device : scope = 4
  · subst device
    have none : (s.rel.rstQueue.any (fun q => q.1 == 4)) = false :=
      List.any_eq_false.mpr (fun q listed => by simpa using unasked q listed)
    exact congrArg Host.Outcome.next ((if_pos rfl).trans (if_pos (by simp [none])))
  · exact congrArg Host.Outcome.next ((if_neg device).trans (if_pos (by simp [absent])))

/-- The rails have left their reset level. -/
def resetOff (s : State) : State := s.modPwr (fun p => { p with rails := tmap p.rails (fun _ r => { r with resetAt := none }) })

/-- A compute reset that waits alone acts by the rails and by the units that fail (R413, R440). -/
theorem exec_scopeReset_of_compute (alone : s.rel.rstQueue = [(3, 0, none)]) :
    exec (.scopeReset 3 0 failed) s = .next (if !railsReady s then s
      else if failed.any (fun u => u < 512) then computeFailed (s.modRel (fun r => { r with rstQueue := r.rstQueue.filter (fun q => q.1 != 3) }))
      else (doScopeReset (resetOff s) 3 0 failed).modRel (fun r => { r with rstFailed := false })) := by
  have asked : ¬ (3 < 3 || !s.rel.rstQueue.any (fun q => q.1 == 3 && (q.2.1 == 0 || 3 == 3)) || superseded s 3 0) = true := by
    simp [superseded_of_alone alone, alone]
  exact congrArg Host.Outcome.next ((if_neg (by decide)).trans ((if_neg asked).trans (if_pos rfl)))

/-- A compute reset that waits alone leaves an empty queue. -/
theorem computeUnqueued (alone : s.rel.rstQueue = [(3, 0, none)]) :
    s.modRel (fun r => { r with rstQueue := r.rstQueue.filter (fun q => q.1 != 3) }) = s.modRel (fun r => { r with rstQueue := [] }) := by
  simp [State.modRel, alone]

theorem exec_computeResetFail_of_alone (alone : s.rel.rstQueue = [(3, 0, none)]) :
    exec .computeResetFail s = .next (computeFailed (s.modRel (fun r => { r with rstQueue := [] }))) := by
  change execComputeResetFail s = _
  simp only [execComputeResetFail, computeUnqueued alone]
  simp [alone]

theorem railsReady_of_all (above : ∀ r ∈ s.pwr.rails, r.2.below = false) : railsReady s = true :=
  List.all_eq_true.mpr (fun r listed => by simp [above r listed])

/-- A failed compute reset is reported, and a device reset is asked for (R413). -/
theorem computeFailed_eq (s : State) : ∃ ps, computeFailed s =
    { raiseDev s 0x4402 (data4 0 0 3 0) with
      parts := ps, rel := { s.rel with rstFailed := true, rstQueue := s.rel.rstQueue ++ [(4, 0, none)], rstBusy := true } } := by
  have run : computeFailed s = requestReset ((raiseDev s 0x4402 (data4 0 0 3 0)).modRel (fun r => { r with rstFailed := true })) 4 0 none := rfl
  rw [run]
  exact requestReset_of_wide ((raiseDev s 0x4402 (data4 0 0 3 0)).modRel (fun r => { r with rstFailed := true })) (by decide) 0 none

end Commands

/-! ### The statement -/

/-- Settles O55: a reset of a narrow scope by its stages, then what makes a reset wait, fail or fall to the device. -/
theorem scopeResetsStopTheirCores : Obligations.ScopeResetsStopTheirCores := by
  refine fun s => ⟨fun scope target narrow alone rising => ?narrow, fun scope target f unasked => exec_scopeReset_of_unasked unasked,
    fun target => rfl, fun f alone low => ?rails, fun u f unit alone above => ?fails, fun f memory alone above rising => ?compute,
    fun unasked => ?idle, fun alone => ?late⟩
  case narrow =>
    obtain ⟨ps, fab, run⟩ := doScopeReset_of_alone alone []
    have kept : KeepsOutside (scopeCores s scope target) s (unitsReady s scope target []) := unitsReady_keepsOutside []
    have ctx := unitsReady_ctx? (scope := scope) (target := target) rising []
    generalize unitsReady s scope target [] = u at run kept ctx
    refine ⟨_, (exec_scopeReset_of_narrow narrow alone).trans (congrArg Host.Outcome.next run), kept.bytes, kept.region, rfl, rfl, rfl,
      congrArg satInc kept.count, fun k c v x found held => ?_, kept.core, _, _, rfl, rfl⟩
    obtain ⟨y, vc, fate⟩ := resetIn_vc (inScope := scopeCores s scope target) held
    exact ⟨_, y, (ctx k).trans (congrArg (Option.map _) found), vc, fate⟩
  case rails =>
    have notReady : railsReady s = false := by
      obtain ⟨r, listed, below⟩ := low
      exact List.all_eq_false.mpr ⟨r, listed, by simp [below]⟩
    rw [exec_scopeReset_of_compute alone, notReady]
    rfl
  case fails =>
    rw [exec_scopeReset_of_compute alone, railsReady_of_all above, computeUnqueued alone]
    simp [unit]
  case compute =>
    have healthy : f.any (fun u => u < 512) = false := List.any_eq_false.mpr (fun u listed => by simpa using memory u listed)
    have runs := exec_scopeReset_of_compute (failed := f) alone
    rw [railsReady_of_all above, healthy] at runs
    obtain ⟨ps, fab, run⟩ := doScopeReset_of_alone (s := resetOff s) (scope := 3) (target := 0) alone f
    have kept : KeepsOutside _ (resetOff s) (unitsReady (resetOff s) 3 0 f) := unitsReady_keepsOutside f
    have ctx := unitsReady_ctx? (s := resetOff s) (scope := 3) (target := 0) rising f
    have lines : (unitsReady (resetOff s) 3 0 f).mem.lines = [] := unitsReady_compute_lines f
    generalize unitsReady (resetOff s) 3 0 f = u at run kept ctx lines
    refine ⟨_, runs.trans (congrArg (fun t : State => Host.Outcome.next (t.modRel (fun r => { r with rstFailed := false }))) run), rfl, rfl,
      lines, kept.bytes, fun k c found some => ⟨_, (ctx k).trans (congrArg (Option.map _) found), ?_⟩⟩
    obtain ⟨x, xs, cons⟩ := List.exists_cons_of_ne_nil some
    have hit : c.vcs.any (fun x => scopeCores (resetOff s) 3 0 x.2.core) = true := by simp [scopeCores, cons]
    rw [resetIn, if_pos hit]
    rfl
  case idle =>
    have absent : ¬ s.rel.rstQueue.any (fun q => q.1 == 3) = true :=
      Bool.eq_false_iff.mp (List.any_eq_false.mpr (fun q listed => by simpa using unasked q listed))
    exact congrArg Host.Outcome.next (if_neg absent)
  case late =>
    obtain ⟨ps, fails⟩ := computeFailed_eq (s.modRel (fun r => { r with rstQueue := [] }))
    exact ⟨_, (exec_computeResetFail_of_alone alone).trans (congrArg Host.Outcome.next fails), rfl, rfl, rfl, rfl, rfl⟩

end Sys2Proof.Machine

namespace Sys2Proof.Machine

open Sys2Proof

/-! SUPPORT. The device reset, the always-on restart and the cold start. -/

/-! ### What a device reset leaves (R459, R461) -/

section Device
variable {s : State}

/-- Configuration swaps that wait are dropped, each with event 0x6302. -/
def swapsDropped (s : State) : State :=
  (s.parts.filter (fun p => p.2.swap.isSome)).foldl (fun t p =>
    raise (t.modPart p.1 (fun q => { q with swap := none })) 0x6302 (some p.1) none 0) s

/-- The module with every sample taken and every command ended, before its registers fall to the Device column. -/
def deviceStopped (s : State) : State := endRunning (swapsDropped ((List.range 256).foldl takeSample s)) 9

theorem doDeviceReset_eq (s : State) (scope : Nat) (failed : List Nat) : doDeviceReset s scope failed =
    resetDone (abortAfter s (spareMemory (remapScope (deviceState (deviceStopped s)) (fun _ => true) true failed) failed)) scope 0 := by
  simp only [doDeviceReset, deviceStopped, swapsDropped]

theorem foldl_takeSample_eq (l : List Nat) (s : State) : ∃ smp, l.foldl takeSample s = { s with rel := { s.rel with samples := smp } } := by
  refine foldl_any (P := fun t : State => ∃ smp, t = { s with rel := { s.rel with samples := smp } }) ⟨s.rel.samples, rfl⟩ ?_
  rintro t n ⟨smp, rfl⟩
  exact ⟨_, rfl⟩

theorem swapsDropped_eq (s : State) : ∃ ps h, swapsDropped s = { s with parts := ps, host := h } := by
  refine foldl_any (P := fun t : State => ∃ ps h, t = { s with parts := ps, host := h }) ⟨s.parts, s.host, rfl⟩ ?_
  rintro t p ⟨ps, h, rfl⟩
  exact ⟨_, _, rfl⟩

theorem endRunning_eq (s : State) (status : Nat) :
    ∃ out h, endRunning s status = { s with fab := { s.fab with out := out }, host := h } := by
  refine foldl_any (P := fun t : State => ∃ out h, t = { s with fab := { s.fab with out := out }, host := h }) ⟨s.fab.out, s.host, rfl⟩ ?_
  rintro t o ⟨out, h, rfl⟩
  exact finish_onlyHost ..

/-- A state that differs in the partitions, the answers and the samples alone. -/
def answeredAs (s : State) (ps : Tab Part) (out : List OutMsg) (h : HostIf) (smp : Tab (List Byte)) : State :=
  { s with parts := ps, fab := { s.fab with out := out }, host := h, rel := { s.rel with samples := smp } }

theorem deviceStopped_eq (s : State) : ∃ ps out h smp, deviceStopped s = answeredAs s ps out h smp := by
  obtain ⟨smp, sampled⟩ := foldl_takeSample_eq (List.range 256) s
  obtain ⟨ps, h, dropped⟩ := swapsDropped_eq { s with rel := { s.rel with samples := smp } }
  obtain ⟨out, h', ended⟩ := endRunning_eq (swapsDropped { s with rel := { s.rel with samples := smp } }) 9
  refine ⟨ps, out, h', smp, ?_⟩
  rw [deviceStopped, sampled, ended, dropped]
  rfl

theorem abortAfter_onlyOut (before s : State) : ∃ out, abortAfter before s = { s with fab := { s.fab with out := out } } := by
  refine foldl_any (P := fun t : State => ∃ out, t = { s with fab := { s.fab with out := out } }) ⟨s.fab.out, rfl⟩ ?_
  rintro t n ⟨out, rfl⟩
  split
  · exact ⟨_, rfl⟩
  · exact ⟨out, rfl⟩

/-- Where no unit is quarantined and none fails, nothing is replaced. -/
theorem remapScope_of_sound (sound : ∀ n, (s.map n).quar = false) (engines : s.rel.engQuar = 0) (inScope : Nat → Bool) :
    remapScope s inScope true [] = s := by
  simp [remapScope, sound, engines]

theorem map_quar_of_all (sound : ∀ p ∈ s.maps, p.2.quar = false) (n : Nat) : (s.map n).quar = false := by
  cases found : tget s.maps n with
  | none => simp [State.map, tgetD, found]
  | some m => simpa [State.map, tgetD, found] using sound _ (mem_of_tget found)

/-- The region entries that stay: the Starters', and firmware's own outside a context's recovery saves. -/
def regionStays (s : State) (e : Nat × Word64) : Bool :=
  reOwner e.2 == 0x3E || (reOwner e.2 == 0x3F && !s.ctxs.any (fun c => c.2.rcvRegions.contains e.1))

section Region
variable (rising : Rising s.mem.region) {r : Nat}
include rising

theorem tget_region_deviceState : tget (deviceState s).mem.region r =
    ((tget s.mem.region r).filter (fun e => regionStays s (r, e))).map (fun e => setFld e 39 32 0) :=
  (tget_tmap (s.mem.region.filter (regionStays s)) (fun _ e => setFld e 39 32 0) r).trans (congrArg (Option.map _) (tget_filter rising _ r))

theorem entry_deviceState_of_starter (owner : reOwner (entry s r) = 0x3E) : entry (deviceState s) r = setFld (entry s r) 39 32 0 := by
  cases found : tget s.mem.region r with
  | none =>
    rw [entry, tgetD, found] at owner
    exact absurd owner (by decide)
  | some e =>
    have own : entry s r = e := by rw [entry, tgetD, found]; rfl
    rw [own] at owner ⊢
    rw [entry, tgetD, tget_region_deviceState rising, found, Option.filter_some, if_pos (by simp [regionStays, owner])]
    rfl

theorem entry_deviceState_of_part (owner : reOwner (entry s r) ≤ 32) : entry (deviceState s) r = 0 := by
  rw [entry, tgetD, tget_region_deviceState rising]
  cases found : tget s.mem.region r with
  | none => rfl
  | some e =>
    have own : entry s r = e := by rw [entry, tgetD, found]; rfl
    rw [own] at owner
    have starter : reOwner e ≠ 0x3E := by omega
    have firmware : reOwner e ≠ 0x3F := by omega
    rw [Option.filter_some, if_neg (by simp [regionStays, starter, firmware])]
    rfl

end Region

/-- What every device reset keeps and takes away, whatever fails. -/
theorem doDeviceReset_keeps (s : State) (scope : Nat) (failed : List Nat) :
    (doDeviceReset s scope failed).ctxs = [] ∧ (doDeviceReset s scope failed).mem.bytes = s.mem.bytes ∧
    (doDeviceReset s scope failed).time.up = s.time.up ∧ s.rel.repair.length ≤ (doDeviceReset s scope failed).rel.repair.length := by
  obtain ⟨ps, out, h, smp, stopped⟩ := deviceStopped_eq s
  have kept : KeepsContexts (fun _ => true) (deviceState (deviceStopped s))
      (spareMemory (remapScope (deviceState (deviceStopped s)) (fun _ => true) true failed) failed) :=
    (remapScope_keepsContexts ..).trans (spareMemory_keepsContexts ..)
  rw [doDeviceReset_eq]
  generalize spareMemory _ failed = u at kept
  obtain ⟨out', aborted⟩ := abortAfter_onlyOut s u
  rw [aborted]
  rw [stopped] at kept
  have up : u.time.up = s.time.up := by
    rw [kept.time]
    rfl
  exact ⟨kept.ctxs, kept.bytes, up, kept.repair⟩

/-- A device reset in which nothing has to be replaced. -/
theorem doDeviceReset_of_sound (sound : ∀ n, (s.map n).quar = false) (engines : s.rel.engQuar = 0) (scope : Nat) :
    ∃ ps out h smp out', doDeviceReset s scope [] =
      resetDone ((deviceState (answeredAs s ps out h smp)).modFab (fun b => { b with out := out' })) scope 0 := by
  obtain ⟨ps, out, h, smp, stopped⟩ := deviceStopped_eq s
  refine ⟨ps, out, h, smp, ?_⟩
  rw [doDeviceReset_eq, stopped]
  rw [remapScope_of_sound (s := deviceState (answeredAs s ps out h smp)) sound engines]
  obtain ⟨out', aborted⟩ := abortAfter_onlyOut s (deviceState (answeredAs s ps out h smp))
  exact ⟨out', congrArg (resetDone · scope 0) aborted⟩

theorem exec_deviceReset_of_asked (asked : s.rel.rstQueue = [(4, 0, none)]) (cool : s.pwr.trip = false) (booted : s.mgmt.bootrom = false) :
    exec .deviceReset s = .next (doDeviceReset s 4 []) :=
  congrArg Host.Outcome.next ((if_neg (by simp [asked, cool])).trans (if_neg (by simp [booted])))
theorem exec_deviceReset_of_unasked (unasked : ∀ q ∈ s.rel.rstQueue, q.1 ≠ 4) : exec .deviceReset s = .next s := by
  have none : s.rel.rstQueue.any (fun q => q.1 == 4) = false := List.any_eq_false.mpr (fun q listed => by simpa using unasked q listed)
  exact congrArg Host.Outcome.next (if_pos (by simp [none]))
theorem exec_deviceReset_of_hot (tripped : s.pwr.trip = true) (hot : s.pwr.hot ≠ []) : exec .deviceReset s = .next s :=
  congrArg Host.Outcome.next (if_pos (by simp [tripped, hot]))

end Device

/-! ### Starting the firmware (R390, R456, R460) -/

section Boot
variable {s : State}

/-- The boot ROM has started the image of a slot. -/
def booted (s : State) (rm b : Bool) : State :=
  s.modMgmt (fun m => { m with
    fwstate := 1, slot := b, rmcore := rm, standbyOk := !rmRetired s (!rm), bootrom := false, ready := true,
    fwver := Config.imageVersion ((slotImage s b).getD []), minSvn := max m.minSvn (Config.imageSvn ((slotImage s b).getD [])) })

theorem boot_of_good (good : slotImage s s.mgmt.preferB ≠ none) (rm : Bool) : boot s rm = booted s rm s.mgmt.preferB :=
  if_pos (Option.isSome_iff_ne_none.mpr good)

/-- What an always-on restart leaves before the boot ROM runs. -/
def restarted (s : State) : State :=
  let t := doDeviceReset { s with rel := { s.rel with rstQueue := [] } } 5 []
  { t with
    time := { up := t.time.up },
    host := { freshHost t.host with raised := t.host.raised },
    mgmt := { imgA := s.mgmt.imgA, imgB := s.mgmt.imgB, preferB := s.mgmt.preferB, minSvn := s.mgmt.minSvn, smbAddr := s.mgmt.smbAddr,
              rstOnPerst := s.mgmt.rstOnPerst, eid := s.mgmt.eid, tid := s.mgmt.tid, evtReceiver := s.mgmt.evtReceiver } }

theorem restarted_keeps (s : State) :
    (restarted s).ctxs = [] ∧ (restarted s).mem.bytes = s.mem.bytes ∧ (restarted s).time = { up := s.time.up } ∧
    s.rel.repair.length ≤ (restarted s).rel.repair.length ∧
    (restarted s).mgmt.imgA = s.mgmt.imgA ∧ (restarted s).mgmt.imgB = s.mgmt.imgB := by
  obtain ⟨ctxs, bytes, up, repair⟩ := doDeviceReset_keeps { s with rel := { s.rel with rstQueue := [] } } 5 []
  unfold restarted
  generalize doDeviceReset _ 5 [] = t at *
  exact ⟨ctxs, bytes, congrArg (fun u => ({ up := u } : Time)) up, repair, rfl, rfl⟩

theorem exec_alwaysOnRestart_of_good (good : slotImage s s.mgmt.preferB ≠ none) (b : Bool) :
    exec (.alwaysOnRestart (some (b, []))) s =
      .next ((booted (restarted s) b s.mgmt.preferB).modMgmt (fun m => { m with fwstate := 2 })) := by
  have run : exec (.alwaysOnRestart (some (b, []))) s = .next (if (boot (restarted s) b).mgmt.bootrom then boot (restarted s) b
      else (boot (restarted s) b).modMgmt (fun m => { m with fwstate := 2 })) := rfl
  have started : boot (restarted s) b = booted (restarted s) b s.mgmt.preferB := boot_of_good (s := restarted s) good b
  rw [run, started]
  rfl

/-! Cold start -/

/-- The module of a cold start once the boot ROM has started the preferred image, its clocks and memories run. -/
def coldStarted (s : State) (c : ColdStart) : State :=
  startMemory (startClocks (booted (coldState s c) (rmRetired (coldState s c) false) s.mgmt.preferB) c.rpllLocks)

theorem exec_coldStart_of_good {c : ColdStart} (down : s.pwr.st = .off ∨ s.mgmt.fwstate = 0) (good : slotImage s s.mgmt.preferB ≠ none)
    (healthy : c.fails = []) : exec (.coldStart c) s = .next (if (coldStarted s c).rel.failed then
      (coldStarted s c).modMgmt (fun m => { m with fwstate := 3 })
      else ((coldStarted s c).modMem (fun m => { m with hinted := false })).modMgmt (fun m => { m with fwstate := 2 })) := by
  have started : boot (coldState s c) (rmRetired (coldState s c) false) =
      booted (coldState s c) (rmRetired (coldState s c) false) s.mgmt.preferB := boot_of_good (s := coldState s c) good _
  have unpowered : ¬ (s.pwr.st != .off && s.mgmt.fwstate != 0) = true := by
    rcases down with off | reset
    · simp [off]
    · simp [reset]
  refine congrArg Host.Outcome.next ((if_neg unpowered).trans ?_)
  dsimp only
  rw [started, healthy]
  rfl

theorem exec_coldStart_of_up {c : ColdStart} (powered : s.pwr.st ≠ .off) (running : s.mgmt.fwstate ≠ 0) : exec (.coldStart c) s = .next s :=
  congrArg Host.Outcome.next (if_pos (by rw [Bool.and_eq_true, bne_iff_ne, bne_iff_ne]; exact ⟨powered, running⟩))

theorem clamped_range (x : Int) :
    75 ≤ (BitVec.ofNat 8 (max 75 (min 105 x)).toNat).toNat ∧ (BitVec.ofNat 8 (max 75 (min 105 x)).toNat).toNat ≤ 105 := by
  rw [BitVec.toNat_ofNat]
  omega

/-- The T3 threshold of every part lies between 75 °C and 105 °C (R295). -/
theorem startMemory_t3lim (s : State) {p : Nat} (part : p < 80) :
    75 ≤ ((startMemory s).memPart p).t3lim.toNat ∧ ((startMemory s).memPart p).t3lim.toNat ≤ 105 := by
  have limited : ∃ m : MemPart, (startMemory s).memPart p = { m with t3lim := BitVec.ofNat 8 (max 75 (min 105 (Config.partThreshold p))).toNat } :=
    ⟨_, congrArg (fun m : Option MemPart => m.getD {}) (tget_map_keys _ (List.mem_range.mpr part))⟩
  obtain ⟨m, limited⟩ := limited
  rw [limited]
  exact clamped_range _

end Boot

end Sys2Proof.Machine

namespace Sys2Proof.Machine

open Sys2Proof

/-! SUPPORT. Recovery and isolation of contexts. -/

/-! ### Recovery (R418, R419, R430) -/

section Recovery
variable {s : State} {k : Nat} {c : Ctx}

/-- The saves of a context's virtual cores at one depth: 0 for the latest. -/
def savedAt (c : Ctx) (depth : Nat) : List (Nat × Vcore × Option Vcore) :=
  c.vcs.map (fun p => (p.1, p.2, (tgetD c.saves p.1 [])[depth]?))

/-- Whether every virtual core has a save and none carries poison. -/
def restorable (l : List (Nat × Vcore × Option Vcore)) : Bool := l.all (fun p => match p.2.2 with
  | some x => (savePoison x).isNone
  | none => false)

/-- The strongest poison in saves of which none is missing. -/
def savesPoison (l : List (Nat × Vcore × Option Vcore)) : Option Policy :=
  if l.all (fun p => p.2.2.isSome) then l.foldl (fun a p => joinP a (p.2.2.bind savePoison)) none else none

/-- A context that runs again from saves. -/
def restoredFrom (s : State) (k : Nat) (l : List (Nat × Vcore × Option Vcore)) : State :=
  recovered (s.modCtx k (fun c => { c with
    st := .running, vcs := l.map (fun p => (p.1, match p.2.2 with | some x => restoreVc p.2.1 x | none => p.2.1)) })) k

/-- What becomes of a context whose latest saves cannot be restored: the older ones are tried once. -/
def olderTried (s : State) (k : Nat) (c : Ctx) : State :=
  if restorable (savedAt c 1) then restoredFrom s k (savedAt c 1) else recovered s k

theorem exec_contextRecovery_of_undue (found : s.ctx? k = some c)
    (undue : k ∉ s.rel.recover ∨ ∃ p ∈ c.vcs, ∃ o ∈ p.2.ops, o.phase ≠ .queued) : exec (.contextRecovery k) s = .next s := by
  have waits : (!s.rel.recover.contains k || c.vcs.any (fun p => p.2.ops.any (fun o => o.phase != .queued))) = true := by
    rcases undue with absent | ⟨p, hp, o, ho, running⟩
    · simp [absent]
    · have busy : c.vcs.any (fun p => p.2.ops.any (fun o => o.phase != .queued)) = true :=
        List.any_eq_true.mpr ⟨p, hp, List.any_eq_true.mpr ⟨o, ho, by simpa using running⟩⟩
      simp [busy]
  change execContextRecovery k s = _
  simp only [execContextRecovery, found, waits, if_true]

/-- The latest saves are restored where they can be; else poison in them is consumed, and the older ones are tried. -/
theorem exec_contextRecovery_of_due (found : s.ctx? k = some c) (due : k ∈ s.rel.recover)
    (quiet : ∀ p ∈ c.vcs, ∀ o ∈ p.2.ops, o.phase = .queued) : exec (.contextRecovery k) s = .next (
    if restorable (savedAt c 0) then restoredFrom s k (savedAt c 0)
    else olderTried (match savesPoison (savedAt c 0) with | some p => savePoisoned s k c p | none => s) k c) := by
  have idle : c.vcs.any (fun p => p.2.ops.any (fun o => o.phase != .queued)) = false :=
    List.any_eq_false.mpr (fun p hp => Bool.not_eq_true _ ▸ List.any_eq_false.mpr (fun o ho => by simp [quiet p hp o ho]))
  have runs : (!s.rel.recover.contains k || c.vcs.any (fun p => p.2.ops.any (fun o => o.phase != .queued))) = false := by simp [due, idle]
  change execContextRecovery k s = _
  simp only [execContextRecovery, found, runs, Bool.false_eq_true, if_false]
  refine congrArg Host.Outcome.next (ite_congr rfl (fun _ => rfl) (fun _ => ?_))
  have consumed : (match (savedAt c 0).foldl (fun a p => joinP a (p.2.2.bind savePoison)) none with
      | some p => if (savedAt c 0).all (fun p => p.2.2.isSome) then savePoisoned s k c p else s
      | none => s) = (match savesPoison (savedAt c 0) with | some p => savePoisoned s k c p | none => s) := by
    unfold savesPoison
    cases (savedAt c 0).all (fun p => p.2.2.isSome) with
    | true => rfl
    | false => cases (savedAt c 0).foldl (fun a p => joinP a (p.2.2.bind savePoison)) none <;> rfl
  exact congrArg (olderTried · k c) consumed

theorem resumeMember_poisonc (s : State) (n p : Nat) : ((resumeMember s n).part p).poisonc = (s.part p).poisonc := by
  unfold resumeMember
  split
  · exact State.part_modPart_of Part.poisonc (s.emit (.resume (s.self n) (curStep s n) (s.cmt n).attempt)) n
      (f := fun q => { q with cmt := { q.cmt with att := { q.cmt.att with resumeDue := false } } }) (fun _ => rfl) p
  · rfl

/-- The end of the only recovery empties the list and may send the member's RESUME; it counts no poison. -/
theorem recovered_of_only (due : s.rel.recover = [k]) : ∃ ps fab, recovered s k =
    { s with parts := ps, fab := fab, rel := { s.rel with recover := [] } } ∧ ∀ p, (tgetD ps p {}).poisonc = (s.part p).poisonc := by
  have ended : s.modRel (fun r => { r with recover := r.recover.filter (· != k) }) = s.modRel (fun r => { r with recover := [] }) := by
    simp [State.modRel, due]
  obtain ⟨ps, fab, run⟩ := resumeMember_onlyMembers (s.modRel (fun r => { r with recover := [] })) (ctxPart s k)
  refine ⟨ps, fab, ?_, fun p => ?_⟩
  · rw [recovered, ended]
    exact run
  · have counted := resumeMember_poisonc (s.modRel (fun r => { r with recover := [] })) (ctxPart s k) p
    rw [run] at counted
    exact counted

theorem savePoison_of_clean {x : Vcore} (clean : x.winPoison = []) : savePoison x = none := by rw [savePoison, clean]; rfl
theorem savePoison_of_context {x : Vcore} (bad : x.winPoison = [(0, .context)]) : savePoison x = some .context := by rw [savePoison, bad]; rfl

theorem savePoisoned_poisonc (s : State) (k : Nat) (c : Ctx) :
    ((savePoisoned s k c .context).part c.part).poisonc = satInc (s.part c.part).poisonc :=
  congrArg Part.poisonc (s.part_modPart c.part (fun q => { q with poisonc := satInc q.poisonc }))
theorem savePoisoned_raised (found : s.ctx? k = some c) : (savePoisoned s k c .context).host.raised = s.host.raised ++ [{
    code := 0x2301, part := some c.part, ctx := some k, data := 0, ptv := s.time.valid, pt := if s.time.valid then s.time.pt else s.time.up }] := by
  have own : ctxPart (s.modPart c.part (fun q => { q with poisonc := satInc q.poisonc })) k = c.part := by
    change ctxPart s k = c.part
    simp only [ctxPart, found]
  change (raise _ _ (some (ctxPart _ k)) _ _).host.raised = _
  rw [own]
  rfl

theorem savedAt_of_alone {v : Nat} {x : Vcore} (alone : c.vcs = [(v, x)]) (depth : Nat) :
    savedAt c depth = [(v, x, (tgetD c.saves v [])[depth]?)] := by
  rw [savedAt, alone]
  rfl

theorem restorable_one_of_clean {v : Nat} {x y : Vcore} (clean : y.winPoison = []) : restorable [(v, x, some y)] = true :=
  (Bool.and_true _).trans (congrArg Option.isNone (savePoison_of_clean clean))
theorem restorable_one_of_context {v : Nat} {x y : Vcore} (bad : y.winPoison = [(0, .context)]) : restorable [(v, x, some y)] = false :=
  (Bool.and_true _).trans (congrArg Option.isNone (savePoison_of_context bad))
theorem savesPoison_one {v : Nat} {x y : Vcore} : savesPoison [(v, x, some y)] = savePoison y := rfl

/-- The only virtual core of a context is restored in its place, and nothing else waits for recovery. -/
theorem restoredFrom_one {v : Nat} {x : Vcore} (found : s.ctx? k = some c) (due : s.rel.recover = [k]) (y : Vcore) :
    ∃ ps fab, restoredFrom s k [(v, x, some y)] = { s.putCtx k { c with st := .running, vcs := [(v, restoreVc x y)] } with
      parts := ps, fab := fab, rel := { s.rel with recover := [] } } ∧ ∀ p, (tgetD ps p {}).poisonc = (s.part p).poisonc := by
  rw [restoredFrom, s.modCtx_of found]
  exact recovered_of_only (s := s.putCtx k { c with st := .running, vcs := [(v, restoreVc x y)] }) due

/-- A context without saves cannot be restored. -/
theorem not_restorable_of_no_saves (some : c.vcs ≠ []) (noSaves : c.saves = []) (depth : Nat) :
    restorable (savedAt c depth) = false ∧ savesPoison (savedAt c depth) = none := by
  obtain ⟨p, ps, vcs⟩ := List.exists_cons_of_ne_nil some
  simp [savedAt, vcs, noSaves, tgetD, restorable, savesPoison]

end Recovery

/-! ### Isolation (R417) -/

section Isolation
variable {s : State} {n k : Nat}

theorem find?_tput_of_some {α : Type} {t : Tab α} {good : Nat × α → Bool} {p : Nat} {w : α} (found : t.find? good = some (p, w)) {d : α}
    {f : α → α} (same : ∀ v, good (p, f v) = good (p, v)) : ((tput t p (f (tgetD t p d))).find? good).map Prod.fst = some p := by
  induction t with
  | nil => cases found
  | cons e t ih =>
    obtain ⟨j, v⟩ := e
    rw [tput]
    by_cases first : good (j, v) = true
    · rw [List.find?_cons_of_pos first] at found
      obtain ⟨rfl, rfl⟩ := Prod.mk.inj (Option.some.inj found)
      have own : tgetD ((j, v) :: t) j d = v := by simp [tgetD, tget]
      rw [if_neg (Nat.lt_irrefl j), if_pos rfl, own, List.find?_cons_of_pos ((same v).trans first)]
      rfl
    · have later := found
      rw [List.find?_cons_of_neg first] at later
      split
      · by_cases new : good (p, f (tgetD ((j, v) :: t) p d)) = true
        · rw [List.find?_cons_of_pos new]
          rfl
        · rw [List.find?_cons_of_neg new, found]
          rfl
      · split
        next eq =>
          subst eq
          have own : tgetD ((p, v) :: t) p d = v := by simp [tgetD, tget]
          rw [own, List.find?_cons_of_neg (by rw [same v]; exact first), later]
          rfl
        next ne =>
          have other : tgetD ((j, v) :: t) p d = tgetD t p d := by simp [tgetD, tget, Ne.symm ne]
          rw [other, List.find?_cons_of_neg first]
          exact ih later

/-- A change of the partition that holds a cluster, other than of its clusters, leaves the cluster with it. -/
theorem clusterPart_modPart {j : Nat} {f : Part → Part} (same : ∀ p, (f p).exist = p.exist ∧ (f p).clusters = p.clusters) :
    clusterPart (s.modPart (clusterPart s j) f) j = clusterPart s j := by
  have pred (q : Nat) (v : Part) : (q != 0 && (f v).exist && (f v).clusters.getLsbD j) = (q != 0 && v.exist && v.clusters.getLsbD j) := by
    rw [(same v).1, (same v).2]
  cases found : s.parts.find? (fun p => p.1 != 0 && p.2.exist && p.2.clusters.getLsbD j) with
  | some e =>
    obtain ⟨p, w⟩ := e
    have here : clusterPart s j = p := by simp only [clusterPart, found]
    have still := find?_tput_of_some (f := f) (d := {}) found (fun v => pred p v)
    obtain ⟨e', found', key⟩ := Option.map_eq_some_iff.mp still
    rw [here]
    simp only [clusterPart, State.modPart, tmod, found', key]
  | none =>
    have here : clusterPart s j = 0 := by simp only [clusterPart, found]
    have absent : (tput s.parts 0 (f (tgetD s.parts 0 {}))).find? (fun p => p.1 != 0 && p.2.exist && p.2.clusters.getLsbD j) = none := by
      refine List.find?_eq_none.mpr (fun q listed => ?_)
      obtain rfl | old := eq_or_mem_of_mem_tput listed
      · simp
      · exact List.find?_eq_none.mp found q old
    rw [here]
    simp only [clusterPart, State.modPart, tmod, absent]

/-- The suspects of a fault once the turn is given on, or the isolation is over. -/
def suspectsLeft (s : State) (n : Nat) (k : Option Nat) : State :=
  if k.isSome then s else s.modRel (fun r => { r with suspects := tdel r.suspects n })

theorem giveTurn_of_core (core : n < 256) (k : Option Nat) :
    giveTurn s n k = (suspectsLeft s n k).modCore n (fun r => { r with isol := k }) := if_pos core
theorem giveTurn_of_engine (engine : ¬ n < 256) (k : Option Nat) : giveTurn s n k =
    (suspectsLeft s n k).modPart (clusterPart (suspectsLeft s n k) (n - 256)) (fun p => { p with isol := k }) := if_neg engine

theorem suspectTurn_giveTurn (s : State) (n : Nat) (k : Option Nat) : suspectTurn (giveTurn s n k) n = k := by
  by_cases core : n < 256
  · rw [giveTurn_of_core core, suspectTurn, if_pos core, State.core_modCore]
  · have holder := clusterPart_modPart (s := suspectsLeft s n k) (j := n - 256) (f := fun p => { p with isol := k }) (fun _ => ⟨rfl, rfl⟩)
    rw [giveTurn_of_engine core, suspectTurn, if_neg core, holder, State.part_modPart]

/-- Giving the turn changes cores, partitions and the list of suspects alone. -/
theorem giveTurn_onlyTurn (s : State) (n : Nat) (k : Option Nat) : ∃ cs ps, giveTurn s n k =
    { s with cores := cs, parts := ps, rel := { s.rel with suspects := if k.isSome then s.rel.suspects else tdel s.rel.suspects n } } := by
  by_cases core : n < 256
  · rw [giveTurn_of_core core]
    cases k <;> exact ⟨_, s.parts, rfl⟩
  · rw [giveTurn_of_engine core]
    cases k <;> exact ⟨s.cores, _, rfl⟩

/-- A suspect mark is the last of its core's marks (R407), and leaves the contexts alone. -/
theorem markCore_marks (s : State) (n cause : Nat) :
    (∃ l, ((markCore s n cause).map n).marks = l ++ [s.now]) ∧ (markCore s n cause).ctxs = s.ctxs := by
  have marked (t : State) (maps : t.maps = (s.modMap n (fun m => { m with marks := recentMarks s (s.map n).marks ++ [s.now] })).maps) :
      ∃ l, (t.map n).marks = l ++ [s.now] := by
    refine ⟨recentMarks s (s.map n).marks, ?_⟩
    rw [State.map, maps]
    exact congrArg CoreMap.marks (s.map_modMap n _)
  unfold markCore
  extract_lets ms recorded
  split
  · unfold quarantine
    split
    · exact ⟨marked recorded rfl, rfl⟩
    · refine ⟨?_, rfl⟩
      obtain ⟨l, last⟩ := marked recorded rfl
      exact ⟨l, (congrArg CoreMap.marks (recorded.map_modMap n (fun m => { m with quar := true }))).trans last⟩
  · exact ⟨marked recorded rfl, rfl⟩

section Turn
variable (turn : suspectTurn s n = some k)
include turn

theorem exec_isolationReplay_of_turn (r : IsolationResult) : exec (.isolationReplay n k r) s = .next (match r with
    | .reproduced parity => giveTurn (stopCtx (raiseCtx s (if parity then 0x4102 else 0x4301) k (data4 (if n < 256 then n else 0xFF)
        (suspectCore n / 8) 0 (match s.ctx? k with | some c => curStep s c.part | none => 0))) k) n none
    | .unfinished => nextSuspect s n k false
    | .clean last => nextSuspect s n k last) := by
  refine congrArg Host.Outcome.next ((if_neg (by simp [turn])).trans ?_)
  cases r <;> rfl

end Turn

theorem exec_isolationReplay_of_other (other : suspectTurn s n ≠ some k) (r : IsolationResult) :
    exec (.isolationReplay n k r) s = .next s :=
  congrArg Host.Outcome.next (if_pos (by simpa using other))

/-- The last turn that ends clean puts a mark on a core, and ends the isolation. -/
theorem nextSuspect_last (s : State) (n k : Nat) : nextSuspect s n k true = giveTurn (if n < 256 then markCore s n 0x4301 else s) n none := by
  simp [nextSuspect]
theorem nextSuspect_of_next {j : Nat} (pair : tgetD s.rel.suspects n [] = [k, j]) (later : k < j) :
    nextSuspect s n k false = giveTurn s n (some j) := by
  simp [nextSuspect, pair, later]

end Isolation

/-! ### The statement -/

/-- Settles O56: the device reset, the restart and the cold start by what starts them; a recovery by its saves; a replay by its result. -/
theorem deviceResetColdStartAndRecovery : Obligations.DeviceResetColdStartAndRecovery := by
  refine ⟨fun s => ⟨fun asked rising cool booted engines sound => ?device, exec_deviceReset_of_unasked, exec_deviceReset_of_hot,
      ⟨_, rfl, rfl, rfl, rfl, rfl, rfl, rfl⟩, fun b good => ?restart, fun c down good healthy => ?cold, fun c powered running =>
      exec_coldStart_of_up powered running⟩,
    fun s k c found => ⟨fun absent => exec_contextRecovery_of_undue found (.inl absent),
      fun busy => exec_contextRecovery_of_undue found (.inr busy), fun v x a b l due alone quiet saves => ?saves,
      fun due some idle noSaves => ?noSaves, fun n r other => exec_isolationReplay_of_other other r,
      fun n parity turn saving => ?reproduced, fun n j turn pair later => ?next, fun n turn => ?clean⟩⟩
  case device =>
    obtain ⟨ps, out, h, smp, out', run⟩ := doDeviceReset_of_sound (map_quar_of_all sound) engines 4
    refine ⟨_, (exec_deviceReset_of_asked asked cool booted).trans (congrArg Host.Outcome.next run), rfl, rfl, rfl, rfl, rfl,
      fun r => entry_deviceState_of_starter (s := answeredAs s ps out h smp) rising,
      fun r => entry_deviceState_of_part (s := answeredAs s ps out h smp) rising, rfl, rfl, rfl, rfl, rfl, rfl, rfl, rfl, rfl, rfl, rfl, rfl, rfl,
      _, _, rfl, rfl⟩
  case restart =>
    obtain ⟨ctxs, bytes, time, repair, imgA, imgB⟩ := restarted_keeps s
    have run := exec_alwaysOnRestart_of_good good b
    generalize restarted s = u at *
    exact ⟨_, run, rfl, rfl, rfl, rfl, time, ctxs, bytes, imgA, imgB, repair⟩
  case cold =>
    have run := exec_coldStart_of_good down good healthy
    cases locks : c.rpllLocks with
    | true =>
      have running : (coldStarted s c).rel.failed = false := by rw [coldStarted, locks]; rfl
      rw [running] at run
      rw [coldStarted, locks] at run
      exact ⟨_, run, rfl, rfl, rfl, rfl, rfl, rfl, rfl, rfl, fun _ => ⟨rfl, rfl, rfl⟩, nofun,
        fun p part => startMemory_t3lim _ part⟩
    | false =>
      have failed : (coldStarted s c).rel.failed = true := by rw [coldStarted, locks]; rfl
      rw [failed] at run
      rw [coldStarted, locks] at run
      exact ⟨_, run, rfl, rfl, rfl, rfl, rfl, rfl, rfl, rfl, nofun, fun _ => ⟨rfl, rfl⟩,
        fun p part => startMemory_t3lim _ part⟩
  case saves =>
    have run := exec_contextRecovery_of_due found (by simp [due]) (by simpa [alone] using quiet)
    have latest : savedAt c 0 = [(v, x, some a)] := by rw [savedAt_of_alone alone, saves]; rfl
    have older : savedAt c 1 = [(v, x, some b)] := by rw [savedAt_of_alone alone, saves]; rfl
    refine ⟨fun clean => ?_, fun bad clean => ?_⟩
    · rw [latest, restorable_one_of_clean clean, if_pos rfl] at run
      obtain ⟨ps, fab, restored, -⟩ := restoredFrom_one (x := x) (v := v) found due a
      exact ⟨_, _, run.trans (congrArg Host.Outcome.next restored), s.ctx?_putCtx .., rfl, rfl, rfl, rfl, rfl⟩
    · rw [latest, restorable_one_of_context bad, savesPoison_one, savePoison_of_context bad, if_neg Bool.false_ne_true, olderTried, older,
        restorable_one_of_clean clean, if_pos rfl] at run
      obtain ⟨ps, fab, restored, counted⟩ := restoredFrom_one (s := savePoisoned s k c .context) (x := x) (v := v) found due b
      refine ⟨_, _, run.trans (congrArg Host.Outcome.next restored), State.ctx?_putCtx .., rfl, rfl, rfl,
        (counted c.part).trans (savePoisoned_poisonc s k c), savePoisoned_raised found⟩
  case noSaves =>
    have run := exec_contextRecovery_of_due found (by simp [due]) (fun p hp o ho => by simp [idle p hp] at ho)
    rw [(not_restorable_of_no_saves some noSaves 0).1, (not_restorable_of_no_saves some noSaves 0).2, olderTried,
      (not_restorable_of_no_saves some noSaves 1).1] at run
    obtain ⟨ps, fab, over', -⟩ := recovered_of_only due
    exact ⟨_, run.trans (congrArg Host.Outcome.next over'), found, rfl⟩
  case reproduced =>
    obtain ⟨cs, ps, given⟩ := giveTurn_onlyTurn ((raise s (if parity then 0x4102 else 0x4301) (some c.part) (some k)
      (data4 (if n < 256 then n else 0xFF) (suspectCore n / 8) 0 (curStep s c.part))).putCtx k { c with st := .stopped }) n none
    have run := exec_isolationReplay_of_turn turn (.reproduced parity)
    simp only [found, raiseCtx, ctxPart] at run
    rw [stopCtx_of (s := raise s _ (some c.part) (some k) _) found saving] at run
    refine ⟨_, { c with st := .stopped }, run, ?_, rfl, suspectTurn_giveTurn .., ?_, ?_⟩
    · rw [given]
      exact State.ctx?_putCtx ..
    · rw [given]
      exact tget_tdel_same ..
    · rw [given]
      cases parity with
      | true => rfl
      | false => rfl
  case next =>
    have replay (r : IsolationResult) := exec_isolationReplay_of_turn turn r
    refine ⟨(replay _).trans ?_, suspectTurn_giveTurn .., (replay _).trans ?_⟩
    · exact congrArg Host.Outcome.next (nextSuspect_of_next pair later)
    · exact congrArg Host.Outcome.next (nextSuspect_of_next pair later)
  case clean =>
    have run := (exec_isolationReplay_of_turn turn (.clean true)).trans (congrArg Host.Outcome.next (nextSuspect_last s n k))
    obtain ⟨cs, ps, given⟩ := giveTurn_onlyTurn (if n < 256 then markCore s n 0x4301 else s) n none
    refine ⟨_, run, suspectTurn_giveTurn .., ?_, fun core => ?_, fun engine => ?_, ?_⟩
    · rw [given]
      exact tget_tdel_same ..
    · rw [given, if_pos core]
      exact (markCore_marks s n 0x4301).1
    · rw [given, if_neg (Nat.not_lt.mpr engine)]
    · rw [given]
      change (if n < 256 then markCore s n 0x4301 else s).ctxs = _
      split
      · exact (markCore_marks s n 0x4301).2
      · rfl

end Sys2Proof.Machine
